-- ==== Sys2Proof/Word.lean ====
section
/-! DEFINITION. The word and byte types and the sparse table type the whole model is written over. -/

namespace Sys2Proof

/-- A 32-bit register or table word (R17: "Registers are 32 bits wide"). -/
abbrev Word := BitVec 32

/-- One byte. -/
abbrev Byte := BitVec 8

/-- A table kept sparsely as (key, value) pairs with keys strictly rising; a key that is not listed
reads as the table's default (`Sys2Proof.Machine.tabGet`). -/
abbrev Tab (α : Type) := List (Nat × α)

/-- A field of a 32-bit word: the word's address, its least significant bit and its width. -/
structure Fld where
  addr : Nat
  lo : Nat
  wid : Nat
  deriving DecidableEq, Repr

end Sys2Proof
end

