-- ==== Sys2Proof/Config.lean ====
section
/-! DEFINITION. What an implementation fixes and what the spec leaves open: the three parts of the family,
and the free values (opaque constants with no body). -/

namespace Sys2Proof

/-- The three parts of the family (chapter "Scope", The three parts). -/
inductive Part where
  | zrc1024
  | zrc512
  | zrc256
  deriving DecidableEq, Repr

/-- Regions of a part. -/
def Part.regions : Part → Nat
  | .zrc1024 => 4
  | .zrc512 => 2
  | .zrc256 => 1

/-- Global flasks of a part. -/
def Part.flasks (p : Part) : Nat := 16 * p.regions

/-- Channels of a part. -/
def Part.channels (p : Part) : Nat := 256 * p.regions

/-! ## Free values -/

/-- Binary scale of an element of the filter's covariance: element (i, j) is held in units of 2^(-scale), in units of
capacity and volts. R212 says that each pair has a fixed scale and does not give it. -/
opaque Config.pScale (i j : Nat) : Nat

/-- Binary scale of the filter's other quantities, which R212 does not give: 0 the current in A, 1 the row H, 2 P⁻·Hᵀ, 3 S and Rv,
4 K, 5 the products of K in the Joseph form, 6 the fraction of a temperature cell, 7 the interpolation products, 8 the
polarisation parameters, 9 Δt/TAU, 10 voltages of resistances, 11 the exponent of κ, 12 to 14 I_off, its charge and their quotient. -/
opaque Config.fScale (n : Nat) : Nat

/-- Thresholds of a port's receiver in mV: rising, of which R312 says 850 to 950, and falling, 250 to 350. -/
opaque Config.lcwRise : Nat
opaque Config.lcwFall : Nat

/-- Bits [28:0] of the module serial number in factory data (R24, R335): per module, given by no table. -/
opaque Config.serial : BitVec 29

/-- Byte address of the 64-byte test area of hub SRAM (R546), which the spec does not give. -/
opaque Config.sramTestArea : BitVec 32

/-- Time constants, in 10 ms, at which the fit of 24 points (tone, real and imaginary part) starts its second search (R237). -/
opaque Config.fitTaus (pts : List (Nat × Rat × Rat)) : Rat × Rat

/-- Error of the fixed-point evaluation of the temperature formula at a conversion, in 10^-9 °C; the model limits it to the
±0.02 °C of R187. -/
opaque Config.thermError (draw : Nat) : Int

/-- The image-signing public key of factory data, 32 bytes (R24, R567), which the spec does not give. -/
opaque Config.imageKey : List Byte

/-- `VERSION`, `SCHEMA_MIN` and `SCHEMA_MAX` of the image programmed in production (step 2 of the production test). -/
opaque Config.factoryVersion : BitVec 32
opaque Config.factorySchemaMin : BitVec 16
opaque Config.factorySchemaMax : BitVec 16

/-- An insulation result in kΩ when neither the earth nor the drive has swung, where the formula of R607 is 0/0. -/
opaque Config.insOpen (draw : Nat) : Nat

/-- The word "supply state and `HOLDUP_OK`" of a power-loss ingot (R549), whose layout the spec does not give: the module ran
from `AUX12`, the hold-up bank was charged. -/
opaque Config.powerLossWord (aux holdup : Bool) : BitVec 32

/-- Stretch of the carrier period under reference spread at a microsecond of module time, in 0.1 %; the model limits it to the
±1.5 % of R43. -/
opaque Config.spread (us : Nat) : Int

/-- Laws of a leg's loop that the spec does not give (currents in 10 mA, voltages in 10 mV): the reduction of an importing leg's
current, beyond the least one, for `TLn_VS` below 95 % of the contracted voltage (R91); the reduction, beyond the least one, that on
`BOOT` holds `CBUS_VS` at or below the contracted voltage (R364); the current that in export regulates `TLn_VS` to the contracted
voltage (R90); and the duty of each of the converter's two pins, in 1/65 536, for the current the loop asks for. -/
opaque Config.legFold (leg cv vs current : Nat) : Nat
opaque Config.legHold (leg cv cbus current : Nat) : Nat
opaque Config.legExport (leg cv vs limit : Nat) : Nat
opaque Config.legDuty (leg pin vs cbus : Nat) (current : Int) : Nat

/-- Dead time of the tie-link legs' PWM pins, in 5 ns (R113 gives the channels'; the spec gives the legs none). -/
opaque Config.legDead : Nat

/-- How much slower than the reference a local copy of module time steps while it is ahead of the master, beyond half the
rate (R44), which the spec does not give. -/
opaque Config.slowStep : Nat

/-! ## Memory maps -/

/-- The NOR partitions (R24): offset and size. -/
def Config.norBoot (copy : Nat) : Nat × Nat := (0x00100000 * copy, 0x00100000)
def Config.norFactory : Nat × Nat := (0x00200000, 0x00200000)
def Config.norSlotA : Nat × Nat := (0x00400000, 0x01800000)
def Config.norSlotB : Nat × Nat := (0x01C00000, 0x01800000)
def Config.norSettings (copy : Nat) : Nat × Nat := (0x03400000 + 0x00400000 * copy, 0x00400000)
def Config.norTables : Nat × Nat := (0x03C00000, 0x00800000)
def Config.norReserved : Nat × Nat := (0x04400000, 0x03C00000)

/-- The SRAM allocations (R46), bytes: capture buffers, crucible and pour tables, descriptor caches with tag table and
orphan log, trace buffer, scratch of one supervisor; and on a region die estimator state, telemetry staging, local capture
and flask tables. -/
def Config.sramCapture : Nat := 0x800000
def Config.sramCrucible : Nat := 0x1000000
def Config.sramHost : Nat := 0x400000
def Config.sramTrace : Nat := 0x200000
def Config.sramScratch : Nat := 0x100000
def Config.sramEstimator : Nat := 0x300000
def Config.sramTelemetry : Nat := 0x200000
def Config.sramLocal : Nat := 0x200000
def Config.sramFlask : Nat := 0x100000

end Sys2Proof
end

