-- ==== Sys2Proof/Syntax.lean ====
section
/-! DEFINITION. The commands and events of the module, one constructor of `Instr` per row of the opcode table,
and the types of their operands. -/

namespace Sys2Proof

/-- A 64-bit fault message (R529) before the collector writes `LIFT`: kind, severity as sent (0 Note, 1 Minor,
2 Major, 3 Critical), source ID (R530), context word and the `INJ` mark (R546). -/
structure FaultMsg where
  kind : Nat
  sev : Nat
  src : Nat
  ctx : Word
  inj : Bool := false
  deriving DecidableEq, Repr

/-- A descriptor as the engine reads it from host memory (R375): its sixteen words, and the scatter list its `BUF`
points to when `SGL` = 1, as (address, length, reserved word) triples (R377). -/
structure Desc where
  words : List Word
  sgl : List (Nat × Nat × Word) := []
  deriving DecidableEq, Repr

/-- The three kinds of ring (R374). -/
inductive RingKind where
  | sq
  | cq
  | ev
  deriving DecidableEq, Repr

/-- The events that reset the host interface (R405). -/
inductive HostResetKind where
  | hotReset
  | perst
  | flr
  | linkDown
  | d3ToD0
  deriving DecidableEq, Repr

/-- What a failing host memory access was for (R385 kind 3, R411 status 0x16). -/
inductive MemAccess where
  | ring (k : RingKind) (i : Nat)
  | buffer (tag : Nat)
  deriving DecidableEq, Repr

/-- A runner frame (R35, R36, R38): its direction, the number its sender gives it, its fabric class (R31), 64-bit header,
payload and CRC-32C. A retransmission carries its frame's number again. -/
structure RunFrame where
  toRegion : Bool
  num : Nat
  cls : Nat
  hdr : List Byte
  payload : List Byte
  crc : Word
  deriving DecidableEq, Repr

/-- A SECDED error met on a read of SRAM (R47): the die (0-3 a region's SRAM, 4 hub SRAM), the byte address, whether it is a
double-bit error, and the channel whose record the word belongs to. -/
structure EccErr where
  die : Nat
  addr : Word
  double : Bool
  chan : Option Nat := none
  deriving DecidableEq, Repr

/-- What a coulomb converter's modulator sees: (shunt voltage at the pins in nV, modulator cycles of 1/8.192 MHz it lasts). -/
abbrev ShuntRuns := List (Int × Nat)

/-- A channel's pins at a loop tick: the modulator's conversions over the last whole half carrier period (R119), the 1 µs
conversion of `CHn_VB` (pin, µV), and the modulator's conversions over the microsecond that ends (R236). -/
structure ChanTick where
  c : Nat
  sh : ShuntRuns
  pin : Nat
  us : ShuntRuns := []
  deriving DecidableEq, Repr

/-- A leg's pins over the microsecond that ends at a tick (0-3 sprues, 4-11 tie-links, 12 CBUS): shunt and voltage pin (µV). -/
structure LegTick where
  leg : Nat
  sh : ShuntRuns
  pin : Nat
  deriving DecidableEq, Repr

/-- The readings of a loop tick: channels, legs, the flasks whose fault return is low after filtering, and the regions that
the tick strobe does not reach (R45). -/
structure TickIn where
  chans : List ChanTick := []
  legs : List LegTick := []
  fltLow : List Nat := []
  noStrobe : List Nat := []
  deriving DecidableEq, Repr

/-- A converter's millisecond on a channel: the modulator's conversions, the mean `CHn_VB` pin voltage (µV), the mean
`CHn_TS` pin voltage (µV) and the measured bias current (nA), all as they stand at the pins. -/
structure ChanMs where
  c : Nat
  sh : ShuntRuns
  pin : Nat
  ts : Nat
  bias : Nat
  deriving DecidableEq, Repr

/-- A converter's millisecond on a leg (numbered as in `LegTick`). -/
structure LegMs where
  leg : Nat
  sh : ShuntRuns
  pin : Nat
  deriving DecidableEq, Repr

/-- A record of NOR factory data as it is read at the start of a domain (R191): its offset within the factory partition, its
words and the CRC-32C stored with it. The words are the constants of the domain's converters in their order, five to a
converter. -/
structure FactRec where
  ofs : Nat := 0
  words : List Word := []
  crc : Word := 0
  deriving DecidableEq, Repr

/-- A calibration slot's results: the channel's own converter and the calibration converter for the shunt voltage (nV),
the pin voltage (µV) and the bias current (nA) (R192). -/
structure CalIn where
  mI : Int
  cI : Int
  mV : Nat
  cV : Nat
  mB : Nat
  cB : Nat
  deriving DecidableEq, Repr

/-- Millisecond means on the pins of tie-link port `n`: `TLn_LES` (mV), LES output current (mA), `TLn_LCW` (mV); time in ns from the
latest edge on LCW within the millisecond to its end, if there was one (R303). -/
structure TlMs where
  n : Nat
  les : Nat
  lesI : Nat
  lcw : Nat
  edge : Option Nat := none
  deriving DecidableEq, Repr

/-- The readings of the millisecond that ends at a snapshot. -/
structure SnapIn where
  chans : List ChanMs := []
  legs : List LegMs := []
  tls : List TlMs := []
  ecc : List EccErr := []
  deriving DecidableEq, Repr

/-- The commands and events of the opcode table, one constructor per row, with the rule that gives it. A command of the
submission rings is named by the tag `t` that its descriptor holds; a register write carries the word written; an event
carries what its block reads at its pins. The rows without an operand stand last: Lean compiles constructors that take
fields up to number 243 only. -/
inductive Instr where
  /-- R45 `LOOP_TICK`. -/
  | loopTick (x : TickIn)
  /-- R45 `TICK_STROBE_LOST`. -/
  | tickStrobeLost (k : Nat)
  /-- R44 `TIME_REALIGN`. -/
  | timeRealign (diff : List (Nat × Int))
  /-- R176 `SNAPSHOT`. -/
  | snapshot (x : SnapIn)
  /-- R188 `TEMP_INVALID`. -/
  | tempInvalid (c : Nat)
  /-- R162 `TEMP_VALID_RESTORED`. -/
  | tempValidRestored (c : Nat)
  /-- R36 `RUNNER_FRAME_RX`. -/
  | runnerFrameRx (k : Nat) (x : RunFrame)
  /-- R37 `RUNNER_RETRAIN`. -/
  | runnerRetrain (k : Nat) (ok : Bool)
  /-- R29 `FLASK_FAULT_PORT_FORWARD`. -/
  | flaskFaultPortForward (f : Nat)
  /-- R531 `AGGREGATOR_FORWARD`. -/
  | aggregatorForward (k : Nat)
  /-- R538 `REGION_SELF_HOLD`. -/
  | regionSelfHold (k : Nat)
  /-- R27 `CAL_SLOT`. -/
  | calSlot (u : Nat) (x : CalIn)
  /-- R194 `CAL_ROUND_END`. -/
  | calRoundEnd (u : Nat) (ppm : Int)
  /-- R275 `SHADOW_TABLE_RECEIVED`. -/
  | shadowTableReceived (f : Nat) (good : Bool)
  /-- R51 `REGION_ACK`. -/
  | regionAck (k : Nat)
  /-- R51 `POUR_SWAP`. -/
  | pourSwap (late : List Nat)
  /-- R280 `STALE_SHAVE`. -/
  | staleShave (k : Nat)
  /-- R109 `SP_CONFIG_WRITE`. -/
  | spConfigWrite (n : Nat) (j : Nat) (v : Word)
  /-- R66 `PP_PRIORITY_WRITE`. -/
  | ppPriorityWrite (v : Word)
  /-- R419 `PP_SET`. -/
  | ppSet (t : Nat)
  /-- R59 `SPRUE_READY`. -/
  | sprueReady (n : Nat) (v : Nat)
  /-- R59 `SPRUE_NOT_READY`. -/
  | sprueNotReady (n : Nat) (v : Nat)
  /-- R65 `PLANNED_RETURN`. -/
  | plannedReturn (n : Nat)
  /-- R67 `SPRUE_COLLAPSE`. -/
  | sprueCollapse (n : Nat) (v : Nat)
  /-- R68 `SPRUE_REVERSE`. -/
  | sprueReverse (n : Nat) (uv : Int)
  /-- R69 `SPRUE_OVERVOLTAGE`. -/
  | sprueOvervoltage (n : Nat) (v : Nat)
  /-- R72 `CBUS_UNDERVOLTAGE`. -/
  | cbusUndervoltage (v : Nat)
  /-- R78 `CBUS_OVERVOLTAGE`. -/
  | cbusOvervoltage (v : Nat)
  /-- R78 `CBUS_OV_RELEASE`. -/
  | cbusOvRelease (v : Nat)
  /-- R72 `DROOP_TEST`. -/
  | droopTest (t : Nat)
  /-- R83 `VNL_TRACKED`; `pin`: mean pin voltage of the 10 ms, µV. -/
  | vnlTracked (n : Nat) (pin : Nat)
  /-- R86 `SEARCH_EVALUATION`; `pin`, `sh`: mean pin voltage, µV, and shunt voltage, nV, of the evaluation's millisecond (R84). -/
  | searchEvaluation (n : Nat) (pin : Nat) (sh : Int)
  /-- R86 `SEARCH_REFERENCE_DONE`; `pin`: mean pin voltage of the reference interval, µV. -/
  | searchReferenceDone (n : Nat) (pin : Nat)
  /-- R86 `SEARCH_HOLD_EXPIRE`. -/
  | searchHoldExpire (n : Nat)
  /-- R85 `REPROBE`. -/
  | reprobe (n : Nat)
  /-- R86 `SEARCH_RESTART`. -/
  | searchRestart (n : Nat)
  /-- R93 `TL_LEG_TRIP`. -/
  | tlLegTrip (n : Nat) (p : Nat)
  /-- R472 `SUPPLY_FAIL_RESTART`. -/
  | supplyFailRestart (aux : Bool)
  /-- R101 `TRANSPORT`. -/
  | transport (t : Nat) (boot : Nat)
  /-- R101 `TRANSPORT_WAKE_DETECT`. -/
  | transportWakeDetect (sp : Nat) (boot : Bool)
  /-- R141 `CHAN_PARAM`. -/
  | chanParam (t : Nat)
  /-- R167 `CHAN_WINDOWS`. -/
  | chanWindows (t : Nat)
  /-- R126 `CHAN_STATE`. -/
  | chanState (t : Nat)
  /-- R126 `HOLD_RAMP_END`. -/
  | holdRampEnd (c : Nat)
  /-- R129 `CHANNEL_TRIP`. -/
  | channelTrip (c : Nat)
  /-- R141 `FLASK_PARAM`. -/
  | flaskParam (t : Nat)
  /-- R130 `FLASK_STATE`. -/
  | flaskState (t : Nat)
  /-- R131 `SEQUENCER_SELFCHECK_FAIL`. -/
  | sequencerSelfcheckFail (f : Nat) (ctx : Word)
  /-- R132 `FAULT_RETURN_ASSERT`. -/
  | faultReturnAssert (f : Nat)
  /-- R133 `RETRY_DELAY_EXPIRE`. -/
  | retryDelayExpire (f : Nat)
  /-- R133 `RETRY_CHANNEL_RESTART`. -/
  | retryChannelRestart (f : Nat)
  /-- R133 `FAULT_RETURN_STUCK`. -/
  | faultReturnStuck (f : Nat)
  /-- R133 `RETRY_COMPLETE`. -/
  | retryComplete (f : Nat)
  /-- R133 `RETRY_COUNT_RESET`. -/
  | retryCountReset (f : Nat)
  /-- R135 `TONE_PAIR_REQUEST`. -/
  | tonePairRequest (f : Nat) (a : Nat) (b : Nat)
  /-- R152 `PHASE_SUSTAIN_MET`. -/
  | phaseSustainMet (c : Nat)
  /-- R152 `PULSE_TRAIN_DONE`. -/
  | pulseTrainDone (c : Nat)
  /-- R152 `RELAX_TIMER_EXPIRE`. -/
  | relaxTimerExpire (c : Nat)
  /-- R152 `PRECHARGE_TIMEOUT`. -/
  | prechargeTimeout (c : Nat)
  /-- R152 `CV_TIMEOUT`. -/
  | cvTimeout (c : Nat)
  /-- R152 `TOPOFF_TIMEOUT`. -/
  | topoffTimeout (c : Nat)
  /-- R152 `REST_TIMER_EXPIRE`. -/
  | restTimerExpire (c : Nat)
  /-- R163 `PHASE`. -/
  | phase (t : Nat)
  /-- R169 `PROFILE_LOAD`. -/
  | profileLoad (t : Nat)
  /-- R196 `CHAN_CAL`. -/
  | chanCal (t : Nat)
  /-- R210 `FILTER_UPDATE`. -/
  | filterUpdate (c : Nat) (ecc : List EccErr)
  /-- R243 `FILTER_LATE`. -/
  | filterLate (c : Nat)
  /-- R219 `FILTER_REINIT`. -/
  | filterReinit (c : Nat)
  /-- R231 `TONE_DWELL_END`. -/
  | toneDwellEnd (f : Nat)
  /-- R237 `SWEEP_END`. -/
  | sweepEnd (f : Nat)
  /-- R238 `SPECTRO`. -/
  | spectro (t : Nat)
  /-- R244 `FRAME_HOT`; `hub`, `mid`: the two sensors of R661, 0.1 °C. -/
  | frameHot (hub : Int) (mid : Int)
  /-- R244 `FRAME_COOL`; operands as of FRAME_HOT. -/
  | frameCool (hub : Int) (mid : Int)
  /-- R246 `CHANNEL_RECORD_WRITE`. -/
  | channelRecordWrite (c : Nat)
  /-- R250 `EST_PARAM`. -/
  | estParam (t : Nat)
  /-- R248 `EST_RESET`. -/
  | estReset (t : Nat)
  /-- R206 `MODEL_LOAD`. -/
  | modelLoad (t : Nat)
  /-- R253 `OBJECTIVES`. -/
  | objectives (t : Nat)
  /-- R427 `ALLOC_READ`. -/
  | allocRead (t : Nat)
  /-- R285 `CAL_RUN`. -/
  | calRun (t : Nat)
  /-- R287 `CAL_RUN_TIMEOUT`. -/
  | calRunTimeout (c : Nat)
  /-- R304 `TL_ENABLE`. -/
  | tlEnable (n : Nat) (v : Word)
  /-- R304 `TL_DISABLE`. -/
  | tlDisable (n : Nat) (v : Word)
  /-- R304 `LCW_PARTNER_SEEN`. -/
  | lcwPartnerSeen (n : Nat) (mv : Nat)
  /-- R304 `DRP_TOGGLE`. -/
  | drpToggle (n : Nat)
  /-- R305 `ATTACH_DEBOUNCE_DONE`. -/
  | attachDebounceDone (n : Nat)
  /-- R304 `ATTACHWAIT_LOST`. -/
  | attachwaitLost (n : Nat)
  /-- R304 `TRY_PARTNER_SEEN`. -/
  | tryPartnerSeen (n : Nat)
  /-- R304 `TRY_TIMER_EXPIRE`. -/
  | tryTimerExpire (n : Nat)
  /-- R304 `TRYWAIT_TIMER_EXPIRE`. -/
  | trywaitTimerExpire (n : Nat)
  /-- R306 `DETACH`. -/
  | detach (n : Nat)
  /-- R304 `REATTACH_TIMER_EXPIRE`. -/
  | reattachTimerExpire (n : Nat)
  /-- R298 `LES_RETRY`. -/
  | lesRetry (n : Nat)
  /-- R300 `LES_OVERCURRENT`. -/
  | lesOvercurrent (n : Nat)
  /-- R328 `PACKET_TX_START`. -/
  | packetTxStart (n : Nat)
  /-- R325 `PACKET_TX_DONE`. -/
  | packetTxDone (n : Nat)
  /-- R328 `TX_COLLISION`. -/
  | txCollision (n : Nat) (line : List Bool)
  /-- R328 `COLLISION_BACKOFF_END`. -/
  | collisionBackoffEnd (n : Nat)
  /-- R324 `PACKET_RECEIVED`. -/
  | packetReceived (n : Nat) (wave : List (Nat × Nat))
  /-- R325 `GOODCRC`. -/
  | goodcrc (n : Nat)
  /-- R325 `ACK_TIMEOUT`. -/
  | ackTimeout (n : Nat)
  /-- R323 `SOFT_RESET`. -/
  | softReset (n : Nat)
  /-- R342 `GET_CAPS`. -/
  | getCaps (n : Nat)
  /-- R340 `CAPS`. -/
  | caps (n : Nat)
  /-- R344 `REQUEST`. -/
  | request (n : Nat)
  /-- R341 `ACCEPT`. -/
  | accept (n : Nat)
  /-- R341 `REJECT`. -/
  | reject (n : Nat)
  /-- R341 `WAIT`. -/
  | wait (n : Nat)
  /-- R341 `NOT_SUPPORTED`. -/
  | notSupported (n : Nat)
  /-- R341 `PS_READY`. -/
  | psReady (n : Nat)
  /-- R335 `IDENT`. -/
  | ident (n : Nat)
  /-- R349 `LES_SWAP`. -/
  | lesSwap (n : Nat)
  /-- R353 `REATTACH`. -/
  | reattach (n : Nat)
  /-- R357 `VENDOR`. -/
  | vendor (n : Nat)
  /-- R358 `VDM_TIMEOUT`. -/
  | vdmTimeout (n : Nat)
  /-- R359 `DIGEST_SEND`. -/
  | digestSend (n : Nat)
  /-- R360 `SYNC_SEND`. -/
  | syncSend (n : Nat)
  /-- R363 `BUDGET_SEND`. -/
  | budgetSend (n : Nat)
  /-- R361 `TUNNEL_FRAME_RECEIVED`. -/
  | tunnelFrameReceived (n : Nat) (wave : List (Nat × Nat))
  /-- R361 `TUNNEL_ACK_TIMEOUT`. -/
  | tunnelAckTimeout (n : Nat)
  /-- R341 `RESPONSE_TIMER_EXPIRE`. -/
  | responseTimerExpire (n : Nat)
  /-- R341 `SINK_PS_TIMER_EXPIRE`. -/
  | sinkPsTimerExpire (n : Nat)
  /-- R341 `SOURCE_PS_TIMER_EXPIRE`. -/
  | sourcePsTimerExpire (n : Nat)
  /-- R341 `TRANSITION_SETTLED`. -/
  | transitionSettled (n : Nat)
  /-- R341 `HOLDOFF_EXPIRE`. -/
  | holdoffExpire (n : Nat)
  /-- R343 `SINK_KEEPALIVE_EXPIRE`. -/
  | sinkKeepaliveExpire (n : Nat)
  /-- R343 `SOURCE_KEEPALIVE_EXPIRE`. -/
  | sourceKeepaliveExpire (n : Nat)
  /-- R346 `TRIP_RETRY_EXPIRE`. -/
  | tripRetryExpire (n : Nat)
  /-- R348 `HOST_LOST_HOLD_EXPIRE`. -/
  | hostLostHoldExpire (n : Nat)
  /-- R350 `LES_SWAP_OFF_DONE`. -/
  | lesSwapOffDone (n : Nat)
  /-- R350 `LES_SWAP_ON_DONE`. -/
  | lesSwapOnDone (n : Nat)
  /-- R351 `LES_SWAP_STEP_TIMEOUT`. -/
  | lesSwapStepTimeout (n : Nat)
  /-- R342 `TL_ADVERTISE`. -/
  | tlAdvertise (t : Nat)
  /-- R339 `TL_REQUEST`. -/
  | tlRequest (t : Nat)
  /-- R344 `TL_ACCEPT`. -/
  | tlAccept (t : Nat)
  /-- R357 `TL_VENDOR`. -/
  | tlVendor (t : Nat)
  /-- R349 `TL_LES_SWAP`. -/
  | tlLesSwap (t : Nat)
  /-- R353 `TL_REATTACH`. -/
  | tlReattach (t : Nat)
  /-- R361 `TUNNEL_SEND`. -/
  | tunnelSend (t : Nat)
  /-- R339 `TL_REVREQ_WRITE`. -/
  | tlRevreqWrite (n : Nat) (v : Word)
  /-- R358 `TL_CCTRL_WRITE`. -/
  | tlCctrlWrite (n : Nat) (v : Word)
  /-- R383 `DB_SQ_TAIL`. -/
  | dbSqTail (i : Nat) (v : Nat)
  /-- R383 `DB_CQ_HEAD`. -/
  | dbCqHead (i : Nat) (v : Nat)
  /-- R383 `DB_EV_HEAD`. -/
  | dbEvHead (i : Nat) (v : Nat)
  /-- R384 `RING_ENABLE`. -/
  | ringEnable (k : RingKind) (i : Nat) (v : Word)
  /-- R384 `RING_DISABLE`. -/
  | ringDisable (k : RingKind) (i : Nat) (v : Word)
  /-- R384 `ENGINE_ENABLE`. -/
  | engineEnable (v : Word)
  /-- R386 `DESCRIPTOR_FETCH`. -/
  | descriptorFetch (i : Nat) (ds : List Desc)
  /-- R390 `COMMAND_START`. -/
  | commandStart (t : Nat) (src : List Byte) (memErr : Bool)
  /-- R397 `COMPLETION_WRITE`. -/
  | completionWrite (c : Nat)
  /-- R400 `EVENT_RECORD_WRITE`. -/
  | eventRecordWrite (e : Nat)
  /-- R398 `IRQ_COALESCE_TIMEOUT`. -/
  | irqCoalesceTimeout (k : RingKind) (i : Nat)
  /-- R385 `HOST_MEMORY_ERROR`. -/
  | hostMemoryError (a : MemAccess)
  /-- R405 `HOST_IF_RESET`. -/
  | hostIfReset (k : HostResetKind)
  /-- R407 `ORPHAN_ENTRY`. -/
  | orphanEntry (t : Nat)
  /-- R395 `FENCE`. -/
  | fence (t : Nat)
  /-- R403 `CONTINUE`. -/
  | continue_ (i : Nat) (d : Desc)
  /-- R415 `IDENTIFY`. -/
  | identify (t : Nat)
  /-- R430 `EVENT_ROUTE`. -/
  | eventRoute (t : Nat)
  /-- R442 `TELEMETRY`. -/
  | telemetry (t : Nat)
  /-- R443 `TELEMETRY_FRAME`. -/
  | telemetryFrame (f : Nat)
  /-- R426 `CHAN_READ`. -/
  | chanRead (t : Nat)
  /-- R424 `CAPTURE`. -/
  | capture (t : Nat)
  /-- R424 `CAPTURE_TRIGGER`. -/
  | captureTrigger (t : Nat)
  /-- R425 `CAPTURE_TRIGGER_TIMEOUT`. -/
  | captureTriggerTimeout (t : Nat)
  /-- R402 `RESULT_FRAGMENT`. -/
  | resultFragment (t : Nat)
  /-- R452 `I2C_ADDRESS`. -/
  | i2cAddress (addr : Nat) (read : Bool)
  /-- R454 `I2C_BYTE_WRITE`. -/
  | i2cByteWrite (b : Byte)
  /-- R462 `I2C_FRAME_ERROR`. -/
  | i2cFrameError (stop : Bool)
  /-- R484 `STARTUP_STEP`. -/
  | startupStep (sv : Option Nat) (copy0 copy1 : List Word)
  /-- R478 `DOMAIN_SWITCH_ON`. -/
  | domainSwitchOn (d : Nat) (x : FactRec)
  /-- R479 `DOMAIN_SWITCH_OFF`. -/
  | domainSwitchOff (d : Nat)
  /-- R480 `DOMAIN_LOSS`. -/
  | domainLoss (d : Nat)
  /-- R482 `CK_PDREQ_WRITE`. -/
  | ckPdreqWrite (v : Word)
  /-- R491 `REFERENCE_LOSS`. -/
  | referenceLoss (count : Word) (quiet : Nat)
  /-- R509 `WD_START`. -/
  | wdStart (v : Word)
  /-- R509 `WD_ANSWER`. -/
  | wdAnswer (v : Word)
  /-- R507 `WD_PERIOD_WRITE`. -/
  | wdPeriodWrite (v : Word)
  /-- R505 `WD_KEY_WRITE`. -/
  | wdKeyWrite (v : Word)
  /-- R513 `DEBUG_HALT`. -/
  | debugHalt (m : Nat)
  /-- R517 `SV_INTERNAL_WDT_EXPIRE`. -/
  | svInternalWdtExpire (n : Nat)
  /-- R518 `SUPERVISOR_FAILURE`. -/
  | supervisorFailure (n : Nat)
  /-- R519 `CHECKPOINT_EPOCH`. -/
  | checkpointEpoch (body : List Word) (crc : Word) (commit : Bool)
  /-- R524 `SV_LOST`. -/
  | svLost (n : Nat) (selfTest : Bool)
  /-- R525 `PLANNED_SWITCHOVER`. -/
  | plannedSwitchover (v : Word)
  /-- R538 `REGION_RELEASE`. -/
  | regionRelease (v : Word)
  /-- R540 `PP_SAFE_CLEAR`. -/
  | ppSafeClear (v : Word)
  /-- R545 `UNPIN`. -/
  | unpin (v : Word)
  /-- R558 `REPLACE_CLEAR`. -/
  | replaceClear (v : Word)
  /-- R547 `FAULT_INJECT`. -/
  | faultInject (t : Nat)
  /-- R543 `FAULT_CLEAR`. -/
  | faultClear (t : Nat)
  /-- R557 `BB_READ`. -/
  | bbRead (t : Nat)
  /-- R550 `INGOT_WRITE`. -/
  | ingotWrite (how : Nat)
  /-- R556 `BLACKBOX_SCAN`; `bad`: what the media hold otherwise than written: slot, copy (B or A), word index and the bits that differ; a
  word index of 64 or more wears the slot out, so that writing it fails (R550). -/
  | blackboxScan (bad : List (Nat × Bool × Nat × Word))
  /-- R570 `FW_STAGE`. -/
  | fwStage (t : Nat) (bad : Bool)
  /-- R570 `FW_COMMIT`. -/
  | fwCommit (t : Nat)
  /-- R570 `FW_CONFIRM`. -/
  | fwConfirm (t : Nat)
  /-- R579 `SETTINGS_LOAD`. -/
  | settingsLoad (t : Nat) (bad : Nat)
  /-- R592 `DIGEST_READ`. -/
  | digestRead (t : Nat)
  /-- R589 `CFG_GEN_WRITE`. -/
  | cfgGenWrite (v : Word)
  /-- R595 `TAMPER_LATCH`. -/
  | tamperLatch (pins : Nat)
  /-- R596 `TAMPER_CLEAR`. -/
  | tamperClear (v : Word)
  /-- R597 `TAMPER_ARM`. -/
  | tamperArm (t : Nat)
  /-- R600 `REMOVAL_DECLARED`. -/
  | removalDeclared (c : Nat)
  /-- R601 `REFIT`. -/
  | refit (c : Nat)
  /-- R607 `INSULATION_HALF_PERIOD`. -/
  | insulationHalfPeriod (a : Int) (v : Int) (j : Int)
  /-- R615 `ENERGY_READ`. -/
  | energyRead (t : Nat)
  /-- R619 `LAMP_TEST`. -/
  | lampTest (v : Word)
  /-- R625 `TRACE_RESUME`. -/
  | traceResume (v : Word)
  /-- R637 `ATEST`. -/
  | atest (t : Nat)
  /-- R637 `ATEST_MEASURE_DONE`. -/
  | atestMeasureDone (uv : Int)
  /-- R17 `REGISTER_WRITE`: a host write to BAR `bar` (6: configuration space) at byte offset `ofs`, with byte enables `be`; `same`: the bits
  that a hardware event sets in the clock cycle of the write (R21). -/
  | registerWrite (bar : Nat) (ofs : Nat) (v : Word) (be : Nat) (same : Word)
  /-- R469 `AON_POWER_UP`. -/
  | aonPowerUp (aux : Bool) (straps : Nat)
  /-- R341 `GET_CAPS_RETRY`. -/
  | getCapsRetry (n : Nat)
  /-- R309 `SOFT_RESET_REPEAT`. -/
  | softResetRepeat (n : Nat)
  /-- R420 `TL_REQUEST_TIMEOUT`. -/
  | tlRequestTimeout (t : Nat)
  /-- R420 `TL_REATTACH_TIMEOUT`. -/
  | tlReattachTimeout (t : Nat)
  /-- R534 `FAULT_MESSAGE`. -/
  | faultMessage
  /-- R256 `POUR_INPUT_READ`. -/
  | pourInputRead
  /-- R245 `SIMULATION_DONE`. -/
  | simulationDone
  /-- R269 `CANDIDATE_SELECTION`. -/
  | candidateSelection
  /-- R278 `POUR_MISSED`. -/
  | pourMissed
  /-- R60 `PP_ARM`. -/
  | ppArm
  /-- R60 `PP_DISARM`. -/
  | ppDisarm
  /-- R99 `SAFE_EXIT`. -/
  | safeExit
  /-- R70 `DEAD_TIME_END`. -/
  | deadTimeEnd
  /-- R473 `AUX12_INVALID`. -/
  | aux12Invalid
  /-- R96 `AUX12_VALID`. -/
  | aux12Valid
  /-- R498 `BOOT_VALID`. -/
  | bootValid
  /-- R471 `SUPPLY_FAILURE`. -/
  | supplyFailure
  /-- R475 `AON_POWER_ON_RESET`. -/
  | aonPowerOnReset
  /-- R474 `HOLDUP_CHARGED`. -/
  | holdupCharged
  /-- R101 `TRANSPORT_DRAIN_DONE`. -/
  | transportDrainDone
  /-- R101 `TRANSPORT_DRAIN_TIMEOUT`. -/
  | transportDrainTimeout
  /-- R101 `TRANSPORT_ABORT`. -/
  | transportAbort
  /-- R101 `TRANSPORT_ENTER`. -/
  | transportEnter
  /-- R101 `TRANSPORT_WAKE_LAPSE`. -/
  | transportWakeLapse
  /-- R101 `TRANSPORT_WAKE`. -/
  | transportWake
  /-- R499 `WAKE_SUPPLY_TIMEOUT`. -/
  | wakeSupplyTimeout
  /-- R238 `SWEEP_START`. -/
  | sweepStart
  /-- R401 `HEARTBEAT`. -/
  | heartbeat
  /-- R406 `HOST_IF_READY`. -/
  | hostIfReady
  /-- R407 `ORPHAN_ACK`. -/
  | orphanAck
  /-- R408 `PEAK_CLR`. -/
  | peakClr
  /-- R373 `D3HOT_ENTRY`. -/
  | d3hotEntry
  /-- R372 `LINK_L1_ENTRY`. -/
  | linkL1Entry
  /-- R372 `LINK_L1_EXIT`. -/
  | linkL1Exit
  /-- R493 `LINK_UP`. -/
  | linkUp
  /-- R404 `CAPTURE_PAGES_RESERVED`. -/
  | capturePagesReserved
  /-- R455 `I2C_BYTE_READ`; `nack`: the controller, or a released `MSDA`, does not acknowledge the byte (R463). -/
  | i2cByteRead (nack : Bool)
  /-- R456 `I2C_STOP`. -/
  | i2cStop
  /-- R456 `I2C_REPEATED_START`. -/
  | i2cRepeatedStart
  /-- R460 `I2C_STRETCH_TIMEOUT`. -/
  | i2cStretchTimeout
  /-- R463 `I2C_BUS_CLEAR`. -/
  | i2cBusClear
  /-- R461 `I2C_RECOVERY_END`. -/
  | i2cRecoveryEnd
  /-- R461 `MP_PORT_READY`. -/
  | mpPortReady
  /-- R461 `BOUNDARY_ACCESS_START`. -/
  | boundaryAccessStart
  /-- R461 `BOUNDARY_ACCESS_END`. -/
  | boundaryAccessEnd
  /-- R477 `MODULE_RESET`. -/
  | moduleReset
  /-- R475 `TEST_CONNECTOR_RESET`. -/
  | testConnectorReset
  /-- R490 `REFERENCE_QUALIFIED`. -/
  | referenceQualified (counts : List Nat)
  /-- R497 `CK_TIME_READ`. -/
  | ckTimeRead
  /-- R510 `WD_PERIOD_EXPIRE`. -/
  | wdPeriodExpire
  /-- R509 `WD_BOOT_EXPIRE`. -/
  | wdBootExpire
  /-- R509 `WD_PULSE_END`. -/
  | wdPulseEnd
  /-- R520 `CKPT_LATE`. -/
  | ckptLate
  /-- R521 `CHECKPOINT_CHECK`. -/
  | checkpointCheck
  /-- R522 `SUPERVISOR_TAKEOVER`. -/
  | supervisorTakeover
  /-- R524 `STANDBY_READY`. -/
  | standbyReady
  /-- R547 `INJECT_ARM_EXPIRE`. -/
  | injectArmExpire
  /-- R551 `LOG_BUDGET_REFILL`. -/
  | logBudgetRefill
  /-- R551 `SUMMARY_INGOT`. -/
  | summaryIngot
  /-- R561 `CE_RATE_BIN`. -/
  | ceRateBin
  /-- R570 `PROBATION_EXPIRE`. -/
  | probationExpire
  /-- R570 `PROBATION_NO_SUPERVISOR`. -/
  | probationNoSupervisor
  /-- R590 `DIGEST_SCAN_PASS`. -/
  | digestScanPass
  /-- R598 `TAMPER_REPORT`. -/
  | tamperReport
  /-- R603 `SHUNT_CHECK_WINDOW`. -/
  | shuntCheckWindow
  /-- R613 `ENERGY_INGOT`. -/
  | energyIngot
  /-- R616 `LAMP_EVALUATION`. -/
  | lampEvaluation
  /-- R619 `LAMP_TEST_END`. -/
  | lampTestEnd
  /-- R622 `TRACE_RECORD`. -/
  | traceRecord
  /-- R626 `TRACE_HOST_COPY`. -/
  | traceHostCopy
  /-- R628 `TRACE_PORT_FRAME`. -/
  | tracePortFrame
  /-- R638 `ATEST_INTERLOCK_LOSS`. -/
  | atestInterlockLoss
  deriving DecidableEq, Repr

end Sys2Proof
end

