-- ==== Sys2Proof/Decode.lean ====
section
/-! DEFINITION. The decoder of table words. The opcode table gives none of its rows bits: the module's commands arrive as
register writes, descriptors and events, not as encoded words. -/

namespace Sys2Proof

/-- The command a word of the opcode table spells: the table gives no row bits, so no word spells one. -/
def decodeTableWord (_nbits _w : Nat) : Option Instr := none

end Sys2Proof
end

