-- ==== Sys2Proof/Machine/RegMap.lean ====
section
/-! DEFINITION. The register map: the address of every BAR0 register and BAR2 word, and every field, from the
spec's field maps (the chapter of each block) and the register index (chapter 19, R641-R646). BAR0 offsets stand
as they are; BAR2 offsets stand above `bar2` and the MSI-X table of BAR4 above `bar4`. -/

namespace Sys2Proof.Machine

/-- Key of BAR2 offset 0 in the word store. -/
def bar2 : Nat := 0x1000000

/-- Key of BAR4 offset 0 in the word store (MSI-X table at 0x8000, pending bits at 0xC000: R382). -/
def bar4 : Nat := 0x8000000

/-- `GL_IDENT`. -/
def GL_IDENT : Nat := 0x0
def GL_IDENT_FAMILY : Fld := ⟨GL_IDENT, 24, 8⟩
def GL_IDENT_PART : Fld := ⟨GL_IDENT, 16, 8⟩
def GL_IDENT_HUB_STEP : Fld := ⟨GL_IDENT, 12, 4⟩
def GL_IDENT_REGION_STEP : Fld := ⟨GL_IDENT, 8, 4⟩
def GL_IDENT_BOARD_ISSUE : Fld := ⟨GL_IDENT, 0, 8⟩
/-- `GL_TOPOLOGY`. -/
def GL_TOPOLOGY : Nat := 0x4
def GL_TOPOLOGY_REGIONS_ONLINE : Fld := ⟨GL_TOPOLOGY, 28, 4⟩
def GL_TOPOLOGY_REGIONS_PRESENT : Fld := ⟨GL_TOPOLOGY, 24, 4⟩
def GL_TOPOLOGY_LEVELS : Fld := ⟨GL_TOPOLOGY, 20, 4⟩
def GL_TOPOLOGY_FLASKS : Fld := ⟨GL_TOPOLOGY, 12, 8⟩
def GL_TOPOLOGY_CHANNELS : Fld := ⟨GL_TOPOLOGY, 0, 12⟩
/-- `GL_FWSTAT`. -/
def GL_FWSTAT : Nat := 0x10
def GL_FWSTAT_FW_STATE : Fld := ⟨GL_FWSTAT, 28, 4⟩
def GL_FWSTAT_RUN_SLOT : Fld := ⟨GL_FWSTAT, 27, 1⟩
def GL_FWSTAT_QUARANTINE : Fld := ⟨GL_FWSTAT, 26, 1⟩
def GL_FWSTAT_NOAUTOFB : Fld := ⟨GL_FWSTAT, 25, 1⟩
def GL_FWSTAT_A_VALID : Fld := ⟨GL_FWSTAT, 24, 1⟩
def GL_FWSTAT_B_VALID : Fld := ⟨GL_FWSTAT, 23, 1⟩
def GL_FWSTAT_Q_CAUSE : Fld := ⟨GL_FWSTAT, 20, 3⟩
def GL_FWSTAT_STAGED_4K : Fld := ⟨GL_FWSTAT, 0, 13⟩
/-- `GL_FWVER_A`. -/
def GL_FWVER_A : Nat := 0x14
def GL_FWVER_A_VER : Fld := ⟨GL_FWVER_A, 0, 32⟩
/-- `GL_FWVER_B`. -/
def GL_FWVER_B : Nat := 0x18
def GL_FWVER_B_VER : Fld := ⟨GL_FWVER_B, 0, 32⟩
/-- `GL_PROBATION`. -/
def GL_PROBATION : Nat := 0x1c
def GL_PROBATION_PROB_LEFT : Fld := ⟨GL_PROBATION, 0, 16⟩
/-- `GL_SETSTAT`. -/
def GL_SETSTAT : Nat := 0x20
def GL_SETSTAT_SCHEMA : Fld := ⟨GL_SETSTAT, 16, 16⟩
def GL_SETSTAT_REC_FAIL : Fld := ⟨GL_SETSTAT, 8, 8⟩
def GL_SETSTAT_COPY0_OK : Fld := ⟨GL_SETSTAT, 3, 1⟩
def GL_SETSTAT_COPY1_OK : Fld := ⟨GL_SETSTAT, 2, 1⟩
def GL_SETSTAT_SET_STATE : Fld := ⟨GL_SETSTAT, 0, 2⟩
/-- `GL_SETSEQ`. -/
def GL_SETSEQ : Nat := 0x24
def GL_SETSEQ_SET_SEQ : Fld := ⟨GL_SETSEQ, 0, 32⟩
/-- `GL_DIGEST_LO`. -/
def GL_DIGEST_LO : Nat := 0x28
def GL_DIGEST_LO_DIGEST : Fld := ⟨GL_DIGEST_LO, 0, 32⟩
/-- `GL_DIGEST_HI`. -/
def GL_DIGEST_HI : Nat := 0x2c
def GL_DIGEST_HI_DIGEST : Fld := ⟨GL_DIGEST_HI, 0, 32⟩
/-- `GL_CFGGEN`. -/
def GL_CFGGEN : Nat := 0x30
def GL_CFGGEN_CFG_GEN : Fld := ⟨GL_CFGGEN, 0, 32⟩
/-- `GL_DIGSTAT`. -/
def GL_DIGSTAT : Nat := 0x34
def GL_DIGSTAT_STALE : Fld := ⟨GL_DIGSTAT, 16, 5⟩
def GL_DIGSTAT_PASSES : Fld := ⟨GL_DIGSTAT, 0, 16⟩
/-- `GL_FWEVENT`. -/
def GL_FWEVENT : Nat := 0x38
def GL_FWEVENT_RECORD_FAIL : Fld := ⟨GL_FWEVENT, 9, 1⟩
def GL_FWEVENT_DIGEST_CHG : Fld := ⟨GL_FWEVENT, 8, 1⟩
def GL_FWEVENT_PROB_EXPIRED : Fld := ⟨GL_FWEVENT, 7, 1⟩
def GL_FWEVENT_Q_EXIT : Fld := ⟨GL_FWEVENT, 6, 1⟩
def GL_FWEVENT_QUARANTINE : Fld := ⟨GL_FWEVENT, 5, 1⟩
def GL_FWEVENT_FALLBACK : Fld := ⟨GL_FWEVENT, 4, 1⟩
def GL_FWEVENT_CONFIRMED : Fld := ⟨GL_FWEVENT, 3, 1⟩
def GL_FWEVENT_PROBATION : Fld := ⟨GL_FWEVENT, 2, 1⟩
def GL_FWEVENT_AUTH_FAIL : Fld := ⟨GL_FWEVENT, 1, 1⟩
def GL_FWEVENT_STAGED : Fld := ⟨GL_FWEVENT, 0, 1⟩
/-- `GL_FWEVENT_EN`. -/
def GL_FWEVENT_EN : Nat := 0x3c
def GL_FWEVENT_EN_RECORD_FAIL : Fld := ⟨GL_FWEVENT_EN, 9, 1⟩
def GL_FWEVENT_EN_DIGEST_CHG : Fld := ⟨GL_FWEVENT_EN, 8, 1⟩
def GL_FWEVENT_EN_PROB_EXPIRED : Fld := ⟨GL_FWEVENT_EN, 7, 1⟩
def GL_FWEVENT_EN_Q_EXIT : Fld := ⟨GL_FWEVENT_EN, 6, 1⟩
def GL_FWEVENT_EN_QUARANTINE : Fld := ⟨GL_FWEVENT_EN, 5, 1⟩
def GL_FWEVENT_EN_FALLBACK : Fld := ⟨GL_FWEVENT_EN, 4, 1⟩
def GL_FWEVENT_EN_CONFIRMED : Fld := ⟨GL_FWEVENT_EN, 3, 1⟩
def GL_FWEVENT_EN_PROBATION : Fld := ⟨GL_FWEVENT_EN, 2, 1⟩
def GL_FWEVENT_EN_AUTH_FAIL : Fld := ⟨GL_FWEVENT_EN, 1, 1⟩
def GL_FWEVENT_EN_STAGED : Fld := ⟨GL_FWEVENT_EN, 0, 1⟩
/-- `GL_MPCFG`. -/
def GL_MPCFG : Nat := 0x40
def GL_MPCFG_LOCK : Fld := ⟨GL_MPCFG, 31, 1⟩
def GL_MPCFG_BAR2_EN : Fld := ⟨GL_MPCFG, 2, 1⟩
def GL_MPCFG_WR_EN : Fld := ⟨GL_MPCFG, 1, 1⟩
def GL_MPCFG_EN : Fld := ⟨GL_MPCFG, 0, 1⟩
/-- `GL_MPSTAT`. -/
def GL_MPSTAT : Nat := 0x44
def GL_MPSTAT_FRAME_ERRS : Fld := ⟨GL_MPSTAT, 24, 8⟩
def GL_MPSTAT_STRETCH_TO : Fld := ⟨GL_MPSTAT, 16, 8⟩
def GL_MPSTAT_BUS_CLEARS : Fld := ⟨GL_MPSTAT, 8, 8⟩
def GL_MPSTAT_DISCARDS : Fld := ⟨GL_MPSTAT, 0, 8⟩
/-- `CK_CTRL`. -/
def CK_CTRL : Nat := 0x1000
def CK_CTRL_LOCK : Fld := ⟨CK_CTRL, 31, 1⟩
def CK_CTRL_SPREAD_EN : Fld := ⟨CK_CTRL, 0, 1⟩
/-- `CK_STATUS`. -/
def CK_STATUS : Nat := 0x1004
def CK_STATUS_REF_OK : Fld := ⟨CK_STATUS, 31, 1⟩
def CK_STATUS_XTAL_OK : Fld := ⟨CK_STATUS, 30, 1⟩
def CK_STATUS_HUB_LOCK : Fld := ⟨CK_STATUS, 29, 1⟩
def CK_STATUS_HOLDUP_OK : Fld := ⟨CK_STATUS, 28, 1⟩
def CK_STATUS_TIME_SRC : Fld := ⟨CK_STATUS, 26, 2⟩
def CK_STATUS_REVIVAL : Fld := ⟨CK_STATUS, 25, 1⟩
def CK_STATUS_RUNNER_LOCK : Fld := ⟨CK_STATUS, 20, 4⟩
def CK_STATUS_RPLL_LOCK : Fld := ⟨CK_STATUS, 16, 4⟩
def CK_STATUS_STEP : Fld := ⟨CK_STATUS, 0, 5⟩
/-- `CK_PDON`. -/
def CK_PDON : Nat := 0x1008
def CK_PDON_PDON : Fld := ⟨CK_PDON, 0, 32⟩
/-- `CK_PDREQ`. -/
def CK_PDREQ : Nat := 0x100c
def CK_PDREQ_BANKS : Fld := ⟨CK_PDREQ, 11, 19⟩
def CK_PDREQ_ATEST : Fld := ⟨CK_PDREQ, 9, 1⟩
def CK_PDREQ_TRACE : Fld := ⟨CK_PDREQ, 8, 1⟩
/-- `CK_RESET`. -/
def CK_RESET : Nat := 0x1010
def CK_RESET_KEY : Fld := ⟨CK_RESET, 0, 16⟩
/-- `CK_CAUSE`. -/
def CK_CAUSE : Nat := 0x1014
def CK_CAUSE_CAUSE : Fld := ⟨CK_CAUSE, 28, 4⟩
def CK_CAUSE_REVIVAL_START : Fld := ⟨CK_CAUSE, 27, 1⟩
def CK_CAUSE_WAKE_SP : Fld := ⟨CK_CAUSE, 20, 4⟩
def CK_CAUSE_WAKE_BOOT : Fld := ⟨CK_CAUSE, 19, 1⟩
/-- `CK_TIME_LO`. -/
def CK_TIME_LO : Nat := 0x1018
def CK_TIME_LO_TIME_LO : Fld := ⟨CK_TIME_LO, 0, 32⟩
/-- `CK_TIME_HI`. -/
def CK_TIME_HI : Nat := 0x101c
def CK_TIME_HI_TIME_HI : Fld := ⟨CK_TIME_HI, 0, 32⟩
/-- `CK_TSTART_LO`. -/
def CK_TSTART_LO : Nat := 0x1020
def CK_TSTART_LO_TSTART : Fld := ⟨CK_TSTART_LO, 0, 32⟩
/-- `CK_TSTART_HI`. -/
def CK_TSTART_HI : Nat := 0x1024
def CK_TSTART_HI_TSTART : Fld := ⟨CK_TSTART_HI, 0, 32⟩
/-- `CK_COUNTS`. -/
def CK_COUNTS : Nat := 0x1028
def CK_COUNTS_SUPPLY_FAILS : Fld := ⟨CK_COUNTS, 16, 16⟩
def CK_COUNTS_MOD_RESETS : Fld := ⟨CK_COUNTS, 0, 16⟩
/-- `HI_CTRL`. -/
def HI_CTRL : Nat := 0x10000
def HI_CTRL_LOCK : Fld := ⟨HI_CTRL, 31, 1⟩
def HI_CTRL_HB_EN : Fld := ⟨HI_CTRL, 9, 1⟩
def HI_CTRL_DCRC_EN : Fld := ⟨HI_CTRL, 8, 1⟩
def HI_CTRL_HB_RING : Fld := ⟨HI_CTRL, 4, 2⟩
def HI_CTRL_EN : Fld := ⟨HI_CTRL, 0, 1⟩
/-- `HI_STATUS`. -/
def HI_STATUS : Nat := 0x10004
def HI_STATUS_READY : Fld := ⟨HI_STATUS, 31, 1⟩
def HI_STATUS_RUNNING : Fld := ⟨HI_STATUS, 30, 1⟩
def HI_STATUS_ORPH_PEND : Fld := ⟨HI_STATUS, 29, 1⟩
def HI_STATUS_LAST_RESET : Fld := ⟨HI_STATUS, 27, 2⟩
/-- `HI_FRAG`. -/
def HI_FRAG : Nat := 0x10008
def HI_FRAG_FRAG_MAX : Fld := ⟨HI_FRAG, 0, 8⟩
/-- `HI_TAGS`. -/
def HI_TAGS : Nat := 0x1000c
def HI_TAGS_PEAK_CLR : Fld := ⟨HI_TAGS, 31, 1⟩
def HI_TAGS_TAG_PEAK : Fld := ⟨HI_TAGS, 16, 11⟩
def HI_TAGS_TAGS_USED : Fld := ⟨HI_TAGS, 0, 11⟩
/-- `HI_CAPMEM`. -/
def HI_CAPMEM : Nat := 0x10010
def HI_CAPMEM_CAP_FREE : Fld := ⟨HI_CAPMEM, 16, 12⟩
def HI_CAPMEM_CAP_WAITERS : Fld := ⟨HI_CAPMEM, 0, 11⟩
/-- `HI_EVENT`. -/
def HI_EVENT : Nat := 0x10014
def HI_EVENT_DESC_CRC : Fld := ⟨HI_EVENT, 5, 1⟩
def HI_EVENT_EV_LOST : Fld := ⟨HI_EVENT, 4, 1⟩
def HI_EVENT_CAP_WAIT : Fld := ⟨HI_EVENT, 3, 1⟩
def HI_EVENT_TAG_FULL : Fld := ⟨HI_EVENT, 2, 1⟩
def HI_EVENT_ORPHANS : Fld := ⟨HI_EVENT, 1, 1⟩
def HI_EVENT_RING_ERR : Fld := ⟨HI_EVENT, 0, 1⟩
/-- `HI_EVENT_EN`. -/
def HI_EVENT_EN : Nat := 0x10018
def HI_EVENT_EN_DESC_CRC : Fld := ⟨HI_EVENT_EN, 5, 1⟩
def HI_EVENT_EN_EV_LOST : Fld := ⟨HI_EVENT_EN, 4, 1⟩
def HI_EVENT_EN_CAP_WAIT : Fld := ⟨HI_EVENT_EN, 3, 1⟩
def HI_EVENT_EN_TAG_FULL : Fld := ⟨HI_EVENT_EN, 2, 1⟩
def HI_EVENT_EN_ORPHANS : Fld := ⟨HI_EVENT_EN, 1, 1⟩
def HI_EVENT_EN_RING_ERR : Fld := ⟨HI_EVENT_EN, 0, 1⟩
/-- `HI_ERRVEC`. -/
def HI_ERRVEC : Nat := 0x1001c
def HI_ERRVEC_ERR_VEC : Fld := ⟨HI_ERRVEC, 0, 6⟩
/-- `HI_ORPHAN`. -/
def HI_ORPHAN : Nat := 0x10020
def HI_ORPHAN_ACK : Fld := ⟨HI_ORPHAN, 0, 1⟩
/-- `HI_EVLOST`. -/
def HI_EVLOST : Nat := 0x10024
def HI_EVLOST_LOST_EVT : Fld := ⟨HI_EVLOST, 16, 16⟩
def HI_EVLOST_LOST_TEL : Fld := ⟨HI_EVLOST, 0, 16⟩
/-- `HI_DCRCERR`. -/
def HI_DCRCERR : Nat := 0x10028
def HI_DCRCERR_DCRC_ERRS : Fld := ⟨HI_DCRCERR, 0, 16⟩
/-- `SQ_BASE_LO`. -/
def SQ_BASE_LO (n : Nat) : Nat := 0x11000 + 0x20 * n
def SQ_BASE_LO_BASE_LO (n : Nat) : Fld := ⟨SQ_BASE_LO n, 12, 20⟩
/-- `SQ_BASE_HI`. -/
def SQ_BASE_HI (n : Nat) : Nat := 0x11004 + 0x20 * n
def SQ_BASE_HI_BASE_HI (n : Nat) : Fld := ⟨SQ_BASE_HI n, 0, 32⟩
/-- `SQ_CFG`. -/
def SQ_CFG (n : Nat) : Nat := 0x11008 + 0x20 * n
def SQ_CFG_EN (n : Nat) : Fld := ⟨SQ_CFG n, 31, 1⟩
def SQ_CFG_CQID (n : Nat) : Fld := ⟨SQ_CFG n, 24, 4⟩
def SQ_CFG_LOG2SIZE (n : Nat) : Fld := ⟨SQ_CFG n, 16, 4⟩
def SQ_CFG_TAGMAX (n : Nat) : Fld := ⟨SQ_CFG n, 0, 11⟩
/-- `SQ_STATUS`. -/
def SQ_STATUS (n : Nat) : Nat := 0x1100c + 0x20 * n
def SQ_STATUS_ENABLED (n : Nat) : Fld := ⟨SQ_STATUS n, 31, 1⟩
def SQ_STATUS_IDLE (n : Nat) : Fld := ⟨SQ_STATUS n, 30, 1⟩
def SQ_STATUS_ERROR (n : Nat) : Fld := ⟨SQ_STATUS n, 29, 1⟩
def SQ_STATUS_ERR_KIND (n : Nat) : Fld := ⟨SQ_STATUS n, 24, 4⟩
def SQ_STATUS_HEAD (n : Nat) : Fld := ⟨SQ_STATUS n, 12, 12⟩
def SQ_STATUS_TAIL (n : Nat) : Fld := ⟨SQ_STATUS n, 0, 12⟩
/-- `SQ_INFLIGHT`. -/
def SQ_INFLIGHT (n : Nat) : Nat := 0x11010 + 0x20 * n
def SQ_INFLIGHT_HELD (n : Nat) : Fld := ⟨SQ_INFLIGHT n, 16, 11⟩
def SQ_INFLIGHT_TAGS (n : Nat) : Fld := ⟨SQ_INFLIGHT n, 0, 11⟩
/-- `SQ_COUNT`. -/
def SQ_COUNT (n : Nat) : Nat := 0x11014 + 0x20 * n
def SQ_COUNT_FETCHED (n : Nat) : Fld := ⟨SQ_COUNT n, 0, 32⟩
/-- `CQ_BASE_LO`. -/
def CQ_BASE_LO (n : Nat) : Nat := 0x11200 + 0x20 * n
def CQ_BASE_LO_BASE_LO (n : Nat) : Fld := ⟨CQ_BASE_LO n, 12, 20⟩
/-- `CQ_BASE_HI`. -/
def CQ_BASE_HI (n : Nat) : Nat := 0x11204 + 0x20 * n
def CQ_BASE_HI_BASE_HI (n : Nat) : Fld := ⟨CQ_BASE_HI n, 0, 32⟩
/-- `CQ_CFG`. -/
def CQ_CFG (n : Nat) : Nat := 0x11208 + 0x20 * n
def CQ_CFG_EN (n : Nat) : Fld := ⟨CQ_CFG n, 31, 1⟩
def CQ_CFG_LOG2SIZE (n : Nat) : Fld := ⟨CQ_CFG n, 16, 4⟩
/-- `CQ_IRQ`. -/
def CQ_IRQ (n : Nat) : Nat := 0x1120c + 0x20 * n
def CQ_IRQ_IEN (n : Nat) : Fld := ⟨CQ_IRQ n, 31, 1⟩
def CQ_IRQ_VEC (n : Nat) : Fld := ⟨CQ_IRQ n, 24, 6⟩
def CQ_IRQ_CNT (n : Nat) : Fld := ⟨CQ_IRQ n, 16, 8⟩
def CQ_IRQ_TIME (n : Nat) : Fld := ⟨CQ_IRQ n, 0, 16⟩
/-- `CQ_STATUS`. -/
def CQ_STATUS (n : Nat) : Nat := 0x11210 + 0x20 * n
def CQ_STATUS_ENABLED (n : Nat) : Fld := ⟨CQ_STATUS n, 31, 1⟩
def CQ_STATUS_FULL (n : Nat) : Fld := ⟨CQ_STATUS n, 30, 1⟩
def CQ_STATUS_ERROR (n : Nat) : Fld := ⟨CQ_STATUS n, 29, 1⟩
def CQ_STATUS_PHASE (n : Nat) : Fld := ⟨CQ_STATUS n, 28, 1⟩
def CQ_STATUS_ERR_KIND (n : Nat) : Fld := ⟨CQ_STATUS n, 24, 4⟩
def CQ_STATUS_HEAD (n : Nat) : Fld := ⟨CQ_STATUS n, 12, 12⟩
def CQ_STATUS_TAIL (n : Nat) : Fld := ⟨CQ_STATUS n, 0, 12⟩
/-- `EV_BASE_LO`. -/
def EV_BASE_LO (n : Nat) : Nat := 0x11400 + 0x20 * n
def EV_BASE_LO_BASE_LO (n : Nat) : Fld := ⟨EV_BASE_LO n, 12, 20⟩
/-- `EV_BASE_HI`. -/
def EV_BASE_HI (n : Nat) : Nat := 0x11404 + 0x20 * n
def EV_BASE_HI_BASE_HI (n : Nat) : Fld := ⟨EV_BASE_HI n, 0, 32⟩
/-- `EV_CFG`. -/
def EV_CFG (n : Nat) : Nat := 0x11408 + 0x20 * n
def EV_CFG_EN (n : Nat) : Fld := ⟨EV_CFG n, 31, 1⟩
def EV_CFG_LOG2SIZE (n : Nat) : Fld := ⟨EV_CFG n, 16, 4⟩
def EV_CFG_IEN (n : Nat) : Fld := ⟨EV_CFG n, 15, 1⟩
def EV_CFG_VEC (n : Nat) : Fld := ⟨EV_CFG n, 8, 6⟩
def EV_CFG_CNT (n : Nat) : Fld := ⟨EV_CFG n, 0, 8⟩
/-- `EV_STATUS`. -/
def EV_STATUS (n : Nat) : Nat := 0x1140c + 0x20 * n
def EV_STATUS_ENABLED (n : Nat) : Fld := ⟨EV_STATUS n, 31, 1⟩
def EV_STATUS_FULL (n : Nat) : Fld := ⟨EV_STATUS n, 30, 1⟩
def EV_STATUS_ERROR (n : Nat) : Fld := ⟨EV_STATUS n, 29, 1⟩
def EV_STATUS_PHASE (n : Nat) : Fld := ⟨EV_STATUS n, 28, 1⟩
def EV_STATUS_ERR_KIND (n : Nat) : Fld := ⟨EV_STATUS n, 24, 4⟩
def EV_STATUS_HEAD (n : Nat) : Fld := ⟨EV_STATUS n, 12, 12⟩
def EV_STATUS_TAIL (n : Nat) : Fld := ⟨EV_STATUS n, 0, 12⟩
/-- `PP_CTRL`. -/
def PP_CTRL : Nat := 0x20000
def PP_CTRL_LOCK : Fld := ⟨PP_CTRL, 31, 1⟩
def PP_CTRL_SAFE_EXIT : Fld := ⟨PP_CTRL, 3, 1⟩
def PP_CTRL_EXPORT_SHED : Fld := ⟨PP_CTRL, 2, 1⟩
def PP_CTRL_DROOP_EN : Fld := ⟨PP_CTRL, 1, 1⟩
/-- `PP_STATUS`. -/
def PP_STATUS : Nat := 0x20004
def PP_STATUS_ACTIVE : Fld := ⟨PP_STATUS, 28, 3⟩
def PP_STATUS_READY : Fld := ⟨PP_STATUS, 24, 4⟩
def PP_STATUS_GATE_HIZ : Fld := ⟨PP_STATUS, 20, 4⟩
def PP_STATUS_SAFE : Fld := ⟨PP_STATUS, 19, 1⟩
def PP_STATUS_DROOP : Fld := ⟨PP_STATUS, 18, 1⟩
def PP_STATUS_DEAD_BATT : Fld := ⟨PP_STATUS, 17, 1⟩
def PP_STATUS_OV_CLAMP : Fld := ⟨PP_STATUS, 16, 1⟩
def PP_STATUS_SUPPLY : Fld := ⟨PP_STATUS, 14, 2⟩
def PP_STATUS_ARM_ERR : Fld := ⟨PP_STATUS, 8, 3⟩
def PP_STATUS_ARMED : Fld := ⟨PP_STATUS, 0, 1⟩
/-- `PP_ARM`. -/
def PP_ARM : Nat := 0x20008
def PP_ARM_CMD : Fld := ⟨PP_ARM, 0, 2⟩
/-- `PP_PRIORITY`. -/
def PP_PRIORITY : Nat := 0x2000c
def PP_PRIORITY_RETURN_DLY : Fld := ⟨PP_PRIORITY, 16, 8⟩
def PP_PRIORITY_P3 : Fld := ⟨PP_PRIORITY, 12, 4⟩
def PP_PRIORITY_P2 : Fld := ⟨PP_PRIORITY, 8, 4⟩
def PP_PRIORITY_P1 : Fld := ⟨PP_PRIORITY, 4, 4⟩
def PP_PRIORITY_P0 : Fld := ⟨PP_PRIORITY, 0, 4⟩
/-- `PP_DROOP`. -/
def PP_DROOP : Nat := 0x20010
def PP_DROOP_V_ZERO : Fld := ⟨PP_DROOP, 16, 16⟩
def PP_DROOP_V_FULL : Fld := ⟨PP_DROOP, 0, 16⟩
/-- `PP_CBUS`. -/
def PP_CBUS : Nat := 0x20014
def PP_CBUS_OV : Fld := ⟨PP_CBUS, 16, 16⟩
def PP_CBUS_UV : Fld := ⟨PP_CBUS, 0, 16⟩
/-- `PP_EVENT`. -/
def PP_EVENT : Nat := 0x20018
def PP_EVENT_TRANSPORT_ABORT : Fld := ⟨PP_EVENT, 12, 1⟩
def PP_EVENT_SUPPLY_CHG : Fld := ⟨PP_EVENT, 11, 1⟩
def PP_EVENT_TL_TRIP : Fld := ⟨PP_EVENT, 10, 1⟩
def PP_EVENT_SAFE_ENTER : Fld := ⟨PP_EVENT, 9, 1⟩
def PP_EVENT_SOURCE_CHG : Fld := ⟨PP_EVENT, 8, 1⟩
def PP_EVENT_KNEE : Fld := ⟨PP_EVENT, 7, 1⟩
def PP_EVENT_DEAD_CLR : Fld := ⟨PP_EVENT, 6, 1⟩
def PP_EVENT_DEAD_SET : Fld := ⟨PP_EVENT, 5, 1⟩
def PP_EVENT_CBUS_OV : Fld := ⟨PP_EVENT, 4, 1⟩
def PP_EVENT_CBUS_UV : Fld := ⟨PP_EVENT, 3, 1⟩
def PP_EVENT_RETURN : Fld := ⟨PP_EVENT, 2, 1⟩
def PP_EVENT_NO_SOURCE : Fld := ⟨PP_EVENT, 1, 1⟩
def PP_EVENT_FALLBACK : Fld := ⟨PP_EVENT, 0, 1⟩
/-- `PP_EVENT_EN`. -/
def PP_EVENT_EN : Nat := 0x2001c
def PP_EVENT_EN_TRANSPORT_ABORT : Fld := ⟨PP_EVENT_EN, 12, 1⟩
def PP_EVENT_EN_SUPPLY_CHG : Fld := ⟨PP_EVENT_EN, 11, 1⟩
def PP_EVENT_EN_TL_TRIP : Fld := ⟨PP_EVENT_EN, 10, 1⟩
def PP_EVENT_EN_SAFE_ENTER : Fld := ⟨PP_EVENT_EN, 9, 1⟩
def PP_EVENT_EN_SOURCE_CHG : Fld := ⟨PP_EVENT_EN, 8, 1⟩
def PP_EVENT_EN_KNEE : Fld := ⟨PP_EVENT_EN, 7, 1⟩
def PP_EVENT_EN_DEAD_CLR : Fld := ⟨PP_EVENT_EN, 6, 1⟩
def PP_EVENT_EN_DEAD_SET : Fld := ⟨PP_EVENT_EN, 5, 1⟩
def PP_EVENT_EN_CBUS_OV : Fld := ⟨PP_EVENT_EN, 4, 1⟩
def PP_EVENT_EN_CBUS_UV : Fld := ⟨PP_EVENT_EN, 3, 1⟩
def PP_EVENT_EN_RETURN : Fld := ⟨PP_EVENT_EN, 2, 1⟩
def PP_EVENT_EN_NO_SOURCE : Fld := ⟨PP_EVENT_EN, 1, 1⟩
def PP_EVENT_EN_FALLBACK : Fld := ⟨PP_EVENT_EN, 0, 1⟩
/-- `PP_SWCOUNT`. -/
def PP_SWCOUNT : Nat := 0x20020
def PP_SWCOUNT_RETURNS : Fld := ⟨PP_SWCOUNT, 16, 16⟩
def PP_SWCOUNT_FALLBACKS : Fld := ⟨PP_SWCOUNT, 0, 16⟩
/-- `PP_CBSHUNT`. -/
def PP_CBSHUNT : Nat := 0x20040
def PP_CBSHUNT_SHUNT : Fld := ⟨PP_CBSHUNT, 16, 16⟩
def PP_CBSHUNT_V_RATIO : Fld := ⟨PP_CBSHUNT, 0, 16⟩
/-- `PP_CBITRIM`. -/
def PP_CBITRIM : Nat := 0x20044
def PP_CBITRIM_I_GAIN : Fld := ⟨PP_CBITRIM, 16, 16⟩
def PP_CBITRIM_I_OFFS : Fld := ⟨PP_CBITRIM, 0, 16⟩
/-- `PP_CBVTRIM`. -/
def PP_CBVTRIM : Nat := 0x20048
def PP_CBVTRIM_V_OFFS : Fld := ⟨PP_CBVTRIM, 0, 16⟩
/-- `PP_TLCFG`. -/
def PP_TLCFG (n : Nat) : Nat := 0x20100 + 0x8 * n
def PP_TLCFG_IHW (n : Nat) : Fld := ⟨PP_TLCFG n, 16, 16⟩
def PP_TLCFG_FSW (n : Nat) : Fld := ⟨PP_TLCFG n, 8, 8⟩
def PP_TLCFG_PRESENT (n : Nat) : Fld := ⟨PP_TLCFG n, 0, 1⟩
/-- `PP_TLSTAT`. -/
def PP_TLSTAT (n : Nat) : Nat := 0x20104 + 0x8 * n
def PP_TLSTAT_DIR (n : Nat) : Fld := ⟨PP_TLSTAT n, 30, 2⟩
def PP_TLSTAT_LIMITING (n : Nat) : Fld := ⟨PP_TLSTAT n, 29, 1⟩
def PP_TLSTAT_SHED (n : Nat) : Fld := ⟨PP_TLSTAT n, 28, 1⟩
def PP_TLSTAT_TRIPPED (n : Nat) : Fld := ⟨PP_TLSTAT n, 27, 1⟩
def PP_TLSTAT_ILIM (n : Nat) : Fld := ⟨PP_TLSTAT n, 0, 16⟩
/-- `PP_TLSHUNT`. -/
def PP_TLSHUNT (n : Nat) : Nat := 0x20200 + 0x10 * n
def PP_TLSHUNT_SHUNT (n : Nat) : Fld := ⟨PP_TLSHUNT n, 16, 16⟩
def PP_TLSHUNT_V_RATIO (n : Nat) : Fld := ⟨PP_TLSHUNT n, 0, 16⟩
/-- `PP_TLITRIM`. -/
def PP_TLITRIM (n : Nat) : Nat := 0x20204 + 0x10 * n
def PP_TLITRIM_I_GAIN (n : Nat) : Fld := ⟨PP_TLITRIM n, 16, 16⟩
def PP_TLITRIM_I_OFFS (n : Nat) : Fld := ⟨PP_TLITRIM n, 0, 16⟩
/-- `PP_TLVTRIM`. -/
def PP_TLVTRIM (n : Nat) : Nat := 0x20208 + 0x10 * n
def PP_TLVTRIM_V_OFFS (n : Nat) : Fld := ⟨PP_TLVTRIM n, 0, 16⟩
/-- `SP_CFG`. -/
def SP_CFG (n : Nat) : Nat := 0x21000 + 0x40 * n
def SP_CFG_QUAL (n : Nat) : Fld := ⟨SP_CFG n, 16, 8⟩
def SP_CFG_SEARCH_EN (n : Nat) : Fld := ⟨SP_CFG n, 8, 1⟩
def SP_CFG_KIND (n : Nat) : Fld := ⟨SP_CFG n, 4, 2⟩
def SP_CFG_MODE (n : Nat) : Fld := ⟨SP_CFG n, 0, 2⟩
/-- `SP_VTH`. -/
def SP_VTH (n : Nat) : Nat := 0x21004 + 0x40 * n
def SP_VTH_COLLAPSE (n : Nat) : Fld := ⟨SP_VTH n, 16, 16⟩
def SP_VTH_QUAL_MIN (n : Nat) : Fld := ⟨SP_VTH n, 0, 16⟩
/-- `SP_VTH2`. -/
def SP_VTH2 (n : Nat) : Nat := 0x21008 + 0x40 * n
def SP_VTH2_REV_TH (n : Nat) : Fld := ⟨SP_VTH2 n, 16, 16⟩
def SP_VTH2_QUAL_MAX (n : Nat) : Fld := ⟨SP_VTH2 n, 0, 16⟩
/-- `SP_SEARCH`. -/
def SP_SEARCH (n : Nat) : Nat := 0x2100c + 0x40 * n
def SP_SEARCH_IMAX (n : Nat) : Fld := ⟨SP_SEARCH n, 16, 16⟩
def SP_SEARCH_START_PCT (n : Nat) : Fld := ⟨SP_SEARCH n, 8, 8⟩
def SP_SEARCH_DROOP_PCT (n : Nat) : Fld := ⟨SP_SEARCH n, 0, 8⟩
/-- `SP_LIMIT`. -/
def SP_LIMIT (n : Nat) : Nat := 0x21010 + 0x40 * n
def SP_LIMIT_LIMIT (n : Nat) : Fld := ⟨SP_LIMIT n, 16, 16⟩
def SP_LIMIT_SSTATE (n : Nat) : Fld := ⟨SP_LIMIT n, 13, 3⟩
def SP_LIMIT_HELD_VALID (n : Nat) : Fld := ⟨SP_LIMIT n, 12, 1⟩
/-- `SP_VNL`. -/
def SP_VNL (n : Nat) : Nat := 0x21014 + 0x40 * n
def SP_VNL_VNL (n : Nat) : Fld := ⟨SP_VNL n, 0, 16⟩
/-- `SP_STATUS`. -/
def SP_STATUS (n : Nat) : Nat := 0x21018 + 0x40 * n
def SP_STATUS_LOCKOUT (n : Nat) : Fld := ⟨SP_STATUS n, 4, 1⟩
def SP_STATUS_READY (n : Nat) : Fld := ⟨SP_STATUS n, 3, 1⟩
def SP_STATUS_ACTIVE (n : Nat) : Fld := ⟨SP_STATUS n, 2, 1⟩
def SP_STATUS_BELOW_COLLAPSE (n : Nat) : Fld := ⟨SP_STATUS n, 1, 1⟩
def SP_STATUS_REVERSE (n : Nat) : Fld := ⟨SP_STATUS n, 0, 1⟩
/-- `SP_CMD`. -/
def SP_CMD (n : Nat) : Nat := 0x2101c + 0x40 * n
def SP_CMD_REPROBE (n : Nat) : Fld := ⟨SP_CMD n, 1, 1⟩
def SP_CMD_RESTART (n : Nat) : Fld := ⟨SP_CMD n, 0, 1⟩
/-- `SP_SHUNT`. -/
def SP_SHUNT (n : Nat) : Nat := 0x21020 + 0x40 * n
def SP_SHUNT_SHUNT (n : Nat) : Fld := ⟨SP_SHUNT n, 16, 16⟩
def SP_SHUNT_V_RATIO (n : Nat) : Fld := ⟨SP_SHUNT n, 0, 16⟩
/-- `SP_ITRIM`. -/
def SP_ITRIM (n : Nat) : Nat := 0x21024 + 0x40 * n
def SP_ITRIM_I_GAIN (n : Nat) : Fld := ⟨SP_ITRIM n, 16, 16⟩
def SP_ITRIM_I_OFFS (n : Nat) : Fld := ⟨SP_ITRIM n, 0, 16⟩
/-- `SP_VTRIM`. -/
def SP_VTRIM (n : Nat) : Nat := 0x21028 + 0x40 * n
def SP_VTRIM_V_OFFS (n : Nat) : Fld := ⟨SP_VTRIM n, 0, 16⟩
/-- `SP_LOCK`. -/
def SP_LOCK : Nat := 0x2103c
def SP_LOCK_LOCK : Fld := ⟨SP_LOCK, 0, 1⟩
/-- `TL_CFG`. -/
def TL_CFG (n : Nat) : Nat := 0x30000 + 0x400 * n
def TL_CFG_LOCK (n : Nat) : Fld := ⟨TL_CFG n, 31, 1⟩
def TL_CFG_PREF (n : Nat) : Fld := ⟨TL_CFG n, 2, 3⟩
def TL_CFG_LES_EN (n : Nat) : Fld := ⟨TL_CFG n, 1, 1⟩
def TL_CFG_EN (n : Nat) : Fld := ⟨TL_CFG n, 0, 1⟩
/-- `TL_ATTACH`. -/
def TL_ATTACH (n : Nat) : Nat := 0x30004 + 0x400 * n
def TL_ATTACH_ASTATE (n : Nat) : Fld := ⟨TL_ATTACH n, 28, 4⟩
def TL_ATTACH_PROLE (n : Nat) : Fld := ⟨TL_ATTACH n, 27, 1⟩
def TL_ATTACH_LROLE (n : Nat) : Fld := ⟨TL_ATTACH n, 26, 1⟩
def TL_ATTACH_LES_IN (n : Nat) : Fld := ⟨TL_ATTACH n, 25, 1⟩
def TL_ATTACH_LES_OUT (n : Nat) : Fld := ⟨TL_ATTACH n, 24, 1⟩
def TL_ATTACH_LCW_LVL (n : Nat) : Fld := ⟨TL_ATTACH n, 22, 2⟩
def TL_ATTACH_BOOT_SRC (n : Nat) : Fld := ⟨TL_ATTACH n, 21, 1⟩
def TL_ATTACH_ATT_COUNT (n : Nat) : Fld := ⟨TL_ATTACH n, 0, 16⟩
/-- `TL_LES`. -/
def TL_LES (n : Nat) : Nat := 0x30008 + 0x400 * n
def TL_LES_LES_V (n : Nat) : Fld := ⟨TL_LES n, 16, 16⟩
def TL_LES_LES_I (n : Nat) : Fld := ⟨TL_LES n, 8, 8⟩
def TL_LES_LES_FAULTS (n : Nat) : Fld := ⟨TL_LES n, 4, 4⟩
def TL_LES_LES_STATE (n : Nat) : Fld := ⟨TL_LES n, 0, 2⟩
/-- `TL_EVENT`. -/
def TL_EVENT (n : Nat) : Nat := 0x3000c + 0x400 * n
def TL_EVENT_SOFT_RESET (n : Nat) : Fld := ⟨TL_EVENT n, 6, 1⟩
def TL_EVENT_BAD_FRAME (n : Nat) : Fld := ⟨TL_EVENT n, 5, 1⟩
def TL_EVENT_TX_FAIL (n : Nat) : Fld := ⟨TL_EVENT n, 4, 1⟩
def TL_EVENT_LES_BACKFEED (n : Nat) : Fld := ⟨TL_EVENT n, 3, 1⟩
def TL_EVENT_LES_FAULT (n : Nat) : Fld := ⟨TL_EVENT n, 2, 1⟩
def TL_EVENT_DETACH (n : Nat) : Fld := ⟨TL_EVENT n, 1, 1⟩
def TL_EVENT_ATTACH (n : Nat) : Fld := ⟨TL_EVENT n, 0, 1⟩
/-- `TL_EVENT_EN`. -/
def TL_EVENT_EN (n : Nat) : Nat := 0x30010 + 0x400 * n
def TL_EVENT_EN_SOFT_RESET (n : Nat) : Fld := ⟨TL_EVENT_EN n, 6, 1⟩
def TL_EVENT_EN_BAD_FRAME (n : Nat) : Fld := ⟨TL_EVENT_EN n, 5, 1⟩
def TL_EVENT_EN_TX_FAIL (n : Nat) : Fld := ⟨TL_EVENT_EN n, 4, 1⟩
def TL_EVENT_EN_LES_BACKFEED (n : Nat) : Fld := ⟨TL_EVENT_EN n, 3, 1⟩
def TL_EVENT_EN_LES_FAULT (n : Nat) : Fld := ⟨TL_EVENT_EN n, 2, 1⟩
def TL_EVENT_EN_DETACH (n : Nat) : Fld := ⟨TL_EVENT_EN n, 1, 1⟩
def TL_EVENT_EN_ATTACH (n : Nat) : Fld := ⟨TL_EVENT_EN n, 0, 1⟩
/-- `TL_ERRS`. -/
def TL_ERRS (n : Nat) : Nat := 0x30014 + 0x400 * n
def TL_ERRS_CRC_ERRS (n : Nat) : Fld := ⟨TL_ERRS n, 16, 16⟩
def TL_ERRS_FRAME_ERRS (n : Nat) : Fld := ⟨TL_ERRS n, 8, 8⟩
def TL_ERRS_TX_FAILS (n : Nat) : Fld := ⟨TL_ERRS n, 0, 8⟩
/-- `TL_CCTRL`. -/
def TL_CCTRL (n : Nat) : Nat := 0x30018 + 0x400 * n
def TL_CCTRL_MODE_EN (n : Nat) : Fld := ⟨TL_CCTRL n, 20, 3⟩
def TL_CCTRL_VDM_PASS (n : Nat) : Fld := ⟨TL_CCTRL n, 16, 1⟩
def TL_CCTRL_RA_ACC (n : Nat) : Fld := ⟨TL_CCTRL n, 14, 2⟩
def TL_CCTRL_LSW_ACC (n : Nat) : Fld := ⟨TL_CCTRL n, 12, 2⟩
def TL_CCTRL_REQ_ACC (n : Nat) : Fld := ⟨TL_CCTRL n, 10, 2⟩
/-- `TL_CSTATE`. -/
def TL_CSTATE (n : Nat) : Nat := 0x3001c + 0x400 * n
def TL_CSTATE_CSTATE (n : Nat) : Fld := ⟨TL_CSTATE n, 28, 4⟩
def TL_CSTATE_HOST_LOST (n : Nat) : Fld := ⟨TL_CSTATE n, 27, 1⟩
def TL_CSTATE_STANDING (n : Nat) : Fld := ⟨TL_CSTATE n, 26, 1⟩
def TL_CSTATE_TRIP_LOCK (n : Nat) : Fld := ⟨TL_CSTATE n, 25, 1⟩
def TL_CSTATE_MODES (n : Nat) : Fld := ⟨TL_CSTATE n, 22, 3⟩
def TL_CSTATE_PID_VALID (n : Nat) : Fld := ⟨TL_CSTATE n, 21, 1⟩
def TL_CSTATE_HREQ (n : Nat) : Fld := ⟨TL_CSTATE n, 20, 1⟩
def TL_CSTATE_KA_AGE (n : Nat) : Fld := ⟨TL_CSTATE n, 0, 16⟩
/-- `TL_CONTRACT`. -/
def TL_CONTRACT (n : Nat) : Nat := 0x30020 + 0x400 * n
def TL_CONTRACT_CV (n : Nat) : Fld := ⟨TL_CONTRACT n, 16, 16⟩
def TL_CONTRACT_CI (n : Nat) : Fld := ⟨TL_CONTRACT n, 0, 16⟩
/-- `TL_REQ`. -/
def TL_REQ (n : Nat) : Nat := 0x30024 + 0x400 * n
def TL_REQ_HV (n : Nat) : Fld := ⟨TL_REQ n, 16, 16⟩
def TL_REQ_HI (n : Nat) : Fld := ⟨TL_REQ n, 0, 16⟩
/-- `TL_REVREQ`. -/
def TL_REVREQ (n : Nat) : Nat := 0x30028 + 0x400 * n
def TL_REVREQ_SV (n : Nat) : Fld := ⟨TL_REVREQ n, 16, 16⟩
def TL_REVREQ_SI (n : Nat) : Fld := ⟨TL_REVREQ n, 0, 16⟩
/-- `TL_CAPSi`: advertised capability object i (R342). -/
def TL_CAPS (n i : Nat) : Nat := 0x3002c + 0x400 * n + 4 * i
/-- `TL_LINKID`. -/
def TL_LINKID (n : Nat) : Nat := 0x30044 + 0x400 * n
def TL_LINKID_LINK_ID (n : Nat) : Fld := ⟨TL_LINKID n, 0, 32⟩
/-- `TL_PLINKID`. -/
def TL_PLINKID (n : Nat) : Nat := 0x30048 + 0x400 * n
def TL_PLINKID_PLINK_ID (n : Nat) : Fld := ⟨TL_PLINKID n, 0, 32⟩
/-- `TL_HOLD`. -/
def TL_HOLD (n : Nat) : Nat := 0x3004c + 0x400 * n
def TL_HOLD_HOLD_S (n : Nat) : Fld := ⟨TL_HOLD n, 0, 16⟩
/-- `TL_CEVENT`. -/
def TL_CEVENT (n : Nat) : Nat := 0x30050 + 0x400 * n
def TL_CEVENT_TRIP_LOCK (n : Nat) : Fld := ⟨TL_CEVENT n, 12, 1⟩
def TL_CEVENT_TUNNEL_DOWN (n : Nat) : Fld := ⟨TL_CEVENT n, 11, 1⟩
def TL_CEVENT_DIGEST_DIFF (n : Nat) : Fld := ⟨TL_CEVENT n, 10, 1⟩
def TL_CEVENT_MODE_CHG (n : Nat) : Fld := ⟨TL_CEVENT n, 9, 1⟩
def TL_CEVENT_VDM_RX (n : Nat) : Fld := ⟨TL_CEVENT n, 8, 1⟩
def TL_CEVENT_LSWAP_LOST (n : Nat) : Fld := ⟨TL_CEVENT n, 7, 1⟩
def TL_CEVENT_LSWAP_DONE (n : Nat) : Fld := ⟨TL_CEVENT n, 6, 1⟩
def TL_CEVENT_HOLD_END (n : Nat) : Fld := ⟨TL_CEVENT n, 5, 1⟩
def TL_CEVENT_REQ_PENDING (n : Nat) : Fld := ⟨TL_CEVENT n, 4, 1⟩
def TL_CEVENT_NO_MATCH (n : Nat) : Fld := ⟨TL_CEVENT n, 3, 1⟩
def TL_CEVENT_REJECTED (n : Nat) : Fld := ⟨TL_CEVENT n, 2, 1⟩
def TL_CEVENT_DEFAULTED (n : Nat) : Fld := ⟨TL_CEVENT n, 1, 1⟩
def TL_CEVENT_CONTRACT (n : Nat) : Fld := ⟨TL_CEVENT n, 0, 1⟩
/-- `TL_CEVENT_EN`. -/
def TL_CEVENT_EN (n : Nat) : Nat := 0x30054 + 0x400 * n
def TL_CEVENT_EN_TRIP_LOCK (n : Nat) : Fld := ⟨TL_CEVENT_EN n, 12, 1⟩
def TL_CEVENT_EN_TUNNEL_DOWN (n : Nat) : Fld := ⟨TL_CEVENT_EN n, 11, 1⟩
def TL_CEVENT_EN_DIGEST_DIFF (n : Nat) : Fld := ⟨TL_CEVENT_EN n, 10, 1⟩
def TL_CEVENT_EN_MODE_CHG (n : Nat) : Fld := ⟨TL_CEVENT_EN n, 9, 1⟩
def TL_CEVENT_EN_VDM_RX (n : Nat) : Fld := ⟨TL_CEVENT_EN n, 8, 1⟩
def TL_CEVENT_EN_LSWAP_LOST (n : Nat) : Fld := ⟨TL_CEVENT_EN n, 7, 1⟩
def TL_CEVENT_EN_LSWAP_DONE (n : Nat) : Fld := ⟨TL_CEVENT_EN n, 6, 1⟩
def TL_CEVENT_EN_HOLD_END (n : Nat) : Fld := ⟨TL_CEVENT_EN n, 5, 1⟩
def TL_CEVENT_EN_REQ_PENDING (n : Nat) : Fld := ⟨TL_CEVENT_EN n, 4, 1⟩
def TL_CEVENT_EN_NO_MATCH (n : Nat) : Fld := ⟨TL_CEVENT_EN n, 3, 1⟩
def TL_CEVENT_EN_REJECTED (n : Nat) : Fld := ⟨TL_CEVENT_EN n, 2, 1⟩
def TL_CEVENT_EN_DEFAULTED (n : Nat) : Fld := ⟨TL_CEVENT_EN n, 1, 1⟩
def TL_CEVENT_EN_CONTRACT (n : Nat) : Fld := ⟨TL_CEVENT_EN n, 0, 1⟩
/-- `TL_TSOFS`. -/
def TL_TSOFS (n : Nat) : Nat := 0x30058 + 0x400 * n
def TL_TSOFS_TSOFS (n : Nat) : Fld := ⟨TL_TSOFS n, 0, 32⟩
/-- `TL_FLEET`. -/
def TL_FLEET (n : Nat) : Nat := 0x3005c + 0x400 * n
def TL_FLEET_P_EXP_I (n : Nat) : Fld := ⟨TL_FLEET n, 16, 16⟩
def TL_FLEET_P_RES_OK (n : Nat) : Fld := ⟨TL_FLEET n, 15, 1⟩
def TL_FLEET_F_AGE (n : Nat) : Fld := ⟨TL_FLEET n, 0, 15⟩
/-- `WD_CTRL`. -/
def WD_CTRL : Nat := 0x40000
def WD_CTRL_LOCK : Fld := ⟨WD_CTRL, 31, 1⟩
def WD_CTRL_START : Fld := ⟨WD_CTRL, 0, 1⟩
/-- `WD_CFG`. -/
def WD_CFG : Nat := 0x40004
def WD_CFG_FAIL_MAX : Fld := ⟨WD_CFG, 16, 8⟩
def WD_CFG_BOOT_S : Fld := ⟨WD_CFG, 0, 16⟩
/-- `WD_PERIOD`. -/
def WD_PERIOD : Nat := 0x40008
def WD_PERIOD_WIN_PCT : Fld := ⟨WD_PERIOD, 16, 8⟩
def WD_PERIOD_PERIOD : Fld := ⟨WD_PERIOD, 0, 16⟩
/-- `WD_KEY`. -/
def WD_KEY : Nat := 0x4000c
def WD_KEY_KA : Fld := ⟨WD_KEY, 16, 16⟩
def WD_KEY_KB : Fld := ⟨WD_KEY, 0, 16⟩
/-- `WD_QUESTION`. -/
def WD_QUESTION : Nat := 0x40010
def WD_QUESTION_Q : Fld := ⟨WD_QUESTION, 0, 16⟩
/-- `WD_ANSWER`. -/
def WD_ANSWER : Nat := 0x40014
def WD_ANSWER_TOKEN : Fld := ⟨WD_ANSWER, 0, 16⟩
/-- `WD_STATUS`. -/
def WD_STATUS : Nat := 0x40018
def WD_STATUS_STATE : Fld := ⟨WD_STATUS, 28, 4⟩
def WD_STATUS_OPEN : Fld := ⟨WD_STATUS, 27, 1⟩
def WD_STATUS_FROZEN : Fld := ⟨WD_STATUS, 26, 1⟩
def WD_STATUS_WDSTART : Fld := ⟨WD_STATUS, 25, 1⟩
def WD_STATUS_WDDBG : Fld := ⟨WD_STATUS, 24, 1⟩
def WD_STATUS_CONSEC : Fld := ⟨WD_STATUS, 16, 8⟩
def WD_STATUS_TIME_LEFT : Fld := ⟨WD_STATUS, 0, 16⟩
/-- `WD_EVENT`. -/
def WD_EVENT : Nat := 0x4001c
def WD_EVENT_BOOT_ENTER : Fld := ⟨WD_EVENT, 3, 1⟩
def WD_EVENT_GIVE_UP : Fld := ⟨WD_EVENT, 2, 1⟩
def WD_EVENT_PER_REJ : Fld := ⟨WD_EVENT, 1, 1⟩
def WD_EVENT_FAIL : Fld := ⟨WD_EVENT, 0, 1⟩
/-- `WD_EVENT_EN`. -/
def WD_EVENT_EN : Nat := 0x40020
def WD_EVENT_EN_BOOT_ENTER : Fld := ⟨WD_EVENT_EN, 3, 1⟩
def WD_EVENT_EN_GIVE_UP : Fld := ⟨WD_EVENT_EN, 2, 1⟩
def WD_EVENT_EN_PER_REJ : Fld := ⟨WD_EVENT_EN, 1, 1⟩
def WD_EVENT_EN_FAIL : Fld := ⟨WD_EVENT_EN, 0, 1⟩
/-- `WD_COUNTS`. -/
def WD_COUNTS : Nat := 0x40024
def WD_COUNTS_HRST_COUNT : Fld := ⟨WD_COUNTS, 16, 16⟩
def WD_COUNTS_LAST_FAIL : Fld := ⟨WD_COUNTS, 12, 4⟩
/-- `WD_NOW`. -/
def WD_NOW : Nat := 0x40028
def WD_NOW_WIN_NOW : Fld := ⟨WD_NOW, 16, 8⟩
def WD_NOW_PERIOD_NOW : Fld := ⟨WD_NOW, 0, 16⟩
/-- `SV_CTRL`. -/
def SV_CTRL : Nat := 0x70000
def SV_CTRL_LOCK : Fld := ⟨SV_CTRL, 31, 1⟩
def SV_CTRL_SWAP_EN : Fld := ⟨SV_CTRL, 16, 1⟩
def SV_CTRL_SWAP : Fld := ⟨SV_CTRL, 0, 16⟩
/-- `SV_STATUS`. -/
def SV_STATUS : Nat := 0x70004
def SV_STATUS_ACTIVE_SV : Fld := ⟨SV_STATUS, 31, 1⟩
def SV_STATUS_STANDBY_OK : Fld := ⟨SV_STATUS, 30, 1⟩
def SV_STATUS_A_STATE : Fld := ⟨SV_STATUS, 27, 3⟩
def SV_STATUS_B_STATE : Fld := ⟨SV_STATUS, 24, 3⟩
def SV_STATUS_CKPT_AGE : Fld := ⟨SV_STATUS, 16, 8⟩
/-- `SV_CKPT`. -/
def SV_CKPT : Nat := 0x70008
def SV_CKPT_CKPT_EPOCH : Fld := ⟨SV_CKPT, 0, 32⟩
/-- `SV_EVENT`. -/
def SV_EVENT : Nat := 0x7000c
def SV_EVENT_STANDBY_READY : Fld := ⟨SV_EVENT, 4, 1⟩
def SV_EVENT_CKPT_LATE : Fld := ⟨SV_EVENT, 3, 1⟩
def SV_EVENT_SV_RESTART : Fld := ⟨SV_EVENT, 2, 1⟩
def SV_EVENT_SV_LOST : Fld := ⟨SV_EVENT, 1, 1⟩
def SV_EVENT_SWITCH : Fld := ⟨SV_EVENT, 0, 1⟩
/-- `SV_EVENT_EN`. -/
def SV_EVENT_EN : Nat := 0x70010
def SV_EVENT_EN_STANDBY_READY : Fld := ⟨SV_EVENT_EN, 4, 1⟩
def SV_EVENT_EN_CKPT_LATE : Fld := ⟨SV_EVENT_EN, 3, 1⟩
def SV_EVENT_EN_SV_RESTART : Fld := ⟨SV_EVENT_EN, 2, 1⟩
def SV_EVENT_EN_SV_LOST : Fld := ⟨SV_EVENT_EN, 1, 1⟩
def SV_EVENT_EN_SWITCH : Fld := ⟨SV_EVENT_EN, 0, 1⟩
/-- `SV_COUNTS`. -/
def SV_COUNTS : Nat := 0x70014
def SV_COUNTS_SWITCHES : Fld := ⟨SV_COUNTS, 16, 16⟩
def SV_COUNTS_FAILS_A : Fld := ⟨SV_COUNTS, 8, 8⟩
def SV_COUNTS_FAILS_B : Fld := ⟨SV_COUNTS, 0, 8⟩
/-- `SV_CKERR`. -/
def SV_CKERR : Nat := 0x70018
def SV_CKERR_CKPT_BAD : Fld := ⟨SV_CKERR, 16, 16⟩
def SV_CKERR_CKPT_LATE : Fld := ⟨SV_CKERR, 0, 16⟩
/-- `SV_SWTIME_LO`. -/
def SV_SWTIME_LO : Nat := 0x7001c
def SV_SWTIME_LO_SWTIME : Fld := ⟨SV_SWTIME_LO, 0, 32⟩
/-- `SV_SWTIME_HI`. -/
def SV_SWTIME_HI : Nat := 0x70020
def SV_SWTIME_HI_SWTIME : Fld := ⟨SV_SWTIME_HI, 0, 32⟩
/-- `SV_CAUSE`. -/
def SV_CAUSE : Nat := 0x70024
def SV_CAUSE_CAUSE : Fld := ⟨SV_CAUSE, 28, 4⟩
def SV_CAUSE_FAILED_SV : Fld := ⟨SV_CAUSE, 27, 1⟩
/-- `FC_CTRL`. -/
def FC_CTRL : Nat := 0x41000
def FC_CTRL_LOCK : Fld := ⟨FC_CTRL, 31, 1⟩
def FC_CTRL_INJ_EN : Fld := ⟨FC_CTRL, 1, 1⟩
def FC_CTRL_FF_NOTE : Fld := ⟨FC_CTRL, 0, 1⟩
/-- `FC_STATUS`. -/
def FC_STATUS : Nat := 0x41004
def FC_STATUS_REPLACE : Fld := ⟨FC_STATUS, 31, 1⟩
def FC_STATUS_FF_VALID : Fld := ⟨FC_STATUS, 30, 1⟩
def FC_STATUS_ARMED : Fld := ⟨FC_STATUS, 29, 1⟩
def FC_STATUS_PINS : Fld := ⟨FC_STATUS, 24, 5⟩
def FC_STATUS_BANKS_OFF : Fld := ⟨FC_STATUS, 16, 8⟩
def FC_STATUS_LOGQ : Fld := ⟨FC_STATUS, 0, 10⟩
/-- `FC_EVENT`. -/
def FC_EVENT : Nat := 0x41008
def FC_EVENT_ESC_OVF : Fld := ⟨FC_EVENT, 9, 1⟩
def FC_EVENT_INJ_DONE : Fld := ⟨FC_EVENT, 8, 1⟩
def FC_EVENT_BB_UNREADABLE : Fld := ⟨FC_EVENT, 7, 1⟩
def FC_EVENT_BB_REPAIR : Fld := ⟨FC_EVENT, 6, 1⟩
def FC_EVENT_LOG_LOST : Fld := ⟨FC_EVENT, 5, 1⟩
def FC_EVENT_PIN_FULL : Fld := ⟨FC_EVENT, 4, 1⟩
def FC_EVENT_PP_SAFE : Fld := ⟨FC_EVENT, 3, 1⟩
def FC_EVENT_RHOLD : Fld := ⟨FC_EVENT, 2, 1⟩
def FC_EVENT_REPLACE : Fld := ⟨FC_EVENT, 1, 1⟩
def FC_EVENT_FIRST : Fld := ⟨FC_EVENT, 0, 1⟩
/-- `FC_EVENT_EN`. -/
def FC_EVENT_EN : Nat := 0x4100c
def FC_EVENT_EN_ESC_OVF : Fld := ⟨FC_EVENT_EN, 9, 1⟩
def FC_EVENT_EN_INJ_DONE : Fld := ⟨FC_EVENT_EN, 8, 1⟩
def FC_EVENT_EN_BB_UNREADABLE : Fld := ⟨FC_EVENT_EN, 7, 1⟩
def FC_EVENT_EN_BB_REPAIR : Fld := ⟨FC_EVENT_EN, 6, 1⟩
def FC_EVENT_EN_LOG_LOST : Fld := ⟨FC_EVENT_EN, 5, 1⟩
def FC_EVENT_EN_PIN_FULL : Fld := ⟨FC_EVENT_EN, 4, 1⟩
def FC_EVENT_EN_PP_SAFE : Fld := ⟨FC_EVENT_EN, 3, 1⟩
def FC_EVENT_EN_RHOLD : Fld := ⟨FC_EVENT_EN, 2, 1⟩
def FC_EVENT_EN_REPLACE : Fld := ⟨FC_EVENT_EN, 1, 1⟩
def FC_EVENT_EN_FIRST : Fld := ⟨FC_EVENT_EN, 0, 1⟩
/-- `FC_FIRST_LO`. -/
def FC_FIRST_LO : Nat := 0x41010
def FC_FIRST_LO_FIRST_MSG : Fld := ⟨FC_FIRST_LO, 0, 32⟩
/-- `FC_FIRST_HI`. -/
def FC_FIRST_HI : Nat := 0x41014
def FC_FIRST_HI_FIRST_MSG : Fld := ⟨FC_FIRST_HI, 0, 32⟩
/-- `FC_FIRST_TLO`. -/
def FC_FIRST_TLO : Nat := 0x41018
def FC_FIRST_TLO_FIRST_TIME : Fld := ⟨FC_FIRST_TLO, 0, 32⟩
/-- `FC_FIRST_THI`. -/
def FC_FIRST_THI : Nat := 0x4101c
def FC_FIRST_THI_FIRST_TIME : Fld := ⟨FC_FIRST_THI, 0, 32⟩
/-- `FC_FIRST_SEQ`. -/
def FC_FIRST_SEQ : Nat := 0x41020
def FC_FIRST_SEQ_FIRST_SEQ : Fld := ⟨FC_FIRST_SEQ, 0, 32⟩
/-- `FC_SIMUL_LO`. -/
def FC_SIMUL_LO : Nat := 0x41024
def FC_SIMUL_LO_SIMUL_MSG : Fld := ⟨FC_SIMUL_LO, 0, 32⟩
/-- `FC_SIMUL_HI`. -/
def FC_SIMUL_HI : Nat := 0x41028
def FC_SIMUL_HI_SIMUL_MSG : Fld := ⟨FC_SIMUL_HI, 0, 32⟩
/-- `FC_FIRST_INFO`. -/
def FC_FIRST_INFO : Nat := 0x4102c
def FC_FIRST_INFO_NSIM : Fld := ⟨FC_FIRST_INFO, 24, 8⟩
/-- `FC_REPLACE`. -/
def FC_REPLACE : Nat := 0x41030
def FC_REPLACE_CAUSES : Fld := ⟨FC_REPLACE, 0, 7⟩
/-- `FC_CE`. -/
def FC_CE : Nat := 0x41034
def FC_CE_CE_TH : Fld := ⟨FC_CE, 16, 16⟩
def FC_CE_CE_HOUR : Fld := ⟨FC_CE, 0, 16⟩
/-- `FC_BB`. -/
def FC_BB : Nat := 0x41038
def FC_BB_SKIPPED : Fld := ⟨FC_BB, 16, 16⟩
def FC_BB_BB_WEAR : Fld := ⟨FC_BB, 0, 10⟩
/-- `FC_BBSEQ`. -/
def FC_BBSEQ : Nat := 0x4103c
def FC_BBSEQ_LAST_SEQ : Fld := ⟨FC_BBSEQ, 0, 32⟩
/-- `FC_BBERR`. -/
def FC_BBERR : Nat := 0x41040
def FC_BBERR_CHECK_ONLY : Fld := ⟨FC_BBERR, 16, 16⟩
def FC_BBERR_DATA_REPAIR : Fld := ⟨FC_BBERR, 0, 16⟩
/-- `FC_BBERR2`. -/
def FC_BBERR2 : Nat := 0x41044
def FC_BBERR2_UNREADABLE : Fld := ⟨FC_BBERR2, 16, 16⟩
def FC_BBERR2_INCOMPLETE : Fld := ⟨FC_BBERR2, 0, 16⟩
/-- `FC_MSG0`. -/
def FC_MSG0 : Nat := 0x41048
def FC_MSG0_NOTES : Fld := ⟨FC_MSG0, 16, 16⟩
def FC_MSG0_MINORS : Fld := ⟨FC_MSG0, 0, 16⟩
/-- `FC_MSG1`. -/
def FC_MSG1 : Nat := 0x4104c
def FC_MSG1_MAJORS : Fld := ⟨FC_MSG1, 16, 16⟩
def FC_MSG1_CRITICALS : Fld := ⟨FC_MSG1, 0, 16⟩
/-- `FC_LOST`. -/
def FC_LOST : Nat := 0x41050
def FC_LOST_SUMMARISED : Fld := ⟨FC_LOST, 16, 16⟩
def FC_LOST_ESC_OVF : Fld := ⟨FC_LOST, 0, 16⟩
/-- `FC_INJKEY`. -/
def FC_INJKEY : Nat := 0x41054
def FC_INJKEY_KEY : Fld := ⟨FC_INJKEY, 0, 32⟩
/-- `FC_INJ`. -/
def FC_INJ : Nat := 0x41058
def FC_INJ_CHECKER : Fld := ⟨FC_INJ, 28, 4⟩
def FC_INJ_ARM_LEFT : Fld := ⟨FC_INJ, 16, 12⟩
def FC_INJ_INJ_LEFT : Fld := ⟨FC_INJ, 0, 16⟩
/-- `FC_UNPIN`. -/
def FC_UNPIN : Nat := 0x4105c
def FC_UNPIN_SEQ : Fld := ⟨FC_UNPIN, 0, 32⟩
/-- `FC_RHOLD`. -/
def FC_RHOLD : Nat := 0x41060
def FC_RHOLD_RELEASE : Fld := ⟨FC_RHOLD, 4, 4⟩
def FC_RHOLD_RHELD : Fld := ⟨FC_RHOLD, 0, 4⟩
/-- `FC_ESCUSE`. -/
def FC_ESCUSE : Nat := 0x41064
def FC_ESCUSE_ESC_USED : Fld := ⟨FC_ESCUSE, 0, 11⟩
/-- `FC_KIND`. -/
def FC_KIND (n : Nat) : Nat := 0x41100 + 0x4 * n
def FC_KIND_R_CRIT (n : Nat) : Fld := ⟨FC_KIND n, 26, 6⟩
def FC_KIND_R_MAJ (n : Nat) : Fld := ⟨FC_KIND n, 20, 6⟩
def FC_KIND_R_MIN (n : Nat) : Fld := ⟨FC_KIND n, 14, 6⟩
def FC_KIND_ESC_N (n : Nat) : Fld := ⟨FC_KIND n, 8, 6⟩
def FC_KIND_ESC_T (n : Nat) : Fld := ⟨FC_KIND n, 4, 4⟩
def FC_KIND_NOTE_LOG (n : Nat) : Fld := ⟨FC_KIND n, 3, 1⟩
def FC_KIND_NOTE_IRQ (n : Nat) : Fld := ⟨FC_KIND n, 2, 1⟩
/-- `TRC_CTRL`. -/
def TRC_CTRL : Nat := 0x50000
def TRC_CTRL_LOCK : Fld := ⟨TRC_CTRL, 31, 1⟩
def TRC_CTRL_CLASS_EN : Fld := ⟨TRC_CTRL, 8, 8⟩
def TRC_CTRL_RESUME : Fld := ⟨TRC_CTRL, 5, 1⟩
def TRC_CTRL_PORT_EN : Fld := ⟨TRC_CTRL, 4, 1⟩
def TRC_CTRL_HOST_EN : Fld := ⟨TRC_CTRL, 3, 1⟩
def TRC_CTRL_FREEZE_FF : Fld := ⟨TRC_CTRL, 2, 1⟩
def TRC_CTRL_MODE : Fld := ⟨TRC_CTRL, 1, 1⟩
def TRC_CTRL_EN : Fld := ⟨TRC_CTRL, 0, 1⟩
/-- `TRC_STATUS`. -/
def TRC_STATUS : Nat := 0x50004
def TRC_STATUS_FROZEN : Fld := ⟨TRC_STATUS, 31, 1⟩
def TRC_STATUS_FULL : Fld := ⟨TRC_STATUS, 30, 1⟩
def TRC_STATUS_L1_PAUSE : Fld := ⟨TRC_STATUS, 29, 1⟩
def TRC_STATUS_HOST_STALL : Fld := ⟨TRC_STATUS, 28, 1⟩
def TRC_STATUS_WRAPPED : Fld := ⟨TRC_STATUS, 27, 1⟩
def TRC_STATUS_WR_IDX : Fld := ⟨TRC_STATUS, 0, 17⟩
/-- `TRC_LOST`. -/
def TRC_LOST : Nat := 0x50008
def TRC_LOST_LOST : Fld := ⟨TRC_LOST, 0, 32⟩
/-- `TRC_HBASE_LO`. -/
def TRC_HBASE_LO : Nat := 0x5000c
def TRC_HBASE_LO_BASE_LO : Fld := ⟨TRC_HBASE_LO, 12, 20⟩
/-- `TRC_HBASE_HI`. -/
def TRC_HBASE_HI : Nat := 0x50010
def TRC_HBASE_HI_BASE_HI : Fld := ⟨TRC_HBASE_HI, 0, 32⟩
/-- `TRC_HCFG`. -/
def TRC_HCFG : Nat := 0x50014
def TRC_HCFG_LOG2KB : Fld := ⟨TRC_HCFG, 0, 5⟩
/-- `TRC_HWR`. -/
def TRC_HWR : Nat := 0x50018
def TRC_HWR_HWR : Fld := ⟨TRC_HWR, 0, 32⟩
/-- `TRC_HRD`. -/
def TRC_HRD : Nat := 0x5001c
def TRC_HRD_HRD : Fld := ⟨TRC_HRD, 0, 32⟩
/-- `TRC_EVENT`. -/
def TRC_EVENT : Nat := 0x50020
def TRC_EVENT_GAP : Fld := ⟨TRC_EVENT, 4, 1⟩
def TRC_EVENT_HALF : Fld := ⟨TRC_EVENT, 3, 1⟩
def TRC_EVENT_FROZEN : Fld := ⟨TRC_EVENT, 2, 1⟩
def TRC_EVENT_FULL : Fld := ⟨TRC_EVENT, 1, 1⟩
def TRC_EVENT_LOST : Fld := ⟨TRC_EVENT, 0, 1⟩
/-- `TRC_EVENT_EN`. -/
def TRC_EVENT_EN : Nat := 0x50024
def TRC_EVENT_EN_GAP : Fld := ⟨TRC_EVENT_EN, 4, 1⟩
def TRC_EVENT_EN_HALF : Fld := ⟨TRC_EVENT_EN, 3, 1⟩
def TRC_EVENT_EN_FROZEN : Fld := ⟨TRC_EVENT_EN, 2, 1⟩
def TRC_EVENT_EN_FULL : Fld := ⟨TRC_EVENT_EN, 1, 1⟩
def TRC_EVENT_EN_LOST : Fld := ⟨TRC_EVENT_EN, 0, 1⟩
/-- `TRC_FREEZE`. -/
def TRC_FREEZE : Nat := 0x50028
def TRC_FREEZE_POST : Fld := ⟨TRC_FREEZE, 0, 17⟩
/-- `TRC_SKIP`. -/
def TRC_SKIP : Nat := 0x5002c
def TRC_SKIP_HOST_SKIP : Fld := ⟨TRC_SKIP, 16, 16⟩
def TRC_SKIP_PORT_SKIP : Fld := ⟨TRC_SKIP, 0, 16⟩
/-- `TRC_AONQ`. -/
def TRC_AONQ : Nat := 0x50030
def TRC_AONQ_AON_OVF : Fld := ⟨TRC_AONQ, 8, 8⟩
def TRC_AONQ_AON_FILL : Fld := ⟨TRC_AONQ, 0, 7⟩
/-- `AT_CTRL`. -/
def AT_CTRL : Nat := 0x60000
def AT_CTRL_LOCK : Fld := ⟨AT_CTRL, 31, 1⟩
def AT_CTRL_FIELD_EN : Fld := ⟨AT_CTRL, 0, 1⟩
/-- `AT_STATUS`. -/
def AT_STATUS : Nat := 0x60004
def AT_STATUS_BUSY : Fld := ⟨AT_STATUS, 31, 1⟩
def AT_STATUS_BUS : Fld := ⟨AT_STATUS, 30, 1⟩
def AT_STATUS_FLASK : Fld := ⟨AT_STATUS, 24, 6⟩
def AT_STATUS_NODE : Fld := ⟨AT_STATUS, 16, 8⟩
def AT_STATUS_LOCAL : Fld := ⟨AT_STATUS, 0, 4⟩
/-- `AT_RESULT`. -/
def AT_RESULT : Nat := 0x60008
def AT_RESULT_RESULT : Fld := ⟨AT_RESULT, 0, 32⟩
/-- `AT_EVENT`. -/
def AT_EVENT : Nat := 0x6000c
def AT_EVENT_REFUSED : Fld := ⟨AT_EVENT, 1, 1⟩
def AT_EVENT_DONE : Fld := ⟨AT_EVENT, 0, 1⟩
/-- `AT_EVENT_EN`. -/
def AT_EVENT_EN : Nat := 0x60010
def AT_EVENT_EN_REFUSED : Fld := ⟨AT_EVENT_EN, 1, 1⟩
def AT_EVENT_EN_DONE : Fld := ⟨AT_EVENT_EN, 0, 1⟩
/-- `AT_COUNTS`. -/
def AT_COUNTS : Nat := 0x60014
def AT_COUNTS_MEAS : Fld := ⟨AT_COUNTS, 16, 16⟩
def AT_COUNTS_INTERLOCK_FAIL : Fld := ⟨AT_COUNTS, 0, 16⟩
/-- `TM_CTRL`. -/
def TM_CTRL : Nat := 0x51000
def TM_CTRL_LOCK : Fld := ⟨TM_CTRL, 31, 1⟩
def TM_CTRL_REM_EN : Fld := ⟨TM_CTRL, 1, 1⟩
/-- `TM_STATUS`. -/
def TM_STATUS : Nat := 0x51004
def TM_STATUS_INS_ALARM : Fld := ⟨TM_STATUS, 31, 1⟩
def TM_STATUS_INS_WARN : Fld := ⟨TM_STATUS, 30, 1⟩
def TM_STATUS_UNDER : Fld := ⟨TM_STATUS, 29, 1⟩
def TM_STATUS_OVER : Fld := ⟨TM_STATUS, 28, 1⟩
def TM_STATUS_TFIRST : Fld := ⟨TM_STATUS, 8, 3⟩
def TM_STATUS_TAMP_IN : Fld := ⟨TM_STATUS, 0, 8⟩
/-- `TM_EVENT`. -/
def TM_EVENT : Nat := 0x51008
def TM_EVENT_UNSETTLED : Fld := ⟨TM_EVENT, 7, 1⟩
def TM_EVENT_INS_CLEAR : Fld := ⟨TM_EVENT, 6, 1⟩
def TM_EVENT_INS_ALARM : Fld := ⟨TM_EVENT, 5, 1⟩
def TM_EVENT_INS_WARN : Fld := ⟨TM_EVENT, 4, 1⟩
def TM_EVENT_SC_MISMATCH : Fld := ⟨TM_EVENT, 3, 1⟩
def TM_EVENT_REFIT : Fld := ⟨TM_EVENT, 2, 1⟩
def TM_EVENT_REMOVAL : Fld := ⟨TM_EVENT, 1, 1⟩
def TM_EVENT_TAMPER : Fld := ⟨TM_EVENT, 0, 1⟩
/-- `TM_EVENT_EN`. -/
def TM_EVENT_EN : Nat := 0x5100c
def TM_EVENT_EN_UNSETTLED : Fld := ⟨TM_EVENT_EN, 7, 1⟩
def TM_EVENT_EN_INS_CLEAR : Fld := ⟨TM_EVENT_EN, 6, 1⟩
def TM_EVENT_EN_INS_ALARM : Fld := ⟨TM_EVENT_EN, 5, 1⟩
def TM_EVENT_EN_INS_WARN : Fld := ⟨TM_EVENT_EN, 4, 1⟩
def TM_EVENT_EN_SC_MISMATCH : Fld := ⟨TM_EVENT_EN, 3, 1⟩
def TM_EVENT_EN_REFIT : Fld := ⟨TM_EVENT_EN, 2, 1⟩
def TM_EVENT_EN_REMOVAL : Fld := ⟨TM_EVENT_EN, 1, 1⟩
def TM_EVENT_EN_TAMPER : Fld := ⟨TM_EVENT_EN, 0, 1⟩
/-- `TM_TAMPCFG`. -/
def TM_TAMPCFG : Nat := 0x51010
def TM_TAMPCFG_TLOCK : Fld := ⟨TM_TAMPCFG, 31, 1⟩
def TM_TAMPCFG_LEVEL : Fld := ⟨TM_TAMPCFG, 8, 8⟩
def TM_TAMPCFG_ARMED : Fld := ⟨TM_TAMPCFG, 0, 8⟩
/-- `TM_TAMPLAT`. -/
def TM_TAMPLAT : Nat := 0x51014
def TM_TAMPLAT_LATCHED : Fld := ⟨TM_TAMPLAT, 0, 8⟩
/-- `TM_TTIME_LO`. -/
def TM_TTIME_LO : Nat := 0x51018
def TM_TTIME_LO_TTIME : Fld := ⟨TM_TTIME_LO, 0, 32⟩
/-- `TM_TTIME_HI`. -/
def TM_TTIME_HI : Nat := 0x5101c
def TM_TTIME_HI_TTIME : Fld := ⟨TM_TTIME_HI, 0, 32⟩
/-- `TM_SHCHK`. -/
def TM_SHCHK : Nat := 0x51020
def TM_SHCHK_SC_PCT : Fld := ⟨TM_SHCHK, 24, 8⟩
def TM_SHCHK_SC_ABS : Fld := ⟨TM_SHCHK, 16, 8⟩
def TM_SHCHK_R_STAGE : Fld := ⟨TM_SHCHK, 0, 16⟩
/-- `TM_INSCFG`. -/
def TM_INSCFG : Nat := 0x51024
def TM_INSCFG_INS_MODE : Fld := ⟨TM_INSCFG, 30, 2⟩
def TM_INSCFG_INS_HALF : Fld := ⟨TM_INSCFG, 16, 8⟩
def TM_INSCFG_INS_RC : Fld := ⟨TM_INSCFG, 0, 16⟩
/-- `TM_INSTH`. -/
def TM_INSTH : Nat := 0x51028
def TM_INSTH_INS_WARN : Fld := ⟨TM_INSTH, 16, 16⟩
def TM_INSTH_INS_ALARM : Fld := ⟨TM_INSTH, 0, 16⟩
/-- `TM_INS`. -/
def TM_INS : Nat := 0x5102c
def TM_INS_INS_KOHM : Fld := ⟨TM_INS, 16, 16⟩
def TM_INS_INS_VMEAN : Fld := ⟨TM_INS, 0, 16⟩
/-- `TM_ENCFG`. -/
def TM_ENCFG : Nat := 0x51030
def TM_ENCFG_RESTORE : Fld := ⟨TM_ENCFG, 8, 2⟩
def TM_ENCFG_EN_INT : Fld := ⟨TM_ENCFG, 0, 8⟩
/-- `TM_COUNTS`. -/
def TM_COUNTS : Nat := 0x51034
def TM_COUNTS_REMOVALS : Fld := ⟨TM_COUNTS, 16, 16⟩
def TM_COUNTS_SC_MISMATCH : Fld := ⟨TM_COUNTS, 0, 16⟩
/-- `LP_CTRL`. -/
def LP_CTRL : Nat := 0x52000
def LP_CTRL_LOCK : Fld := ⟨LP_CTRL, 31, 1⟩
def LP_CTRL_TEST : Fld := ⟨LP_CTRL, 8, 1⟩
def LP_CTRL_LAMP_EN : Fld := ⟨LP_CTRL, 0, 4⟩
/-- `LP_STATUS`. -/
def LP_STATUS : Nat := 0x52004
def LP_STATUS_ENTRY : Fld := ⟨LP_STATUS, 16, 16⟩
def LP_STATUS_ON : Fld := ⟨LP_STATUS, 0, 4⟩
/-- `LP_COND`. -/
def LP_COND : Nat := 0x52008
def LP_COND_COND : Fld := ⟨LP_COND, 0, 15⟩
/-- `LP_MAP`. -/
def LP_MAP (n : Nat) : Nat := 0x52010 + 0x4 * n
def LP_MAP_EN (n : Nat) : Fld := ⟨LP_MAP n, 31, 1⟩
def LP_MAP_COND (n : Nat) : Fld := ⟨LP_MAP n, 24, 4⟩
def LP_MAP_LAMP (n : Nat) : Fld := ⟨LP_MAP n, 20, 2⟩
def LP_MAP_PATTERN (n : Nat) : Fld := ⟨LP_MAP n, 16, 2⟩
def LP_MAP_BURST (n : Nat) : Fld := ⟨LP_MAP n, 8, 4⟩
/-- `LD_CTRL`. -/
def LD_CTRL : Nat := 0x80000
def LD_CTRL_LOCK : Fld := ⟨LD_CTRL, 31, 1⟩
def LD_CTRL_POUR_MS : Fld := ⟨LD_CTRL, 8, 8⟩
def LD_CTRL_CAL_EN : Fld := ⟨LD_CTRL, 3, 1⟩
def LD_CTRL_XFER_EN : Fld := ⟨LD_CTRL, 2, 1⟩
/-- `LD_STALE`. -/
def LD_STALE : Nat := 0x80004
def LD_STALE_STALE_MS : Fld := ⟨LD_STALE, 0, 16⟩
/-- `LD_STATUS`. -/
def LD_STATUS : Nat := 0x80008
def LD_STATUS_RES_OK : Fld := ⟨LD_STATUS, 31, 1⟩
def LD_STATUS_SHORT_P : Fld := ⟨LD_STATUS, 30, 1⟩
def LD_STATUS_SHORT_E : Fld := ⟨LD_STATUS, 29, 1⟩
def LD_STATUS_SHAVING : Fld := ⟨LD_STATUS, 28, 1⟩
def LD_STATUS_STALE : Fld := ⟨LD_STATUS, 24, 4⟩
def LD_STATUS_SEL : Fld := ⟨LD_STATUS, 8, 8⟩
def LD_STATUS_MISS_RUN : Fld := ⟨LD_STATUS, 0, 8⟩
/-- `LD_SHAVE`. -/
def LD_SHAVE : Nat := 0x8000c
def LD_SHAVE_SHAVE_F : Fld := ⟨LD_SHAVE, 16, 9⟩
def LD_SHAVE_SHAVE_G : Fld := ⟨LD_SHAVE, 0, 9⟩
/-- `LD_EPOCH`. -/
def LD_EPOCH : Nat := 0x80010
def LD_EPOCH_POUR_EPOCH : Fld := ⟨LD_EPOCH, 0, 32⟩
/-- `LD_EVENT`. -/
def LD_EVENT : Nat := 0x80014
def LD_EVENT_SWAP_MISMATCH : Fld := ⟨LD_EVENT, 10, 1⟩
def LD_EVENT_OBJ_APPLIED : Fld := ⟨LD_EVENT, 9, 1⟩
def LD_EVENT_CAL_SUSPEND : Fld := ⟨LD_EVENT, 8, 1⟩
def LD_EVENT_CAL_END : Fld := ⟨LD_EVENT, 7, 1⟩
def LD_EVENT_CAL_START : Fld := ⟨LD_EVENT, 6, 1⟩
def LD_EVENT_SHAVE_END : Fld := ⟨LD_EVENT, 5, 1⟩
def LD_EVENT_SHAVE_START : Fld := ⟨LD_EVENT, 4, 1⟩
def LD_EVENT_RESERVE_OK : Fld := ⟨LD_EVENT, 3, 1⟩
def LD_EVENT_RESERVE_SHORT : Fld := ⟨LD_EVENT, 2, 1⟩
def LD_EVENT_STALE : Fld := ⟨LD_EVENT, 1, 1⟩
def LD_EVENT_POUR_MISSED : Fld := ⟨LD_EVENT, 0, 1⟩
/-- `LD_EVENT_EN`. -/
def LD_EVENT_EN : Nat := 0x80018
def LD_EVENT_EN_SWAP_MISMATCH : Fld := ⟨LD_EVENT_EN, 10, 1⟩
def LD_EVENT_EN_OBJ_APPLIED : Fld := ⟨LD_EVENT_EN, 9, 1⟩
def LD_EVENT_EN_CAL_SUSPEND : Fld := ⟨LD_EVENT_EN, 8, 1⟩
def LD_EVENT_EN_CAL_END : Fld := ⟨LD_EVENT_EN, 7, 1⟩
def LD_EVENT_EN_CAL_START : Fld := ⟨LD_EVENT_EN, 6, 1⟩
def LD_EVENT_EN_SHAVE_END : Fld := ⟨LD_EVENT_EN, 5, 1⟩
def LD_EVENT_EN_SHAVE_START : Fld := ⟨LD_EVENT_EN, 4, 1⟩
def LD_EVENT_EN_RESERVE_OK : Fld := ⟨LD_EVENT_EN, 3, 1⟩
def LD_EVENT_EN_RESERVE_SHORT : Fld := ⟨LD_EVENT_EN, 2, 1⟩
def LD_EVENT_EN_STALE : Fld := ⟨LD_EVENT_EN, 1, 1⟩
def LD_EVENT_EN_POUR_MISSED : Fld := ⟨LD_EVENT_EN, 0, 1⟩
/-- `LD_COUNTS`. -/
def LD_COUNTS : Nat := 0x8001c
def LD_COUNTS_MISSED : Fld := ⟨LD_COUNTS, 16, 16⟩
def LD_COUNTS_SHAVES : Fld := ⟨LD_COUNTS, 0, 16⟩
/-- `LD_CAL`. -/
def LD_CAL : Nat := 0x80020
def LD_CAL_CAL_DONE : Fld := ⟨LD_CAL, 16, 16⟩
def LD_CAL_CAL_ACTIVE : Fld := ⟨LD_CAL, 0, 5⟩
/-- `CR_CTRL`. -/
def CR_CTRL : Nat := 0x90000
def CR_CTRL_LOCK : Fld := ⟨CR_CTRL, 31, 1⟩
def CR_CTRL_SWEEP_EN : Fld := ⟨CR_CTRL, 1, 1⟩
def CR_CTRL_LEARN_EN : Fld := ⟨CR_CTRL, 0, 1⟩
/-- `CR_SWEEP`. -/
def CR_SWEEP : Nat := 0x90004
def CR_SWEEP_SWEEP_INT : Fld := ⟨CR_SWEEP, 0, 16⟩
/-- `CR_STATUS`. -/
def CR_STATUS : Nat := 0x90008
def CR_STATUS_HOT : Fld := ⟨CR_STATUS, 31, 1⟩
def CR_STATUS_SWEEPING : Fld := ⟨CR_STATUS, 30, 1⟩
def CR_STATUS_CANDS : Fld := ⟨CR_STATUS, 16, 8⟩
def CR_STATUS_SWEEP_NO : Fld := ⟨CR_STATUS, 0, 16⟩
/-- `CR_EVENT`. -/
def CR_EVENT : Nat := 0x9000c
def CR_EVENT_FILTER_REINIT : Fld := ⟨CR_EVENT, 5, 1⟩
def CR_EVENT_BUDGET_CHG : Fld := ⟨CR_EVENT, 4, 1⟩
def CR_EVENT_FIT_FAIL : Fld := ⟨CR_EVENT, 3, 1⟩
def CR_EVENT_SWEEP_DONE : Fld := ⟨CR_EVENT, 2, 1⟩
def CR_EVENT_LEARN_REJECT : Fld := ⟨CR_EVENT, 1, 1⟩
def CR_EVENT_LEARN_DONE : Fld := ⟨CR_EVENT, 0, 1⟩
/-- `CR_EVENT_EN`. -/
def CR_EVENT_EN : Nat := 0x90010
def CR_EVENT_EN_FILTER_REINIT : Fld := ⟨CR_EVENT_EN, 5, 1⟩
def CR_EVENT_EN_BUDGET_CHG : Fld := ⟨CR_EVENT_EN, 4, 1⟩
def CR_EVENT_EN_FIT_FAIL : Fld := ⟨CR_EVENT_EN, 3, 1⟩
def CR_EVENT_EN_SWEEP_DONE : Fld := ⟨CR_EVENT_EN, 2, 1⟩
def CR_EVENT_EN_LEARN_REJECT : Fld := ⟨CR_EVENT_EN, 1, 1⟩
def CR_EVENT_EN_LEARN_DONE : Fld := ⟨CR_EVENT_EN, 0, 1⟩
/-- `CR_COUNTS`. -/
def CR_COUNTS : Nat := 0x90014
def CR_COUNTS_LEARN_OK : Fld := ⟨CR_COUNTS, 16, 16⟩
def CR_COUNTS_LEARN_REJ : Fld := ⟨CR_COUNTS, 0, 16⟩
/-- `CR_LATE`. -/
def CR_LATE : Nat := 0x90018
def CR_LATE_REINITS : Fld := ⟨CR_LATE, 16, 16⟩
def CR_LATE_FILTER_LATE : Fld := ⟨CR_LATE, 0, 16⟩
/-- `CH_CFG`. -/
def CH_CFG (n : Nat) : Nat := bar2 + 0x0 + 0x40 * n
def CH_CFG_PRESENT (n : Nat) : Fld := ⟨CH_CFG n, 31, 1⟩
def CH_CFG_PROFILE (n : Nat) : Fld := ⟨CH_CFG n, 24, 4⟩
def CH_CFG_TONE_EN (n : Nat) : Fld := ⟨CH_CFG n, 2, 1⟩
def CH_CFG_DISCH_EN (n : Nat) : Fld := ⟨CH_CFG n, 1, 1⟩
def CH_CFG_CHG_EN (n : Nat) : Fld := ⟨CH_CFG n, 0, 1⟩
/-- `CH_ILIM`. -/
def CH_ILIM (n : Nat) : Nat := bar2 + 0x4 + 0x40 * n
def CH_ILIM_ICHG_MAX (n : Nat) : Fld := ⟨CH_ILIM n, 16, 16⟩
def CH_ILIM_IDIS_MAX (n : Nat) : Fld := ⟨CH_ILIM n, 0, 16⟩
/-- `CH_VLIM`. -/
def CH_VLIM (n : Nat) : Nat := bar2 + 0x8 + 0x40 * n
def CH_VLIM_VMAX (n : Nat) : Fld := ⟨CH_VLIM n, 16, 16⟩
def CH_VLIM_VMIN (n : Nat) : Fld := ⟨CH_VLIM n, 0, 16⟩
/-- `CH_VTRIP`. -/
def CH_VTRIP (n : Nat) : Nat := bar2 + 0xc + 0x40 * n
def CH_VTRIP_VTRIP_HI (n : Nat) : Fld := ⟨CH_VTRIP n, 16, 16⟩
def CH_VTRIP_VTRIP_LO (n : Nat) : Fld := ⟨CH_VTRIP n, 0, 16⟩
/-- `CH_ITRIP`. -/
def CH_ITRIP (n : Nat) : Nat := bar2 + 0x10 + 0x40 * n
def CH_ITRIP_ITRIP (n : Nat) : Fld := ⟨CH_ITRIP n, 16, 16⟩
def CH_ITRIP_ITRIP_TICKS (n : Nat) : Fld := ⟨CH_ITRIP n, 0, 8⟩
/-- `CH_IGAIN`. -/
def CH_IGAIN (n : Nat) : Nat := bar2 + 0x14 + 0x40 * n
def CH_IGAIN_IKP (n : Nat) : Fld := ⟨CH_IGAIN n, 16, 16⟩
def CH_IGAIN_IKI (n : Nat) : Fld := ⟨CH_IGAIN n, 0, 16⟩
/-- `CH_VGAIN`. -/
def CH_VGAIN (n : Nat) : Nat := bar2 + 0x18 + 0x40 * n
def CH_VGAIN_VKP (n : Nat) : Fld := ⟨CH_VGAIN n, 16, 16⟩
def CH_VGAIN_VKI (n : Nat) : Fld := ⟨CH_VGAIN n, 0, 16⟩
/-- `CH_SLEW`. -/
def CH_SLEW (n : Nat) : Nat := bar2 + 0x1c + 0x40 * n
def CH_SLEW_SLEW (n : Nat) : Fld := ⟨CH_SLEW n, 0, 16⟩
/-- `CH_STATE`. -/
def CH_STATE (n : Nat) : Nat := bar2 + 0x20 + 0x40 * n
def CH_STATE_STATE (n : Nat) : Fld := ⟨CH_STATE n, 30, 2⟩
def CH_STATE_MODE (n : Nat) : Fld := ⟨CH_STATE n, 28, 2⟩
def CH_STATE_HOLD_REASON (n : Nat) : Fld := ⟨CH_STATE n, 24, 4⟩
def CH_STATE_FLASK_HELD (n : Nat) : Fld := ⟨CH_STATE n, 19, 1⟩
def CH_STATE_VLOOP (n : Nat) : Fld := ⟨CH_STATE n, 18, 1⟩
def CH_STATE_CLAMPED (n : Nat) : Fld := ⟨CH_STATE n, 17, 1⟩
def CH_STATE_SHAVED (n : Nat) : Fld := ⟨CH_STATE n, 16, 1⟩
def CH_STATE_TONE (n : Nat) : Fld := ⟨CH_STATE n, 15, 1⟩
def CH_STATE_DROOP (n : Nat) : Fld := ⟨CH_STATE n, 14, 1⟩
/-- `CH_COUNTS`. -/
def CH_COUNTS (n : Nat) : Nat := bar2 + 0x24 + 0x40 * n
def CH_COUNTS_HOLDS (n : Nat) : Fld := ⟨CH_COUNTS n, 16, 16⟩
def CH_COUNTS_TRIPS (n : Nat) : Fld := ⟨CH_COUNTS n, 0, 16⟩
/-- `CH_TCHG1`. -/
def CH_TCHG1 (n : Nat) : Nat := bar2 + 0x28 + 0x40 * n
def CH_TCHG1_T_CB (n : Nat) : Fld := ⟨CH_TCHG1 n, 16, 16⟩
def CH_TCHG1_T_CR (n : Nat) : Fld := ⟨CH_TCHG1 n, 0, 16⟩
/-- `CH_TCHG2`. -/
def CH_TCHG2 (n : Nat) : Nat := bar2 + 0x2c + 0x40 * n
def CH_TCHG2_T_RH (n : Nat) : Fld := ⟨CH_TCHG2 n, 16, 16⟩
def CH_TCHG2_T_BH (n : Nat) : Fld := ⟨CH_TCHG2 n, 0, 16⟩
/-- `CH_TDIS`. -/
def CH_TDIS (n : Nat) : Nat := bar2 + 0x30 + 0x40 * n
def CH_TDIS_TD_LO (n : Nat) : Fld := ⟨CH_TDIS n, 16, 16⟩
def CH_TDIS_TD_HI (n : Nat) : Fld := ⟨CH_TDIS n, 0, 16⟩
/-- `CH_TRED`. -/
def CH_TRED (n : Nat) : Nat := bar2 + 0x34 + 0x40 * n
def CH_TRED_THYS (n : Nat) : Fld := ⟨CH_TRED n, 24, 8⟩
def CH_TRED_COLD_PCT (n : Nat) : Fld := ⟨CH_TRED n, 16, 8⟩
def CH_TRED_HOT_PCT (n : Nat) : Fld := ⟨CH_TRED n, 8, 8⟩
def CH_TRED_HOT_DV (n : Nat) : Fld := ⟨CH_TRED n, 0, 8⟩
/-- `CH_PHASE`. -/
def CH_PHASE (n : Nat) : Nat := bar2 + 0x38 + 0x40 * n
def CH_PHASE_PHASE (n : Nat) : Fld := ⟨CH_PHASE n, 28, 4⟩
def CH_PHASE_CWIN (n : Nat) : Fld := ⟨CH_PHASE n, 25, 3⟩
def CH_PHASE_DWIN (n : Nat) : Fld := ⟨CH_PHASE n, 23, 2⟩
def CH_PHASE_PH_FAULT (n : Nat) : Fld := ⟨CH_PHASE n, 20, 3⟩
def CH_PHASE_SUSP (n : Nat) : Fld := ⟨CH_PHASE n, 19, 1⟩
def CH_PHASE_FULL (n : Nat) : Fld := ⟨CH_PHASE n, 18, 1⟩
def CH_PHASE_TIMED (n : Nat) : Fld := ⟨CH_PHASE n, 17, 1⟩
def CH_PHASE_REST_CUT (n : Nat) : Fld := ⟨CH_PHASE n, 16, 1⟩
def CH_PHASE_TRAIN (n : Nat) : Fld := ⟨CH_PHASE n, 8, 8⟩
def CH_PHASE_RELAXING (n : Nat) : Fld := ⟨CH_PHASE n, 7, 1⟩
/-- `CH_PHTIME`. -/
def CH_PHTIME (n : Nat) : Nat := bar2 + 0x3c + 0x40 * n
def CH_PHTIME_PH_ELAPSED (n : Nat) : Fld := ⟨CH_PHTIME n, 16, 16⟩
def CH_PHTIME_PH_TIMER (n : Nat) : Fld := ⟨CH_PHTIME n, 0, 16⟩
/-- `FL_CFG`. -/
def FL_CFG (n : Nat) : Nat := bar2 + 0x10000 + 0x40 * n
def FL_CFG_FSW (n : Nat) : Fld := ⟨FL_CFG n, 24, 8⟩
def FL_CFG_DEADT (n : Nat) : Fld := ⟨FL_CFG n, 18, 6⟩
def FL_CFG_RETRY_MAX (n : Nat) : Fld := ⟨FL_CFG n, 12, 4⟩
def FL_CFG_RETRY_DLY (n : Nat) : Fld := ⟨FL_CFG n, 8, 4⟩
def FL_CFG_INTERLEAVE (n : Nat) : Fld := ⟨FL_CFG n, 7, 1⟩
/-- `FL_MODE`. -/
def FL_MODE (n : Nat) : Nat := bar2 + 0x10004 + 0x40 * n
def FL_MODE_BB_BAND (n : Nat) : Fld := ⟨FL_MODE n, 0, 8⟩
/-- `FL_STATE`. -/
def FL_STATE (n : Nat) : Nat := bar2 + 0x10008 + 0x40 * n
def FL_STATE_FSTATE (n : Nat) : Fld := ⟨FL_STATE n, 30, 2⟩
def FL_STATE_FHOLD_REASON (n : Nat) : Fld := ⟨FL_STATE n, 24, 4⟩
def FL_STATE_RETRY_COUNT (n : Nat) : Fld := ⟨FL_STATE n, 20, 4⟩
def FL_STATE_FLT_PIN (n : Nat) : Fld := ⟨FL_STATE n, 19, 1⟩
def FL_STATE_ALIVE_ON (n : Nat) : Fld := ⟨FL_STATE n, 18, 1⟩
def FL_STATE_TONE_ON (n : Nat) : Fld := ⟨FL_STATE n, 17, 1⟩
/-- `FL_COUNTS`. -/
def FL_COUNTS (n : Nat) : Nat := bar2 + 0x1000c + 0x40 * n
def FL_COUNTS_FLT_EVENTS (n : Nat) : Fld := ⟨FL_COUNTS n, 16, 16⟩
def FL_COUNTS_LOST_MSG (n : Nat) : Fld := ⟨FL_COUNTS n, 0, 16⟩
/-- `PROF`. -/
def PROF (n : Nat) : Nat := bar2 + 0x11000 + 0x100 * n
/-- `MS_ACC_LO`. -/
def MS_ACC_LO (n : Nat) : Nat := bar2 + 0x12000 + 0x20 * n
def MS_ACC_LO_ACC_LO (n : Nat) : Fld := ⟨MS_ACC_LO n, 0, 32⟩
/-- `MS_ACC_HI`. -/
def MS_ACC_HI (n : Nat) : Nat := bar2 + 0x12004 + 0x20 * n
def MS_ACC_HI_UPD (n : Nat) : Fld := ⟨MS_ACC_HI n, 31, 1⟩
def MS_ACC_HI_SEQ (n : Nat) : Fld := ⟨MS_ACC_HI n, 16, 15⟩
def MS_ACC_HI_ACC_HI (n : Nat) : Fld := ⟨MS_ACC_HI n, 0, 16⟩
/-- `MS_IV`. -/
def MS_IV (n : Nat) : Nat := bar2 + 0x12008 + 0x20 * n
def MS_IV_I_MEAN (n : Nat) : Fld := ⟨MS_IV n, 16, 16⟩
def MS_IV_VB (n : Nat) : Fld := ⟨MS_IV n, 0, 16⟩
/-- `MS_T`. -/
def MS_T (n : Nat) : Nat := bar2 + 0x1200c + 0x20 * n
def MS_T_TEMP (n : Nat) : Fld := ⟨MS_T n, 16, 16⟩
def MS_T_T_INVALID (n : Nat) : Fld := ⟨MS_T n, 15, 1⟩
def MS_T_T_RANGE (n : Nat) : Fld := ⟨MS_T n, 14, 1⟩
def MS_T_OVR (n : Nat) : Fld := ⟨MS_T n, 13, 1⟩
def MS_T_CAL_SEQ (n : Nat) : Fld := ⟨MS_T n, 0, 8⟩
/-- `MS_START_LO`. -/
def MS_START_LO (n : Nat) : Nat := bar2 + 0x12010 + 0x20 * n
def MS_START_LO_START_LO (n : Nat) : Fld := ⟨MS_START_LO n, 0, 32⟩
/-- `MS_START_HI`. -/
def MS_START_HI (n : Nat) : Nat := bar2 + 0x12014 + 0x20 * n
def MS_START_HI_START_HI (n : Nat) : Fld := ⟨MS_START_HI n, 0, 32⟩
/-- `MC_SHUNT`. -/
def MC_SHUNT (n : Nat) : Nat := bar2 + 0x1a000 + 0x10 * n
def MC_SHUNT_SHUNT (n : Nat) : Fld := ⟨MC_SHUNT n, 16, 16⟩
def MC_SHUNT_V_RATIO (n : Nat) : Fld := ⟨MC_SHUNT n, 0, 16⟩
/-- `MC_ITRIM`. -/
def MC_ITRIM (n : Nat) : Nat := bar2 + 0x1a004 + 0x10 * n
def MC_ITRIM_I_GAIN (n : Nat) : Fld := ⟨MC_ITRIM n, 16, 16⟩
def MC_ITRIM_I_OFFS (n : Nat) : Fld := ⟨MC_ITRIM n, 0, 16⟩
/-- `MC_VTRIM`. -/
def MC_VTRIM (n : Nat) : Nat := bar2 + 0x1a008 + 0x10 * n
def MC_VTRIM_V_OFFS (n : Nat) : Fld := ⟨MC_VTRIM n, 16, 16⟩
def MC_VTRIM_T_OFFS (n : Nat) : Fld := ⟨MC_VTRIM n, 8, 8⟩
def MC_VTRIM_CAL_SEQ (n : Nat) : Fld := ⟨MC_VTRIM n, 0, 8⟩
/-- `MC_NTC`. -/
def MC_NTC (n : Nat) : Nat := bar2 + 0x1a00c + 0x10 * n
def MC_NTC_NTC_B (n : Nat) : Fld := ⟨MC_NTC n, 16, 16⟩
def MC_NTC_NTC_R25 (n : Nat) : Fld := ⟨MC_NTC n, 0, 16⟩
/-- `CC_STATUS`. -/
def CC_STATUS (n : Nat) : Nat := bar2 + 0x1e000 + 0x10 * n
def CC_STATUS_REF_OK (n : Nat) : Fld := ⟨CC_STATUS n, 31, 1⟩
def CC_STATUS_TRIM_SUSP (n : Nat) : Fld := ⟨CC_STATUS n, 30, 1⟩
def CC_STATUS_LAST_CH (n : Nat) : Fld := ⟨CC_STATUS n, 16, 4⟩
def CC_STATUS_ROUNDS (n : Nat) : Fld := ⟨CC_STATUS n, 0, 16⟩
/-- `CC_LIMITS`. -/
def CC_LIMITS (n : Nat) : Nat := bar2 + 0x1e004 + 0x10 * n
def CC_LIMITS_AT_LIMIT (n : Nat) : Fld := ⟨CC_LIMITS n, 16, 16⟩
def CC_LIMITS_SKIPS (n : Nat) : Fld := ⟨CC_LIMITS n, 0, 16⟩
/-- `LG_ACC_LO`. -/
def LG_ACC_LO (n : Nat) : Nat := bar2 + 0x22000 + 0x20 * n
/-- `LG_ACC_HI`. -/
def LG_ACC_HI (n : Nat) : Nat := bar2 + 0x22004 + 0x20 * n
/-- `LG_I`. -/
def LG_I (n : Nat) : Nat := bar2 + 0x22008 + 0x20 * n
/-- `LG_V`. -/
def LG_V (n : Nat) : Nat := bar2 + 0x2200c + 0x20 * n
/-- `LG_START_LO`. -/
def LG_START_LO (n : Nat) : Nat := bar2 + 0x22010 + 0x20 * n
/-- `LG_START_HI`. -/
def LG_START_HI (n : Nat) : Nat := bar2 + 0x22014 + 0x20 * n
/-- `SNAP_MS_LO`. -/
def SNAP_MS_LO : Nat := bar2 + 0x221a0
/-- `SNAP_MS_HI`. -/
def SNAP_MS_HI : Nat := bar2 + 0x221a4
/-- `ES_SOC`. -/
def ES_SOC (n : Nat) : Nat := bar2 + 0x30000 + 0x20 * n
def ES_SOC_SOC (n : Nat) : Fld := ⟨ES_SOC n, 16, 16⟩
def ES_SOC_SIGMA (n : Nat) : Fld := ⟨ES_SOC n, 0, 16⟩
/-- `ES_CAP`. -/
def ES_CAP (n : Nat) : Nat := bar2 + 0x30004 + 0x20 * n
def ES_CAP_CAP (n : Nat) : Fld := ⟨ES_CAP n, 16, 16⟩
def ES_CAP_SOH (n : Nat) : Fld := ⟨ES_CAP n, 0, 16⟩
/-- `ES_CYC`. -/
def ES_CYC (n : Nat) : Nat := bar2 + 0x30008 + 0x20 * n
def ES_CYC_CYCLES (n : Nat) : Fld := ⟨ES_CYC n, 8, 24⟩
def ES_CYC_LEARNED (n : Nat) : Fld := ⟨ES_CYC n, 7, 1⟩
def ES_CYC_LEARNING (n : Nat) : Fld := ⟨ES_CYC n, 6, 1⟩
def ES_CYC_SUSPENDED (n : Nat) : Fld := ⟨ES_CYC n, 5, 1⟩
def ES_CYC_INIT (n : Nat) : Fld := ⟨ES_CYC n, 4, 1⟩
def ES_CYC_STALE (n : Nat) : Fld := ⟨ES_CYC n, 3, 1⟩
def ES_CYC_SAT (n : Nat) : Fld := ⟨ES_CYC n, 2, 1⟩
def ES_CYC_TZ_DEFAULT (n : Nat) : Fld := ⟨ES_CYC n, 1, 1⟩
def ES_CYC_T_HELD (n : Nat) : Fld := ⟨ES_CYC n, 0, 1⟩
/-- `ES_V`. -/
def ES_V (n : Nat) : Nat := bar2 + 0x3000c + 0x20 * n
def ES_V_VPOL (n : Nat) : Fld := ⟨ES_V n, 16, 16⟩
def ES_V_HYST (n : Nat) : Fld := ⟨ES_V n, 0, 16⟩
/-- `ES_Z`. -/
def ES_Z (n : Nat) : Nat := bar2 + 0x30010 + 0x20 * n
def ES_Z_OCV (n : Nat) : Fld := ⟨ES_Z n, 16, 16⟩
def ES_Z_ZSER_NOW (n : Nat) : Fld := ⟨ES_Z n, 0, 16⟩
/-- `ES_LRN`. -/
def ES_LRN (n : Nat) : Nat := bar2 + 0x30014 + 0x20 * n
def ES_LRN_LRN_Q (n : Nat) : Fld := ⟨ES_LRN n, 16, 16⟩
def ES_LRN_LRN_POS (n : Nat) : Fld := ⟨ES_LRN n, 0, 16⟩
/-- `ES_SEQ`. -/
def ES_SEQ (n : Nat) : Nat := bar2 + 0x30018 + 0x20 * n
def ES_SEQ_UPD (n : Nat) : Fld := ⟨ES_SEQ n, 31, 1⟩
def ES_SEQ_SEQ (n : Nat) : Fld := ⟨ES_SEQ n, 16, 15⟩
def ES_SEQ_LAST_LRN (n : Nat) : Fld := ⟨ES_SEQ n, 8, 8⟩
/-- `EP_CFG`. -/
def EP_CFG (n : Nat) : Nat := bar2 + 0x38000 + 0x10 * n
def EP_CFG_TONE_AMP (n : Nat) : Fld := ⟨EP_CFG n, 16, 8⟩
def EP_CFG_EV_EN (n : Nat) : Fld := ⟨EP_CFG n, 0, 5⟩
/-- `EP_SOCL`. -/
def EP_SOCL (n : Nat) : Nat := bar2 + 0x38004 + 0x10 * n
def EP_SOCL_LOW_WARN (n : Nat) : Fld := ⟨EP_SOCL n, 16, 16⟩
def EP_SOCL_LOW_ALARM (n : Nat) : Fld := ⟨EP_SOCL n, 0, 16⟩
/-- `EP_SOCH`. -/
def EP_SOCH (n : Nat) : Nat := bar2 + 0x38008 + 0x10 * n
def EP_SOCH_HIGH_WARN (n : Nat) : Fld := ⟨EP_SOCH n, 16, 16⟩
def EP_SOCH_HYS (n : Nat) : Fld := ⟨EP_SOCH n, 0, 16⟩
/-- `MODEL`. -/
def MODEL (n : Nat) : Nat := bar2 + 0x40000 + 0x400 * n
/-- `IMPED`. -/
def IMPED (n : Nat) : Nat := bar2 + 0x50000 + 0x200 * n
/-- `PT_EPOCH`. -/
def PT_EPOCH : Nat := bar2 + 0xd0000
def PT_EPOCH_EPOCH : Fld := ⟨PT_EPOCH, 0, 32⟩
/-- `PT_INFO`. -/
def PT_INFO : Nat := bar2 + 0xd0004
def PT_INFO_SEL : Fld := ⟨PT_INFO, 24, 8⟩
def PT_INFO_CANDS : Fld := ⟨PT_INFO, 16, 8⟩
def PT_INFO_WIN_MODE : Fld := ⟨PT_INFO, 14, 2⟩
def PT_INFO_WIN_IDX : Fld := ⟨PT_INFO, 11, 3⟩
def PT_INFO_ALL_REJ : Fld := ⟨PT_INFO, 10, 1⟩
def PT_INFO_SHORT_E : Fld := ⟨PT_INFO, 9, 1⟩
def PT_INFO_SHORT_P : Fld := ⟨PT_INFO, 8, 1⟩
/-- `PT_READ_LO`. -/
def PT_READ_LO : Nat := bar2 + 0xd0008
def PT_READ_LO_READ : Fld := ⟨PT_READ_LO, 0, 32⟩
/-- `PT_READ_HI`. -/
def PT_READ_HI : Nat := bar2 + 0xd000c
def PT_READ_HI_READ : Fld := ⟨PT_READ_HI, 0, 32⟩
/-- `PT_SWAP_LO`. -/
def PT_SWAP_LO : Nat := bar2 + 0xd0010
def PT_SWAP_LO_SWAP : Fld := ⟨PT_SWAP_LO, 0, 32⟩
/-- `PT_SWAP_HI`. -/
def PT_SWAP_HI : Nat := bar2 + 0xd0014
def PT_SWAP_HI_SWAP : Fld := ⟨PT_SWAP_HI, 0, 32⟩
/-- `PT_PWR`. -/
def PT_PWR : Nat := bar2 + 0xd0018
def PT_PWR_BASIS : Fld := ⟨PT_PWR, 16, 16⟩
def PT_PWR_P_CHG : Fld := ⟨PT_PWR, 0, 16⟩
/-- `PT_RES`. -/
def PT_RES : Nat := bar2 + 0xd001c
def PT_RES_RISER_P : Fld := ⟨PT_RES, 16, 16⟩
def PT_RES_RES_AVAIL : Fld := ⟨PT_RES, 0, 16⟩
/-- `PT_PHI`. -/
def PT_PHI : Nat := bar2 + 0xd0020
def PT_PHI_PHI : Fld := ⟨PT_PHI, 0, 9⟩
/-- `PT_LOAD`. -/
def PT_LOAD : Nat := bar2 + 0xd0024
def PT_LOAD_P_LOAD : Fld := ⟨PT_LOAD, 16, 16⟩
def PT_LOAD_P_BUDGET : Fld := ⟨PT_LOAD, 0, 16⟩
/-- `PT_EPOCH2`. -/
def PT_EPOCH2 : Nat := bar2 + 0xd003c
def PT_EPOCH2_EPOCH2 : Fld := ⟨PT_EPOCH2, 0, 32⟩
/-- `SETPT`. -/
def SETPT (n : Nat) : Nat := bar2 + 0xd1000 + 0x4 * n
/-- `LS_ROLE`. -/
def LS_ROLE (n : Nat) : Nat := bar2 + 0xd2000 + 0x8 * n
def LS_ROLE_ROLE (n : Nat) : Fld := ⟨LS_ROLE n, 28, 4⟩
def LS_ROLE_EXCL (n : Nat) : Fld := ⟨LS_ROLE n, 24, 4⟩
/-- `LS_CAL`. -/
def LS_CAL (n : Nat) : Nat := bar2 + 0xd2004 + 0x8 * n
def LS_CAL_CAL_REQ (n : Nat) : Fld := ⟨LS_CAL n, 31, 1⟩
def LS_CAL_CAL_STATE (n : Nat) : Fld := ⟨LS_CAL n, 28, 3⟩
def LS_CAL_CAL_END (n : Nat) : Fld := ⟨LS_CAL n, 24, 4⟩
def LS_CAL_CAL_HOURS (n : Nat) : Fld := ⟨LS_CAL n, 0, 16⟩
/-- `OBJ`. -/
def OBJ (n : Nat) : Nat := bar2 + 0xd4000 + 0x4 * n
/-- `PARTNER`. -/
def PARTNER (n : Nat) : Nat := bar2 + 0xd8000 + 0x80 * n
/-- `OL_COUNT`. -/
def OL_COUNT : Nat := bar2 + 0xe0000
/-- `OL_GEN`. -/
def OL_GEN : Nat := bar2 + 0xe0004
/-- `OL_ENTRY`. -/
def OL_ENTRY (n : Nat) : Nat := bar2 + 0xe1000 + 0x20 * n
/-- `TRACE_REC`. -/
def TRACE_REC (n : Nat) : Nat := bar2 + 0x100000 + 0x10 * n

end Sys2Proof.Machine
end

