-- ==== Sys2Proof/Machine/RegTable.lean ====
section
/-! DEFINITION. The register table of BAR0 (chapter 19, R641-R642): for each register, or group of registers at
a fixed stride, its reset value and the masks of its RW, RWL, W1C and W1S bits (R17); every bit in none of the
masks is RO, WO or reserved. -/

namespace Sys2Proof.Machine

/-- One row: registers at `base + stride * i` for `i < count`, resetting to `reset + step * i`. -/
structure RegRow where
  base : Nat
  stride : Nat
  count : Nat
  reset : Nat
  step : Nat
  rw : Nat
  rwl : Nat
  w1c : Nat
  w1s : Nat
  deriving DecidableEq, Repr

/-- Rows of the `GL` block. -/
def rowsGL : List RegRow := [
  ⟨0x0, 0x0, 1, 0x5a011101, 0x0, 0x0, 0x0, 0x0, 0x0⟩,
  ⟨0x4, 0x0, 1, 0xf440400, 0x0, 0x0, 0x0, 0x0, 0x0⟩,
  ⟨0x10, 0x0, 1, 0x5200000, 0x0, 0x0, 0x0, 0x0, 0x0⟩,
  ⟨0x14, 0x0, 1, 0x0, 0x0, 0x0, 0x0, 0x0, 0x0⟩,
  ⟨0x18, 0x0, 1, 0x0, 0x0, 0x0, 0x0, 0x0, 0x0⟩,
  ⟨0x1c, 0x0, 1, 0x0, 0x0, 0x0, 0x0, 0x0, 0x0⟩,
  ⟨0x20, 0x0, 1, 0x0, 0x0, 0x0, 0x0, 0x0, 0x0⟩,
  ⟨0x24, 0x0, 1, 0x0, 0x0, 0x0, 0x0, 0x0, 0x0⟩,
  ⟨0x28, 0x0, 1, 0x0, 0x0, 0x0, 0x0, 0x0, 0x0⟩,
  ⟨0x2c, 0x0, 1, 0x0, 0x0, 0x0, 0x0, 0x0, 0x0⟩,
  ⟨0x30, 0x0, 1, 0x0, 0x0, 0xffffffff, 0x0, 0x0, 0x0⟩,
  ⟨0x34, 0x0, 1, 0x0, 0x0, 0x0, 0x0, 0x0, 0x0⟩,
  ⟨0x38, 0x0, 1, 0x0, 0x0, 0x0, 0x0, 0x3ff, 0x0⟩,
  ⟨0x3c, 0x0, 1, 0x0, 0x0, 0x3ff, 0x0, 0x0, 0x0⟩,
  ⟨0x40, 0x0, 1, 0x7, 0x0, 0x0, 0x7, 0x0, 0x80000000⟩,
  ⟨0x44, 0x0, 1, 0x0, 0x0, 0x0, 0x0, 0x0, 0x0⟩]
/-- Rows of the `CK` block. -/
def rowsCK : List RegRow := [
  ⟨0x1000, 0x0, 1, 0x0, 0x0, 0x0, 0x1, 0x0, 0x80000000⟩,
  ⟨0x1004, 0x0, 1, 0x0, 0x0, 0x0, 0x0, 0x0, 0x0⟩,
  ⟨0x1008, 0x0, 1, 0x0, 0x0, 0x0, 0x0, 0x0, 0x0⟩,
  ⟨0x100c, 0x0, 1, 0x0, 0x0, 0x0, 0x3def7b00, 0x0, 0x0⟩,
  ⟨0x1010, 0x0, 1, 0x0, 0x0, 0x0, 0x0, 0x0, 0x0⟩,
  ⟨0x1014, 0x0, 1, 0x0, 0x0, 0x0, 0x0, 0x0, 0x0⟩,
  ⟨0x1018, 0x0, 1, 0x0, 0x0, 0x0, 0x0, 0x0, 0x0⟩,
  ⟨0x101c, 0x0, 1, 0x0, 0x0, 0x0, 0x0, 0x0, 0x0⟩,
  ⟨0x1020, 0x0, 1, 0x0, 0x0, 0x0, 0x0, 0x0, 0x0⟩,
  ⟨0x1024, 0x0, 1, 0x0, 0x0, 0x0, 0x0, 0x0, 0x0⟩,
  ⟨0x1028, 0x0, 1, 0x0, 0x0, 0x0, 0x0, 0x0, 0x0⟩]
/-- Rows of the `HI` block. -/
def rowsHI : List RegRow := [
  ⟨0x10000, 0x0, 1, 0x200, 0x0, 0x1, 0x330, 0x0, 0x80000000⟩,
  ⟨0x10004, 0x0, 1, 0x0, 0x0, 0x0, 0x0, 0x0, 0x0⟩,
  ⟨0x10008, 0x0, 1, 0x40, 0x0, 0xff, 0x0, 0x0, 0x0⟩,
  ⟨0x1000c, 0x0, 1, 0x0, 0x0, 0x0, 0x0, 0x0, 0x0⟩,
  ⟨0x10010, 0x0, 1, 0x8000000, 0x0, 0x0, 0x0, 0x0, 0x0⟩,
  ⟨0x10014, 0x0, 1, 0x0, 0x0, 0x0, 0x0, 0x3f, 0x0⟩,
  ⟨0x10018, 0x0, 1, 0x0, 0x0, 0x3f, 0x0, 0x0, 0x0⟩,
  ⟨0x1001c, 0x0, 1, 0x14, 0x0, 0x3f, 0x0, 0x0, 0x0⟩,
  ⟨0x10020, 0x0, 1, 0x0, 0x0, 0x0, 0x0, 0x0, 0x0⟩,
  ⟨0x10024, 0x0, 1, 0x0, 0x0, 0x0, 0x0, 0x0, 0x0⟩,
  ⟨0x10028, 0x0, 1, 0x0, 0x0, 0x0, 0x0, 0x0, 0x0⟩]
/-- Rows of the `Ring` block. -/
def rowsRing : List RegRow := [
  ⟨0x11000, 0x20, 16, 0x0, 0x0, 0xfffff000, 0x0, 0x0, 0x0⟩,
  ⟨0x11004, 0x20, 16, 0x0, 0x0, 0xffffffff, 0x0, 0x0, 0x0⟩,
  ⟨0x11008, 0x20, 16, 0x30100, 0x1000000, 0x8f0f07ff, 0x0, 0x0, 0x0⟩,
  ⟨0x1100c, 0x20, 16, 0x0, 0x0, 0x0, 0x0, 0x0, 0x0⟩,
  ⟨0x11010, 0x20, 16, 0x0, 0x0, 0x0, 0x0, 0x0, 0x0⟩,
  ⟨0x11014, 0x20, 16, 0x0, 0x0, 0x0, 0x0, 0x0, 0x0⟩,
  ⟨0x11200, 0x20, 16, 0x0, 0x0, 0xfffff000, 0x0, 0x0, 0x0⟩,
  ⟨0x11204, 0x20, 16, 0x0, 0x0, 0xffffffff, 0x0, 0x0, 0x0⟩,
  ⟨0x11208, 0x20, 16, 0x30000, 0x0, 0x800f0000, 0x0, 0x0, 0x0⟩,
  ⟨0x1120c, 0x20, 16, 0x80010000, 0x1000000, 0xbfffffff, 0x0, 0x0, 0x0⟩,
  ⟨0x11210, 0x20, 16, 0x0, 0x0, 0x0, 0x0, 0x0, 0x0⟩,
  ⟨0x11400, 0x20, 4, 0x0, 0x0, 0xfffff000, 0x0, 0x0, 0x0⟩,
  ⟨0x11404, 0x20, 4, 0x0, 0x0, 0xffffffff, 0x0, 0x0, 0x0⟩,
  ⟨0x11408, 0x20, 4, 0x39001, 0x100, 0x800fbfff, 0x0, 0x0, 0x0⟩,
  ⟨0x1140c, 0x20, 4, 0x0, 0x0, 0x0, 0x0, 0x0, 0x0⟩]
/-- Rows of the `PP` block. -/
def rowsPP : List RegRow := [
  ⟨0x20000, 0x0, 1, 0x6, 0x0, 0x0, 0x6, 0x0, 0x80000000⟩,
  ⟨0x20004, 0x0, 1, 0x70f00000, 0x0, 0x0, 0x0, 0x0, 0x0⟩,
  ⟨0x20008, 0x0, 1, 0x0, 0x0, 0x0, 0x0, 0x0, 0x0⟩,
  ⟨0x2000c, 0x0, 1, 0x3c3210, 0x0, 0xffffff, 0x0, 0x0, 0x0⟩,
  ⟨0x20010, 0x0, 1, 0x14e61450, 0x0, 0x0, 0xffffffff, 0x0, 0x0⟩,
  ⟨0x20014, 0x0, 1, 0x16a81388, 0x0, 0x0, 0xffffffff, 0x0, 0x0⟩,
  ⟨0x20018, 0x0, 1, 0x0, 0x0, 0x0, 0x0, 0x1fff, 0x0⟩,
  ⟨0x2001c, 0x0, 1, 0x0, 0x0, 0x1fff, 0x0, 0x0, 0x0⟩,
  ⟨0x20020, 0x0, 1, 0x0, 0x0, 0x0, 0x0, 0x0, 0x0⟩,
  ⟨0x20040, 0x0, 1, 0x27104e20, 0x0, 0x0, 0xffffffff, 0x0, 0x0⟩,
  ⟨0x20044, 0x0, 1, 0x0, 0x0, 0x0, 0xffffffff, 0x0, 0x0⟩,
  ⟨0x20048, 0x0, 1, 0x0, 0x0, 0x0, 0xffff, 0x0, 0x0⟩,
  ⟨0x20100, 0x8, 8, 0x6400, 0x0, 0x0, 0xffffff01, 0x0, 0x0⟩,
  ⟨0x20104, 0x8, 8, 0x0, 0x0, 0x0, 0x0, 0x0, 0x0⟩,
  ⟨0x20200, 0x10, 8, 0x4e204e20, 0x0, 0x0, 0xffffffff, 0x0, 0x0⟩,
  ⟨0x20204, 0x10, 8, 0x0, 0x0, 0x0, 0xffffffff, 0x0, 0x0⟩,
  ⟨0x20208, 0x10, 8, 0x0, 0x0, 0x0, 0xffff, 0x0, 0x0⟩]
/-- Rows of the `SP` block. -/
def rowsSP : List RegRow := [
  ⟨0x21000, 0x40, 4, 0x320101, 0x0, 0x0, 0xff0133, 0x0, 0x0⟩,
  ⟨0x21004, 0x40, 4, 0x12c01388, 0x0, 0x0, 0xffffffff, 0x0, 0x0⟩,
  ⟨0x21008, 0x40, 4, 0x3216a8, 0x0, 0x0, 0xffffffff, 0x0, 0x0⟩,
  ⟨0x2100c, 0x40, 4, 0x9c40191e, 0x0, 0x0, 0xffffffff, 0x0, 0x0⟩,
  ⟨0x21010, 0x40, 4, 0x0, 0x0, 0x0, 0x0, 0x0, 0x0⟩,
  ⟨0x21014, 0x40, 4, 0x0, 0x0, 0x0, 0x0, 0x0, 0x0⟩,
  ⟨0x21018, 0x40, 4, 0x0, 0x0, 0x0, 0x0, 0x0, 0x0⟩,
  ⟨0x2101c, 0x40, 4, 0x0, 0x0, 0x0, 0x0, 0x0, 0x0⟩,
  ⟨0x21020, 0x40, 4, 0x27104e20, 0x0, 0x0, 0xffffffff, 0x0, 0x0⟩,
  ⟨0x21024, 0x40, 4, 0x0, 0x0, 0x0, 0xffffffff, 0x0, 0x0⟩,
  ⟨0x21028, 0x40, 4, 0x0, 0x0, 0x0, 0xffff, 0x0, 0x0⟩,
  ⟨0x2103c, 0x0, 1, 0x0, 0x0, 0x0, 0x0, 0x0, 0x1⟩]
/-- Rows of the `TL` block. -/
def rowsTL : List RegRow := [
  ⟨0x30000, 0x400, 8, 0x3, 0x0, 0x0, 0x1f, 0x0, 0x80000000⟩,
  ⟨0x30004, 0x400, 8, 0x0, 0x0, 0x0, 0x0, 0x0, 0x0⟩,
  ⟨0x30008, 0x400, 8, 0x0, 0x0, 0x0, 0x0, 0x0, 0x0⟩,
  ⟨0x3000c, 0x400, 8, 0x0, 0x0, 0x0, 0x0, 0x7f, 0x0⟩,
  ⟨0x30010, 0x400, 8, 0x0, 0x0, 0x7f, 0x0, 0x0, 0x0⟩,
  ⟨0x30014, 0x400, 8, 0x0, 0x0, 0x0, 0x0, 0x0, 0x0⟩,
  ⟨0x30018, 0x400, 8, 0x400, 0x0, 0x0, 0x71fc00, 0x0, 0x0⟩,
  ⟨0x3001c, 0x400, 8, 0x0, 0x0, 0x0, 0x0, 0x0, 0x0⟩,
  ⟨0x30020, 0x400, 8, 0x0, 0x0, 0x0, 0x0, 0x0, 0x0⟩,
  ⟨0x30024, 0x400, 8, 0x0, 0x0, 0x0, 0x0, 0x0, 0x0⟩,
  ⟨0x30028, 0x400, 8, 0x0, 0x0, 0x0, 0xffffffff, 0x0, 0x0⟩,
  ⟨0x30044, 0x400, 8, 0x0, 0x0, 0x0, 0x0, 0x0, 0x0⟩,
  ⟨0x30048, 0x400, 8, 0x0, 0x0, 0x0, 0x0, 0x0, 0x0⟩,
  ⟨0x3004c, 0x400, 8, 0x0, 0x0, 0x0, 0x0, 0x0, 0x0⟩,
  ⟨0x30050, 0x400, 8, 0x0, 0x0, 0x0, 0x0, 0x1fff, 0x0⟩,
  ⟨0x30054, 0x400, 8, 0x0, 0x0, 0x1fff, 0x0, 0x0, 0x0⟩,
  ⟨0x30058, 0x400, 8, 0x0, 0x0, 0x0, 0x0, 0x0, 0x0⟩,
  ⟨0x3005c, 0x400, 8, 0x0, 0x0, 0x0, 0x0, 0x0, 0x0⟩,
  ⟨0x3002c, 0x400, 8, 0x0, 0x0, 0x0, 0x0, 0x0, 0x0⟩,
  ⟨0x30030, 0x400, 8, 0x0, 0x0, 0x0, 0x0, 0x0, 0x0⟩,
  ⟨0x30034, 0x400, 8, 0x0, 0x0, 0x0, 0x0, 0x0, 0x0⟩,
  ⟨0x30038, 0x400, 8, 0x0, 0x0, 0x0, 0x0, 0x0, 0x0⟩,
  ⟨0x3003c, 0x400, 8, 0x0, 0x0, 0x0, 0x0, 0x0, 0x0⟩,
  ⟨0x30040, 0x400, 8, 0x0, 0x0, 0x0, 0x0, 0x0, 0x0⟩]
/-- Rows of the `WD` block. -/
def rowsWD : List RegRow := [
  ⟨0x40000, 0x0, 1, 0x0, 0x0, 0x0, 0x0, 0x0, 0x80000001⟩,
  ⟨0x40004, 0x0, 1, 0x80078, 0x0, 0x0, 0xffffff, 0x0, 0x0⟩,
  ⟨0x40008, 0x0, 1, 0x3203e8, 0x0, 0xffffff, 0x0, 0x0, 0x0⟩,
  ⟨0x4000c, 0x0, 1, 0x0, 0x0, 0x0, 0x0, 0x0, 0x0⟩,
  ⟨0x40010, 0x0, 1, 0x0, 0x0, 0x0, 0x0, 0x0, 0x0⟩,
  ⟨0x40014, 0x0, 1, 0x0, 0x0, 0x0, 0x0, 0x0, 0x0⟩,
  ⟨0x40018, 0x0, 1, 0x0, 0x0, 0x0, 0x0, 0x0, 0x0⟩,
  ⟨0x4001c, 0x0, 1, 0x0, 0x0, 0x0, 0x0, 0xf, 0x0⟩,
  ⟨0x40020, 0x0, 1, 0x0, 0x0, 0xf, 0x0, 0x0, 0x0⟩,
  ⟨0x40024, 0x0, 1, 0x0, 0x0, 0x0, 0x0, 0x0, 0x0⟩,
  ⟨0x40028, 0x0, 1, 0x3203e8, 0x0, 0x0, 0x0, 0x0, 0x0⟩]
/-- Rows of the `FC` block, part 0. -/
def rowsFC0 : List RegRow := [
  ⟨0x41000, 0x0, 1, 0x0, 0x0, 0x0, 0x3, 0x0, 0x80000000⟩,
  ⟨0x41004, 0x0, 1, 0x0, 0x0, 0x0, 0x0, 0x0, 0x0⟩,
  ⟨0x41008, 0x0, 1, 0x0, 0x0, 0x0, 0x0, 0x3ff, 0x0⟩,
  ⟨0x4100c, 0x0, 1, 0x0, 0x0, 0x3ff, 0x0, 0x0, 0x0⟩,
  ⟨0x41010, 0x0, 1, 0x0, 0x0, 0x0, 0x0, 0x0, 0x0⟩,
  ⟨0x41014, 0x0, 1, 0x0, 0x0, 0x0, 0x0, 0x0, 0x0⟩,
  ⟨0x41018, 0x0, 1, 0x0, 0x0, 0x0, 0x0, 0x0, 0x0⟩,
  ⟨0x4101c, 0x0, 1, 0x0, 0x0, 0x0, 0x0, 0x0, 0x0⟩,
  ⟨0x41020, 0x0, 1, 0x0, 0x0, 0x0, 0x0, 0x0, 0x0⟩,
  ⟨0x41024, 0x0, 1, 0x0, 0x0, 0x0, 0x0, 0x0, 0x0⟩,
  ⟨0x41028, 0x0, 1, 0x0, 0x0, 0x0, 0x0, 0x0, 0x0⟩,
  ⟨0x4102c, 0x0, 1, 0x0, 0x0, 0x0, 0x0, 0x0, 0x0⟩,
  ⟨0x41030, 0x0, 1, 0x0, 0x0, 0x0, 0x0, 0x7f, 0x0⟩,
  ⟨0x41034, 0x0, 1, 0x780000, 0x0, 0x0, 0xffff0000, 0x0, 0x0⟩,
  ⟨0x41038, 0x0, 1, 0x0, 0x0, 0x0, 0x0, 0x0, 0x0⟩,
  ⟨0x4103c, 0x0, 1, 0x0, 0x0, 0x0, 0x0, 0x0, 0x0⟩,
  ⟨0x41040, 0x0, 1, 0x0, 0x0, 0x0, 0x0, 0x0, 0x0⟩,
  ⟨0x41044, 0x0, 1, 0x0, 0x0, 0x0, 0x0, 0x0, 0x0⟩,
  ⟨0x41048, 0x0, 1, 0x0, 0x0, 0x0, 0x0, 0x0, 0x0⟩,
  ⟨0x4104c, 0x0, 1, 0x0, 0x0, 0x0, 0x0, 0x0, 0x0⟩,
  ⟨0x41050, 0x0, 1, 0x0, 0x0, 0x0, 0x0, 0x0, 0x0⟩,
  ⟨0x41054, 0x0, 1, 0x0, 0x0, 0x0, 0x0, 0x0, 0x0⟩,
  ⟨0x41058, 0x0, 1, 0x0, 0x0, 0x0, 0x0, 0x0, 0x0⟩,
  ⟨0x4105c, 0x0, 1, 0x0, 0x0, 0x0, 0x0, 0x0, 0x0⟩]
/-- Rows of the `FC` block, part 1. -/
def rowsFC1 : List RegRow := [
  ⟨0x41060, 0x0, 1, 0x0, 0x0, 0x0, 0x0, 0x0, 0x0⟩,
  ⟨0x41064, 0x0, 1, 0x0, 0x0, 0x0, 0x0, 0x0, 0x0⟩,
  ⟨0x41100, 0x0, 1, 0x0, 0x0, 0x0, 0xfffffffc, 0x0, 0x0⟩,
  ⟨0x41104, 0x0, 1, 0x143043d0, 0x0, 0x0, 0xfffffffc, 0x0, 0x0⟩,
  ⟨0x41108, 0x0, 1, 0x143043d0, 0x0, 0x0, 0xfffffffc, 0x0, 0x0⟩,
  ⟨0x4110c, 0x0, 1, 0x143043d0, 0x0, 0x0, 0xfffffffc, 0x0, 0x0⟩,
  ⟨0x41110, 0x0, 1, 0x143043d0, 0x0, 0x0, 0xfffffffc, 0x0, 0x0⟩,
  ⟨0x41114, 0x0, 1, 0x143043d0, 0x0, 0x0, 0xfffffffc, 0x0, 0x0⟩,
  ⟨0x41118, 0x0, 1, 0x143043d0, 0x0, 0x0, 0xfffffffc, 0x0, 0x0⟩,
  ⟨0x4111c, 0x0, 1, 0x143043d0, 0x0, 0x0, 0xfffffffc, 0x0, 0x0⟩,
  ⟨0x41120, 0x0, 1, 0x143043d0, 0x0, 0x0, 0xfffffffc, 0x0, 0x0⟩,
  ⟨0x41124, 0x0, 1, 0x143043d0, 0x0, 0x0, 0xfffffffc, 0x0, 0x0⟩,
  ⟨0x41128, 0x0, 1, 0x143043d0, 0x0, 0x0, 0xfffffffc, 0x0, 0x0⟩,
  ⟨0x4112c, 0x0, 1, 0x143043d0, 0x0, 0x0, 0xfffffffc, 0x0, 0x0⟩,
  ⟨0x41130, 0x0, 1, 0x143043d0, 0x0, 0x0, 0xfffffffc, 0x0, 0x0⟩,
  ⟨0x41134, 0x0, 1, 0x0, 0x0, 0x0, 0xfffffffc, 0x0, 0x0⟩,
  ⟨0x41138, 0x0, 1, 0x0, 0x0, 0x0, 0xfffffffc, 0x0, 0x0⟩,
  ⟨0x4113c, 0x0, 1, 0x0, 0x0, 0x0, 0xfffffffc, 0x0, 0x0⟩,
  ⟨0x41140, 0x0, 1, 0x245043d0, 0x0, 0x0, 0xfffffffc, 0x0, 0x0⟩,
  ⟨0x41144, 0x0, 1, 0x245043d0, 0x0, 0x0, 0xfffffffc, 0x0, 0x0⟩,
  ⟨0x41148, 0x0, 1, 0x245043d0, 0x0, 0x0, 0xfffffffc, 0x0, 0x0⟩,
  ⟨0x4114c, 0x0, 1, 0x245043d0, 0x0, 0x0, 0xfffffffc, 0x0, 0x0⟩,
  ⟨0x41150, 0x0, 1, 0x245043d0, 0x0, 0x0, 0xfffffffc, 0x0, 0x0⟩,
  ⟨0x41154, 0x0, 1, 0x245043d0, 0x0, 0x0, 0xfffffffc, 0x0, 0x0⟩]
/-- Rows of the `FC` block, part 2. -/
def rowsFC2 : List RegRow := [
  ⟨0x41158, 0x0, 1, 0x245043d0, 0x0, 0x0, 0xfffffffc, 0x0, 0x0⟩,
  ⟨0x4115c, 0x0, 1, 0x0, 0x0, 0x0, 0xfffffffc, 0x0, 0x0⟩,
  ⟨0x41160, 0x0, 1, 0x0, 0x0, 0x0, 0xfffffffc, 0x0, 0x0⟩,
  ⟨0x41164, 0x0, 1, 0x0, 0x0, 0x0, 0xfffffffc, 0x0, 0x0⟩,
  ⟨0x41168, 0x0, 1, 0x0, 0x0, 0x0, 0xfffffffc, 0x0, 0x0⟩,
  ⟨0x4116c, 0x0, 1, 0x0, 0x0, 0x0, 0xfffffffc, 0x0, 0x0⟩,
  ⟨0x41170, 0x0, 1, 0x0, 0x0, 0x0, 0xfffffffc, 0x0, 0x0⟩,
  ⟨0x41174, 0x0, 1, 0x0, 0x0, 0x0, 0xfffffffc, 0x0, 0x0⟩,
  ⟨0x41178, 0x0, 1, 0x0, 0x0, 0x0, 0xfffffffc, 0x0, 0x0⟩,
  ⟨0x4117c, 0x0, 1, 0x0, 0x0, 0x0, 0xfffffffc, 0x0, 0x0⟩,
  ⟨0x41180, 0x0, 1, 0xa41043d0, 0x0, 0x0, 0xfffffffc, 0x0, 0x0⟩,
  ⟨0x41184, 0x0, 1, 0xa41043d0, 0x0, 0x0, 0xfffffffc, 0x0, 0x0⟩,
  ⟨0x41188, 0x0, 1, 0xa41043d0, 0x0, 0x0, 0xfffffffc, 0x0, 0x0⟩,
  ⟨0x4118c, 0x0, 1, 0xa41043d0, 0x0, 0x0, 0xfffffffc, 0x0, 0x0⟩,
  ⟨0x41190, 0x0, 1, 0x4104000, 0x0, 0x0, 0xfffffffc, 0x0, 0x0⟩,
  ⟨0x41194, 0x0, 1, 0xa41043d0, 0x0, 0x0, 0xfffffffc, 0x0, 0x0⟩,
  ⟨0x41198, 0x0, 1, 0xa41043d0, 0x0, 0x0, 0xfffffffc, 0x0, 0x0⟩,
  ⟨0x4119c, 0x0, 1, 0xa41043d0, 0x0, 0x0, 0xfffffffc, 0x0, 0x0⟩,
  ⟨0x411a0, 0x0, 1, 0x0, 0x0, 0x0, 0xfffffffc, 0x0, 0x0⟩,
  ⟨0x411a4, 0x0, 1, 0x0, 0x0, 0x0, 0xfffffffc, 0x0, 0x0⟩,
  ⟨0x411a8, 0x0, 1, 0x0, 0x0, 0x0, 0xfffffffc, 0x0, 0x0⟩,
  ⟨0x411ac, 0x0, 1, 0x0, 0x0, 0x0, 0xfffffffc, 0x0, 0x0⟩,
  ⟨0x411b0, 0x0, 1, 0x0, 0x0, 0x0, 0xfffffffc, 0x0, 0x0⟩,
  ⟨0x411b4, 0x0, 1, 0x0, 0x0, 0x0, 0xfffffffc, 0x0, 0x0⟩]
/-- Rows of the `FC` block, part 3. -/
def rowsFC3 : List RegRow := [
  ⟨0x411b8, 0x0, 1, 0x0, 0x0, 0x0, 0xfffffffc, 0x0, 0x0⟩,
  ⟨0x411bc, 0x0, 1, 0x0, 0x0, 0x0, 0xfffffffc, 0x0, 0x0⟩,
  ⟨0x411c0, 0x0, 1, 0x441043d0, 0x0, 0x0, 0xfffffffc, 0x0, 0x0⟩,
  ⟨0x411c4, 0x0, 1, 0x441043d0, 0x0, 0x0, 0xfffffffc, 0x0, 0x0⟩,
  ⟨0x411c8, 0x0, 1, 0x441043d0, 0x0, 0x0, 0xfffffffc, 0x0, 0x0⟩,
  ⟨0x411cc, 0x0, 1, 0x4105040, 0x0, 0x0, 0xfffffffc, 0x0, 0x0⟩,
  ⟨0x411d0, 0x0, 1, 0x441043d0, 0x0, 0x0, 0xfffffffc, 0x0, 0x0⟩,
  ⟨0x411d4, 0x0, 1, 0x441043d0, 0x0, 0x0, 0xfffffffc, 0x0, 0x0⟩,
  ⟨0x411d8, 0x0, 1, 0x441043d0, 0x0, 0x0, 0xfffffffc, 0x0, 0x0⟩,
  ⟨0x411dc, 0x0, 1, 0x441043d0, 0x0, 0x0, 0xfffffffc, 0x0, 0x0⟩,
  ⟨0x411e0, 0x0, 1, 0x4104000, 0x0, 0x0, 0xfffffffc, 0x0, 0x0⟩,
  ⟨0x411e4, 0x0, 1, 0x441043d0, 0x0, 0x0, 0xfffffffc, 0x0, 0x0⟩,
  ⟨0x411e8, 0x0, 1, 0x441043d0, 0x0, 0x0, 0xfffffffc, 0x0, 0x0⟩,
  ⟨0x411ec, 0x0, 1, 0x441043d0, 0x0, 0x0, 0xfffffffc, 0x0, 0x0⟩,
  ⟨0x411f0, 0x0, 1, 0x441043d0, 0x0, 0x0, 0xfffffffc, 0x0, 0x0⟩,
  ⟨0x411f4, 0x0, 1, 0x441043d0, 0x0, 0x0, 0xfffffffc, 0x0, 0x0⟩,
  ⟨0x411f8, 0x0, 1, 0x441043d0, 0x0, 0x0, 0xfffffffc, 0x0, 0x0⟩,
  ⟨0x411fc, 0x0, 1, 0x0, 0x0, 0x0, 0xfffffffc, 0x0, 0x0⟩]
/-- Rows of the `FC` block. -/
def rowsFC : List RegRow := rowsFC0 ++ rowsFC1 ++ rowsFC2 ++ rowsFC3
/-- Rows of the `TRC` block. -/
def rowsTRC : List RegRow := [
  ⟨0x50000, 0x0, 1, 0xff01, 0x0, 0x8, 0xff17, 0x0, 0x80000000⟩,
  ⟨0x50004, 0x0, 1, 0x0, 0x0, 0x0, 0x0, 0x0, 0x0⟩,
  ⟨0x50008, 0x0, 1, 0x0, 0x0, 0x0, 0x0, 0x0, 0x0⟩,
  ⟨0x5000c, 0x0, 1, 0x0, 0x0, 0xfffff000, 0x0, 0x0, 0x0⟩,
  ⟨0x50010, 0x0, 1, 0x0, 0x0, 0xffffffff, 0x0, 0x0, 0x0⟩,
  ⟨0x50014, 0x0, 1, 0x6, 0x0, 0x1f, 0x0, 0x0, 0x0⟩,
  ⟨0x50018, 0x0, 1, 0x0, 0x0, 0x0, 0x0, 0x0, 0x0⟩,
  ⟨0x5001c, 0x0, 1, 0x0, 0x0, 0xfffffff0, 0x0, 0x0, 0x0⟩,
  ⟨0x50020, 0x0, 1, 0x0, 0x0, 0x0, 0x0, 0x1f, 0x0⟩,
  ⟨0x50024, 0x0, 1, 0x0, 0x0, 0x1f, 0x0, 0x0, 0x0⟩,
  ⟨0x50028, 0x0, 1, 0x400, 0x0, 0x0, 0x1ffff, 0x0, 0x0⟩,
  ⟨0x5002c, 0x0, 1, 0x0, 0x0, 0x0, 0x0, 0x0, 0x0⟩,
  ⟨0x50030, 0x0, 1, 0x0, 0x0, 0x0, 0x0, 0x0, 0x0⟩]
/-- Rows of the `TM` block. -/
def rowsTM : List RegRow := [
  ⟨0x51000, 0x0, 1, 0x2, 0x0, 0x0, 0x2, 0x0, 0x80000000⟩,
  ⟨0x51004, 0x0, 1, 0x0, 0x0, 0x0, 0x0, 0x0, 0x0⟩,
  ⟨0x51008, 0x0, 1, 0x0, 0x0, 0x0, 0x0, 0xff, 0x0⟩,
  ⟨0x5100c, 0x0, 1, 0x0, 0x0, 0xff, 0x0, 0x0, 0x0⟩,
  ⟨0x51010, 0x0, 1, 0x0, 0x0, 0xffff, 0x0, 0x0, 0x80000000⟩,
  ⟨0x51014, 0x0, 1, 0x0, 0x0, 0x0, 0x0, 0xff, 0x0⟩,
  ⟨0x51018, 0x0, 1, 0x0, 0x0, 0x0, 0x0, 0x0, 0x0⟩,
  ⟨0x5101c, 0x0, 1, 0x0, 0x0, 0x0, 0x0, 0x0, 0x0⟩,
  ⟨0x51020, 0x0, 1, 0x1e320000, 0x0, 0x0, 0xffffffff, 0x0, 0x0⟩,
  ⟨0x51024, 0x0, 1, 0x201d6, 0x0, 0x0, 0xc0ffffff, 0x0, 0x0⟩,
  ⟨0x51028, 0x0, 1, 0x1f40064, 0x0, 0x0, 0xffffffff, 0x0, 0x0⟩,
  ⟨0x5102c, 0x0, 1, 0x0, 0x0, 0x0, 0x0, 0x0, 0x0⟩,
  ⟨0x51030, 0x0, 1, 0xf, 0x0, 0x0, 0xff, 0x0, 0x0⟩,
  ⟨0x51034, 0x0, 1, 0x0, 0x0, 0x0, 0x0, 0x0, 0x0⟩]
/-- Rows of the `LP` block. -/
def rowsLP : List RegRow := [
  ⟨0x52000, 0x0, 1, 0xf, 0x0, 0x0, 0xf, 0x0, 0x80000000⟩,
  ⟨0x52004, 0x0, 1, 0xffff0000, 0x0, 0x0, 0x0, 0x0, 0x0⟩,
  ⟨0x52008, 0x0, 1, 0x4000, 0x0, 0x0, 0x0, 0x0, 0x0⟩,
  ⟨0x52010, 0x0, 1, 0x86120000, 0x0, 0x0, 0x0, 0x0, 0x0⟩,
  ⟨0x52014, 0x0, 1, 0x82100000, 0x0, 0x0, 0x8f330f00, 0x0, 0x0⟩,
  ⟨0x52018, 0x0, 1, 0x85020000, 0x0, 0x0, 0x8f330f00, 0x0, 0x0⟩,
  ⟨0x5201c, 0x0, 1, 0x80010000, 0x0, 0x0, 0x8f330f00, 0x0, 0x0⟩,
  ⟨0x52020, 0x0, 1, 0x81000000, 0x0, 0x0, 0x8f330f00, 0x0, 0x0⟩,
  ⟨0x52024, 0x0, 1, 0x89230400, 0x0, 0x0, 0x8f330f00, 0x0, 0x0⟩,
  ⟨0x52028, 0x0, 1, 0x8a230300, 0x0, 0x0, 0x8f330f00, 0x0, 0x0⟩,
  ⟨0x5202c, 0x0, 1, 0x83210000, 0x0, 0x0, 0x8f330f00, 0x0, 0x0⟩,
  ⟨0x52030, 0x0, 1, 0x87330200, 0x0, 0x0, 0x8f330f00, 0x0, 0x0⟩,
  ⟨0x52034, 0x0, 1, 0x88320000, 0x0, 0x0, 0x8f330f00, 0x0, 0x0⟩,
  ⟨0x52038, 0x0, 1, 0x84310000, 0x0, 0x0, 0x8f330f00, 0x0, 0x0⟩,
  ⟨0x5203c, 0x0, 1, 0x8b130200, 0x0, 0x0, 0x8f330f00, 0x0, 0x0⟩]
/-- Rows of the `AT` block. -/
def rowsAT : List RegRow := [
  ⟨0x60000, 0x0, 1, 0x1, 0x0, 0x0, 0x1, 0x0, 0x80000000⟩,
  ⟨0x60004, 0x0, 1, 0x0, 0x0, 0x0, 0x0, 0x0, 0x0⟩,
  ⟨0x60008, 0x0, 1, 0x0, 0x0, 0x0, 0x0, 0x0, 0x0⟩,
  ⟨0x6000c, 0x0, 1, 0x0, 0x0, 0x0, 0x0, 0x3, 0x0⟩,
  ⟨0x60010, 0x0, 1, 0x0, 0x0, 0x3, 0x0, 0x0, 0x0⟩,
  ⟨0x60014, 0x0, 1, 0x0, 0x0, 0x0, 0x0, 0x0, 0x0⟩]
/-- Rows of the `SV` block. -/
def rowsSV : List RegRow := [
  ⟨0x70000, 0x0, 1, 0x10000, 0x0, 0x0, 0x10000, 0x0, 0x80000000⟩,
  ⟨0x70004, 0x0, 1, 0x54000000, 0x0, 0x0, 0x0, 0x0, 0x0⟩,
  ⟨0x70008, 0x0, 1, 0x0, 0x0, 0x0, 0x0, 0x0, 0x0⟩,
  ⟨0x7000c, 0x0, 1, 0x0, 0x0, 0x0, 0x0, 0x1f, 0x0⟩,
  ⟨0x70010, 0x0, 1, 0x0, 0x0, 0x1f, 0x0, 0x0, 0x0⟩,
  ⟨0x70014, 0x0, 1, 0x0, 0x0, 0x0, 0x0, 0x0, 0x0⟩,
  ⟨0x70018, 0x0, 1, 0x0, 0x0, 0x0, 0x0, 0x0, 0x0⟩,
  ⟨0x7001c, 0x0, 1, 0x0, 0x0, 0x0, 0x0, 0x0, 0x0⟩,
  ⟨0x70020, 0x0, 1, 0x0, 0x0, 0x0, 0x0, 0x0, 0x0⟩,
  ⟨0x70024, 0x0, 1, 0x0, 0x0, 0x0, 0x0, 0x0, 0x0⟩]
/-- Rows of the `LD` block. -/
def rowsLD : List RegRow := [
  ⟨0x80000, 0x0, 1, 0xa0c, 0x0, 0x0, 0xff0c, 0x0, 0x80000000⟩,
  ⟨0x80004, 0x0, 1, 0x1f4, 0x0, 0x0, 0xffff, 0x0, 0x0⟩,
  ⟨0x80008, 0x0, 1, 0x0, 0x0, 0x0, 0x0, 0x0, 0x0⟩,
  ⟨0x8000c, 0x0, 1, 0x1000100, 0x0, 0x0, 0x0, 0x0, 0x0⟩,
  ⟨0x80010, 0x0, 1, 0x0, 0x0, 0x0, 0x0, 0x0, 0x0⟩,
  ⟨0x80014, 0x0, 1, 0x0, 0x0, 0x0, 0x0, 0x7ff, 0x0⟩,
  ⟨0x80018, 0x0, 1, 0x0, 0x0, 0x7ff, 0x0, 0x0, 0x0⟩,
  ⟨0x8001c, 0x0, 1, 0x0, 0x0, 0x0, 0x0, 0x0, 0x0⟩,
  ⟨0x80020, 0x0, 1, 0x0, 0x0, 0x0, 0x0, 0x0, 0x0⟩]
/-- Rows of the `CR` block. -/
def rowsCR : List RegRow := [
  ⟨0x90000, 0x0, 1, 0x3, 0x0, 0x0, 0x3, 0x0, 0x80000000⟩,
  ⟨0x90004, 0x0, 1, 0x3c, 0x0, 0x0, 0xffff, 0x0, 0x0⟩,
  ⟨0x90008, 0x0, 1, 0x0, 0x0, 0x0, 0x0, 0x0, 0x0⟩,
  ⟨0x9000c, 0x0, 1, 0x0, 0x0, 0x0, 0x0, 0x3f, 0x0⟩,
  ⟨0x90010, 0x0, 1, 0x0, 0x0, 0x3f, 0x0, 0x0, 0x0⟩,
  ⟨0x90014, 0x0, 1, 0x0, 0x0, 0x0, 0x0, 0x0, 0x0⟩,
  ⟨0x90018, 0x0, 1, 0x0, 0x0, 0x0, 0x0, 0x0, 0x0⟩]

/-- The rows of the block an offset lies in (R641). -/
def blockRows (a : Nat) : List RegRow :=
  if a < 0x1000 then rowsGL
  else if a < 0x2000 then rowsCK
  else if a < 0x11000 then rowsHI
  else if a < 0x12000 then rowsRing
  else if a < 0x21000 then rowsPP
  else if a < 0x22000 then rowsSP
  else if a < 0x32000 then rowsTL
  else if a < 0x41000 then rowsWD
  else if a < 0x42000 then rowsFC
  else if a < 0x51000 then rowsTRC
  else if a < 0x52000 then rowsTM
  else if a < 0x53000 then rowsLP
  else if a < 0x61000 then rowsAT
  else if a < 0x71000 then rowsSV
  else if a < 0x81000 then rowsLD
  else if a < 0x91000 then rowsCR
  else []

/-- Whether a row holds the register at offset `a`. -/
def RegRow.holds (r : RegRow) (a : Nat) : Bool :=
  r.base ≤ a && (if r.stride = 0 then a == r.base else (a - r.base) % r.stride == 0 && (a - r.base) / r.stride < r.count)

/-- The row of the register at offset `a`; none where the offset holds no register (R20). -/
def regRow (a : Nat) : Option RegRow := (blockRows a).find? (·.holds a)

/-- The reset value of the register at offset `a` as the tables state it for the ZRC-1024; 0 where there is none. -/
def tableReset (a : Nat) : Nat :=
  match regRow a with
  | some r => if r.stride = 0 then r.reset else r.reset + r.step * ((a - r.base) / r.stride)
  | none => 0

/-- Reset values of the BAR2 words: channel and flask entries, calibration entries, estimation parameters and
the objectives (the chapters' tables); every other word resets to 0. `o` is the BAR2 offset. -/
def bar2Reset (o : Nat) : Nat :=
  if o < 0x10000 then
    match o % 0x40 with
    | 0x00 => 0x00000007
    | 0x04 => 0x27102710
    | 0x08 => 0x16D00FA0
    | 0x0C => 0x17700ED8
    | 0x10 => 0x2AF80005
    | 0x14 => 0x06480A1B
    | 0x18 => 0x000000A5
    | 0x1C => 0x00000064
    | 0x28 => 0x00000064
    | 0x2C => 0x01C20226
    | 0x30 => 0xFF380258
    | 0x34 => 0x14324664
    | _ => 0
  else if o < 0x11000 then
    match o % 0x40 with
    | 0x00 => 0x7D503A80
    | 0x04 => 0x00000032
    | _ => 0
  else if 0x1A000 ≤ o ∧ o < 0x1E000 then
    match o % 0x10 with
    | 0x00 => 0xC3504E20
    | 0x0C => 0x0D6B03E8
    | _ => 0
  else if 0x38000 ≤ o ∧ o < 0x3C000 then
    match o % 0x10 with
    | 0x00 => 0x0014001F
    | 0x04 => 0x0BB805DC
    | 0x08 => 0x251C0064
    | _ => 0
  else if 0xD4000 ≤ o ∧ o < 0xD40A0 then
    match o - 0xD4000 with
    | 0x00 => 0x01000000
    | 0x04 => 0x0000003C
    | 0x08 => 0x190003E8
    | 0x0C => 0x27100400
    | 0x10 => 0x404000FA
    | 0x14 => 0x100A0030
    | 0x18 => 0xF8520000
    | _ => 0
  else 0

end Sys2Proof.Machine
end

