-- ==== Sys2Proof/Machine/LineCode.lean ====
section
/-! DEFINITION. The line of a tie-link (R311-R316, R361): the levels a transmitter drives for a packet or a tunnel frame, and what a
receiver reads from the voltage of `TLn_LCW`. -/

namespace Sys2Proof.Machine

/-! ## What is driven (R311, R314, R316, R361) -/

/-- What a port does to its line: it drives it low or high, or has released it. -/
inductive LcwDrive where
  | low
  | high
  | released
  deriving DecidableEq, Repr

/-- Voltages in mV at which a driven level stands (R311); a released line is at neither. -/
def LcwDrive.range : LcwDrive → Nat × Nat
  | .low => (0, 100)
  | .high => (1100, 1300)
  | .released => (0, 3000)

/-- Level runs of a bit, in half-bits: a 0 is one level for the whole bit, a 1 two half-bits; each run begins with a transition. -/
def bitRuns (b : Bool) : List Nat := if b then [1, 1] else [2]

/-- Bits of a word and of a byte in the order they are sent: least significant first (R316). -/
def wordBits (w : Word) : List Bool := (List.range 32).map w.getLsbD
def byteBits (b : Byte) : List Bool := (List.range 8).map b.getLsbD

/-- Preamble, start delimiter, body and end delimiter as level runs, in half-bits (R314). -/
def lineRuns (pre body : List Bool) : List Nat := pre.flatMap bitRuns ++ [3, 3] ++ body.flatMap bitRuns ++ [3, 1]

/-- Runs of a packet of words: 48 preamble bits 0, 1, 0, 1 ... -/
def packetRuns (ws : List Word) : List Nat := lineRuns ((List.range 48).map (fun i => i % 2 == 1)) (ws.flatMap wordBits)

/-- Runs of a tunnel frame: 32 preamble bits 1. -/
def tunnelRuns (hdr : Word) (bytes : List Byte) (crc : Word) : List Nat :=
  lineRuns (List.replicate 32 true) (wordBits hdr ++ bytes.flatMap byteBits ++ wordBits crc)

/-- Half-bit of a packet and of a tunnel frame, ns. -/
def packetHalf : Nat := 2000
def tunnelHalf : Nat := 500

/-- Levels driven for level runs, from a level on, with their lengths in ns; then the line is released. -/
def drives (half : Nat) : LcwDrive → List Nat → List (LcwDrive × Nat)
  | _, [] => [(.released, 0)]
  | d, r :: t => (d, r * half) :: drives half (if d = .high then .low else .high) t

/-- The levels on the line, the first half-bit high (R311). -/
def lineWave (half : Nat) (runs : List Nat) : List (LcwDrive × Nat) := drives half .high runs

/-- The last driven level is high. -/
def endsHigh (runs : List Nat) : Bool := runs.length % 2 == 1

/-- Driven level of each half-bit, as the transmitter checks it (R328). -/
def halfBits : Bool → List Nat → List Bool
  | _, [] => []
  | up, r :: t => List.replicate r up ++ halfBits (!up) t

/-- Half-bit at which the second of two consecutive samples differs from the level driven (R328). -/
def clash : Nat → Bool → List Bool → List Bool → Option Nat
  | k, before, d :: ds, x :: xs => if d ≠ x ∧ before then some k else clash (k + 1) (d != x) ds xs
  | _, _, _, _ => none

/-! ## Levels received (R312) -/

/-- The receiver's level at a voltage, from its level before: high above a threshold within 0.85 to 0.95 V, low below one within
0.25 to 0.35 V, which the part sets. -/
def lcwLevel (up : Bool) (mv : Nat) : Bool :=
  if 950 < mv then true
  else if mv < 250 then false
  else if 850 < mv ∧ Config.lcwRise < mv then true
  else if mv < 350 ∧ mv < Config.lcwFall then false
  else up

def lcwLevels : Bool → List (Nat × Nat) → List (Bool × Nat)
  | _, [] => []
  | up, (mv, d) :: t => (lcwLevel up mv, d) :: lcwLevels (lcwLevel up mv) t

/-- Join neighbouring runs of one level. -/
def joinRuns : List (Bool × Nat) → List (Bool × Nat)
  | [] => []
  | (l, d) :: t =>
    match joinRuns t with
    | (k, e) :: r => if l = k then (l, d + e) :: r else (l, d) :: (k, e) :: r
    | [] => [(l, d)]

/-- A level shorter than 187.5 ns is ignored. -/
def ignoreShort : Bool → List (Bool × Nat) → List (Bool × Nat)
  | _, [] => []
  | up, (l, d) :: t => if 2 * d < 375 then (up, d) :: ignoreShort up t else (l, d) :: ignoreShort l t

/-- Runs between accepted edges of segments (mV, ns), after `gap` ns at the level `up`. -/
def rxRuns (up : Bool) (gap : Nat) (wave : List (Nat × Nat)) : List (Bool × Nat) :=
  joinRuns (ignoreShort up (joinRuns ((up, gap) :: lcwLevels up wave)))

/-- Sample of the 16 MHz clock at a time in ns. -/
def sampleAt (t : Nat) : Nat := t * 16 / 1000

/-- Lengths of runs in samples, each with the sample at which it ends. -/
def samples : Nat → List (Bool × Nat) → List (Nat × Nat)
  | _, [] => []
  | t, (_, d) :: r => (sampleAt (t + d) - sampleAt t, sampleAt (t + d)) :: samples (t + d) r

/-! ## Run classes and symbols (R313, R361) -/

/-- A symbol on the line: a bit, a half-bit without a partner, a hold, an idle line, a framing error. -/
inductive LineSym where
  | zero
  | one
  | half
  | hold
  | idle
  | bad
  deriving DecidableEq, Repr

/-- Class of a run of `n` samples; `q` is 4 for packets and 1 for tunnel frames. -/
def runClass (q n : Nat) : LineSym :=
  if n < 4 * q then .bad else if n < 12 * q then .half else if n < 20 * q then .zero else if n < 28 * q then .hold else .idle

/-- Symbols of runs, each with its last sample. Two half-bits make a 1. The last run has no closing edge: the line stands idle in
it. -/
def symbols (q : Nat) : List (Nat × Nat) → List (LineSym × Nat)
  | [] => []
  | [(n, e)] => [(if n < 4 * q then .bad else .idle, e)]
  | (n, e) :: (m, f) :: t =>
    if runClass q n = .half ∧ runClass q m = .half ∧ !t.isEmpty then (.one, f) :: symbols q t
    else (runClass q n, e) :: symbols q ((m, f) :: t)

/-! ## The receiver (R315, R361) -/

/-- What the receiver is doing: waiting for an idle line after a discard; hunting for a preamble, with its run of valid bits and the
last; locked; after one hold; in the body, with the sample at which the start delimiter ended, bits left, whether they are the
header, place and value of the bits so far; after the body; after the hold of the end delimiter; done. -/
inductive RxPhase where
  | wait
  | hunt (run : Nat) (last : Bool)
  | locked
  | held
  | body (at_ left : Nat) (inHdr : Bool) (pos val : Nat)
  | tail (at_ val : Nat)
  | close (at_ val : Nat)
  | done (at_ val : Nat)
  deriving DecidableEq, Repr

/-- A discard: the receiver waits for line idle, which a run of idle already is. -/
def discard (y : LineSym) : RxPhase × Nat := (if y = .idle then .hunt 0 false else .wait, 1)

/-- A bit of the body; `len` gives the bits that follow a header, none where it announces none that can be. -/
def bodyBit (len : Word → Option Nat) (b : Bool) (at_ left : Nat) (inHdr : Bool) (pos val : Nat) : RxPhase × Nat :=
  let v := if b then val + 2 ^ pos else val
  if 1 < left then (.body at_ (left - 1) inHdr (pos + 1) v, 0)
  else if inHdr then
    match len (BitVec.ofNat 32 v) with
    | some n => (.body at_ n false (pos + 1) v, 0)
    | none => (.wait, 1)
  else (.tail at_ v, 0)

/-- The next valid preamble bit after a run of them that ended in `last`: packets alternate, tunnel frames hold ones only. -/
def preambleBit (tun b last : Bool) (run : Nat) : RxPhase × Nat :=
  let k := if tun then (if b then run + 1 else 0) else if run = 0 ∨ b ≠ last then run + 1 else 1
  (if k = 8 then .locked else .hunt k b, 0)

/-- One symbol: the next phase, and whether a packet was discarded. An unpaired half-bit of a tunnel preamble is its first, whose
level the line had before (DESIGN CHOICE, log 59). -/
def rxSymbol (tun : Bool) (len : Word → Option Nat) (p : RxPhase) (y : LineSym × Nat) : RxPhase × Nat :=
  match p with
  | .done a v => (.done a v, 0)
  | .wait => (if y.1 = .idle then .hunt 0 false else .wait, 0)
  | .hunt k l =>
    match y.1 with
    | .zero => preambleBit tun false l k
    | .one => preambleBit tun true l k
    | _ => (.hunt 0 false, 0)
  | .locked =>
    match y.1 with
    | .zero => (.locked, 0)
    | .one => (.locked, 0)
    | .hold => (.held, 0)
    | .half => if tun then (.locked, 0) else discard .half
    | z => discard z
  | .held => if y.1 = .hold then (.body y.2 32 true 0 0, 0) else discard y.1
  | .body a l h i v =>
    match y.1 with
    | .zero => bodyBit len false a l h i v
    | .one => bodyBit len true a l h i v
    | z => discard z
  | .tail a v => if y.1 = .hold then (.close a v, 0) else discard y.1
  | .close a v => if y.1 = .half ∨ y.1 = .one ∨ y.1 = .idle then (.done a v, 0) else discard y.1

/-- What a stretch of line gave: the phase at its end, and the packets discarded in it (R315). -/
def rxLine (tun : Bool) (len : Word → Option Nat) (p : RxPhase) (l : List (LineSym × Nat)) : RxPhase × Nat :=
  l.foldl (fun x y => ((rxSymbol tun len x.1 y).1, x.2 + (rxSymbol tun len x.1 y).2)) (p, 0)

/-- Word i of the bits of a body. -/
def bodyWord (v i : Nat) : Word := BitVec.ofNat 32 (v / 2 ^ (32 * i))
def bodyByte (v i : Nat) : Byte := BitVec.ofNat 8 (v / 2 ^ (8 * i))

/-- Bits after the header of a packet: `NDO` objects and the CRC; 13 to 15 objects there cannot be (R315). -/
def packetBits (h : Word) : Option Nat :=
  let n := (h.toNat / 2 ^ 22) % 16
  if n ≤ 12 then some (32 * (n + 1)) else none

/-- Bits after the header of a tunnel frame: its payload of 0 to 256 bytes, and the CRC. -/
def tunnelBits (h : Word) : Option Nat :=
  let n := h.toNat % 512
  if n ≤ 256 then some (8 * n + 32) else none

/-- The first eight preamble runs lie at 6 to 10 samples: a tunnel frame (R361). -/
def isTunnel (l : List (Nat × Nat)) : Bool :=
  let r := (l.drop 1).take 8
  r.length == 8 && r.all (fun x => decide (6 ≤ x.1) && decide (x.1 ≤ 10))

/-- The reading of a stretch of line: a packet (header, objects, CRC) or a tunnel frame (header, payload, CRC), with the ns from
the stretch's beginning to the end of its start delimiter, or nothing whole; packets discarded; the receiver waits for idle. -/
structure RxOut where
  packet : Option (Word × List Word × Word × Nat) := none
  tunnel : Option (Word × List Byte × Word × Nat) := none
  bad : Nat := 0
  wait : Bool := false
  deriving DecidableEq, Repr

/-- Receive the segments (mV, ns) of `wave`, `gap` ns after the line's last activity, which left the level `up`; `waiting`: a discard
has not been followed by an idle line; `mode2`: tunnel frames are received too. -/
def receive (up waiting mode2 : Bool) (gap : Nat) (wave : List (Nat × Nat)) : RxOut :=
  let l := samples 0 (rxRuns up gap wave)
  let tun := mode2 && isTunnel l
  let p : RxPhase := if waiting then .wait else .hunt 0 false
  let x := rxLine tun (if tun then tunnelBits else packetBits) p (symbols (if tun then 1 else 4) l)
  let bad := if tun then 0 else x.2
  match x.1 with
  | .done a v =>
    let h := bodyWord v 0
    if tun then
      let n := h.toNat % 512
      { tunnel := some (h, (List.range n).map (fun i => bodyByte v (4 + i)), BitVec.ofNat 32 (v / 2 ^ (32 + 8 * n)), a * 125 / 2 - gap), bad }
    else
      let n := (h.toNat / 2 ^ 22) % 16
      { packet := some (h, (List.range n).map (fun i => bodyWord v (1 + i)), bodyWord v (1 + n), a * 125 / 2 - gap), bad }
  | .wait => { bad, wait := true }
  | _ => { bad }

/-- Length of a stretch, ns, and the level at which it leaves the receiver. -/
def waveNs (wave : List (Nat × Nat)) : Nat := (wave.map (·.2)).sum
def waveLevel (up : Bool) (wave : List (Nat × Nat)) : Bool := (((rxRuns up 0 wave).getLast?).map (·.1)).getD up

end Sys2Proof.Machine
end

