-- ==== Sys2Proof/Machine/State.lean ====
section
/-! DEFINITION. The state of the module as plain data: the 32-bit words software can see (`words`), and under
them the state the spec's rules name that no register shows. -/

namespace Sys2Proof.Machine

/-- Reasons the machine stops. The spec gives every command and event of the table an effect, so there is none:
no meaning faults. -/
inductive Fault where
  deriving DecidableEq, Repr

/-- Refusals. -/
inductive Refusal where
  /-- A row of the table that has no meaning yet; raised by an arm of `exec` only. Safe: the machine stops where the
  hardware goes on. -/
  | notModelled (mnemonic : String)
  deriving DecidableEq, Repr

/-! ## Outputs -/

/-- What the module has put out to the outside, newest first in `State.out`: writes to host memory, interrupt
messages, packets on a tie-link, trace-port frames, bytes on the management port and pulses on pins. -/
inductive Out where
  /-- A completion entry written to completion ring `cq` at `idx` (R378). -/
  | completion (cq idx : Nat) (entry : List Word)
  /-- One entry of an event ring (R381). -/
  | event (ring idx : Nat) (entry : List Word)
  /-- Result data of the command holding `tag`, from offset `ofs` of the whole result: the bytes written at each host address, in the
  order of the buffer (R377). -/
  | data (tag ofs : Nat) (parts : List (Nat × List Byte))
  /-- An MSI-X message on a vector (R398, R399). -/
  | msix (vec : Nat)
  /-- A trace record copied to host memory at address `adr` (R626). -/
  | traceHost (adr : Nat) (words : List Word)
  /-- A frame on the trace port (R628): what `TRC_D3` to `TRC_D0` carry at its successive clock edges. -/
  | tracePort (nibbles : List (BitVec 4))
  /-- A packet put on the line of a tie-link port: header, data objects and CRC, and the levels driven with their lengths in ns (R311,
  R314). -/
  | packet (port : Nat) (header : Word) (objs : List Word) (crc : Word) (wave : List (LcwDrive × Nat))
  /-- A tunnel frame put on the line of a tie-link port: header, payload and CRC, and the levels driven (R361). -/
  | tunnel (port : Nat) (header : Word) (bytes : List Byte) (crc : Word) (wave : List (LcwDrive × Nat))
  /-- A byte the management port sends (R455); `none` a not-acknowledge, `some` a data byte. -/
  | i2c (ack : Bool) (byte : Option Byte)
  /-- `HRSTn` driven low (R510). -/
  | hostReset
  /-- `HRSTn` released (R509, R511). -/
  | hostResetEnd
  deriving DecidableEq, Repr

/-! ## Power, start-up and supplies -/

/-- A local copy of module time (R44): its value when it was last set, and the master's time then. -/
structure TimeCopy where
  value : Nat := 0
  at_ : Nat := 0
  deriving DecidableEq, Repr

/-! ## Fabrics (R31-R33) -/

/-- A transfer waiting on a fabric: class 0 to 3, requester index, bytes still to go. -/
structure Xfer where
  cls : Nat
  req : Nat
  bytes : Nat
  deriving DecidableEq, Repr

/-- A fabric: the transfers that wait, the requester whose turn is next in each class, the latest grant (class, requester),
the time at which the burst on it ends, and the time up to which its grants have been made. -/
structure Fabric where
  waiting : List Xfer := []
  turn : List Nat := [0, 0, 0, 0]
  last : Option (Nat × Nat) := none
  busy : Nat := 0
  at_ : Nat := 0
  deriving DecidableEq, Repr

/-- The supply the module runs from (R96, R470). -/
inductive Supply where
  | none
  | aux12
  | boot
  deriving DecidableEq, Repr

/-- The transport-mode machine (R101). -/
inductive Transport where
  | run
  | drain
  | shutdown
  | transport
  | wake
  deriving DecidableEq, Repr

/-- The source module time is stepped from (R494). -/
inductive TimeSrc where
  | reference
  | crystal
  | rc
  deriving DecidableEq, Repr

/-- The carrier reference of a switching frequency at the latest loop tick: how far its period has gone, in 1/1 000 of a step of
78.125 ps divided by `FSW`, and the stretch of that period and of the one before it, in 0.1 % (R43, R117). -/
structure Carrier where
  ref : Nat := 0
  d : Int := 0
  old : Int := 0
  deriving DecidableEq, Repr

/-- Supplies, domains, clocks and start-up (chapter 13), with the transport-mode machine (R101). -/
structure Power where
  /-- AON powered. -/
  aon : Bool := false
  /-- Bit n = domain n of `CK_PDON` is powered (R501). -/
  dom : BitVec 32 := 0
  /-- Levels of the pins: `AUX12` valid, `BOOT` valid (R469). -/
  aux12 : Bool := false
  boot : Bool := false
  supply : Supply := .none
  /-- Time at which `AUX12` last became valid, for the 10 ms of R96. -/
  auxSince : Nat := 0
  /-- Running as a revival (R498). -/
  revival : Bool := false
  /-- Bit n: start-up step n is finished (R484). -/
  done : Nat := 0
  /-- Start-up stopped at step 6 (R485), or holds at its end (R573). -/
  stopped : Bool := false
  refOk : Bool := false
  xtalOk : Bool := false
  hubLock : Bool := false
  holdupOk : Bool := false
  /-- Bit n: supervisor n is lost until the next module reset (R524). -/
  svLost : Nat := 0
  timeSrc : TimeSrc := .crystal
  /-- The value module time had, and the moment it was, when its source last changed (R494, R495). -/
  timeFrom : Nat := 0
  /-- Module time has been started (R496). -/
  timeRuns : Bool := false
  /-- Bit k: the runner PLL of region k locked. -/
  runnerLock : Nat := 0
  /-- Bit k: the flask and modulator PLL of region die k locked. -/
  rpllLock : Nat := 0
  transport : Transport := .run
  /-- Deadline of the drain timer, the wake debounce or the 5 s supply wait, whichever runs. -/
  timer : Nat := 0
  /-- Tag of the TRANSPORT command in DRAIN. -/
  transportTag : Option Nat := none
  /-- Waiting for a supply after a wake (R499). -/
  waking : Bool := false
  /-- Sprues above 30 V and `BOOT` at the wake (R101), for `CK_CAUSE`. -/
  wakeSp : Nat := 0
  wakeBoot : Bool := false
  /-- Time of the first key of the `CK_RESET` sequence (R477). -/
  resetKey : Option Nat := none
  /-- A module reset is due 10 µs after the second key. -/
  resetDue : Option Nat := none
  /-- Domains being switched on (R481), as bits of `CK_PDON`. -/
  switchingOn : BitVec 32 := 0
  /-- Domains being switched off in order, and the reason code of their sleep marker (R479, R623). -/
  switchingOff : Tab Nat := []
  /-- Domains a request of R482 has switched or is switching off. -/
  offByRequest : BitVec 32 := 0
  /-- The hub's copy of module time (R44). -/
  hubCopy : TimeCopy := {}
  /-- The whole microsecond of the hub's copy at which the latest tick strobe went out, ns (R45). -/
  hubTick : Nat := 0
  /-- The carrier references in use, by `FSW` (R43, R116, R117). -/
  cars : Tab Carrier := []
  /-- High half of module time, latched by a read of the low half (R496). -/
  latchedTimeHi : Word := 0
  /-- Time of the last switch-on begun (R481). -/
  lastSwitch : Nat := 0
  /-- Levels of the straps `MADDR2`-`MADDR0` latched at AON power-up (R451). -/
  straps : Nat := 0
  /-- `CH0_VB` at transport entry, 10 mV, for the transport ingot (R549). -/
  ch0vb : Nat := 0
  deriving DecidableEq, Repr

/-! ## Power path -/

/-- The state of an `SPn_GATE` pin (R56). -/
inductive Gate where
  | hiz
  | low
  | high
  deriving DecidableEq, Repr

/-- A sprue's state beside its registers. -/
structure Sprue where
  gate : Gate := .hiz
  /-- Time since which its voltage has lain in the ready window without interruption (R59), above `QUAL_MAX` (R69). -/
  inSince : Option Nat := none
  ovSince : Option Nat := none
  /-- Time since which the sprue has been ready without interruption (R65). -/
  readySince : Nat := 0
  /-- Time since which its gate has been low (R83). -/
  lowSince : Option Nat := none
  /-- End of the last tracking of VNL (R83, R86). -/
  trackedEnd : Option Nat := none
  /-- Held limit in 10 mA (R88). -/
  held : Nat := 0
  /-- VTRIP in 10 mV (R83). -/
  vtrip : Nat := 0
  /-- Mean voltage and current of the previous evaluation (R85). -/
  prev : Option (Nat × Int) := none
  /-- VNL has been tracked in the present low period (R83). -/
  tracked : Bool := false
  /-- The previous evaluation lay below VTRIP (R86, HOLD). -/
  belowPrev : Bool := false
  /-- Charging capability from this sprue presented as 0 (R86). -/
  presentZero : Bool := false
  /-- End of the 60 s hold timer. -/
  holdEnd : Nat := 0
  /-- End of the 10 ms reference. -/
  refEnd : Nat := 0
  /-- Next evaluation of the 2 ms grid (R84). -/
  evalNext : Nat := 0
  /-- Latest `SPn_VS`, 10 mV. -/
  vs : Nat := 0
  /-- Latest sprue current, 10 mA. -/
  i : Int := 0
  deriving DecidableEq, Repr

/-- A tie-link leg's converter (R89-R93): latest `TLn_VS` (10 mV) and leg current (10 mA), the import current that the ladle has
allotted it (10 mA), the current the leg's loop asks for (10 mA, import positive), its PWM pins driven or at mid-level, and the
times since which its voltage has lain more than 5 % from the contract and its current above 110 % of it, and within 2 % of the
voltage being reached (R341). -/
structure TlLeg where
  allot : Nat := 0
  vs : Nat := 0
  i : Int := 0
  ref : Int := 0
  driven : Bool := false
  vSince : Option Nat := none
  iSince : Option Nat := none
  okSince : Option Nat := none
  deriving DecidableEq, Repr

/-- What a running dead time was started by (R65, R66, R70). -/
inductive DeadKind where
  | planned
  | fallback
  deriving DecidableEq, Repr

/-- A dead time in progress. -/
structure DeadTime where
  kind : DeadKind
  /-- The sprue chosen at its start, whose capability was delivered (R71). -/
  chosen : Option Nat
  /-- The sprue whose gate went low. -/
  from_ : Nat
  deadline : Nat
  deriving DecidableEq, Repr

/-- Power-path block state beside its registers. -/
structure PowerPath where
  sprues : Tab Sprue := []
  dead : Option DeadTime := none
  /-- Capability delivered to the region comparators, 10 mA (R71, R82). -/
  capability : Nat := 0
  /-- Time of the last event that engaged the droop response (R72, R76). -/
  droopAt : Nat := 0
  /-- Droop scale applied at this tick and computed for the next, in 1/256 (R74). -/
  scale : Nat := 0
  scaleNext : Nat := 0
  /-- Latest `CBUS_VS`, 10 mV, at the loop tick and at the millisecond. -/
  cbusV : Nat := 0
  cbusMs : Nat := 0
  /-- Latest CBUS load current at the millisecond, mA. -/
  cbusI : Int := 0
  /-- Droop test running: tag, sum of riser allocations, lowest millisecond `CBUS_VS` (R415). -/
  droopTest : Option (Nat × Nat × Option Nat) := none
  /-- Time since which CBUS has been below `OV` - 1.00 V (R78). -/
  ovBelow : Option Nat := none
  /-- The tie-link legs. -/
  tlegs : Tab TlLeg := []
  deriving DecidableEq, Repr

/-! ## Fault network, collector and black box -/

/-- A message waiting in a queue of the fault network, with its time of arrival there. -/
structure Queued where
  msg : FaultMsg
  at_ : Nat
  deriving DecidableEq, Repr

/-- A queue of the fault network: a flask fault port (R29, R30) or a region aggregator (R531). -/
structure FaultQueue where
  q : List Queued := []
  /-- Messages lost since the last overflow message; saturates at 65 535. -/
  lost : Nat := 0
  /-- An overflow message is due when the queue next has space. -/
  ovfDue : Bool := false
  deriving DecidableEq, Repr

/-- An entry of the collector's counter table (R534). -/
structure Esc where
  src : Nat
  kind : Nat
  start : Nat
  count : Nat
  last : Nat
  lift : Nat
  deriving DecidableEq, Repr

/-- An inject action (R547): its command's tag, injections still to be performed, and performed. -/
structure InjJob where
  tag : Nat
  left : Nat
  done : Nat := 0
  deriving DecidableEq, Repr

/-- An injection arm (R547). -/
structure Arm where
  checker : Nat
  deadline : Nat
  /-- The inject actions queued, oldest first. -/
  jobs : List InjJob := []
  deriving DecidableEq, Repr

/-- An ingot waiting to be written (R550): its type, time, content words, whether it is to be pinned, and the
severity it has in the log queue. -/
structure LogItem where
  itype : Nat
  time : Nat
  content : List Word
  pin : Bool := false
  sev : Nat := 3
  /-- Kind of the message, for the summary when it is not written (R551). -/
  kind : Nat := 0
  /-- Whether it draws on the log budget (R551). -/
  budgeted : Bool := false
  deriving DecidableEq, Repr

/-- The two copies of one ring slot: 64 words each, all zero when never written (R548). -/
structure Slot where
  a : List Word := []
  b : List Word := []
  /-- The slot's memory no longer holds what is written to it (R550). -/
  worn : Bool := false
  /-- Copy B was stored with its CRC inverted by an injection (R546). -/
  inj : Bool := false
  deriving DecidableEq, Repr

/-- Fault collector and black-box controller beside their registers. -/
structure Collector where
  /-- Messages arrived at the collector's inputs: (input, message). Input k < 4 is aggregator k, 16 + block is a
  hub block (R532). -/
  inbox : List (Nat × FaultMsg) := []
  esc : List Esc := []
  logq : List LogItem := []
  budget : Int := 512
  /-- Time of the last refill counted (R551). -/
  refillAt : Nat := 0
  /-- Time up to which the ingots of types outside the budget, at one a second, have been spent (R551). -/
  otherAt : Nat := 0
  /-- Messages of each kind summarised in the period, and the period's start. -/
  summary : Tab Nat := []
  sumStart : Nat := 0
  arm : Option Arm := none
  key : Word := 0
  /-- REGION_LOST and REF_LOSS messages that selected power-path safe state (R540): kind and region. -/
  safeKinds : List (Nat × Nat) := []
  /-- Corrected errors of the twelve 5-minute bins, newest first (R561). -/
  ceBins : List Nat := [0, 0, 0, 0, 0, 0, 0, 0, 0, 0, 0, 0]
  /-- A CE_RATE message has been sent in the present bin. -/
  ceSent : Bool := false
  /-- The replace conditions are evaluated: start-up has passed its last step. -/
  condOn : Bool := false
  /-- The replace causes were restored and their conditions not yet evaluated (R559). -/
  restored : Bool := false
  deriving DecidableEq, Repr

/-- The MRAM rings (R25), which keep their contents without any supply, and the controller's ring position. -/
structure BlackBox where
  slots : Tab Slot := []
  /-- Slot of the latest ingot, if any. -/
  latest : Option Nat := none
  nextSeq : Nat := 0
  /-- Slots skipped for the rest of this power cycle (R550). -/
  skipped : List Nat := []
  /-- Pinned ingots: (sequence number, slot). -/
  pinned : List (Nat × Nat) := []
  /-- Time of the last scan of the rings (R556). -/
  scanAt : Nat := 0
  deriving DecidableEq, Repr

/-! ## Host interface -/

/-- Where a command stands (R390). -/
inductive TagState where
  /-- Fetched, not started. -/
  | fetched
  /-- Issued to its block. -/
  | started
  /-- Waiting for a later moment of its block: applied or in progress. -/
  | running
  /-- Waiting for a CONTINUE (R403). -/
  | waitBuf
  /-- Ended, its final completion not yet written. -/
  | done
  deriving DecidableEq, Repr

/-- One entry of the tag table (R386). -/
structure Tag where
  /-- The descriptor's sixteen words (R375). -/
  words : List Word
  sq : Nat
  slot : Nat
  /-- Fetch order, and order of the doorbell write that published it (R394). -/
  order : Nat
  bell : Nat
  state : TagState := .fetched
  /-- Module time at which the command was started (R417), and its place in the order of starts (R393). -/
  startAt : Nat := 0
  startNo : Nat := 0
  /-- Its effects are in force (R390). -/
  applied : Bool := false
  /-- Order in which the command ended (R396), and module time then (R407). -/
  ended : Nat := 0
  endAt : Nat := 0
  /-- The scatter list of its buffer (R377): (address, length, reserved word). -/
  sgl : List (Nat × Nat × Word) := []
  /-- Discarded for its CRC (R389). -/
  bad : Bool := false
  /-- Source buffer read in (R417). -/
  src : List Byte := []
  status : Nat := 0
  r0 : Word := 0
  r1 : Word := 0
  /-- Result words, those ready so far, and the total length in bytes (R402). -/
  result : List Word := []
  total : Nat := 0
  off : Nat := 0
  bufLeft : Nat := 0
  /-- What is left of the host buffer: (address, length) in the order of filling (R377). -/
  buf : List (Nat × Nat) := []
  /-- Capture pages held (R404). -/
  pages : Nat := 0
  /-- Cut off from the host by a host-interface reset (R405), whose `OL_GEN` it carries, and its orphan-log
  outcome (R407). -/
  orphan : Option Nat := none
  outcome : Nat := 0
  deriving DecidableEq, Repr

/-- A descriptor in a staging slot (R387): its ring index, its doorbell's order, whether its CRC failed at the fetch, and the status
with which a CONTINUE that may not act ends (0 for any other). -/
structure Staged where
  desc : Desc
  slot : Nat
  bell : Nat
  bad : Bool
  st : Nat
  deriving DecidableEq, Repr

/-- A submission ring beside its registers. -/
structure SubRing where
  /-- Doorbell writes accepted and not wholly fetched: (tail, order). -/
  bells : List (Nat × Nat) := []
  staging : Option Staged := none
  deriving DecidableEq, Repr

/-- Interrupt coalescing of a completion or event ring (R398). -/
structure Coalesce where
  count : Nat := 0
  first : Nat := 0
  deriving DecidableEq, Repr

/-- A completion ring beside its registers. -/
structure ComRing where
  /-- Entries written and not yet released. -/
  used : Nat := 0
  co : Coalesce := {}
  deriving DecidableEq, Repr

/-- An event record waiting in staging (R428): type, low 24 bits of word 0, time, content words from +0x0C. -/
structure Record where
  rtype : Nat
  hdr : Nat
  time : Nat
  content : List Word
  /-- For a block event record: the event register it may still merge events of (R434). -/
  evReg : Option Nat := none
  deriving DecidableEq, Repr

/-- An event ring beside its registers. -/
structure EvRing where
  used : Nat := 0
  co : Coalesce := {}
  staging : List Record := []
  /-- Records discarded since the last lost-records record, and the time of the first (R433). -/
  lostEvt : Nat := 0
  lostTel : Nat := 0
  lostAt : Nat := 0
  deriving DecidableEq, Repr

/-- Where a capture stands (R404, R424). -/
inductive CapState where
  | waiting
  | armed
  | sampling
  deriving DecidableEq, Repr

/-- A capture (R424). -/
structure Capture where
  tag : Nat
  chan : Nat
  nsamp : Nat
  dec : Nat
  trig : Nat
  trigTime : Nat
  deadline : Option Nat
  state : CapState := .waiting
  /-- Ticks still to pass before the next sample. -/
  skip : Nat := 0
  taken : Nat := 0
  /-- Armed for kind 2 or 3: the channel has been in RUN, or the droop response has been idle, so that the trigger is an
  edge. Sampling: the channel was in RUN, and the droop response was engaged, at the previous tick. -/
  edge : Bool := false
  wasRun : Bool := false
  wasDroop : Bool := false
  /-- `FLAGS` of the header (R424). -/
  flags : Nat := 0
  deriving DecidableEq, Repr

/-- Host interface beside its registers. -/
structure HostIf where
  tags : Tab (Option Tag) := []
  subs : Tab SubRing := []
  coms : Tab ComRing := []
  evs : Tab EvRing := []
  /-- Orders given to the next fetched descriptor and the next doorbell. -/
  nextOrder : Nat := 0
  nextBell : Nat := 0
  nextEnd : Nat := 0
  nextStart : Nat := 0
  /-- The writable dwords of configuration space that have been written, by offset (R367). -/
  cfg : Tab Word := []
  /-- Ring whose turn is next (R386). -/
  rr : Nat := 0
  /-- Ring routing (R430): block and fault records, channel events, tie-link data. -/
  routeBlock : Nat := 0
  routeChan : Nat := 0
  routeTl : Nat := 0
  linkUp : Bool := false
  l1 : Bool := false
  d3hot : Bool := false
  captures : List Capture := []
  capFree : Nat := Config.sramCapture / 4096
  /-- A host-interface reset is being worked off; set until READY (R406). -/
  resetting : Bool := false
  /-- Last heartbeat second. -/
  hbSecond : Nat := 0
  /-- The coherent snapshot CHAN_READ and others read at is a snapshot away: tags waiting for the next one. -/
  chanReads : List Nat := []
  deriving DecidableEq, Repr

/-! ## Management port -/

/-- State of the management port (R461). -/
inductive PortState where
  | startup
  | run
  | test
  | recovery
  deriving DecidableEq, Repr

/-- Where a transaction on the management port stands. -/
inductive PortTxn where
  | idle
  /-- Addressed for writing; the next byte is the pointer. -/
  | pointer
  | write
  | read
  deriving DecidableEq, Repr

/-- The management port (chapter 12). -/
structure Port where
  state : PortState := .startup
  pagedOk : Bool := false
  pointer : Nat := 0
  page : Word := 0
  err : Nat := 0
  txn : PortTxn := .idle
  /-- The transaction failed by a stretch time-out (R460). -/
  failed : Bool := false
  /-- Bytes staged by window offset (R456). -/
  staged : Tab (Option Byte) := []
  /-- The latched word of this read transaction and its window offset (R455). -/
  latch : Option (Nat × Word) := none
  deriving DecidableEq, Repr

/-! ## Trace and analogue test -/

/-- A trace record (R621): kind, subject, data and time. -/
structure TraceRec where
  kind : Nat
  subj : Nat
  data : Word
  time : Nat
  deriving DecidableEq, Repr

/-- The trace unit beside its registers. -/
structure Trace where
  /-- The 256-entry input queue, oldest first. -/
  queue : List TraceRec := []
  /-- Records left before the freeze (R625), and the record of the first fault while it waits to be accepted. -/
  post : Option Nat := none
  freezeOn : Option TraceRec := none
  /-- Buffer indices of the records still due on each path, in acceptance order (R626, R628). -/
  hostDue : List Nat := []
  portDue : List Nat := []
  /-- Gap causes to be marked on each path and the start of the pause (R629); records overwritten since the last
  marker of the path. -/
  hostGap : Option (Nat × Nat) := none
  portGap : Option (Nat × Nat) := none
  hostSkip : Nat := 0
  portSkip : Nat := 0
  /-- Records offered while `TRACE` is off (R631), in `PPATH`. -/
  offLost : Nat := 0
  /-- Every record counted in `LOST` so far, for the counts of wake markers (R632). -/
  lostAll : Nat := 0
  /-- The AON trace queue (R631), oldest first, and its overflow count. -/
  aonq : List TraceRec := []
  aonOvf : Nat := 0
  /-- Reason of each domain's sleep marker and `lostAll` at that marker (R632). -/
  sleep : Tab (Option (Nat × Nat)) := []
  deriving DecidableEq, Repr

/-- A measurement on an analogue test bus (R637). -/
structure Measure where
  tag : Nat
  flask : Nat
  node : Nat
  bus : Nat
  lch : Nat
  started : Nat
  deriving DecidableEq, Repr

/-- The analogue test controller. -/
structure Atest where
  cur : Option Measure := none
  /-- Tags of ATEST commands waiting (R638). -/
  waiting : List Nat := []
  /-- FLASK_STATE commands that release the measured flask at the measurement's end (R638). -/
  releases : List Nat := []
  /-- Boundary access through the test connector (R461). -/
  boundary : Bool := false
  deriving DecidableEq, Repr

/-! ## Channels and flasks (chapters 3 and 4) -/

/-- The four channel states (R126). -/
inductive ChState where
  | absent
  | disconnected
  | hold
  | run
  deriving DecidableEq, Repr

/-- A ramp to 0 A of a host hold, a disconnect or a removal (R126). -/
structure Ramp where
  deadline : Nat
  target : ChState
  /-- Commands that wait for the ramp's end, each with the state it names. -/
  cmds : List (Nat × ChState)
  deriving DecidableEq, Repr

/-- The charge phase machine of a channel (R148-R157). -/
structure Phase where
  /-- `PHASE` code of R174. -/
  phase : Nat := 0
  fault : Nat := 0
  susp : Bool := false
  full : Bool := false
  timed : Bool := false
  restCut : Bool := false
  train : Nat := 0
  relaxing : Bool := false
  /-- Running timer and time in the phase, ms (R148, R153). -/
  timer : Nat := 0
  elapsed : Nat := 0
  /-- Evaluations at which the first, second and third sustained guard of the phase has held without a break. -/
  susA : Nat := 0
  susB : Nat := 0
  susC : Nat := 0
  /-- Recovery: pulses completed of the train, and milliseconds into the present pulse and gap (R154). -/
  pulse : Nat := 0
  pulseMs : Nat := 0
  /-- Accumulator at the net-charge mark, and charge up to the last change of `SHUNT` (R155, R197). -/
  mark : Nat := 0
  markQ : Rat := 0
  /-- Classification is due at the next evaluation (R151). -/
  classify : Bool := false
  /-- Actions of PHASE commands to be taken at the next evaluation, each with its command's tag (R163). -/
  actions : List (Nat × Nat) := []
  deriving DecidableEq, Repr

/-- The temperature windows of a channel (R158-R162). -/
structure Windows where
  /-- `CWIN` and `DWIN` codes of R174. -/
  cwin : Nat := 0
  dwin : Nat := 0
  /-- A window is in force, so boundaries are shifted (R158). -/
  inForce : Bool := false
  deriving DecidableEq, Repr

/-- The background trim of one quantity (R192, R193): in force, taking effect at the next millisecond, and at its
limit, ppm. -/
structure Trim where
  g : Int := 0
  next : Int := 0
  atLimit : Bool := false
  deriving DecidableEq, Repr

/-- Factory constants of a converter (R190, R191): gains in ppm, offsets in nV of shunt voltage and µV of pin voltage; all 0 is
nominal. -/
structure Fact where
  gI : Int := 0
  oI : Int := 0
  gV : Int := 0
  oV : Int := 0
  gB : Int := 0
  deriving DecidableEq, Repr

/-- The converters of a channel or a leg (chapter 5). -/
structure Conv where
  fact : Fact := {}
  /-- Charge accumulator, 48 bits (R180), its fraction below one LSB, and the module time it started (R181). -/
  acc : Nat := 0
  frac : Int := 0
  start : Nat := 0
  /-- Mean current of the latest snapshot: 10 mA of a channel, 1 mA of a leg. -/
  im : Int := 0
  /-- Voltage of the latest snapshot, mV. -/
  vb : Nat := 0
  /-- The shunt is beyond ±56.25 mV (R177). -/
  ovr : Bool := false
  tI : Trim := {}
  tV : Trim := {}
  tB : Trim := {}
  deriving DecidableEq, Repr

/-- The temperature converter of a channel (R186-R189). -/
structure Therm where
  temp : Int := 0
  invalid : Bool := false
  /-- Bias range in force, and that of the latest snapshot's millisecond. -/
  range : Nat := 0
  rangeMs : Nat := 0
  /-- Conversions still to be discarded after a range change. -/
  discard : Nat := 0
  /-- Consecutive out-of-range conversions. -/
  oor : Nat := 0
  /-- The reference conversion. -/
  ref : Option Int := none
  /-- Latest pin voltage, µV. -/
  pin : Nat := 0
  /-- Time since which the value has been valid again (R162). -/
  validSince : Option Nat := none
  deriving DecidableEq, Repr

/-- What a switching pin does in a carrier period: low or high throughout, or high between two edges, in steps of 78.125 ps
from the period's start (R115, R118). -/
inductive PinDrive where
  | low
  | high
  | pulse (rise fall : Nat)
  deriving DecidableEq, Repr

/-- Drive of a stage: mode 1 buck, 2 transition, 3 boost, and the duties of its two pins, each a fraction (R114). -/
structure Drive where
  mode : Nat
  a : Int × Int
  b : Int × Int
  deriving DecidableEq, Repr

/-- What the two pins do in a period of `n` steps (R115, R118). -/
structure Pins where
  n : Nat
  a : PinDrive
  b : PinDrive
  deriving DecidableEq, Repr

/-- The modulator of a channel: the drive in force and its pins in the running period, the pins of the period before, and the
drives computed at the latest tick and at the tick before it, which wait for their boundary (R119). -/
structure Pwm where
  drv : Option Drive := none
  pins : Option Pins := none
  last : Option Pins := none
  due : Option Drive := none
  prev : Option Drive := none
  deriving DecidableEq, Repr

/-- A channel beside its configuration words. -/
structure Chan where
  state : ChState := .absent
  reason : Nat := 0
  mode : Nat := 0
  vloop : Bool := false
  clamped : Bool := false
  shaved : Bool := false
  tone : Bool := false
  droop : Bool := false
  holds : Nat := 0
  trips : Nat := 0
  /-- Current-loop integrator, mV (R120), and the voltage loop's ceiling and floor integrators, 10 mA (R121). -/
  xI : Int := 0
  cI : Int := 0
  fI : Int := 0
  /-- The modulator's duty was at 1 or at 0 at the previous tick (R120). -/
  satHi : Bool := false
  satLo : Bool := false
  /-- Value after step 3 of R122 and reference `r` at the last tick, 10 mA. -/
  base : Int := 0
  r : Int := 0
  /-- Commanded inductor voltage of the last tick, mV, and the modulator. -/
  u : Int := 0
  pwm : Pwm := {}
  /-- Latest current sample of R119, 10 mA, and loop-rate brick voltage, 10 mV. -/
  i : Int := 0
  vb : Nat := 0
  /-- Consecutive ticks of the trip conditions of R129. -/
  hiTrip : Bool := false
  lowTicks : Nat := 0
  ocTicks : Nat := 0
  ramp : Option Ramp := none
  /-- Brick voltages of the previous snapshots, mV, newest first, at most 1 000 (R126). -/
  vbHist : List Nat := []
  ph : Phase := {}
  win : Windows := {}
  cv : Conv := {}
  th : Therm := {}
  /-- `CAL_SEQ` under which the millisecond now running is measured. -/
  calSeq : Nat := 0
  deriving DecidableEq, Repr

/-- A calibration entry accepted for the next millisecond boundary: its channels, its four words and the command that waits (R196). -/
structure CalWait where
  chans : List Nat
  words : List Word
  tag : Nat
  deriving DecidableEq, Repr

/-- Fault-return retry of a flask (R133). -/
inductive Retry where
  | run
  | wait
  | restart
  deriving DecidableEq, Repr

/-- Sums of a channel over a dwell's analysis periods: current (µA) and brick voltage (µV) times sine and cosine (10⁻¹⁸) of the tone,
and the number of samples (R236). -/
structure IqSum where
  iI : Int := 0
  iQ : Int := 0
  vI : Int := 0
  vQ : Int := 0
  n : Nat := 0
  deriving DecidableEq, Repr

/-- A tone pair on a flask's generator: the two local channels, their amplitudes in force and those of the next
millisecond (R233), and the remainders below 10 mA carried to the next tick (R234), all in mA. -/
structure TonePair where
  a : Nat
  b : Nat
  ampA : Nat
  ampB : Nat
  nextA : Nat
  nextB : Nat
  remA : Int := 0
  remB : Int := 0
  /-- The tone's contribution to each channel's reference at this tick, 10 mA. -/
  valA : Int := 0
  valB : Int := 0
  /-- The second clamp cut a channel of the pair (R136). -/
  clipped : Bool := false
  /-- Sums of the two channels. -/
  sumA : IqSum := {}
  sumB : IqSum := {}
  deriving DecidableEq, Repr

/-- A flask beside its configuration words. -/
structure Flask where
  /-- The sequencer runs. -/
  running : Bool := false
  /-- Hold reasons held, earliest first (R130). The hold of R482 is listed as 17 and reads as reason 1. -/
  holds : List Nat := []
  retry : Retry := .run
  retryCount : Nat := 0
  fltPin : Bool := false
  /-- Time of the latest assertion, and of the latest release, of the fault return. -/
  fltAt : Nat := 0
  fltEvents : Nat := 0
  lostMsg : Nat := 0
  /-- Restart sequence: local channels restarted, and the time of the last restart (R133). -/
  restarted : List Nat := []
  restartAt : Nat := 0
  /-- Tone in force, the phase accumulator of R230 and the pairs (R26). -/
  tone : Nat := 0
  toneAcc : Nat := 0
  /-- Ticks since the tone began; pairs offered by the crucible, to be decided at the next tick (R135, R139). -/
  toneTicks : Nat := 0
  asked : List (Nat × Nat) := []
  pairs : List TonePair := []
  /-- The droop response has stopped the flask's tones, so its sweep is paused (R239). -/
  paused : Bool := false
  /-- Every pair stops at the next tick (R130, R137). -/
  stopTones : Bool := false
  /-- Pairs stopped since the dwell began, returned to the crucible as refused or clipped (R135, R136, R166). -/
  lostPairs : List (Nat × Nat) := []
  /-- The self-check has stopped the sequencer (R131). -/
  failed : Bool := false
  /-- Time since which the flask has been in RUN, for the 60 s of R133. -/
  runAt : Nat := 0
  /-- The 16 entries in force and their pour epoch, and the shadow table with its epoch (R275). -/
  tab : List Word := []
  tabEpoch : Nat := 0
  shadow : Option (Nat × List Word) := none
  deriving DecidableEq, Repr

/-- A region controller beside its registers. -/
structure Region where
  /-- The runner link is trained (R36, R37). -/
  trained : Bool := false
  /-- Frames that have failed and not yet come through: (towards the region, number), with how often they failed (R37). -/
  retx : List ((Bool × Nat) × Nat) := []
  /-- Region hold by its own or the collector's reaction (R538). -/
  held : Bool := false
  /-- A REGION_LOST condition holds. -/
  lost : Bool := false
  /-- Time of the latest tick strobe; it has been absent for 2 µs, so that ticks are counted from the local copy; the
  identity of the region's latest loop tick, in µs (R45). -/
  strobeAt : Nat := 0
  /-- Time of the latest fault-network traffic heard (R538). -/
  faultAt : Nat := 0
  strobeLost : Bool := false
  tick : Nat := 0
  /-- The comparator's stale shave, and the time its count runs from (R280). -/
  stale : Bool := false
  lastSwap : Option Nat := none
  /-- Consecutive pours missed because its acknowledgement was late (R279). -/
  ackMiss : Nat := 0
  /-- The region's copy of module time (R44). -/
  copy : TimeCopy := {}
  deriving DecidableEq, Repr

/-- A calibration converter: a flask's, or that of the power-path block under key 64 (R27, R194, R195). -/
structure CalConv where
  /-- Next channel or leg of the round-robin, and channels whose slot was skipped for a tone, oldest first. -/
  pos : Nat := 0
  skipped : List Nat := []
  /-- Slots since the last round end, and consecutive rounds in which the references agreed. -/
  slots : Nat := 0
  agree : Nat := 0
  /-- Trimming suspended; used for the power-path block, which has no status word. -/
  susp : Bool := false
  /-- Number of the module-time millisecond of the latest slot, or of the one in which the unit started (R27). -/
  lastMs : Nat := 0
  /-- The millisecond whose slot a host's calibration request displaces, by number, with the local channels it names (R28). -/
  host : Option (Nat × List Nat) := none
  deriving DecidableEq, Repr

/-! ## Estimation (chapter 6) -/

/-- The filter in exact arithmetic (R213): s as a fraction, voltages in µV, and the ten elements of P in units of capacity and
volts. -/
structure Filt where
  s : Rat := 0
  va : Rat := 0
  vb : Rat := 0
  h : Rat := 0
  p : List Rat := []
  deriving DecidableEq, Repr

/-- The filter, learning and event state of a channel (R209-R229), its spare impedance copy and its record state. -/
structure Est where
  /-- The filter holds a state; an initialisation is due at the next update (R215). -/
  live : Bool := false
  initDue : Bool := false
  /-- An initialisation waits for the first snapshot after this time (R215). -/
  initAfter : Nat := 0
  /-- The same filter in exact arithmetic from the same inputs and initial state (R213). -/
  exact_ : Filt := {}
  /-- States: s in LSB 2⁻³⁰, the voltages in µV; the carried remainders of the two increments of s, LSB 2⁻⁶² (R212). -/
  s : Int := 0
  va : Int := 0
  vb : Int := 0
  h : Int := 0
  remQ : Int := 0
  remK : Int := 0
  /-- The ten elements of P on and above the diagonal, row by row, each in units of its own scale (R212). -/
  p : List Int := []
  /-- Accumulator, start time and module time of the snapshot last used; charge since it up to a change of `SHUNT`. -/
  acc : Nat := 0
  start : Nat := 0
  at_ : Nat := 0
  qPrev : Rat := 0
  /-- Total charge up to that snapshot, C. -/
  q : Rat := 0
  /-- Consecutive updates with |y| above 6√S, and the latest innovation, µV (R219). -/
  exceed : Nat := 0
  innov : Int := 0
  /-- Since initialisation the uncertainty has not been below 2.00 % (R215). -/
  init : Bool := false
  /-- Learning is ARMED (R224); total charge at the full point; positive-charge measure, C; total charge at the last
  whole second; (time, total charge) of the snapshots of the last 10 s, newest first; `LAST_LRN`. -/
  armed : Bool := false
  mark : Rat := 0
  pos : Rat := 0
  secQ : Option Rat := none
  hist : List (Nat × Rat) := []
  lastLrn : Nat := 0
  /-- Module time at which a channel in ARMED left service, till the snapshot that evaluates it (R224). -/
  left : Option Nat := none
  /-- Profile slot at the full point, and whether its model was loaded since. -/
  prof : Nat := 0
  modelNew : Bool := false
  /-- Learned capacity, 0.1 Ah, 0 for none; equivalent full cycles, 1/16; discharge sum, C (R225, R227). -/
  cap : Nat := 0
  cycles : Nat := 0
  dsum : Rat := 0
  /-- The events of R228 are armed: low warning, low alarm, end-of-discharge, high warning. -/
  evArm : List Bool := [true, true, true, true]
  /-- Estimation parameters to be taken at the next snapshot, each with its command's tag (R250). -/
  next : List (List Word × Nat) := []
  /-- A fit written to the copy not in force (R241), and the order of the pour that was running when the copies were
  last exchanged. -/
  spare : Option (List Word) := none
  swapPour : Option Nat := none
  /-- The impedance table is the model's default (R247). -/
  tzDefault : Bool := false
  /-- The record is to be written at once; it differs from the last one written; when that was (R246). -/
  recDue : Bool := false
  recDirty : Bool := false
  recAt : Nat := 0
  /-- The channel has become present: its record is to be read at the next snapshot (R247). -/
  startDue : Bool := false
  /-- EST_RESET command that waits for the record. -/
  resetTag : Option Nat := none
  deriving DecidableEq, Repr

/-- One copy of a channel record, wholly written (R246): sequence number, impedance table, learned capacity, `CYCLES` and its
discharge sum, and the CRC-32C stored with them. -/
structure RecCopy where
  seq : Nat
  iz : List Word
  cap : Nat
  cycles : Nat
  dsum : Rat
  crc : Word
  deriving DecidableEq, Repr

/-- The two copies of a channel record; none where a copy is incomplete. -/
structure ChanRec where
  a : Option RecCopy := none
  b : Option RecCopy := none
  deriving DecidableEq, Repr

/-- A sweep on a flask (R231, R232, R238, R239). -/
structure FlaskSweep where
  /-- Tag of the SPECTRO command; none for a scheduled sweep. -/
  host : Option Nat
  pairs : List (Nat × Nat)
  /-- Bit k: tone k is swept. -/
  mask : Nat
  k : Nat
  retry : Bool := false
  /-- (Pair index, tone) of discarded dwells, to be retried. -/
  missing : List (Nat × Nat) := []
  dwellEnd : Nat
  /-- Valid points: local channel, tone, real and imaginary part in 0.1 µΩ. -/
  points : List (Nat × Nat × Int × Int) := []
  finished : Bool := false
  /-- Sums over the sweep of a local channel's temperature and state of charge, and their number (R240). -/
  sums : Tab (Int × Int × Nat) := []
  deriving DecidableEq, Repr

/-- A host sweep: its tag, flasks still sweeping, channels with and without an accepted fit, aborted. -/
structure HostSweep where
  tag : Nat
  left : List Nat
  fits : Nat := 0
  noFit : Nat := 0
  aborted : Bool := false
  deriving DecidableEq, Repr

/-- The sweeps (R238): a flask's sweeps, the running one first; the end of the last scheduled sweep. -/
structure Sweeps where
  scheduled : Bool := false
  lastEnd : Nat := 0
  flasks : Tab (List FlaskSweep) := []
  hosts : List HostSweep := []
  deriving DecidableEq, Repr

/-! ## Placement (chapter 7) -/

/-- A brick model at a held temperature (R207, R208): OCV points in mV, ZSER points and ZPA, ZPB in 10 µΩ, TAUA, TAUB in
10 ms, `HYS_MAX` in mV, `HYS_GAMMA` in 0.1, `ETA_CHG` in 1/65 536 and C_ref in 0.1 Ah. -/
structure Brick where
  ocv : List Rat
  zser : List Rat
  zpa : Rat
  taua : Rat
  zpb : Rat
  taub : Rat
  hys : Rat
  gamma : Nat
  eta : Nat
  cref : Nat
  deriving DecidableEq, Repr

/-- What a pour reads of a channel (R256). Currents in 10 mA, voltages in mV, resistances in 10 µΩ. -/
structure PourChan where
  c : Nat
  /-- In RUN, its flask not held. -/
  run : Bool
  held : Bool
  phase : Nat
  /-- The reference its phase sets, if any; the phase's permitted charging current and discharge. -/
  ref : Option Nat
  chg : Nat
  dis : Bool
  chgEn : Bool
  disEn : Bool
  phFault : Nat
  maint : Bool
  cwin : Nat
  dwin : Nat
  /-- Charging bound of the window (R160) and limits. -/
  winChg : Nat
  ichg : Nat
  idis : Nat
  vmax : Nat
  vmin : Nat
  vtgt : Nat
  veod : Nat
  vb : Nat
  temp : Int
  soc : Nat
  ocv : Nat
  hyst : Int
  vpol : Int
  zser : Nat
  cap : Nat
  cycles : Nat
  armed : Bool
  /-- Filter states of the estimate. -/
  s : Int
  va : Int
  vbp : Int
  h : Int
  brick : Brick
  /-- In HOLD with reason 8: this pour's swap starts it (R126). -/
  hold8 : Bool
  deriving DecidableEq, Repr

/-- A simulated brick's result (R245): end s (LSB 2⁻³⁰), least and greatest voltage (mV), first bounded step, terminal
energy and loss (J), first-step current (10 mA). -/
structure SimOut where
  c : Nat
  sEnd : Int
  vLo : Rat
  vHi : Rat
  step : Nat
  energy : Rat
  loss : Rat
  i1 : Rat
  deriving DecidableEq, Repr

/-- A pour in progress (R256-R270). Powers in W, energies in Wh. -/
structure Pour where
  order : Nat
  readAt : Nat
  /-- Start of the next pour period, ms boundary. -/
  swapAt : Nat
  chans : List PourChan
  pp : Rat
  pl : Rat
  px : Rat
  pb : Rat
  er : Rat
  eAvail : Rat
  phi : Nat
  shortP : Bool
  shortE : Bool
  /-- Riser allocations, (channel, 10 mA). -/
  riser : List (Nat × Nat)
  /-- Objectives image applied, window mode and index. -/
  obj : List Word
  winMode : Nat
  winIdx : Nat
  cands : Nat
  /-- `XFER_EN` at the input read, the medians of the present channels (R268), and the channels in RUN that the pour does not
  read, whose flasks are held (R281). -/
  xfer : Bool
  /-- `ILIM` of each importing leg at the input read, the current the pour counts on from it (R256, R257). -/
  imports : List (Nat × Nat)
  zmed : Nat
  ymed : Nat
  runOut : List Nat
  /-- Channels the previous riser check excluded (R263). -/
  exclOld : List Nat
  /-- Results of each slot once the crucible has returned them. -/
  results : Option (List (List SimOut)) := none
  /-- Selected slot and whether every candidate was rejected, once selected; the entries (SETPT, RISER) by channel. -/
  sel : Option (Nat × Bool) := none
  table : List (Nat × Int × Nat) := []
  pchg : Rat := 0
  /-- Profile and model images carried by this pour's table (R169, R206): opcode, slot, image, tag. -/
  loads : List (Nat × Nat × List Word × Nat) := []
  /-- Regions that have acknowledged the table. -/
  acks : List Nat := []
  /-- Target tick of the swap command, once issued. -/
  target : Option Nat := none
  /-- Calibration runs of this pour: (channel, `CAL_STATE`). -/
  roles : List (Nat × Nat) := []
  deriving DecidableEq, Repr

/-- A calibration run of a channel (R287). -/
structure CalRun where
  req : Bool := false
  /-- `CAL_STATE` and `CAL_END` codes of R281. -/
  state : Nat := 0
  end_ : Nat := 0
  /-- Time the run left QUEUED, and the order of its request (R285). -/
  start : Nat := 0
  order : Nat := 0
  deriving DecidableEq, Repr

/-- The ladle beside its registers and tables. -/
structure Ladle where
  cal : Tab CalRun := []
  calOrder : Nat := 0
  /-- Shave: factor in force and for the next tick, over-limit factor, last `cap_f`, time of the last trigger (R282). -/
  f : Nat := 256
  fNext : Nat := 256
  g : Nat := 256
  capPrev : Nat := 256
  trigger : Nat := 0
  shaving : Bool := false
  /-- P_cap of the latest tick, 10 W. -/
  pcap : Nat := 0
  /-- Pours read so far, and the pour in progress. -/
  pours : Nat := 0
  pour : Option Pour := none
  /-- Next pour boundary, and the period that ends there. -/
  next : Nat := 0
  period : Nat := 10
  /-- An accepted objectives image and its command (R253). -/
  obj : List (List Word × Nat) := []
  /-- Profile and model loads accepted and not yet in force (R169): opcode, slot, image, tag. -/
  loads : List (Nat × Nat × List Word × Nat) := []
  /-- Channels excluded by the latest riser check (R263). -/
  excl : List Nat := []
  /-- Entries of the latest pour selected, (channel, 10 mA). -/
  prev : List (Nat × Int) := []
  /-- CBUS load power at each millisecond since the latest input read and of the 10 ms before it, newest first, mW;
  largest millisecond power of each exporting leg since then, mW. -/
  load : List Int := []
  exports : Tab Int := []
  /-- Support entries of the latest pour selected, (channel, 10 mA). -/
  prevSup : List (Nat × Nat) := []
  /-- P_B of the table in force, W. -/
  pb : Rat := 0
  deriving DecidableEq, Repr

/-! ## Tie-links (chapters 8 and 9) -/

/-- What the end or the acknowledgement of a message brings about. -/
inductive TlAct where
  | none
  /-- ACCEPT of an LES_SWAP or of a REATTACH: the swap or the re-attach begins at its acknowledgement (R350, R354). -/
  | swapAccepted
  | reattachAccepted
  /-- The second PS_READY of an LES swap (R350). -/
  | swapDone
  /-- A host VENDOR message, with the command's tag (R413). -/
  | vendor (tag : Nat)
  /-- SYNC_REQ and SYNC_RESP: their start delimiter is timed as they leave (R360). -/
  | syncReq
  | syncResp (t2 : Nat)
  deriving DecidableEq, Repr

/-- A message waiting to be sent: type, data objects, and what follows. -/
structure TlMsg where
  typ : Nat
  objs : List Word := []
  act : TlAct := .none
  deriving DecidableEq, Repr

/-- The message in transmission or awaiting acknowledgement (R325). -/
structure TlTx where
  msg : TlMsg
  seq : Nat
  tries : Nat := 0
  ackDue : Option Nat := none
  /-- Header and objects as first sent, which a retry repeats. -/
  sent : Option (Word × List Word) := none
  deriving DecidableEq, Repr

/-- A packet delivered and not yet handled: header, objects, and the time at which its start delimiter ended. -/
structure TlRx where
  hdr : Word
  objs : List Word
  hold : Nat
  deriving DecidableEq, Repr

/-- The port's own message that awaits an answer (R356). -/
inductive TlOwn where
  | getCaps
  | request
  | lesSwap
  | reattach
  | vdm (cmd mode : Nat)
  /-- A keep-alive that waits: sent as a request equal to the contract, it is `request` (R341, R343). -/
  | keepAlive
  deriving DecidableEq, Repr

/-- Where an LES swap stands at this end (R350). -/
inductive LesSwap where
  /-- Its ACCEPT, sent by this port, is not yet acknowledged. -/
  | accepted
  /-- The old source has switched off and waits for the conductor to fall. -/
  | oldOff
  /-- The old source awaits the second PS_READY. -/
  | oldWait
  /-- The new source awaits the first PS_READY. -/
  | newWait
  /-- The new source has switched on and waits for 11.40 V. -/
  | newOn
  /-- The new source's PS_READY is on its way. -/
  | newDone
  deriving DecidableEq, Repr

/-- A tunnel frame with data that awaits its acknowledgement (R361). -/
structure TunFrame where
  tfn : Nat
  bytes : List Byte
  tag : Nat
  tries : Nat := 0
  /-- Sent, acknowledgement due. -/
  ackDue : Option Nat := none
  deriving DecidableEq, Repr

/-- The service tunnel of a port (R361). -/
structure Tunnel where
  /-- Number of the next frame with data, the frame outstanding, and those waiting: (payload, tag). -/
  next : Nat := 1
  frame : Option TunFrame := none
  waiting : List (List Byte × Nat) := []
  /-- Number of the last good frame with data received, and whether its acknowledgement is owed. -/
  tack : Nat := 0
  ackOwed : Bool := false
  deriving DecidableEq, Repr

/-- A host verdict (R344, R349): kind 0 request, 1 LES swap, 2 re-attach; the request object; verdict; time. -/
structure Verdict where
  kind : Nat
  obj : Word
  accept : Bool
  at_ : Nat
  deriving DecidableEq, Repr

/-- A tie-link port beside its registers. -/
structure TlPort where
  /-- Latest 1 ms means of `TLn_LES` and `TLn_LCW`, mV; they are levels on pins and outlive `TLPHY`. -/
  pinLes : Nat := 0
  pinLcw : Nat := 0
  /-- Classification in force: the partner is seen (R294); the time from which that counts, and whether the latest millisecond was
  ignored for an edge (R303). -/
  seen : Bool := false
  seenAt : Nat := 0
  skipped : Bool := false
  /-- Preference in force, and whether it is that of a module running from `BOOT` (R304, R307, R310). -/
  pref : Nat := 0
  bootPref : Bool := false
  /-- Entry to the attach state. -/
  since : Nat := 0
  /-- Preference a re-attach order carries (R304). -/
  nextPref : Option Nat := none
  /-- A re-attach has been agreed and REATTACH is not yet left. -/
  reatt : Bool := false
  /-- The soft reset of a row that also starts a hold-off has not been acknowledged (R341). -/
  softHold : Bool := false
  lesRetry : Nat := 0
  /-- Times of the LES faults of the last 30 s (R300). -/
  lesFaults : List Nat := []
  txSeq : Nat := 0
  rxSeq : Option Nat := none
  cur : Option TlTx := none
  /-- Answers and PS_READY, and the port's own new messages (R356). -/
  answers : List TlMsg := []
  news : List TlMsg := []
  /-- `SEQ` of a GOODCRC to be sent (R322). -/
  good : Option Nat := none
  /-- On the line: 0 nothing, 1 GOODCRC, 2 the message, 3 a tunnel frame; since when; end of the last activity. -/
  sending : Nat := 0
  txAt : Nat := 0
  lineAt : Nat := 0
  /-- The receiver's level, and whether it waits for an idle line after a discard (R312, R315). -/
  rxHigh : Bool := false
  rxWait : Bool := false
  /-- Back-off after a collision: its end and what is sent again (R328). -/
  backoff : Option (Nat × Nat) := none
  /-- A CRC-good packet has come from the sink since attach or soft reset (R345). -/
  heard : Bool := false
  inbox : List TlRx := []
  softRepeat : Option Nat := none
  /-- `CSTATE` codes 0 to 6 of the contract machine (R341). -/
  cs : Nat := 0
  own : Option TlOwn := none
  /-- Own messages that wait for the outstanding one to be answered. -/
  wants : List TlOwn := []
  /-- Response timer, or the 30 ms of a structured request. -/
  ownDue : Option Nat := none
  capsRetry : Option Nat := none
  psDue : Option Nat := none
  holdDue : Option Nat := none
  kaDue : Option Nat := none
  /-- Time of the last keep-alive (`KA_AGE`). -/
  kaAt : Nat := 0
  /-- Request object last sent (sink) or being brought into force (source). -/
  lastReq : Word := 0
  /-- The request in force changed while one was being answered. -/
  reqDue : Bool := false
  /-- The leg is held at 0 A while a contract is being changed (R341). -/
  noDC : Bool := false
  /-- Times of leg trips in the last 10 minutes, and the retry (R346). -/
  trips : List Nat := []
  tripDue : Option Nat := none
  hostHold : Option Nat := none
  identSent : Bool := false
  verdicts : List Verdict := []
  /-- Kinds that await a host verdict. -/
  pendReq : Bool := false
  pendSwap : Bool := false
  pendReatt : Bool := false
  swap : Option LesSwap := none
  swapDue : Option Nat := none
  swapTag : Option Nat := none
  /-- This port withdrew its own swap in a collision (R352). -/
  swapLost : Bool := false
  /-- TL_REATTACH command in progress, the power role it awaits, and its deadline once accepted. -/
  reTag : Option Nat := none
  reRole : Nat := 0
  reDue : Option Nat := none
  /-- TL_REQUEST commands in progress: (tag, request word, deadline). -/
  reqTags : List (Nat × Word × Nat) := []
  /-- Modes still to be entered (R358). -/
  enters : List Nat := []
  digDue : Nat := 0
  digSent : Option (Word × Word × Word) := none
  syncDue : Nat := 0
  syncT1 : Nat := 0
  budDue : Nat := 0
  budSent : Option (Int × Int × Int) := none
  /-- Time of the partner's latest budget (R363). -/
  budgetAt : Option Nat := none
  tun : Tunnel := {}
  deriving DecidableEq, Repr

/-- The host as the tie-links see it (R347): present since `TLPHY` started, and lost. -/
structure TlHost where
  present : Bool := false
  lost : Bool := false
  deriving DecidableEq, Repr

/-! ## Fuses, watchdog and supervisors (chapter 14) -/

/-- Option fuses (R502, R671); the standard ordering code is HCA. -/
structure Fuses where
  wdStart : Bool := true
  wdDbg : Bool := false
  noAutoFb : Bool := false
  deriving DecidableEq, Repr

/-- The host watchdog beside its registers. -/
structure Watchdog where
  /-- Key halves KA and KB (R505), which read as 0. -/
  key : Word := 0
  /-- Start and end of the running period, boot time or pulse. -/
  start : Nat := 0
  deadline : Nat := 0
  /-- Debug halt is asserted; time at which the timers froze (R513). -/
  halt : Bool := false
  frozenAt : Option Nat := none
  /-- `HRSTn` is driven low; else it is released (R511). -/
  hrstLow : Bool := false
  deriving DecidableEq, Repr

/-- One slot of a checkpoint area (R520): the words of its header, its body and `CK_COMMIT`, and the module time at
which the epoch began. -/
structure CkSlot where
  epoch : Word := 0
  body : List Word := []
  crc : Word := 0
  image : Nat × Word := (0, 0)
  commit : Word := 0
  began : Nat := 0
  deriving DecidableEq, Repr

/-- A supervisor beside its state in `SV_STATUS`. -/
structure Supervisor where
  /-- Times of its failures in the last 60 minutes (R524). -/
  fails : List Nat := []
  /-- Time by which its restart must have reached state 4. -/
  restartDue : Option Nat := none
  /-- Its half of the scratch: the slots in which it holds the checkpoints of the other (R519, R520). -/
  slots : List CkSlot := [{}, {}]
  /-- Its latest epoch that passed the check: number and time of its start (R521). -/
  checked : Option (Word × Nat) := none
  deriving DecidableEq, Repr

/-- The supervisor pair (R516-R526). -/
structure Supervisors where
  a : Supervisor := {}
  b : Supervisor := {}
  /-- Number of the next epoch begun; slot being written; slot of the latest committed epoch; time of the latest start. -/
  next : Nat := 1
  cur : Option Nat := none
  last : Option Nat := none
  began : Nat := 0
  /-- The latest committed epoch has still to be checked (R521). -/
  toCheck : Bool := false
  /-- A takeover is due: the supervisor that stopped (0 A, 1 B) and the cause. -/
  takeover : Option (Nat × Nat) := none
  /-- A planned switchover has been requested (R525). -/
  planned : Bool := false
  /-- Time since which no supervisor is active. -/
  noneSince : Option Nat := none
  /-- Supervisors that debug access holds halted: bit 0 A, bit 1 B (R517). -/
  halted : Nat := 0
  deriving DecidableEq, Repr

/-! ## Firmware, settings and digests (chapter 16) -/

/-- What a firmware slot holds: the image programmed in production, or bytes staged since. -/
inductive Image where
  | factory
  | bytes (b : List Byte)
  deriving DecidableEq, Repr

/-- A settings record held until its domain is powered (R581): its index and words. -/
structure HeldRec where
  idx : Nat
  words : List Word
  deriving DecidableEq, Repr

/-- A part's scanner (R590, R592): the published digest and generation, passes, and the digest and generation at the
start of the pass that runs. -/
structure DigPart where
  digest : Nat := 0
  gen : Word := 0
  passes : Nat := 0
  run : Option (Nat × Word) := none
  /-- An included word or the generation has changed in the pass under way; an included word since the publication. -/
  hit : Bool := false
  moved : Bool := false
  deriving DecidableEq, Repr

/-- Firmware, settings and digests beside their registers. Slots and settings copies are NOR. -/
structure Firmware where
  slotA : Image := .factory
  slotB : Image := .bytes []
  /-- Length of the image being staged (`PARAM1`). -/
  total : Nat := 0
  /-- End of the probation timer, in AON (R571). -/
  probEnd : Option Nat := none
  /-- The timer has run out with no fall-back following it (`NOAUTOFB`). -/
  probDone : Bool := false
  /-- Settings copies 0 and 1 as words; empty when never written (R577, R580). -/
  set0 : List Word := []
  set1 : List Word := []
  /-- Records that wait for a domain (R581), and whether the settings held have been applied. -/
  held : List HeldRec := []
  applied : Bool := false
  /-- Start-up runs its steps 6 to 8 again after a supervisor restart (R582). -/
  restarting : Bool := false
  parts : Tab DigPart := []
  deriving DecidableEq, Repr

/-! ## Site protection (chapter 17) -/

/-- A tamper latch not yet reported (R598): input, level, latched while `PPATH` was off, time. -/
structure TamperReport where
  input : Nat
  level : Bool
  off : Bool
  time : Nat
  deriving DecidableEq, Repr

/-- Removal detection of a channel (R599-R601). -/
structure Removal where
  /-- `VB` in mV of the previous snapshot, and whether it showed at least 0.50 A. -/
  prev : Option (Nat × Bool) := none
  /-- A step: its time, `VB` before it in 10 mV, and that current flag. -/
  step : Option (Nat × Nat × Bool) := none
  /-- A removal has been declared and not been followed by a refit; time since which `VB` is above `VTRIP_LO`. -/
  removed : Bool := false
  upSince : Option Nat := none
  deriving DecidableEq, Repr

/-- Shunt check of a channel (R602, R603). -/
structure ShuntCheck where
  /-- High times summed over the present millisecond, in steps of 78.125 ps, their dead times, and the number of ticks;
  the period in steps. -/
  sumA : Int := 0
  sumB : Int := 0
  ticks : Nat := 0
  /-- Sum over the window of the millisecond means of u, mV, and their number. -/
  u : Rat := 0
  ms : Nat := 0
  /-- Charge over the window, C. -/
  q : Rat := 0
  /-- The conditions of R602 have held since the window's start; mode of the window. -/
  ok : Bool := false
  mode : Nat := 0
  /-- Consecutive mismatched windows. -/
  run : Nat := 0
  deriving DecidableEq, Repr

/-- The insulation monitor (R605-R610). -/
structure Insulation where
  /-- Start of the half-period, whether it is one of the negative drive (R606), and V and J of the one before, 0.1 mV. -/
  start : Nat := 0
  neg : Bool := false
  prev : Option (Int × Int) := none
  /-- Latest results in kΩ, newest first: before the limits. -/
  results : List Nat := []
  /-- Least and greatest millisecond `CBUS_VS` of the half-period, 10 mV; droop was engaged in it. -/
  lo : Option Nat := none
  hi : Nat := 0
  droop : Bool := false
  deriving DecidableEq, Repr

/-- Energy accounting (R612-R614): the 28 counters in mWh (2L for IN, 2L + 1 for OUT), the remainders in mWh, and the
ingot restored from. -/
structure Energy where
  cnt : Tab Nat := []
  rem : Tab Rat := []
  restored : Word := 0xFFFFFFFF
  /-- ENERGY_READ commands that wait for a snapshot. -/
  reads : List Nat := []
  deriving DecidableEq, Repr

/-- The lamps (R616-R619). -/
structure Lamps where
  /-- Time since which each condition is in force (plus one). -/
  seen : Tab Nat := []
  /-- Entry chosen at the last evaluation and entry driving, 15 for none, and the boundary at which it took the lamp. -/
  chosen : List Nat := [15, 15, 15, 15]
  drive : List Nat := [15, 15, 15, 15]
  from_ : List Nat := [0, 0, 0, 0]
  at_ : Nat := 0
  testEnd : Option Nat := none
  deriving DecidableEq, Repr

structure Site where
  /-- Debounced levels of `TAMP7` to `TAMP0` (R594). -/
  tamp : Nat := 255
  /-- Their levels at the latest sample, and for how many samples each has had its level, up to 10 (R594). -/
  raw : Nat := 255
  runs : List Nat := []
  /-- `TFIRST` (R595), kept with the latches. -/
  first : Nat := 0
  reports : List TamperReport := []
  rem : Tab Removal := []
  shc : Tab ShuntCheck := []
  /-- Second at whose boundary the shunt windows last ended (R602). -/
  shcAt : Nat := 0
  ins : Insulation := {}
  en : Energy := {}
  lamp : Lamps := {}
  deriving DecidableEq, Repr

/-! ## Telemetry (R438-R449) -/

/-- Coder state of a channel's signal (R448). -/
structure Coder where
  have_ : Bool := false
  prev : Int := 0
  err : Int := 0
  deriving DecidableEq, Repr

/-- Current signal of a channel (R439): charge up to a change of `SHUNT` and accumulator at the last sample, charge from
the origin in C, the rounded charge last sent, and the excess carried. -/
structure TelCharge where
  acc : Nat := 0
  q : Rat := 0
  sent : Int := 0
  excess : Int := 0
  deriving DecidableEq, Repr

/-- A sample of a frame: for each selected signal and channel in order, the reported values before and after it, and
whether there was one before. -/
structure TelCode where
  sig : Nat
  chan : Nat
  prev : Int
  r : Int
  deriving DecidableEq, Repr

/-- A flask's telemetry. -/
structure Telemetry where
  /-- `PARAM0` and `PARAM1` in force, and those accepted and not yet applied, each with its command. -/
  cfg : Word := 0
  key : Word := 0
  next : List (Word × Word × Nat) := []
  fseq : Nat := 0
  /-- The next frame must be a key frame. -/
  force : Bool := false
  /-- Local channels of the frame, time of its first sample, samples taken and their codes. -/
  chans : Nat := 0
  t0 : Nat := 0
  taken : Nat := 0
  codes : List TelCode := []
  /-- Coders by 16·signal + local channel, and current signals by local channel. -/
  coders : Tab Coder := []
  charge : Tab TelCharge := []
  deriving DecidableEq, Repr

/-- The whole machine. -/
structure State where
  /-- The part (R4-R8, R16). -/
  part : Part := .zrc1024
  /-- Module time in ns (R15), and that of the latest snapshot (R176). -/
  now : Nat := 0
  snap : Nat := 0
  /-- Module time of the latest loop tick (R45). -/
  tickAt : Nat := 0
  /-- The fabrics (R31): key k < 4 region k's, 4 the hub's. -/
  fabrics : Tab Fabric := []
  /-- Every register and table word of BAR0, BAR2 and the MSI-X table, by key; an unlisted word holds its reset value. -/
  words : Tab Word := []
  pw : Power := {}
  pp : PowerPath := {}
  fq : Tab FaultQueue := []
  fc : Collector := {}
  bb : BlackBox := {}
  hi : HostIf := {}
  mp : Port := {}
  trc : Trace := {}
  atst : Atest := {}
  chans : Tab Chan := []
  flasks : Tab Flask := []
  regs : Tab Region := []
  lad : Ladle := {}
  tls : Tab TlPort := []
  tlHost : TlHost := {}
  ests : Tab Est := []
  /-- Copies of channel records by their offset in NOR (R24, R246). -/
  recs : Tab (Option RecCopy) := []
  sweeps : Sweeps := {}
  fuses : Fuses := {}
  wd : Watchdog := {}
  sv : Supervisors := {}
  fw : Firmware := {}
  site : Site := {}
  tel : Tab Telemetry := []
  /-- Calibration entries that wait for the millisecond boundary, oldest first (R196). -/
  calWaits : List CalWait := []
  /-- Converters of the 13 legs: SPRUE0-3, TL0-7, CBUS, and their calibration words in force (R200). -/
  legs : Tab Conv := []
  legCal : Tab (List Word) := []
  calConvs : Tab CalConv := []
  /-- Counter of free values drawn (the model's own, not the spec's). -/
  free : Nat := 0
  out : List Out := []
  /-- Commands waiting, first in first out. -/
  pending : List Instr := []
  deriving DecidableEq, Repr

/-- The module with no supply ever applied: every domain off and every word at its reset value (R475, R501). -/
def State.reset : State := {}

end Sys2Proof.Machine
end

