-- ==== Sys2Proof/Machine/Ops.lean ====
section
/-! DEFINITION. The named operations over tables, register words, fields, domains and the fault network. -/

namespace Sys2Proof.Machine

/-! ## Sparse tables -/

/-- The value of a table at a key: the listed one, else the table's default. -/
def tabGet {α : Type} (d : Nat → α) : Tab α → Nat → α
  | [], i => d i
  | (k, v) :: t, i => if i = k then v else tabGet d t i

/-- List a value at a key that is not listed, before the first greater key. -/
def tabIns {α : Type} (i : Nat) (v : α) : Tab α → Tab α
  | [] => [(i, v)]
  | (k, w) :: t => if i < k then (i, v) :: (k, w) :: t else (k, w) :: tabIns i v t

/-- Unlist a key. -/
def tabDel {α : Type} (i : Nat) (t : Tab α) : Tab α := t.filter (fun e => e.1 ≠ i)

/-- Write a table: the default value unlists the key, so equal tables are equal lists. -/
def tabSet {α : Type} [DecidableEq α] (d : Nat → α) (t : Tab α) (i : Nat) (v : α) : Tab α :=
  if v = d i then tabDel i t else tabIns i v (tabDel i t)

/-- Keys strictly rising from above `lo`, and no listed value equal to the default. -/
def tabWfFrom {α : Type} [DecidableEq α] (d : Nat → α) : Option Nat → Tab α → Bool
  | _, [] => true
  | lo, (k, v) :: t => (match lo with | none => true | some l => decide (l < k)) && decide (v ≠ d k) && tabWfFrom d (some k) t

/-- The canonical form of a table. -/
def tabWf {α : Type} [DecidableEq α] (d : Nat → α) (t : Tab α) : Bool := tabWfFrom d none t

/-! ## Words and fields -/

/-- Bits `lo` to `lo + n - 1` of a word as a number. -/
def bits (w : Word) (lo n : Nat) : Nat := (w.extractLsb' lo n).toNat

/-- A word with bits `lo` to `lo + n - 1` replaced by the low `n` bits of `v`. -/
def setBits (w : Word) (lo n v : Nat) : Word :=
  (w &&& ~~~((BitVec.ofNat 32 (2 ^ n - 1)) <<< lo)) ||| ((BitVec.ofNat 32 (v % 2 ^ n)) <<< lo)

/-- Sign extension of an `n`-bit number. -/
def sext (n v : Nat) : Int := if 2 ^ (n - 1) ≤ v then (v : Int) - 2 ^ n else v

/-- The low `n` bits of an integer, two's complement. -/
def toBits (n : Nat) (v : Int) : Nat := (v % (2 ^ n : Int)).toNat

/-- A number held at most at `m` (R649). -/
def satTo (m v : Nat) : Nat := if m ≤ v then m else v

/-- An integer limited to [lo, hi]. -/
def clampI (lo hi v : Int) : Int := if v < lo then lo else if hi < v then hi else v

/-- Division rounding to nearest, ties away from zero; `d` positive. -/
def divRound (n : Int) (d : Nat) : Int :=
  if 0 ≤ n then ((2 * n.toNat + d) / (2 * d) : Nat) else -(((2 * (-n).toNat + d) / (2 * d) : Nat) : Int)

/-- Division truncating toward zero; `d` positive. -/
def divTrunc (n : Int) (d : Nat) : Int := Int.tdiv n d

/-- The reset value of a word on a part (R16, R642), as the tables state it. -/
def resetWord (p : Part) (a : Nat) : Word :=
  if bar4 ≤ a then (if (a - bar4) % 16 = 12 && decide (a < bar4 + 0x8400) && decide (bar4 + 0x8000 ≤ a) then 1 else 0)
  else if bar2 ≤ a then BitVec.ofNat 32 (bar2Reset (a - bar2))
  else if 0x30000 ≤ a ∧ a < 0x32000 ∧ a % 0x400 = 0x44 then Config.serial.setWidth 32 <<< 3 ||| BitVec.ofNat 32 ((a - 0x30000) / 0x400)
  else if a = GL_IDENT then (match p with | .zrc1024 => 0x5A011101 | .zrc512 => 0x5A021101 | .zrc256 => 0x5A031101)
  else if a = GL_TOPOLOGY then (match p with | .zrc1024 => 0x0F440400 | .zrc512 => 0x03420200 | .zrc256 => 0x01310100)
  else if a = CK_STATUS then (match p with | .zrc1024 => 0xF0FF000C | .zrc512 => 0xF033000C | .zrc256 => 0xF011000C)
  else if a = CK_PDON ∨ a = CK_PDREQ then (match p with | .zrc1024 => 0x3FFFFDFF | .zrc512 => 0x000FFDFF | .zrc256 => 0x00007DFF)
  else BitVec.ofNat 32 (tableReset a)

/-- Read a word of the store. -/
def rd (s : State) (a : Nat) : Word := tabGet (resetWord s.part) s.words a

/-- Write a word of the store. -/
def wr (s : State) (a : Nat) (v : Word) : State := { s with words := tabSet (resetWord s.part) s.words a v }

/-- Read a field. -/
def getF (s : State) (f : Fld) : Nat := bits (rd s f.addr) f.lo f.wid

/-- Read a signed field. -/
def getI (s : State) (f : Fld) : Int := sext f.wid (getF s f)

/-- Write a field. -/
def setF (s : State) (f : Fld) (v : Nat) : State := wr s f.addr (setBits (rd s f.addr) f.lo f.wid v)

/-- Write a signed field. -/
def setI (s : State) (f : Fld) (v : Int) : State := setF s f (toBits f.wid v)

/-- A one-bit field as a Bool. -/
def flag (s : State) (f : Fld) : Bool := getF s f == 1

/-- Write a one-bit field. -/
def setFlag (s : State) (f : Fld) (b : Bool) : State := setF s f (if b then 1 else 0)

/-- Bit `i` of a field. -/
def bitF (s : State) (f : Fld) (i : Nat) : Bool := (getF s f).testBit i

/-- Write bit `i` of a field. -/
def setBitF (s : State) (f : Fld) (i : Nat) (b : Bool) : State := setFlag s ⟨f.addr, f.lo + i, 1⟩ b

/-- Add to a saturating counter (R649). -/
def addSat (s : State) (f : Fld) (n : Nat) : State := setF s f (satTo (2 ^ f.wid - 1) (getF s f + n))

/-- Count one in a saturating counter. -/
def incSat (s : State) (f : Fld) : State := addSat s f 1

/-- Count one in a counter that wraps. -/
def incWrap (s : State) (f : Fld) : State := setF s f (getF s f + 1)

/-- Return every word whose key satisfies `p` to its reset value. -/
def resetWords (s : State) (p : Nat → Bool) : State := { s with words := s.words.filter (fun e => !p e.1) }

/-- Apply an update for each element of a list, in order. -/
def forEach {α : Type} (l : List α) (f : α → State → State) (s : State) : State := l.foldl (fun t x => f x t) s

/-- Apply an update when a condition holds. -/
def when (c : Bool) (f : State → State) (s : State) : State := if c then f s else s

/-! ## Words as bytes -/

/-- The four bytes of a word, little-endian (R13). -/
def wordBytes (w : Word) : List Byte := [w.extractLsb' 0 8, w.extractLsb' 8 8, w.extractLsb' 16 8, w.extractLsb' 24 8]

/-- The word of up to four bytes, little-endian. -/
def bytesWord (b : List Byte) : Word := BitVec.ofNat 32 (b.foldr (fun x n => x.toNat + 256 * n) 0)

/-- A byte stream as words, the last padded with zeros. -/
def bytesWords : List Byte → List Word
  | a :: b :: c :: d :: t => bytesWord [a, b, c, d] :: bytesWords t
  | [] => []
  | l => [bytesWord l]

/-- Words as a byte stream. -/
def wordsBytes (l : List Word) : List Byte := l.flatMap wordBytes

/-- Low and high words of a 64-bit number. -/
def lo32 (n : Nat) : Word := BitVec.ofNat 32 n
def hi32 (n : Nat) : Word := BitVec.ofNat 32 (n / 2 ^ 32)

/-- A 16-bit pair as a word. -/
def pair16 (h l : Nat) : Word := BitVec.ofNat 32 ((h % 65536) * 65536 + l % 65536)

/-! ## Configuration space (R367): the writable bits of its dwords -/

/-- Offset, writable bits and reset value of the dwords of configuration space that take writes: Command, the six BAR words (R369), PMCSR,
Device Control, Link Control, Device Control 2, Link Control 2, MSI-X Message Control, and AER's control. The layout is that of the PCI Express
Base Specification; the places of the capabilities are the model's (PRESUMED, log 96). -/
def cfgRows : List (Nat × Nat × Nat) :=
  [(0x04, 0x0546, 0), (0x10, 0xFFC00000, 0), (0x14, 0xFFFFFFFF, 0), (0x18, 0xFC000000, 0), (0x1C, 0xFFFFFFFF, 0),
   (0x20, 0xFFFF0000, 0), (0x24, 0xFFFFFFFF, 0), (0x58, 0x71EF, 0x2000), (0x60, 0x00CB, 0), (0x78, 0x001F, 0), (0x80, 0x000F, 4),
   (0x90, 0xC0000000, 0), (0x118, 0x0140, 0)]

/-- The writable bits of a dword of configuration space as they stand. -/
def cfgWord (s : State) (ofs : Nat) : Word :=
  match cfgRows.find? (fun r => r.1 == ofs) with
  | some (_, _, v) => tabGet (fun _ => BitVec.ofNat 32 v) s.hi.cfg ofs
  | none => 0

/-- MSI-X Enable and Function Mask of Message Control (R399). -/
def msixEnabled (s : State) : Bool := (cfgWord s 0x90).getLsbD 31
def msixMasked (s : State) : Bool := (cfgWord s 0x90).getLsbD 30

/-! ## Time -/

/-- Module time moves to `t` if that is later; it never runs backwards (R15). -/
def advance (s : State) (t : Nat) : State := { s with now := max s.now t }

/-- The mean time of a cycle of a source of module time, in units of which 32 768 make 1 ns (R494): 40 ns, 30 517.578 125 ns and
62.5 ns; its accumulator gives steps of the whole nanoseconds on either side. -/
def timeCycle : TimeSrc → Nat
  | .reference => 40 * 32768
  | .crystal => 1000000000
  | .rc => 2048000

/-- The value module time has reached `d` ns after its source took over at a step: the whole cycles since (R494). -/
def steppedBy (x : TimeSrc) (d : Nat) : Nat := (d * 32768 / timeCycle x * timeCycle x + 32767) / 32768

/-- The first moment, from `d` ns after the take-over on, at which the source steps. -/
def stepFrom (x : TimeSrc) (d : Nat) : Nat := ((d * 32768 + timeCycle x - 1) / timeCycle x * timeCycle x + 32767) / 32768

/-- Module time at a moment, as its source has stepped it (R494, R495). The state's `now` goes on between the steps; every timestamp is
this value (R15). Of a moment before the present source took over the steps are no longer held, and the moment itself stands (DESIGN CHOICE,
log 79). -/
def stampAt (s : State) (t : Nat) : Nat := if t < s.pw.timeFrom then t else s.pw.timeFrom + steppedBy s.pw.timeSrc (t - s.pw.timeFrom)

/-- Module time now: the value a timestamp takes. -/
def stamp (s : State) : Nat := stampAt s s.now

/-! ## Domains (R39, R501): bit numbers of `CK_PDON` -/

def dKEEPA : Nat := 0
def dKEEPB : Nat := 1
def dHOSTIF : Nat := 2
def dCRUCIBLE : Nat := 3
def dLADLE : Nat := 4
def dTLPHY : Nat := 5
def dBBOX : Nat := 6
def dPPATH : Nat := 7
def dTRACE : Nat := 8
def dATEST : Nat := 9
/-- `RGk_CTL`. -/
def dCTL (k : Nat) : Nat := 10 + 5 * k
/-- `RGk_FBb`. -/
def dBANK (k b : Nat) : Nat := 11 + 5 * k + b
/-- The bank domain of global flask `f` (R10). -/
def dFlask (f : Nat) : Nat := dBANK (f / 16) (f % 16 / 4)

/-- A domain is powered. -/
def on (s : State) (d : Nat) : Bool := s.pw.aon && s.pw.dom.getLsbD d

/-- The domain whose reset clears a BAR0 register (R641). -/
def blockDomain (a : Nat) : Nat :=
  if a < 0x10000 then dPPATH
  else if a < 0x20000 then dHOSTIF
  else if a < 0x30000 then dPPATH
  else if a < 0x40000 then dTLPHY
  else if a < 0x41000 then dHOSTIF
  else if a < 0x50000 then dBBOX
  else if a < 0x51000 then dTRACE
  else if a < 0x60000 then dPPATH
  else if a < 0x70000 then dATEST
  else if a < 0x80000 then dPPATH
  else if a < 0x90000 then dLADLE
  else dCRUCIBLE

/-- Region k is online (R53): `REGIONS_ONLINE`. -/
def online (s : State) (k : Nat) : Bool := bitF s GL_TOPOLOGY_REGIONS_ONLINE k

/-- Flask `f` exists, its bank is powered. -/
def flaskOn (s : State) (f : Nat) : Bool := decide (f < s.part.flasks) && on s (dFlask f)

/-- The global flask of a channel (R9). -/
def chFlask (c : Nat) : Nat := c / 16

/-- The region of a channel (R9). -/
def chRegion (c : Nat) : Nat := c / 256

/-- The flasks of a region. -/
def regionFlasks (k : Nat) : List Nat := (List.range 16).map (fun j => 16 * k + j)

/-- The channels of a flask. -/
def flaskChans (f : Nat) : List Nat := (List.range 16).map (fun l => 16 * f + l)

/-! ## Sprue, ring and tag access -/

def sprue (s : State) (n : Nat) : Sprue := tabGet (fun _ => {}) s.pp.sprues n

def setSprue (s : State) (n : Nat) (x : Sprue) : State :=
  { s with pp := { s.pp with sprues := tabSet (fun _ => {}) s.pp.sprues n x } }

def getTag (s : State) (t : Nat) : Option Tag := tabGet (fun _ => none) s.hi.tags t

def setTag (s : State) (t : Nat) (x : Option Tag) : State :=
  { s with hi := { s.hi with tags := tabSet (fun _ => none) s.hi.tags t x } }

def subRing (s : State) (i : Nat) : SubRing := tabGet (fun _ => {}) s.hi.subs i
def setSubRing (s : State) (i : Nat) (x : SubRing) : State :=
  { s with hi := { s.hi with subs := tabSet (fun _ => {}) s.hi.subs i x } }
def comRing (s : State) (i : Nat) : ComRing := tabGet (fun _ => {}) s.hi.coms i
def setComRing (s : State) (i : Nat) (x : ComRing) : State :=
  { s with hi := { s.hi with coms := tabSet (fun _ => {}) s.hi.coms i x } }
def evRing (s : State) (i : Nat) : EvRing := tabGet (fun _ => {}) s.hi.evs i
def setEvRing (s : State) (i : Nat) (x : EvRing) : State :=
  { s with hi := { s.hi with evs := tabSet (fun _ => {}) s.hi.evs i x } }

/-- Put something out. -/
def emit (s : State) (o : Out) : State := { s with out := o :: s.out }

/-- Draw a free value's index: the counter's value, and the state with the counter advanced. -/
def draw (s : State) : Nat × State := (s.free, { s with free := s.free + 1 })

/-! ## Source IDs (R530) -/

/-- Channel source with a unit. -/
def srcChan (c unit : Nat) : Nat := (c / 256) * 4096 + (c / 16 % 16) * 256 + (c % 16) * 16 + unit
/-- Flask source with a unit. -/
def srcFlask (f unit : Nat) : Nat := 0x4000 + (f / 16) * 4096 + (f % 16) * 256 + unit
/-- Region source with a unit. -/
def srcRegion (k unit : Nat) : Nat := 0x8000 + k * 4096 + unit
/-- Module source: a block ID. -/
def srcBlock (b : Nat) : Nat := 0xC000 + b

/-- Level of a source: 0 channel, 1 flask, 2 region, 3 module. -/
def srcLevel (x : Nat) : Nat := x / 0x4000
/-- Region, flask-in-region, channel-in-flask of a source. -/
def srcRegionOf (x : Nat) : Nat := x / 4096 % 4
def srcFlaskOf (x : Nat) : Nat := 16 * srcRegionOf x + x / 256 % 16
def srcChanOf (x : Nat) : Nat := 16 * srcFlaskOf x + x / 16 % 16

/-! ## Channels, flasks and regions -/

def chan (s : State) (c : Nat) : Chan := tabGet (fun _ => {}) s.chans c
def setChan (s : State) (c : Nat) (x : Chan) : State := { s with chans := tabSet (fun _ => {}) s.chans c x }
def modChan (s : State) (c : Nat) (f : Chan → Chan) : State := setChan s c (f (chan s c))
def flask (s : State) (f : Nat) : Flask := tabGet (fun _ => {}) s.flasks f
def setFlask (s : State) (f : Nat) (x : Flask) : State := { s with flasks := tabSet (fun _ => {}) s.flasks f x }
def modFlask (s : State) (f : Nat) (g : Flask → Flask) : State := setFlask s f (g (flask s f))
def region (s : State) (k : Nat) : Region := tabGet (fun _ => {}) s.regs k
def setRegion (s : State) (k : Nat) (x : Region) : State := { s with regs := tabSet (fun _ => {}) s.regs k x }
def modRegion (s : State) (k : Nat) (g : Region → Region) : State := setRegion s k (g (region s k))

def est (s : State) (c : Nat) : Est := tabGet (fun _ => {}) s.ests c
def setEst (s : State) (c : Nat) (x : Est) : State := { s with ests := tabSet (fun _ => {}) s.ests c x }
def modEst (s : State) (c : Nat) (g : Est → Est) : State := setEst s c (g (est s c))

def tl (s : State) (n : Nat) : TlPort := tabGet (fun _ => {}) s.tls n
def setTl (s : State) (n : Nat) (x : TlPort) : State := { s with tls := tabSet (fun _ => {}) s.tls n x }
def modTl (s : State) (n : Nat) (f : TlPort → TlPort) : State := setTl s n (f (tl s n))

/-! ## The fault network (R29-R31, R531) -/

def faultQ (s : State) (i : Nat) : FaultQueue := tabGet (fun _ => {}) s.fq i
def setFaultQ (s : State) (i : Nat) (q : FaultQueue) : State := { s with fq := tabSet (fun _ => {}) s.fq i q }

/-- Rank of a message among those waiting in one cycle: higher severity first, then the lower of `r`
(R29: channel number, sequencer after channel 15; R531: flask, then the region's units). -/
def rankBefore (ra rb : Nat) (a b : FaultMsg) : Bool := b.sev < a.sev || (a.sev == b.sev && ra < rb)

/-- Rank key of a message at a flask port (`agg = false`) or an aggregator. -/
def rankKey (agg : Bool) (m : FaultMsg) : Nat :=
  if agg then (if srcLevel m.src = 2 then 16 + m.src % 16 else m.src / 256 % 16)
  else if srcLevel m.src = 0 then m.src / 16 % 16 else 16

/-- Insert a message behind those that came in earlier cycles and those of this cycle that rank before it. -/
def queueInsert (agg : Bool) (x : Queued) : List Queued → List Queued
  | [] => [x]
  | y :: t =>
    if y.at_ = x.at_ && rankBefore (rankKey agg x.msg) (rankKey agg y.msg) x.msg y.msg then x :: y :: t
    else y :: queueInsert agg x t

/-- Remove the newest queued Note or Minor message, if there is one (R30). -/
def dropNewestMinor (l : List Queued) : Option (List Queued) :=
  match l.reverse.findIdx? (fun y => y.msg.sev < 2) with
  | none => none
  | some i => some (l.reverse.eraseIdx i).reverse

/-- A message arrives at a queue of capacity `cap` (R30): the queue, and whether one message was lost. -/
def queueArrive (agg : Bool) (cap : Nat) (x : Queued) (l : List Queued) : List Queued × Bool :=
  if l.length < cap then (queueInsert agg x l, false)
  else if x.msg.sev < 2 then (l, true)
  else match dropNewestMinor l with
    | some l' => (queueInsert agg x l', true)
    | none => (l, true)

/-- A message reaches the fault port of flask `f`. -/
def flaskPortArrive (s : State) (f : Nat) (m : FaultMsg) : State :=
  if flaskOn s f then
    let q := faultQ s f
    let (l, lost) := queueArrive false 32 ⟨m, s.now⟩ q.q
    let s := setFaultQ s f { q with q := l, ovfDue := q.ovfDue || lost }
    if lost then modFlask s f (fun x => { x with lostMsg := satTo 65535 (x.lostMsg + 1) }) else s
  else s

/-- A message reaches the aggregator of region `k`, held under key 64 + k. -/
def aggregatorArrive (s : State) (k : Nat) (m : FaultMsg) : State :=
  if on s (dCTL k) then
    let q := faultQ s (64 + k)
    let (l, lost) := queueArrive true 64 ⟨m, s.now⟩ q.q
    setFaultQ s (64 + k)
      { q with q := l, ovfDue := q.ovfDue || lost, lost := if lost then satTo 65535 (q.lost + 1) else q.lost }
  else s

/-- A message reaches the collector's input `i`. -/
def collectorArrive (s : State) (i : Nat) (m : FaultMsg) : State :=
  if on s dBBOX then { s with fc := { s.fc with inbox := s.fc.inbox ++ [(i, m)] } } else s

/-- A block sends a fault message into the fault network at its own level (R529-R532). -/
def sendFault (s : State) (m : FaultMsg) : State :=
  if srcLevel m.src < 2 then flaskPortArrive s (srcFlaskOf m.src) m
  else if srcLevel m.src = 2 then aggregatorArrive s (srcRegionOf m.src) m
  else collectorArrive s (16 + m.src % 4096) m

/-- Send a fault message of a kind, severity, source and context. -/
def fault (s : State) (kind sev src : Nat) (ctx : Word) : State := sendFault s { kind, sev, src, ctx }

/-! ## SRAM (R47) -/

/-- A SECDED error on a read: a single-bit error is corrected, written back and reported as a Note; a double-bit error is
reported as Major. -/
def eccReport (s : State) (e : EccErr) : State :=
  fault s (if e.double then 0x25 else 0x24) (if e.double then 2 else 0) (if e.die = 4 then srcBlock 0x00E else srcRegion e.die 2) e.addr

/-- Every SECDED error met, in order. -/
def eccReports (s : State) (l : List EccErr) : State := forEach l (fun e s => eccReport s e) s

/-- A word of channel `c` has a double-bit error, so it is not used. -/
def eccBad (l : List EccErr) (c : Nat) : Bool := l.any (fun e => e.double && e.chan == some c)

end Sys2Proof.Machine
end

