-- ==== Sys2Proof/Machine/Crc.lean ====
section
/-! DEFINITION. The cyclic redundancy checks: CRC-32C (R35) and the CRC-64 of the digests. -/

namespace Sys2Proof.Machine

/-- One bit of a reflected CRC of polynomial `p` (reflected form). -/
def crcBit {w : Nat} (p c : BitVec w) : BitVec w := if c.getLsbD 0 then (c >>> 1) ^^^ p else c >>> 1

/-- One byte of a reflected CRC. -/
def crcByte {w : Nat} (p c : BitVec w) (b : Byte) : BitVec w :=
  (List.range 8).foldl (fun x _ => crcBit p x) (c ^^^ b.setWidth w)

/-- CRC-32C: polynomial 0x1EDC6F41 reflected, initial and final XOR 0xFFFFFFFF (R35). -/
def crc32c (l : List Byte) : Word := (l.foldl (crcByte 0x82F63B78#32) 0xFFFFFFFF#32) ^^^ 0xFFFFFFFF#32

/-- CRC-32 of IEEE 802.3 (R321). -/
def crc32 (l : List Byte) : Word := (l.foldl (crcByte 0xEDB88320#32) 0xFFFFFFFF#32) ^^^ 0xFFFFFFFF#32

/-- CRC-32C of words in address order. -/
def crc32cWords (l : List Word) : Word := crc32c (wordsBytes l)

/-- One bit of the CRC-64 of R587, most significant first. -/
def crc64Bit (c : BitVec 64) : BitVec 64 := if c.getLsbD 63 then (c <<< 1) ^^^ 0x42F0E1EBA9EA3693#64 else c <<< 1

/-- CRC-64 (R587). -/
def crc64 (l : List Byte) : Nat :=
  (l.foldl (fun (c : BitVec 64) (b : Byte) => (List.range 8).foldl (fun d _ => crc64Bit d) (c ^^^ (BitVec.setWidth 64 b <<< 56))) 0#64).toNat

end Sys2Proof.Machine
end

