-- ==== Sys2Proof/Machine/Fabric.lean ====
section
/-! DEFINITION. The region fabrics and the hub fabric (R31-R33): transfers that wait, the order in which they are granted, and
the bursts they are cut into. -/

namespace Sys2Proof.Machine

/-- The hub fabric's key; keys 0 to 3 are the region fabrics. -/
def hubFabric : Nat := 4

def fabric (s : State) (i : Nat) : Fabric := tabGet (fun _ => {}) s.fabrics i
def setFabric (s : State) (i : Nat) (x : Fabric) : State := { s with fabrics := tabSet (fun _ => {}) s.fabrics i x }

/-! Requesters of a region fabric: its flasks 0 to 15, then its controller and its runner port, which the spec gives no index
(DESIGN CHOICE: they come after flask 15). Requesters of the hub fabric: regions 0 to 3, then the hub blocks in their fixed
order. -/
def rqController : Nat := 16
def rqRunner : Nat := 17
def rqPpath : Nat := 4
def rqSupervisor (n : Nat) : Nat := 5 + n
def rqCrucible : Nat := 7
def rqLadle : Nat := 8
def rqHost : Nat := 9
def rqMgmt : Nat := 10
def rqTrace : Nat := 11
def rqAtest : Nat := 12

/-- Requesters among which a fabric goes round-robin: on the ZRC-256 region 0 is the hub fabric's only one (R33). -/
def rounds (p : Part) (i : Nat) : Nat := if i = hubFabric then p.regions else 18

/-- Place of a requester in a class whose turn is `turn`: the round-robin requesters from there on, then the hub blocks. -/
def grantRank (n turn req : Nat) : Nat := if req < n then (req + n - turn) % n else n + req

/-- The transfer granted next: the lowest class, within it the requester whose turn comes first, of one requester the
transfer that came first (R31). -/
def grantPick (n : Nat) (turn : List Nat) : List Xfer → Option (Nat × Xfer)
  | [] => none
  | x :: t =>
    match grantPick n turn t with
    | none => some (0, x)
    | some (i, y) =>
      if y.cls < x.cls ∨ (y.cls = x.cls ∧ grantRank n (turn.getD y.cls 0) y.req < grantRank n (turn.getD x.cls 0) x.req)
      then some (i + 1, y) else some (0, x)

/-- Bytes of a transfer's next burst: a class-3 transfer goes in bursts of at most 256 bytes (R32). -/
def burst (x : Xfer) : Nat := if x.cls = 3 then min 256 x.bytes else x.bytes

/-- Time a burst of 256 bytes takes: 320 ns on the hub fabric, 640 ns on a region fabric (R32). -/
def burstNs (i bytes : Nat) : Nat := bytes * (if i = hubFabric then 320 else 640) / 256

/-- One grant: the burst goes, and the next requester of its class has the turn (R31, R32). -/
def grantOne (n i now : Nat) (x : Fabric) : Fabric :=
  match grantPick n x.turn x.waiting with
  | none => x
  | some (j, y) =>
    { x with
      waiting := if y.bytes ≤ burst y then x.waiting.eraseIdx j else x.waiting.set j { y with bytes := y.bytes - burst y }
      turn := if y.req < n then x.turn.set y.cls ((y.req + 1) % n) else x.turn
      last := some (y.cls, y.req)
      busy := max now x.busy + burstNs i (burst y) }

/-- The grants of a fabric that begin before `till`, the first at `now` at the earliest. -/
def grantUntil (n i now till : Nat) : Nat → Fabric → Fabric
  | 0, x => x
  | fuel + 1, x => if x.waiting.isEmpty || decide (till ≤ max now x.busy) then x else grantUntil n i now till fuel (grantOne n i now x)

/-- Bursts that wait on a fabric. -/
def burstsLeft (x : Fabric) : Nat := (x.waiting.map (fun y => y.bytes / 256 + 1)).sum

/-- The grants that have begun before time `t`: each was made among the requests that waited when it began, so a request made later
waits for the end of the burst then on the fabric, and for no other (R32). -/
def Fabric.run (n i t : Nat) (x : Fabric) : Fabric := { grantUntil n i x.at_ t (burstsLeft x) x with at_ := max x.at_ t }

/-- The fabrics' grants up to the present moment. -/
def fabricsRun (s : State) : State :=
  forEach (s.fabrics.map (·.1)) (fun i s => setFabric s i ((fabric s i).run (rounds s.part i) i s.now)) s

/-- A fabric has power: the hub's with `PPATH`, a region's with its controller. -/
def fabricOn (s : State) (i : Nat) : Bool := if i = hubFabric then on s dPPATH else on s (dCTL i)

/-- A block asks a fabric for a transfer at this moment. -/
def xfer (s : State) (i cls req bytes : Nat) : State :=
  if fabricOn s i then
    let x := (fabric s i).run (rounds s.part i) i s.now
    setFabric s i { x with waiting := x.waiting ++ [{ cls, req, bytes }] }
  else s

/-- A requester loses power: its transfers that wait are discarded (R479). -/
def dropXfers (s : State) (i req : Nat) : State :=
  if (fabric s i).waiting.any (fun y => y.req == req) then
    let x := (fabric s i).run (rounds s.part i) i s.now
    setFabric s i { x with waiting := x.waiting.filter (fun y => y.req != req) }
  else s

/-- A fabric loses power. -/
def fabricOff (s : State) (i : Nat) : State := setFabric s i {}

end Sys2Proof.Machine
end

