-- ==== Sys2Proof/Machine/Flags.lean ====
section
/-! DEFINITION. Every flag computation: event bits and the records and interrupts they raise (R399, R400, R434),
trace records offered (R622, R623), and the end of a command. -/

namespace Sys2Proof.Machine

/-! ## Interrupts -/

/-- Send an MSI-X message on a vector; a vector masked by itself or with its function, or a link that cannot carry it, sets its
pending bit; with MSI-X not enabled there is no message (R373, R399). -/
def msix (s : State) (v : Nat) : State :=
  if !on s dHOSTIF || !msixEnabled s then s
  else if s.hi.d3hot || s.hi.resetting || msixMasked s || (rd s (bar4 + 0x8000 + 16 * v + 12)).getLsbD 0 then
    setF s ⟨bar4 + 0xC000 + 4 * (v / 32), v % 32, 1⟩ 1
  else emit s (.msix v)

/-- Set bits of `HI_EVENT`; enabled ones are signalled on `ERR_VEC` and never become a record (R399, R434). -/
def raiseHi (s : State) (mask : Nat) : State :=
  if !on s dHOSTIF then s
  else
    let w := rd s HI_EVENT ||| BitVec.ofNat 32 mask
    let s' := wr s HI_EVENT w
    if (rd s HI_EVENT_EN &&& BitVec.ofNat 32 mask) = 0 then s' else msix s' (getF s HI_ERRVEC_ERR_VEC)

def eRING_ERR : Nat := 1
def eORPHANS : Nat := 2
def eTAG_FULL : Nat := 4
def eCAP_WAIT : Nat := 8
def eEV_LOST : Nat := 16
def eDESC_CRC : Nat := 32

/-! ## Event records -/

/-- Entries a record takes (R381): its three header words and its content over 15 words an entry. -/
def recEntries (r : Record) : Nat := (3 + r.content.length + 14) / 15

/-- Entries staged in a ring (R400). -/
def stagedEntries (l : List Record) : Nat := (l.map recEntries).sum

/-- A record of a telemetry frame. -/
def isTel (r : Record) : Bool := r.rtype == 0x20

/-- Count a record discarded on a ring now (R400, R433). -/
def countLost (s : State) (ring : Nat) (tel : Bool) : State :=
  let e := evRing s ring
  let e := { e with
    lostAt := if e.lostEvt = 0 ∧ e.lostTel = 0 then stamp s else e.lostAt
    lostEvt := if tel then e.lostEvt else satTo 65535 (e.lostEvt + 1)
    lostTel := if tel then satTo 65535 (e.lostTel + 1) else e.lostTel }
  let s := setEvRing s ring e
  let s := incSat s (if tel then HI_EVLOST_LOST_TEL else HI_EVLOST_LOST_EVT)
  raiseHi s eEV_LOST

/-- A telemetry frame of a flask has been discarded: its next frame is a key frame (R444). -/
def forceKey (s : State) (r : Record) : State :=
  { s with tel := s.tel.map (fun e => if e.1 = r.hdr / 2 ^ 18 then (e.1, { e.2 with force := true }) else e) }

/-- Drop the oldest staged telemetry frame, if there is one. -/
def dropOldestTel (l : List Record) : Option (List Record × Record) :=
  match l.findIdx? isTel with
  | none => none
  | some i => match l[i]? with
    | some r => some (l.eraseIdx i, r)
    | none => none

/-- A ring's staging area has room for a record (R400). -/
def stageFits (s : State) (ring : Nat) (r : Record) : Bool := decide (stagedEntries (evRing s ring).staging + recEntries r ≤ 1024)

/-- Staged telemetry frames are displaced, the oldest first, until a record fits or none is left. -/
def displace (s : State) (ring : Nat) (r : Record) (n : Nat) : State :=
  match n with
  | 0 => s
  | n + 1 =>
    if stageFits s ring r then s
    else match dropOldestTel (evRing s ring).staging with
      | some (l, old) => displace (forceKey (countLost (setEvRing s ring { evRing s ring with staging := l }) ring true) old) ring r n
      | none => s

/-- Stage a record on an event ring (R400): 1 024 entries; when full a telemetry frame is discarded, and any other
record displaces the oldest staged telemetry frames or is discarded. `FULL` shows staging in use (R408). The Bool says whether the
record was staged. -/
def stageRecord (s : State) (ring : Nat) (r : Record) : Bool × State :=
  if !on s dPPATH then (false, s)
  else
    let s := if isTel r then s else displace s ring r (evRing s ring).staging.length
    if stageFits s ring r then
      let s := setEvRing s ring { evRing s ring with staging := (evRing s ring).staging ++ [r] }
      (true, if on s dHOSTIF then setFlag s (EV_STATUS_FULL (ring % 4)) true else s)
    else if isTel r then (false, forceKey (countLost s ring true) r)
    else (false, countLost s ring false)

/-- Stage a record, whatever comes of it. -/
def stage (s : State) (ring : Nat) (r : Record) : State := (stageRecord s ring r).2

/-- The `BLOCK` code of an event register (R434). -/
def blockCode (ev : Nat) : Nat :=
  if ev = PP_EVENT then 1 else if ev = LD_EVENT then 2 else if ev = CR_EVENT then 3 else if ev = FC_EVENT then 4
  else if ev = WD_EVENT then 5 else if ev = SV_EVENT then 6 else if ev = TM_EVENT then 7 else if ev = TRC_EVENT then 9
  else if ev = AT_EVENT then 0xA else if ev = GL_FWEVENT then 0xB
  else if (ev - 0x30000) % 0x400 = 0xC then 0x10 + (ev - 0x30000) / 0x400
  else 0x18 + (ev - 0x30000) / 0x400

/-- The staged block event record of an event register that is still open for merging: its events lie within 10 µs
of the first (R434). -/
def openRecord (s : State) (ev : Nat) (r : Record) : Bool := r.evReg == some ev && decide (s.now < r.time + 10000)

/-- Add the bits of a further event to an open record. -/
def mergeInto (mask : Nat) (value : Word) (r : Record) : Record :=
  match r.content with
  | set :: _ => { r with content := [set ||| BitVec.ofNat 32 mask, value] }
  | [] => r

/-- Write or merge the block event record of enabled bits `mask` of event register `ev` (R434). -/
def blockRecord (s : State) (ev mask : Nat) : State :=
  let ring := s.hi.routeBlock
  let e := evRing s ring
  if e.staging.any (openRecord s ev) then
    setEvRing s ring { e with
      staging := e.staging.map (fun r => if openRecord s ev r then mergeInto mask (rd s ev) r else r) }
  else
    stage s ring { rtype := 0x10, hdr := blockCode ev * 65536, time := stamp s,
                   content := [BitVec.ofNat 32 mask, rd s ev], evReg := some ev }

/-- A hardware event sets bits of an event register (R21); its enable register stands one word above. -/
def raise (s : State) (ev mask : Nat) : State :=
  let s' := wr s ev (rd s ev ||| BitVec.ofNat 32 mask)
  let en := (rd s (ev + 4) &&& BitVec.ofNat 32 mask).toNat
  if en = 0 then s' else blockRecord s' ev en

/-! ## Trace (R622, R623, R631) -/

/-- Class of a record kind (R623); markers, kinds from 0xF0, have none. -/
def traceClass (kind : Nat) : Nat := kind / 16

/-- Count a record in `LOST` of the trace unit. -/
def traceLose (s : State) : State :=
  raise (incSat { s with trc := { s.trc with lostAll := s.trc.lostAll + 1 } } TRC_LOST_LOST) TRC_EVENT 1

/-- The buffer freezes (R625): records still queued are discarded. -/
def freezeTrace (s : State) : State :=
  let n := s.trc.queue.length
  let s := raise (setFlag { s with trc := { s.trc with queue := [], post := none, freezeOn := none } } TRC_STATUS_FROZEN true) TRC_EVENT 4
  forEach (List.range n) (fun _ s => traceLose s) s

/-- Place of a record's block among those that offer records in the same 5 ns (R622). AON, which the rule does not place, comes last
(DESIGN CHOICE, log entry 61). -/
def offerRank (r : TraceRec) : Nat :=
  match r.kind with
  | 0x50 => 0
  | 0x13 => 0
  | 0x70 => 1
  | 0x10 => 4
  | 0x11 => 4
  | 0x12 => 4
  | 0x01 => 5
  | 0x02 => 5
  | 0x40 => 6
  | 0x71 => 6
  | 0x30 => 7
  | 0x31 => 7
  | 0x32 => 7
  | 0x33 => 7
  | 0x20 => 8 + r.subj % 1024 / 256
  | 0x21 => 8 + r.subj % 1024 / 256
  | 0x22 => 8 + r.subj % 1024 / 256
  | 0x23 => 8 + r.subj % 64 / 16
  | _ => 12

/-- A record behind those it follows: it goes before the records of the same 5 ns whose block comes later (R622). -/
def offered (q : List TraceRec) (r : TraceRec) : List TraceRec :=
  let late := (q.reverse.takeWhile (fun (x : TraceRec) => x.time / 5 = r.time / 5 && decide (offerRank r < offerRank x))).length
  q.take (q.length - late) ++ r :: q.drop (q.length - late)

/-- A record is offered to the trace unit; one that finds the input queue full is discarded (R622). There is none before module time
starts, since it would carry a timestamp (R496). -/
def offer (s : State) (kind subj : Nat) (data : Word) : State :=
  let r : TraceRec := ⟨kind, subj % 2 ^ 24, data, s.now⟩
  if !s.pw.timeRuns then s
  else if on s dTRACE then
    if !flag s TRC_CTRL_EN then s
    else if kind < 0xF0 && !bitF s TRC_CTRL_CLASS_EN (traceClass kind) then s
    else if flag s TRC_STATUS_FROZEN then traceLose s
    else if 256 ≤ s.trc.queue.length then traceLose { s with trc := { s.trc with queue := (offered s.trc.queue r).take 256 } }
    else { s with trc := { s.trc with queue := offered s.trc.queue r } }
  else if kind = 0x60 then
    if s.trc.aonq.length < 64 then { s with trc := { s.trc with aonq := s.trc.aonq ++ [{ r with time := stamp s }] } }
    else { s with trc := { s.trc with aonOvf := satTo 255 (s.trc.aonOvf + 1) } }
  else if on s dPPATH then { s with trc := { s.trc with offLost := satTo 0xFFFFFFFF (s.trc.offLost + 1) } }
  else s

/-- A power-path event: bits of `PP_EVENT` and their trace record (R623, kind 0x50). -/
def raisePP (s : State) (mask : Nat) : State :=
  let s := raise s PP_EVENT mask
  offer s 0x50 mask (rd s PP_STATUS)

def ppFALLBACK : Nat := 1
def ppNO_SOURCE : Nat := 2
def ppRETURN : Nat := 4
def ppCBUS_UV : Nat := 8
def ppCBUS_OV : Nat := 16
def ppDEAD_SET : Nat := 32
def ppDEAD_CLR : Nat := 64
def ppKNEE : Nat := 128
def ppSOURCE_CHG : Nat := 256
def ppSAFE_ENTER : Nat := 512
def ppTL_TRIP : Nat := 1024
def ppSUPPLY_CHG : Nat := 2048
def ppTRANSPORT_ABORT : Nat := 4096

/-! ## Commands -/

/-- Completion status codes (R411). -/
def stSUCCESS : Nat := 0x00
def stINVALID_FIELD : Nat := 0x01
def stINVALID_BUFFER : Nat := 0x02
def stDESC_CRC : Nat := 0x03
def stOUT_OF_RANGE : Nat := 0x04
def stREGION_OFFLINE : Nat := 0x05
def stCHECK_FAILED : Nat := 0x06
def stSTATE : Nat := 0x07
def stBUSY : Nat := 0x08
def stLOCKED : Nat := 0x09
def stABORTED : Nat := 0x0A
def stREFUSED : Nat := 0x0B
def stHOST_RESET : Nat := 0x0C
def stNOT_ATTACHED : Nat := 0x0D
def stPARTNER_REJECT : Nat := 0x0E
def stTIMEOUT : Nat := 0x0F
def stAUTH : Nat := 0x10
def stSCHEMA : Nat := 0x11
def stNOT_ARMED : Nat := 0x12
def stINTERLOCK : Nat := 0x13
def stMEDIA : Nat := 0x14
def stNO_MATCH : Nat := 0x15
def stHOST_MEMORY : Nat := 0x16

/-- Opcode, CID, selector and parameter words of a tag's descriptor (R375). -/
def Tag.word (x : Tag) (i : Nat) : Word := x.words.getD i 0
def Tag.opcode (x : Tag) : Nat := bits (x.word 0) 0 8
def Tag.cid (x : Tag) : Nat := bits (x.word 0) 16 16
def Tag.param (x : Tag) (i : Nat) : Word := x.word (2 + i)

/-- Update a tag that is in use. -/
def modTag (s : State) (t : Nat) (f : Tag → Tag) : State :=
  match getTag s t with
  | some x => setTag s t (some (f x))
  | none => s

/-- A command ends: its final completion waits to be written (R390, R397), its outcome has its module time (R407). One that has ended
stays as it ended. -/
def endTag (s : State) (t status : Nat) (r0 r1 : Word) : State :=
  let s := modTag s t (fun x =>
    if x.state = .done then x
    else { x with state := .done, status, r0, r1, applied := true, ended := s.hi.nextEnd, endAt := stamp s })
  { s with hi := { s.hi with nextEnd := s.hi.nextEnd + 1 } }

/-- A command ends with a status and no results. -/
def endSt (s : State) (t status : Nat) : State := endTag s t status 0 0

/-- A command whose effects are in force goes on in its block. -/
def runTag (s : State) (t : Nat) : State := modTag s t (fun x => { x with state := .running, applied := true })

/-- A command waits in its block for the moment it applies. -/
def pendTag (s : State) (t : Nat) : State := modTag s t (fun x => { x with state := .running })

/-- A read command's result is in the module: it leaves in fragments (R402). -/
def giveResult (s : State) (t : Nat) (r0 r1 : Word) (res : List Word) : State :=
  modTag s t (fun x => { x with state := .running, applied := true, r0, r1, result := res, total := 4 * res.length })

/-- The number that stands for no command, where an entry may wait for one. -/
def noTag : Nat := 1024

/-- The tag holds a command that has not ended. -/
def tagRuns (s : State) (t : Nat) : Bool := match getTag s t with | some x => x.state != TagState.done | none => false

/-- What waits under a tag still does: no command has it, or one that has not ended. -/
def stillWaits (s : State) (t : Nat) : Bool := t == noTag || tagRuns s t

/-! ## Changes of included configuration (R588, R590) -/

/-- Included bits of a BAR0 register; 0 where none is. -/
def digestMask (a : Nat) (r : RegRow) : Nat :=
  let o := a % 0x400
  if 0x30000 ≤ a ∧ a < 0x32000 ∧ (o = 0x24 ∨ (TL_CAPS 0 0 - 0x30000 ≤ o ∧ o < TL_CAPS 0 0 - 0x30000 + 24)) then 0xFFFFFFFF
  else if (0x10000 ≤ a ∧ a < 0x20000) ∨ a = GL_CFGGEN ∨ a = WD_PERIOD ∨ a = TRC_HBASE_LO ∨ a = TRC_HBASE_HI ∨ a = TRC_HCFG ∨ a = TRC_HRD then 0
  else
    let m := r.rw ||| r.rwl
    if a = TRC_CTRL then m - (m &&& 2 ^ TRC_CTRL_HOST_EN.lo)
    else if a = CK_PDREQ then m - (m &&& 2 ^ dATEST)
    else m

/-- The part whose digest takes in a word, 0 the hub, 1 + k region k, and the bits it takes. -/
def cfgPart (a : Nat) : Option (Nat × Nat) :=
  let o := a - bar2
  if a < 0x400000 then
    match regRow a with
    | some r => if digestMask a r = 0 then none else some (0, digestMask a r)
    | none => none
  else if a < bar2 then none
  else if o < 0x10000 then
    (if o % 0x40 < 0x20 ∨ (0x28 ≤ o % 0x40 ∧ o % 0x40 < 0x38) then some (1 + o / 0x4000, 0xFFFFFFFF) else none)
  else if o < 0x11000 then (if o % 0x40 < 8 then some (1 + (o - 0x10000) / 0x400, 0xFFFFFFFF) else none)
  else if o < 0x12000 then some (0, 0xFFFFFFFF)
  else if 0x1A000 ≤ o ∧ o < 0x1E000 then some (1 + (o - 0x1A000) / 0x1000, if o % 16 = 8 then 0xFFFFFF00 else 0xFFFFFFFF)
  else if 0x38000 ≤ o ∧ o < 0x3C000 then (if o % 16 < 12 then some (1 + (o - 0x38000) / 0x1000, 0xFFFFFFFF) else none)
  else if (0x40000 ≤ o ∧ o < 0x44000) ∨ (0xD4000 ≤ o ∧ o < 0xD40A0) then some (0, 0xFFFFFFFF)
  else none

/-- The parts of which an included bit differs between two states. -/
def cfgMoved (s u : State) : List Nat :=
  let keys := (u.words.filter (fun e => !s.words.contains e) ++ s.words.filter (fun e => !u.words.contains e)).map (·.1)
  keys.filterMap (fun a => match cfgPart a with
    | some (p, m) => if rd s a &&& BitVec.ofNat 32 m = rd u a &&& BitVec.ofNat 32 m then none else some p
    | none => none)

def digPart (s : State) (p : Nat) : DigPart := tabGet (fun _ => {}) s.fw.parts p
def setDigPart (s : State) (p : Nat) (x : DigPart) : State :=
  { s with fw := { s.fw with parts := tabSet (fun _ => {}) s.fw.parts p x } }

/-- From `s` the configuration has become that of `u`: the passes of the parts that changed are void, and their digests out of date. -/
def noteCfg (s u : State) : State :=
  forEach (cfgMoved s u) (fun p u => setDigPart u p { digPart u p with hit := true, moved := true }) u

/-- Settings quarantine is in force (R584). -/
def quarantine (s : State) : Bool := flag s GL_FWSTAT_QUARANTINE

end Sys2Proof.Machine
end

