-- ==== Sys2Proof/Machine/Operands.lean ====
section
/-! DEFINITION. Every operand form of a command: the target selector (R409, R410), the parameter words (R415), the
buffer (R377, R413, R414), and what each opcode accepts. -/

namespace Sys2Proof.Machine

/-! ## Selectors -/

/-- What an opcode's selector must be (R413). -/
inductive SelKind where
  | module_
  | chans
  | oneChan
  | flasks
  | oneFlask
  | port
  | slot
  deriving DecidableEq, Repr

/-- `KIND`, `FIRST` and `COUNT` of a selector (R409). -/
def selKind (w : Word) : Nat := bits w 28 4
def selFirst (w : Word) : Nat := if selKind w = 1 then bits w 16 10 else bits w 16 6
def selCount (w : Word) : Nat := if selKind w = 1 then bits w 0 11 else bits w 0 7
/-- Tie-link port or slot of a selector. -/
def selPort (w : Word) : Nat := bits w 16 3
def selSlot (w : Word) : Nat := bits w 16 4

/-- Bits a selector layout names (R409). -/
def selMask : Nat → Nat
  | 0 => 0xF0000000
  | 1 => 0xF3FF07FF
  | 2 => 0xF03F007F
  | 3 => 0xF0030000
  | 4 => 0xF0070000
  | 5 => 0xF00F0000
  | _ => 0

/-- The layout is whole: no bit outside it, `COUNT` not 0, and the kind one the opcode accepts (R410 check 1). A range that
leaves the part is the second check's. -/
def selForm (k : SelKind) (w : Word) : Bool :=
  decide (selKind w ≤ 5) && ((w &&& ~~~(BitVec.ofNat 32 (selMask (selKind w)))) == 0) &&
  (match k with
   | .module_ => selKind w == 0
   | .chans => selKind w == 1 && decide (1 ≤ selCount w)
   | .oneChan => selKind w == 1 && decide (1 ≤ selCount w)
   | .flasks => selKind w == 2 && decide (1 ≤ selCount w)
   | .oneFlask => selKind w == 2 && decide (1 ≤ selCount w)
   | .port => selKind w == 4
   | .slot => selKind w == 5)

/-- The channels or flasks a selector covers. -/
def selRange (w : Word) : List Nat := (List.range (selCount w)).map (fun i => selFirst w + i)

/-- The range ends within the part (R410 check 2, R6). -/
def selInPart (p : Part) (w : Word) : Bool :=
  if selKind w = 1 then decide (selFirst w + selCount w ≤ p.channels)
  else if selKind w = 2 then decide (selFirst w + selCount w ≤ p.flasks)
  else true

/-- Regions a selector covers. -/
def selRegions (w : Word) : List Nat :=
  if selKind w = 1 then (List.range 4).filter (fun k => decide (selFirst w < 256 * (k + 1)) && decide (256 * k < selFirst w + selCount w))
  else if selKind w = 2 then (List.range 4).filter (fun k => decide (selFirst w < 16 * (k + 1)) && decide (16 * k < selFirst w + selCount w))
  else []

/-- An opcode that names one channel or one flask has `COUNT` = 1 (R413). -/
def selOne (k : SelKind) (w : Word) : Bool := (k != .oneChan && k != .oneFlask) || selCount w == 1

/-- The selector check: the three checks of R410 in their order, then the `COUNT` = 1 that R413 asks of an opcode with one target,
which is none of the three (DESIGN CHOICE, log 86): 0 or the status of the first failing check. -/
def selCheck (s : State) (k : SelKind) (w : Word) : Nat :=
  if !selForm k w then stINVALID_FIELD
  else if !selInPart s.part w then stOUT_OF_RANGE
  else if (selRegions w).any (fun r => !online s r) then stREGION_OFFLINE
  else if !selOne k w then stINVALID_FIELD
  else stSUCCESS

/-! ## Opcodes -/

/-- The buffer an opcode takes (R413): none, a source of `lo` to `hi` bytes in steps of `step`, or a result whose
length must be `exact` bytes, or any length. -/
inductive BufKind where
  | none
  | source (lo hi step : Nat)
  | result (exact : Option Nat)
  /-- CHAN_READ: 128 bytes for each channel selected. -/
  | perChan
  deriving DecidableEq, Repr

/-- What the opcode table says of an opcode (R413, R415): selector, write effects, buffer, the named bits of
`PARAM0` to `PARAM7`, and whether a reset of the host interface lets it stop at once (safe point "At once"). -/
structure OpInfo where
  sel : SelKind
  writes : Bool
  buf : BufKind
  params : List Nat
  atOnce : Bool
  deriving DecidableEq, Repr

/-- The opcode table of R413 with the parameter fields of R415; none for an undefined opcode. -/
def opInfo : Nat → Option OpInfo
  | 0x00 => some ⟨.module_, false, .none, [], true⟩
  | 0x01 => some ⟨.module_, false, .result none, [], true⟩
  | 0x02 => some ⟨.module_, false, .none, [], true⟩
  | 0x03 => some ⟨.module_, true, .none, [0x3F], true⟩
  | 0x04 => some ⟨.flasks, true, .none, [0xBFFF03FF, 0xFFFF], false⟩
  | 0x10 => some ⟨.chans, true, .none,
      [0x8F000007, 0xFFFFFFFF, 0xFFFFFFFF, 0xFFFFFFFF, 0xFFFF00FF, 0xFFFFFFFF, 0xFFFFFFFF, 0xFFFF], false⟩
  | 0x11 => some ⟨.chans, true, .none, [0xFFFFFFFF, 0xFFFFFFFF, 0xFFFFFFFF, 0xFFFFFFFF], false⟩
  | 0x12 => some ⟨.chans, true, .none, [0x3], false⟩
  | 0x13 => some ⟨.chans, false, .perChan, [], true⟩
  | 0x14 => some ⟨.flasks, true, .none, [0xFFFCFF80, 0xFF], false⟩
  | 0x15 => some ⟨.flasks, true, .none, [0x1], false⟩
  | 0x16 => some ⟨.oneChan, true, .none, [0x3], false⟩
  | 0x17 => some ⟨.chans, true, .none, [0xFFFFFFFF, 0xFFFFFFFF, 0xFFFFFFFF, 0xFFFFFFFF], false⟩
  | 0x18 => some ⟨.chans, true, .none, [0x00FF001F, 0xFFFFFFFF, 0xFFFFFFFF], false⟩
  | 0x19 => some ⟨.oneChan, true, .none, [], false⟩
  | 0x1A => some ⟨.oneChan, false, .result none, [0x1FFFF, 0xFF, 0x3, 0xFFFFFFFF, 0xFFFFFFFF, 0xFFFF], true⟩
  | 0x20 => some ⟨.slot, true, .source 256 256 1, [], false⟩
  | 0x21 => some ⟨.slot, true, .source 1024 1024 1, [], false⟩
  | 0x28 => some ⟨.module_, true, .source 160 160 1, [], false⟩
  | 0x29 => some ⟨.module_, false, .result (some 12352), [], true⟩
  | 0x2A => some ⟨.chans, true, .none, [0x1], false⟩
  | 0x2B => some ⟨.flasks, true, .none, [0x3, 0xFFFFFF], false⟩
  | 0x30 => some ⟨.module_, true, .source 64 64 1, [0x00FFFFFF, 0x10F], false⟩
  | 0x31 => some ⟨.module_, true, .none, [], false⟩
  | 0x32 => some ⟨.module_, true, .none, [], false⟩
  | 0x38 => some ⟨.port, true, .none,
      [0xFFFFFFFF, 0xFFFFFFFF, 0xFFFFFFFF, 0xFFFFFFFF, 0xFFFFFFFF, 0xFFFFFFFF, 0x7], false⟩
  | 0x39 => some ⟨.port, true, .none, [0xFFFFFFFF], true⟩
  | 0x3A => some ⟨.port, true, .none, [0x103, 0xFFFFFFFF], false⟩
  | 0x3B => some ⟨.port, true, .source 4 48 4, [], false⟩
  | 0x3C => some ⟨.port, true, .none, [], false⟩
  | 0x3D => some ⟨.port, true, .none, [], false⟩
  | 0x3E => some ⟨.port, true, .source 1 256 1, [], false⟩
  | 0x40 => some ⟨.module_, true, .none, [0xF0F, 0xFFFF, 0xFFFFFFFF], true⟩
  | 0x41 => some ⟨.module_, false, .result none, [0xFFFFFFFF, 0xFFFF, 0x1], true⟩
  | 0x42 => some ⟨.module_, true, .none, [0x1], false⟩
  | 0x48 => some ⟨.module_, true, .source 4096 1048576 4096, [0xFFFFFFFF, 0xFFFFFFFF], false⟩
  | 0x49 => some ⟨.module_, true, .none, [], false⟩
  | 0x4A => some ⟨.module_, true, .none, [], false⟩
  | 0x4B => some ⟨.module_, true, .source 8192 4194304 1, [], false⟩
  | 0x4C => some ⟨.module_, false, .result (some 256), [], true⟩
  | 0x50 => some ⟨.module_, false, .result (some 512), [], true⟩
  | 0x51 => some ⟨.module_, true, .none, [0xFFFF], false⟩
  | 0x52 => some ⟨.oneFlask, true, .none, [0x1FF, 0xF], false⟩
  | _ => none

/-- The low two bits of a word. -/
def low2 (w : Word) : Nat := w.toNat % 4

/-- Parameters lie in their fields' ranges (R415). -/
def rangeOk (x : Tag) : Bool :=
  match x.opcode with
  | 0x1A => decide (1 ≤ (x.param 0).toNat) && decide ((x.param 0).toNat ≤ 65536)
  | 0x2B => low2 (x.param 0) == 1 || low2 (x.param 0) == 2
  | 0x38 => decide ((x.param 6).toNat ≤ 6)
  | 0x39 => (bits (x.param 0) 16 16 == 0 && bits (x.param 0) 0 16 == 0) ||
      (decide (4000 ≤ bits (x.param 0) 16 16) && decide (bits (x.param 0) 16 16 ≤ 6000) &&
       decide (bits (x.param 0) 0 16 ≤ 25000))
  | 0x3A => decide (low2 (x.param 0) ≤ 2)
  | 0x40 => decide (1 ≤ bits (x.param 0) 0 4) && decide (bits (x.param 0) 0 4 ≤ 5) &&
      decide (1 ≤ bits (x.param 0) 8 4) && decide (bits (x.param 0) 8 4 ≤ 3)
  | 0x41 => decide (bits (x.param 1) 0 16 ≤ 32768)
  | 0x48 => (x.param 0).toNat % 4096 == 0
  | 0x52 => decide (bits (x.param 0) 0 8 ≤ 0x0C)
  | _ => true

/-- Every bit of every parameter word that the opcode does not name is 0 (R415). -/
def paramsOk (i : OpInfo) (x : Tag) : Bool :=
  (List.range 8).all (fun j => (x.param j &&& ~~~(BitVec.ofNat 32 (i.params.getD j 0))) == 0)

/-- `SGL`, `BUF` and `BUF_LEN` of a descriptor. -/
def Tag.isSgl (x : Tag) : Bool := (x.word 0).getLsbD 10
def Tag.bufLen (x : Tag) : Nat := (x.word 12).toNat
/-- The descriptor carries a buffer. -/
def Tag.hasBuf (x : Tag) : Bool := x.isSgl || x.word 10 != 0 || x.word 11 != 0 || x.word 12 != 0

/-- Length in bytes of a buffer, contiguous or scattered. -/
def bufBytes (isSgl : Bool) (len : Nat) (sgl : List (Nat × Nat × Word)) : Nat :=
  if isSgl then (sgl.map (fun e => e.2.1)).sum else len

/-- A scatter list keeps R377. -/
def sglOk (l : List (Nat × Nat × Word)) : Bool :=
  l.all (fun e => e.1 % 4 == 0 && e.2.1 != 0 && e.2.1 % 4 == 0 && e.2.2 == 0)

/-- Reserved bits of a descriptor are 0 and `BUF_LEN` of a scatter list is 1 to 256 (R375, R376). -/
def descOk (x : Tag) : Bool :=
  bits (x.word 0) 12 4 == 0 && x.word 13 == 0 && x.word 14 == 0 &&
  (!x.isSgl || (decide (1 ≤ x.bufLen) && decide (x.bufLen ≤ 256)))

/-- The buffer check of R413 and R414: 0 or a status. -/
def bufCheck (i : OpInfo) (x : Tag) : Nat :=
  let n := bufBytes x.isSgl x.bufLen x.sgl
  match i.buf with
  | .none => if x.hasBuf then stINVALID_FIELD else stSUCCESS
  | .source lo hi step =>
    if !x.hasBuf then stINVALID_FIELD
    else if !sglOk x.sgl then stINVALID_BUFFER
    else if decide (lo ≤ n) && decide (n ≤ hi) && n % step == 0 then stSUCCESS else stINVALID_BUFFER
  | .result none =>
    if !x.hasBuf then stINVALID_FIELD else if !sglOk x.sgl || n == 0 then stINVALID_BUFFER else stSUCCESS
  | .result (some m) =>
    if !x.hasBuf then stINVALID_FIELD else if !sglOk x.sgl || n != m then stINVALID_BUFFER else stSUCCESS
  | .perChan =>
    if !x.hasBuf then stINVALID_FIELD
    else if !sglOk x.sgl || n != 128 * selCount (x.word 1) then stINVALID_BUFFER else stSUCCESS

/-- Every check made before a command is started: descriptor, selector, parameters, buffer; 0 or a status
(R376, R410, R414, R415). -/
def startCheck (s : State) (x : Tag) : Nat :=
  match opInfo x.opcode with
  | none => stINVALID_FIELD
  | some i =>
    if !descOk x then stINVALID_FIELD
    else if selCheck s i.sel (x.word 1) != 0 then selCheck s i.sel (x.word 1)
    else if !paramsOk i x || !rangeOk x then stINVALID_FIELD
    else bufCheck i x

/-! ## Targets (R391) -/

/-- The targets of a command as a half-open interval of numbers: channels by number, other objects above them. -/
def targets (x : Tag) : Nat × Nat :=
  let w := x.word 1
  match selKind w with
  | 1 => (selFirst w, selFirst w + selCount w)
  | 2 => (16 * selFirst w, 16 * (selFirst w + selCount w))
  | 4 => (3000 + selPort w, 3001 + selPort w)
  | 5 => (4000 + 100 * x.opcode + selSlot w, 4001 + 100 * x.opcode + selSlot w)
  | _ =>
    let o := if x.opcode = 0x28 then 1 else if x.opcode / 16 = 3 then 2 else if x.opcode = 0x40 ∨ x.opcode = 0x42 then 3
      else if x.opcode = 0x48 ∨ x.opcode = 0x49 ∨ x.opcode = 0x4A then 4 else if x.opcode = 0x4B then 5
      else if x.opcode = 0x51 then 6 else 7
    (10000 + o, 10001 + o)

/-- Two commands share a target. -/
def shareTarget (x y : Tag) : Bool := decide ((targets x).1 < (targets y).2) && decide ((targets y).1 < (targets x).2)

/-- The command has write effects (R413). -/
def writesState (x : Tag) : Bool := match opInfo x.opcode with | some i => i.writes | none => false

/-- No command with write effects on a shared target was started before and is still to apply: of two that apply at one loop tick the
later-started comes last (R393). -/
def startedFirst (s : State) (x : Tag) : Bool :=
  !writesState x || !s.hi.tags.any (fun e => match e.2 with
    | some y => y.state == .started && decide (y.startNo < x.startNo) && writesState y && shareTarget y x
    | none => false)

/-- The tag `t` when it holds a started command of an opcode whose turn it is to apply. -/
def startedAs (s : State) (t op : Nat) : Option Tag :=
  match getTag s t with
  | some x => if x.state = .started ∧ x.opcode = op ∧ startedFirst s x = true then some x else none
  | none => none

end Sys2Proof.Machine
end

