-- ==== Sys2Proof/Machine/Rings.lean ====
section
/-! DEFINITION. The host interface: rings, doorbells, fetching, ordering, completions, event rings and large
results (chapter 10). The reset of the host interface stands in HostReset.lean. -/

namespace Sys2Proof.Machine

/-! ## Rings -/

/-- Base of a ring's configuration register, its status register. -/
def ringCfg : RingKind → Nat → Nat
  | .sq, i => SQ_CFG i
  | .cq, i => CQ_CFG i
  | .ev, i => EV_CFG i
def ringStatus : RingKind → Nat → Nat
  | .sq, i => SQ_STATUS i
  | .cq, i => CQ_STATUS i
  | .ev, i => EV_STATUS i
/-- Rings of each kind (R374). -/
def ringCount : RingKind → Nat
  | .sq => 16
  | .cq => 16
  | .ev => 4

/-- `EN` of a ring's configuration. -/
def ringEn (s : State) (k : RingKind) (i : Nat) : Bool := (rd s (ringCfg k i)).getLsbD 31
/-- `ERROR` of a ring's status. -/
def ringErr (s : State) (k : RingKind) (i : Nat) : Bool := (rd s (ringStatus k i)).getLsbD 29
/-- Entries of a ring: 2^n, n of `LOG2SIZE`, values outside 3 to 12 treated as 3 (R374). -/
def ringSize (s : State) (k : RingKind) (i : Nat) : Nat :=
  let n := bits (rd s (ringCfg k i)) 16 4
  2 ^ (if 3 ≤ n ∧ n ≤ 12 then n else 3)

/-- A ring error stops the ring (R385). -/
def ringError (s : State) (k : RingKind) (i kind : Nat) : State :=
  let s := setF s ⟨ringStatus k i, 29, 1⟩ 1
  let s := setF s ⟨ringStatus k i, 24, 4⟩ kind
  raiseHi s eRING_ERR

/-- Tags held by a submission ring. -/
def sqTags (s : State) (i : Nat) : List (Nat × Tag) :=
  s.hi.tags.filterMap (fun e => match e.2 with | some x => if x.sq = i then some (e.1, x) else none | none => none)

/-- Tags in use, each with its entry. -/
def allTags (s : State) : List (Nat × Tag) :=
  s.hi.tags.filterMap (fun e => match e.2 with | some x => some (e.1, x) | none => none)

/-- The completion ring a submission ring is bound to. -/
def sqCq (s : State) (i : Nat) : Nat := getF s (SQ_CFG_CQID i)

/-- `IDLE` of a submission ring follows the tags its commands hold, and the one that a descriptor in its staging slot is still to take
(R384, R408; DESIGN CHOICE, log 95). -/
def updIdle (s : State) (i : Nat) : State :=
  setFlag s (SQ_STATUS_IDLE i) ((sqTags s i).isEmpty && (subRing s i).staging.isNone)

/-- Free a tag; `IDLE` of its ring follows. -/
def freeTag (s : State) (t : Nat) : State :=
  match getTag s t with
  | some x => updIdle (setTag s t none) x.sq
  | none => s

/-- Fields of a ring's configuration that take writes at any time, and those that need the ring off (R384). -/
def cfgAnytime : RingKind → Nat
  | .sq => 0x800007FF
  | .cq => 0x80000000
  | .ev => 0x8000BFFF
def cfgOff : RingKind → Nat
  | .sq => 0x0F0F0000
  | .cq => 0x000F0000
  | .ev => 0x000F0000

/-- Base, size and binding fields of a ring take writes: `EN` is 0 and the ring is idle (R384). -/
def cfgWritable (s : State) (k : RingKind) (i : Nat) : Bool :=
  !ringEn s k i && (match k with | .sq => (sqTags s i).isEmpty && (subRing s i).staging.isNone | _ => true)

/-- A completion ring cannot be disabled while an enabled submission ring is bound to it or a tag holds a
completion for it (R384). -/
def cqBusy (s : State) (i : Nat) : Bool :=
  (List.range 16).any (fun j => ringEn s .sq j && sqCq s j == i) ||
  (allTags s).any (fun e => sqCq s e.2.sq == i && e.2.state == .done && e.2.orphan.isNone)

/-- `FULL` of an event ring: staging in use (R400, R408), or no entry free. -/
def updEvFull (s : State) (e : Nat) : State :=
  setFlag s (EV_STATUS_FULL e) (!(evRing s e).staging.isEmpty || (evRing s e).used == ringSize s .ev e)

/-- Start a ring: head and tail 0, phase 1, no error (R380, R384). A descriptor already in the staging slot runs on. -/
def ringStart (s : State) (k : RingKind) (i : Nat) : State :=
  match k with
  | .sq =>
    let s := updIdle (setSubRing (wr s (SQ_STATUS i) 0x80000000) i { subRing s i with bells := [] }) i
    if ringEn s .cq (sqCq s i) then s else ringError s .sq i 4
  | .cq => setComRing (wr s (CQ_STATUS i) 0x90000000) i {}
  | .ev =>
    let e := evRing s i
    updEvFull (setEvRing (wr s (EV_STATUS i) 0x90000000) i { e with used := 0, co := {} }) i

/-- Stop a ring (R384): a descriptor already fetched, in the staging slot too, runs on. -/
def ringStop (s : State) (k : RingKind) (i : Nat) : State :=
  let s := setF s ⟨ringStatus k i, 31, 1⟩ 0
  match k with
  | .sq => updIdle (setSubRing s i { subRing s i with bells := [] }) i
  | _ => s

/-- A write to a ring's configuration register (R384). -/
def ringCfgWrite (s : State) (k : RingKind) (i : Nat) (v : Word) : State :=
  if !on s dHOSTIF || decide (ringCount k ≤ i) then s
  else
    let was := ringEn s k i
    let m := if cfgWritable s k i then cfgAnytime k ||| cfgOff k else cfgAnytime k
    let m := if k = .cq ∧ was ∧ !v.getLsbD 31 ∧ cqBusy s i then m - 0x80000000 else m
    let mw := BitVec.ofNat 32 m
    let s := wr s (ringCfg k i) ((rd s (ringCfg k i) &&& ~~~mw) ||| (v &&& mw))
    if !was && ringEn s k i then ringStart s k i
    else if was && !ringEn s k i then ringStop s k i
    else s

/-- R384: EN written 1 in a ring's configuration word. -/
def execRingEnable (k : RingKind) (i : Nat) (v : Word) (s : State) : Host.Outcome State Fault Refusal :=
  .next (ringCfgWrite s k i (setBits v 31 1 1))

/-- R384: EN written 0 in a ring's configuration word. -/
def execRingDisable (k : RingKind) (i : Nat) (v : Word) (s : State) : Host.Outcome State Fault Refusal :=
  .next (ringCfgWrite s k i (setBits v 31 1 0))

/-- A write to `HI_CTRL` (R384, R408): `LOCK` set, the RWL fields while unlocked, `EN`. -/
def hiCtrlWrite (s : State) (v : Word) : State :=
  if !on s dHOSTIF then s
  else
    let m : Word := if flag s HI_CTRL_LOCK then 0x00000001 else 0x00000331
    let w := (rd s HI_CTRL &&& ~~~m) ||| (v &&& m) ||| (v &&& 0x80000000)
    let s := wr s HI_CTRL w
    setFlag s HI_STATUS_RUNNING (w.getLsbD 0 && flag s HI_STATUS_READY)

/-- R384: a write to `EN` in `HI_CTRL` starts or stops the engine; the other fields written go with it. -/
def execEngineEnable (v : Word) (s : State) : Host.Outcome State Fault Refusal := .next (hiCtrlWrite s v)

/-- The engine runs (R384, R406): `EN` is 1, the interface is ready, and the function is in D0. -/
def engineOn (s : State) : Bool := on s dHOSTIF && flag s HI_CTRL_EN && flag s HI_STATUS_READY && !s.hi.d3hot

/-! ## Doorbells (R383) -/

/-- R383: a doorbell write of a submission ring's tail; one that names the tail in force publishes nothing. -/
def dbSqTail (s : State) (i v : Nat) : State :=
  if !on s dHOSTIF || decide (16 ≤ i) || !ringEn s .sq i then s
  else if ringSize s .sq i ≤ v then ringError s .sq i 1
  else if v = getF s (SQ_STATUS_TAIL i) then s
  else
    let r := subRing s i
    let s := setSubRing s i { r with bells := r.bells ++ [(v, s.hi.nextBell)] }
    let s := { s with hi := { s.hi with nextBell := s.hi.nextBell + 1 } }
    setF s (SQ_STATUS_TAIL i) v

def execDbSqTail (i v : Nat) (s : State) : Host.Outcome State Fault Refusal := .next (dbSqTail s i v)

/-- Entries a head doorbell releases: up to `v`; a value equal to the old head releases a full ring whole. -/
def released (size used head v : Nat) : Nat :=
  let n := (v + size - head) % size
  if n = 0 ∧ used = size then size else n

/-- R383: a doorbell write of a completion ring's head. -/
def execDbCqHead (i v : Nat) (s : State) : Host.Outcome State Fault Refusal :=
  .next (
    if !on s dHOSTIF || decide (16 ≤ i) || !ringEn s .cq i then s
    else if ringSize s .cq i ≤ v then ringError s .cq i 1
    else
      let r := comRing s i
      let n := released (ringSize s .cq i) r.used (getF s (CQ_STATUS_HEAD i)) v
      if r.used < n then ringError s .cq i 2
      else
        let s := setF (setComRing s i { r with used := r.used - n }) (CQ_STATUS_HEAD i) v
        setFlag s (CQ_STATUS_FULL i) (r.used - n == ringSize s .cq i))

/-- R383: a doorbell write of an event ring's head. -/
def execDbEvHead (i v : Nat) (s : State) : Host.Outcome State Fault Refusal :=
  .next (
    if !on s dHOSTIF || decide (4 ≤ i) || !ringEn s .ev i then s
    else if ringSize s .ev i ≤ v then ringError s .ev i 1
    else
      let r := evRing s i
      let n := released (ringSize s .ev i) r.used (getF s (EV_STATUS_HEAD i)) v
      if r.used < n then ringError s .ev i 2
      else updEvFull (setF (setEvRing s i { r with used := r.used - n }) (EV_STATUS_HEAD i) v) i)

/-! ## Fetching (R386-R389, R403) -/

/-- Descriptors published on a ring and not yet fetched. -/
def unfetched (s : State) (i : Nat) : Nat :=
  let n := ringSize s .sq i
  (getF s (SQ_STATUS_TAIL i) + n - getF s (SQ_STATUS_HEAD i)) % n

/-- Fetching from a ring goes on: it is enabled and not stopped (R384, R385). -/
def ringFetches (s : State) (i : Nat) : Bool := ringEn s .sq i && !ringErr s .sq i

/-- A ring has work for the engine: descriptors to fetch, or one already fetched in its staging slot. -/
def ringWaits (s : State) (i : Nat) : Bool := (ringFetches s i && decide (0 < unfetched s i)) || (subRing s i).staging.isSome

/-- The ring whose turn it is: the first from the round-robin position that has work (R386). -/
def turnRing (s : State) : Option Nat := ((List.range 16).map (fun j => (s.hi.rr + j) % 16)).find? (ringWaits s)

/-- The lowest tag not in use. -/
def freeTagNo (s : State) : Option Nat := (List.range 1024).find? (fun t => (getTag s t).isNone)

/-- Tags a ring may hold (R388): 0 is treated as 1; above 1 024 as 1 024. -/
def tagMax (s : State) (i : Nat) : Nat :=
  let n := getF s (SQ_CFG_TAGMAX i)
  if n = 0 then 1 else satTo 1024 n

/-- The completion ring of a submission ring has no free entry (R387). -/
def cqFull (s : State) (c : Nat) : Bool := decide (ringSize s .cq c ≤ (comRing s c).used)

/-- Fetching from a ring is paused (R387). -/
def fetchPaused (s : State) (i : Nat) : Bool :=
  decide (1024 ≤ (allTags s).length) || decide (tagMax s i ≤ (sqTags s i).length) || cqFull s (sqCq s i)

/-- The oldest command of a ring awaiting a buffer under a CID (R403). -/
def waitingFor (s : State) (i cid : Nat) : Option Nat :=
  let l := (sqTags s i).filter (fun e => e.2.state == .waitBuf && e.2.cid == cid)
  (l.foldl (fun (m : Option (Nat × Nat)) e => match m with
    | some (o, t) => if e.2.order < o then some (e.2.order, e.1) else some (o, t)
    | none => some (e.2.order, e.1)) none).map (·.2)

/-- The tag a descriptor makes: its words and place, fetched under order `o`. -/
def tagOf (d : Desc) (i slot bell o : Nat) : Tag :=
  { words := d.words, sq := i, slot, order := o, bell, sgl := d.sgl }

/-- A descriptor takes the lowest free tag (R386). -/
def takeTag (s : State) (x : Tag) : Option Nat × State :=
  match freeTagNo s with
  | none => (none, s)
  | some t =>
    let s := setTag s t (some x)
    let s := { s with hi := { s.hi with nextOrder := s.hi.nextOrder + 1 } }
    let s := updIdle s x.sq
    let n := (allTags s).length
    (some t, if getF s HI_TAGS_TAG_PEAK < n then setF s HI_TAGS_TAG_PEAK n else s)

/-- One injection of the oldest inject action that has any left. -/
def stepJobs : List InjJob → List InjJob
  | [] => []
  | j :: t => if 0 < j.left then { j with left := j.left - 1, done := j.done + 1 } :: t else j :: stepJobs t

/-- An injection of a checker is queued: perform one (R546, R547). -/
def injectOne (s : State) (checker : Nat) : Bool × State :=
  match s.fc.arm with
  | some a =>
    if a.checker = checker ∧ a.jobs.any (fun j => decide (0 < j.left)) then
      (true, { s with fc := { s.fc with arm := some { a with jobs := stepJobs a.jobs } } })
    else (false, s)
  | none => (false, s)

/-- `FC_INJ` and `ARMED` follow the arm; `ARM_LEFT` is the time left in whole seconds, rounded up. -/
def updInj (s : State) : State :=
  match s.fc.arm with
  | some a =>
    let s := setF (setF (setFlag s FC_STATUS_ARMED true) FC_INJ_CHECKER a.checker) FC_INJ_INJ_LEFT (satTo 65535 (a.jobs.map (·.left)).sum)
    setF s FC_INJ_ARM_LEFT ((a.deadline - s.now + 999999999) / 1000000000)
  | none => wr (setFlag s FC_STATUS_ARMED false) FC_INJ 0

/-- Inject commands whose injections are all performed end (R547). -/
def injectSettle (s : State) : State :=
  match s.fc.arm with
  | some a =>
    let ended := a.jobs.filter (fun j => j.left == 0)
    let s := forEach ended (fun j s => endTag s j.tag stSUCCESS (BitVec.ofNat 32 j.done) 0) s
    let s := { s with fc := { s.fc with arm := some { a with jobs := a.jobs.filter (fun j => j.left != 0) } } }
    updInj (if ended.isEmpty then s else raise s FC_EVENT 0x100)
  | none => updInj s

/-- The descriptor's CRC fails (R389), its comparison inverted when an injection of checker 3 is queued (R546). -/
def crcFails (s : State) (d : Desc) : Bool × State :=
  if !flag s HI_CTRL_DCRC_EN then (false, s)
  else
    let ok := crc32cWords (d.words.take 15) == d.words.getD 15 0
    let (inj, s) := injectOne s 3
    (if inj then ok else !ok, s)

/-- The segments of a descriptor's buffer, in the order of filling: (address, length) (R377). -/
def bufParts (x : Tag) : List (Nat × Nat) :=
  if x.isSgl then x.sgl.map (fun e => (e.1, e.2.1)) else [((x.word 10).toNat + 2 ^ 32 * (x.word 11).toNat, x.bufLen)]

/-- R403: a CONTINUE gives the oldest waiting command of its ring and CID a new result buffer. -/
def continueAct (s : State) (i : Nat) (x : Tag) : Option State :=
  match waitingFor s i x.cid with
  | some t => some (modTag s t (fun y => { y with state := .running, bufLeft := bufBytes x.isSgl x.bufLen x.sgl, buf := bufParts x }))
  | none => none

/-- What a fetched descriptor shows at once: its CRC is checked (R389), and a good CONTINUE acts (R387, R403): one that names no waiting
command, or is badly formed, ends with its status. A CONTINUE that acts leaves nothing. -/
def checkDesc (s : State) (i slot bell : Nat) (d : Desc) : Option Staged × State :=
  let x := tagOf d i slot bell s.hi.nextOrder
  let (bad, s) := crcFails s d
  let s := if bad then raiseHi (incSat s HI_DCRCERR_DCRC_ERRS) eDESC_CRC else s
  let s := if flag s HI_CTRL_DCRC_EN && s.fc.arm.isSome then injectSettle s else s
  if bad then (some ⟨d, slot, bell, true, 0⟩, s)
  else if x.opcode = 1 then
    let st := startCheck s x
    match if st = 0 then continueAct s i x else none with
    | some s => (none, s)
    | none => (some ⟨d, slot, bell, false, if st = 0 then stINVALID_FIELD else st⟩, s)
  else (some ⟨d, slot, bell, false, 0⟩, s)

/-- A fetched descriptor takes a tag; one discarded at its check, or a CONTINUE that may not act, ends there. -/
def placeDesc (s : State) (i : Nat) (y : Staged) : State :=
  match takeTag s { tagOf y.desc i y.slot y.bell s.hi.nextOrder with bad := y.bad, applied := y.bad } with
  | (some t, s) => if y.bad then endSt s t stDESC_CRC else if y.st ≠ 0 then endSt s t y.st else s
  | (none, s) => s

/-- Advance a ring's head past one fetched descriptor and count it. -/
def stepHead (s : State) (i : Nat) : State :=
  let h := (getF s (SQ_STATUS_HEAD i) + 1) % ringSize s .sq i
  let s := incWrap (setF s (SQ_STATUS_HEAD i) h) (SQ_COUNT_FETCHED i)
  let r := subRing s i
  match r.bells with
  | (v, _) :: t => if v = h then setSubRing s i { r with bells := t } else s
  | [] => s

/-- Doorbell order of the next unfetched descriptor. -/
def headBell (s : State) (i : Nat) : Nat := match (subRing s i).bells with | (_, b) :: _ => b | [] => s.hi.nextBell

/-- The descriptor in the staging slot leaves it when the pause has ended (R387). -/
def drainStaging (s : State) (i : Nat) : State :=
  match (subRing s i).staging with
  | some y => if fetchPaused s i then s else updIdle (placeDesc (setSubRing s i { subRing s i with staging := none }) i y) i
  | none => s

/-- Fetch one descriptor of a ring: into the staging slot while fetching is paused, else to a tag (R387). -/
def fetchOne (s : State) (i : Nat) (d : Desc) : State :=
  if !ringFetches s i || unfetched s i == 0 then s
  else
    let paused := fetchPaused s i
    let s := if 1024 ≤ (allTags s).length then raiseHi s eTAG_FULL else s
    if paused && (subRing s i).staging.isSome then s
    else
      match checkDesc (stepHead s i) i (getF s (SQ_STATUS_HEAD i)) (headBell s i) d with
      | (none, s) => s
      | (some y, s) => if paused then updIdle (setSubRing s i { subRing s i with staging := some y }) i else placeDesc s i y

/-- A ring's turn (R386): its staging slot is emptied, and at most 8 descriptors are fetched. -/
def fetchTurn (s : State) (i : Nat) (ds : List Desc) : State :=
  let s := forEach (ds.take 8) (fun d s => fetchOne s i d) (drainStaging s i)
  { s with hi := { s.hi with rr := (i + 1) % 16 } }

/-- R386: the engine fetches up to 8 descriptors of the ring whose turn it is, read from host memory as `ds`. -/
def execDescriptorFetch (i : Nat) (ds : List Desc) (s : State) : Host.Outcome State Fault Refusal :=
  .next (if engineOn s && turnRing s == some i then fetchTurn s i ds else s)

/-- R403: the turn of a ring whose next descriptor is a CONTINUE. It acts at its fetch on the oldest command awaiting a buffer under its
CID; one that names none takes a tag and completes with the status for an invalid field. -/
def execContinue (i : Nat) (d : Desc) (s : State) : Host.Outcome State Fault Refusal :=
  .next (if engineOn s && turnRing s == some i && bits (d.words.getD 0 0) 0 8 == 1 then fetchTurn s i [d] else s)

/-! ## Ordering and start (R390-R395) -/

/-- A tag holds a CONTINUE, which is never counted as an earlier command (R394); of a discarded descriptor the opcode is not known. -/
def isContinue (x : Tag) : Bool := x.opcode == 1 && !x.bad

/-- Earlier commands of its own ring still hold a tag (R394, `FENCE_RING`). -/
def ringBefore (s : State) (x : Tag) : Bool := (sqTags s x.sq).any (fun e => decide (e.2.order < x.order) && !isContinue e.2)

/-- A command of any ring published earlier has not completed (R394, `FENCE_ALL`). What a published descriptor is, a CONTINUE or another
command, is known at its fetch, so that till then it counts (DESIGN CHOICE, log 95). -/
def allBefore (s : State) (x : Tag) : Bool :=
  (allTags s).any (fun e => decide (e.2.order ≠ x.order) && !isContinue e.2 &&
    (if e.2.sq = x.sq then decide (e.2.order < x.order) else decide (e.2.bell < x.bell))) ||
  (List.range 16).any (fun j => j != x.sq && ((subRing s j).bells.any (fun b => decide (b.2 < x.bell)) ||
    (match (subRing s j).staging with | some y => decide (y.bell < x.bell) && y.st == 0 | none => false)))

/-- Its fences are satisfied (R394). -/
def fenceOk (s : State) (x : Tag) : Bool :=
  (!(x.word 0).getLsbD 8 || !ringBefore s x) && (!(x.word 0).getLsbD 9 || !allBefore s x)

/-- No earlier command of its ring with write effects and a shared target has still to apply (R392). -/
def orderOk (s : State) (x : Tag) : Bool :=
  !writesState x ||
  !(sqTags s x.sq).any (fun e => decide (e.2.order < x.order) && writesState e.2 && !e.2.applied && shareTarget e.2 x)

/-- The command is held by nothing (R392, R394). -/
def startable (s : State) (x : Tag) : Bool := fenceOk s x && orderOk s x

/-- Trace subject and data of a command record (R623, kinds 0x01 and 0x02). -/
def traceCmd (s : State) (kind : Nat) (x : Tag) : State :=
  offer s kind (x.sq * 65536 + x.slot)
    (BitVec.ofNat 32 (x.cid * 65536 + (if kind = 2 then x.status * 256 else 0) + x.opcode))

/-- Result commands begin with their whole host buffer free (R402). -/
def initBuf (x : Tag) : Nat :=
  match opInfo x.opcode with
  | some i => (match i.buf with | .none => 0 | .source _ _ _ => 0 | _ => bufBytes x.isSgl x.bufLen x.sgl)
  | none => 0

/-- Supervisor `n` has not stopped for a takeover that is still to come (R525). -/
def svRuns (s : State) (n : Nat) : Bool := match s.sv.takeover with | some (m, _) => m != n | none => true

/-- A supervisor is active: its state is 2, its domain is on and it has not stopped (R516). -/
def svActive (s : State) : Bool :=
  (on s dKEEPA && getF s SV_STATUS_A_STATE == 2 && svRuns s 0) || (on s dKEEPB && getF s SV_STATUS_B_STATE == 2 && svRuns s 1)

/-- R390: a fetched command whose ordering and fences are satisfied is checked (R376, R410, R414) and issued to its
block, its source buffer read in as `src` (R417); `memErr` says the read of host memory failed (status 0x16). While
transport entry is in DRAIN a command with write effects ends as busy (R421), and while no supervisor is active every
command does (R526). -/
def execCommandStart (t : Nat) (src : List Byte) (memErr : Bool) (s : State) : Host.Outcome State Fault Refusal :=
  .next (
    match getTag s t with
    | none => s
    | some x =>
      if engineOn s && x.state == .fetched && x.orphan.isNone && startable s x then
        let st := if svActive s then startCheck s x else stBUSY
        let need : Bool := match opInfo x.opcode with | some i => (match i.buf with | .source _ _ _ => true | _ => false) | none => false
        let st := if st == 0 && writesState x && s.pw.transport == .drain then stBUSY
                  else if st == 0 && need && memErr then stHOST_MEMORY
                  else if st == 0 && need && src.length != bufBytes x.isSgl x.bufLen x.sgl then stINVALID_BUFFER else st
        let s := traceCmd s 1 x
        if st = 0 then
          let s := setTag s t (some { x with
            state := .started, startAt := s.now, startNo := s.hi.nextStart, src := if need then src else []
            bufLeft := initBuf x, buf := if initBuf x = 0 then [] else bufParts x })
          { s with hi := { s.hi with nextStart := s.hi.nextStart + 1 } }
        else endSt s t st
      else s)

/-- R395: FENCE completes as soon as its fence is satisfied. -/
def execFence (t : Nat) (s : State) : Host.Outcome State Fault Refusal :=
  .next (match startedAs s t 0x00 with | some _ => endSt s t stSUCCESS | none => s)

/-! ## Completions (R378, R397, R398) -/

/-- The words of a completion entry without phase and time (R378). -/
def completionWords (s : State) (x : Tag) (needBuf more : Bool) (len ofs : Nat) : List Word :=
  [BitVec.ofNat 32 (x.cid * 65536 + x.status * 256 + x.sq * 16 + (if x.bad then 4 else 0) + (if needBuf then 2 else 0) +
      (if more then 1 else 0)),
   BitVec.ofNat 32 (getF s (SQ_STATUS_HEAD x.sq) * 65536 + x.slot),
   x.r0, x.r1, BitVec.ofNat 32 len, BitVec.ofNat 32 ofs, lo32 (stamp s)]

/-- Signal a completion ring's vector, when its interrupts are enabled, and start counting afresh. -/
def signalCq (s : State) (c : Nat) : State :=
  let s := setComRing s c { comRing s c with co := {} }
  if flag s (CQ_IRQ_IEN c) then msix s (getF s (CQ_IRQ_VEC c)) else s

/-- Coalescing of one written completion (R398): `NEED_BUF` signals at once; else one more counts unless `NO_IRQ`. -/
def coalesceCq (s : State) (c : Nat) (noIrq needBuf : Bool) : State :=
  if needBuf then signalCq s c
  else if noIrq then s
  else
    let r := comRing s c
    let n := r.co.count + 1
    let s := setComRing s c { r with co := ⟨n, if r.co.count = 0 then s.now else r.co.first⟩ }
    if (if getF s (CQ_IRQ_CNT c) = 0 then 1 else getF s (CQ_IRQ_CNT c)) ≤ n then signalCq s c else s

/-- A completion ring can take an entry; completions wait for a switchover in progress (R523). -/
def cqReady (s : State) (c : Nat) : Bool :=
  engineOn s && !s.hi.resetting && s.sv.takeover.isNone && ringEn s .cq c && !ringErr s .cq c && !cqFull s c

/-- Write one completion entry (R378, R380) and count it for the interrupt; `NO_IRQ` of a discarded descriptor is not acted on (R389). -/
def writeCompletion (s : State) (x : Tag) (needBuf more : Bool) (len ofs : Nat) : State :=
  let c := sqCq s x.sq
  let tail := getF s (CQ_STATUS_TAIL c)
  let ph := getF s (CQ_STATUS_PHASE c)
  let w := completionWords s x needBuf more len ofs ++ [BitVec.ofNat 32 (ph * 2 ^ 31 + stamp s / 2 ^ 32 % 65536)]
  let s := emit s (.completion c tail w)
  let size := ringSize s .cq c
  let s := setF s (CQ_STATUS_TAIL c) ((tail + 1) % size)
  let s := if tail + 1 = size then setF s (CQ_STATUS_PHASE c) (1 - ph) else s
  let r := comRing s c
  let s := setComRing s c { r with used := r.used + 1 }
  let s := setFlag s (CQ_STATUS_FULL c) (r.used + 1 == size)
  coalesceCq s c ((x.word 0).getLsbD 11 && !x.bad) needBuf

/-- The ended command of a completion ring that ended first (R396). -/
def firstEnded (s : State) (c : Nat) : Option (Nat × Tag) :=
  ((allTags s).filter (fun e => e.2.state == .done && e.2.orphan.isNone && sqCq s e.2.sq == c)).foldl
    (fun (m : Option (Nat × Tag)) e => match m with
      | some y => if e.2.ended < y.2.ended then some e else some y
      | none => some e) none

/-- R397: the completion of the command that ended first is written once its ring has room; its tag is free. A
completion after a failed host-buffer access reports the bytes written before (R412). -/
def execCompletionWrite (c : Nat) (s : State) : Host.Outcome State Fault Refusal :=
  .next (
    match firstEnded s c with
    | some (t, x) =>
      if cqReady s c then
        let s := writeCompletion s x false false (if x.status = stHOST_MEMORY then x.off else 0) 0
        let s := traceCmd s 2 x
        let s := { s with hi := { s.hi with capFree := s.hi.capFree + x.pages } }
        freeTag s t
      else s
    | none => s)

/-! ## Large results (R402-R404) -/

/-- `FRAG_MAX` in bytes, 0 treated as 1 (R402). -/
def fragBytes (s : State) : Nat :=
  let n := getF s HI_FRAG_FRAG_MAX
  4096 * (if n = 0 then 1 else n)

/-- Bytes of the next fragment of a result (R404's engine). -/
def fragLen (s : State) (x : Tag) : Nat := min (min (fragBytes s) (x.total - x.off)) x.bufLeft

/-- The first `n` bytes of a buffer, and what is left of it (R377). -/
def bufTake : Nat → List (Nat × Nat) → List (Nat × Nat) × List (Nat × Nat)
  | _, [] => ([], [])
  | n, (a, l) :: t =>
    if n = 0 then ([], (a, l) :: t)
    else if n < l then ([(a, n)], (a + n, l - n) :: t)
    else ((a, l) :: (bufTake (n - l) t).1, (bufTake (n - l) t).2)

/-- Bytes laid into segments in their order. -/
def layBytes : List (Nat × Nat) → List Byte → List (Nat × List Byte)
  | [], _ => []
  | (a, l) :: t, b => (a, b.take l) :: layBytes t (b.drop l)

/-- Bytes `off` to `off + n` of a result. -/
def fragBytesOf (x : Tag) (n : Nat) : List Byte := ((wordsBytes (x.result.drop (x.off / 4))).drop (x.off % 4)).take n

/-- A capture that has taken its last sample. -/
def Capture.full (x : Capture) : Bool := decide (x.nsamp ≤ x.taken)

/-- Bytes of the whole result that are in the module now. The header of a capture that has taken its last sample is whole with the
snapshot of that millisecond, which may still set a flag in it (R424). -/
def readyBytes (s : State) (t : Nat) (x : Tag) : Nat :=
  if x.off < 64 ∧ s.hi.captures.any (fun (c : Capture) => c.tag == t && c.full) then 0 else 4 * x.result.length

/-- R402: the next fragment of a result is written to the host buffer with its completion; the last one frees the
tag, one that fills the buffer waits for a CONTINUE (R403), and capture pages wholly reported are released (R404). -/
def execResultFragment (t : Nat) (s : State) : Host.Outcome State Fault Refusal :=
  .next (
    match getTag s t with
    | none => s
    | some x =>
      let n := fragLen s x
      if x.state == .running && x.orphan.isNone && decide (x.off < x.total) && decide (0 < n) &&
         decide (x.off + n ≤ readyBytes s t x) && cqReady s (sqCq s x.sq) then
        let (parts, buf) := bufTake n x.buf
        let s := emit (xfer s hubFabric 3 rqHost n) (.data t x.off (layBytes parts (fragBytesOf x n)))
        let off := x.off + n
        let more := decide (off < x.total)
        let need := more && x.bufLeft - n == 0
        let s := writeCompletion s x need more n x.off
        let kept := if x.pages = 0 then 0 else (x.total + 4095) / 4096 - (if more then off / 4096 else (x.total + 4095) / 4096)
        let kept := min kept x.pages
        let s := { s with hi := { s.hi with capFree := s.hi.capFree + (x.pages - kept) } }
        if more then
          setTag s t (some { x with off, bufLeft := x.bufLeft - n, buf, pages := kept, state := if need then .waitBuf else .running })
        else freeTag (traceCmd s 2 x) t
      else s)

/-! ## Event rings (R381, R398, R400) -/

/-- The words of a record as a byte stream over entries: header, time, content (R428). -/
def recordWords (r : Record) : List Word := BitVec.ofNat 32 (r.rtype * 2 ^ 24 + r.hdr) :: lo32 r.time :: hi32 r.time :: r.content

/-- Entry `j` of `n` of a record: fifteen words and the framing word (R381). -/
def entryWords (ws : List Word) (phase n j : Nat) : List Word :=
  let c := (ws.drop (15 * j)).take 15
  c ++ List.replicate (15 - c.length) 0 ++
    [BitVec.ofNat 32 (phase * 2 ^ 31 + (if j = 0 then n - 1 else 2 ^ 30))]

/-- Write one record's entries from index `tail` on, later entries before the first (R381). -/
def writeEntries (s : State) (e tail phase : Nat) (ws : List Word) (n : Nat) : State :=
  forEach (List.range n).reverse (fun j s => emit s (.event e (tail + j) (entryWords ws phase n j))) s

/-- Move an event ring's write position on by `n` entries that do not pass its end. -/
def evAdvance (s : State) (e n : Nat) : State :=
  let size := ringSize s .ev e
  let tail := getF s (EV_STATUS_TAIL e) + n
  let s := if tail = size then setF (setF s (EV_STATUS_TAIL e) 0) (EV_STATUS_PHASE e) (1 - getF s (EV_STATUS_PHASE e))
           else setF s (EV_STATUS_TAIL e) tail
  let r := evRing s e
  setEvRing s e { r with used := r.used + n }

/-- Signal an event ring's vector and start counting afresh. -/
def signalEv (s : State) (e : Nat) : State :=
  let s := setEvRing s e { evRing s e with co := {} }
  if flag s (EV_CFG_IEN e) then msix s (getF s (EV_CFG_VEC e)) else s

/-- Coalescing of one written record (R398). -/
def coalesceEv (s : State) (e : Nat) : State :=
  let r := evRing s e
  let n := r.co.count + 1
  let s := setEvRing s e { r with co := ⟨n, if r.co.count = 0 then s.now else r.co.first⟩ }
  if (if getF s (EV_CFG_CNT e) = 0 then 1 else getF s (EV_CFG_CNT e)) ≤ n then signalEv s e else s

/-- A pad record: one entry of zeros with its type (R431). -/
def padRecord (t : Nat) : Record := { rtype := 1, hdr := 0, time := t, content := [] }

/-- Entries of padding a record of `n` entries needs before it in a ring. -/
def padCount (size tail n : Nat) : Nat := if size < tail + n then size - tail else 0

/-- Write a record to its ring, padded so that it does not wrap past the end (R381). -/
def writeRecord (s : State) (e : Nat) (r : Record) : State :=
  let n := recEntries r
  let pads := padCount (ringSize s .ev e) (getF s (EV_STATUS_TAIL e)) n
  let s := forEach (List.range pads) (fun _ s =>
    evAdvance (writeEntries s e (getF s (EV_STATUS_TAIL e)) (getF s (EV_STATUS_PHASE e)) (recordWords { padRecord 0 with time := 0 }) 1) e 1) s
  let s := evAdvance (writeEntries s e (getF s (EV_STATUS_TAIL e)) (getF s (EV_STATUS_PHASE e)) (recordWords r) n) e n
  coalesceEv s e

/-- The ring has room for a record. -/
def evRoom (s : State) (e : Nat) (r : Record) : Bool :=
  decide ((evRing s e).used + padCount (ringSize s .ev e) (getF s (EV_STATUS_TAIL e)) (recEntries r) + recEntries r
    ≤ ringSize s .ev e)

/-- The event ring can be written. -/
def evReady (s : State) (e : Nat) : Bool := engineOn s && !s.hi.resetting && ringEn s .ev e && !ringErr s .ev e

/-- The lost-records record of a ring (R433). -/
def lostRecord (r : EvRing) : Record :=
  { rtype := 3, hdr := 0, time := r.lostAt, content := [pair16 r.lostEvt r.lostTel] }

/-- R400: the oldest staged record is written to its ring once there is space; a ring that has lost records first
receives their lost-records record. A block event record still open for merging is written when its 10 µs have
passed (R434). -/
def execEventRecordWrite (e : Nat) (s : State) : Host.Outcome State Fault Refusal :=
  .next (
    let r := evRing s e
    if !evReady s e then s
    else if 0 < r.lostEvt ∨ 0 < r.lostTel then
      if evRoom s e (lostRecord r) then
        updEvFull (writeRecord (setEvRing s e { r with lostEvt := 0, lostTel := 0 }) e (lostRecord r)) e
      else s
    else match r.staging with
      | [] => s
      | x :: t =>
        if evRoom s e x then
          let s := if x.evReg.isSome then advance s (x.time + 10000) else s
          updEvFull (writeRecord (setEvRing s e { r with staging := t }) e x) e
        else s)

/-- R398: the longest delay of a completion ring (`TIME` µs, 0 = none) or of an event ring (1 ms) has passed since the
first counted entry. -/
def execIrqCoalesceTimeout (k : RingKind) (i : Nat) (s : State) : Host.Outcome State Fault Refusal :=
  .next (
    match k with
    | .sq => s
    | .cq =>
      let r := comRing s i
      if 0 < r.co.count ∧ getF s (CQ_IRQ_TIME i) ≠ 0 ∧ on s dHOSTIF then
        signalCq (advance s (r.co.first + 1000 * getF s (CQ_IRQ_TIME i))) i
      else s
    | .ev =>
      let r := evRing s i
      if 0 < r.co.count ∧ on s dHOSTIF then signalEv (advance s (r.co.first + 1000000)) i else s)

/-! ## Configuration space (R367-R369, R372, R399, R672) -/

/-- Device ID and Subsystem ID of the part. -/
def deviceId (p : Part) : Nat :=
  match p with
  | .zrc1024 => 0x0401
  | .zrc512 => 0x0402
  | .zrc256 => 0x0403

/-- Read-only bits of the dwords of configuration space, by their offset (R367-R369): the identification; the capability list; BAR0, BAR2 and
BAR4 64-bit, BAR2 alone prefetchable; Power Management without PME; the PCI Express capability of an endpoint with 512-byte payloads, function-level
reset and Extended Tag, 16 GT/s ×4, ASPM L1 only with an exit latency of 8 to 16 µs, completion timeout ranges A and B and disable; MSI-X of 64
vectors with table and pending bits in BAR4; Advanced Error Reporting with ECRC; Device Serial Number; and the headers that 16 GT/s requires.
The layout is that of the PCI Express Base Specification, the places of the capabilities the model's (PRESUMED, log 96). -/
def cfgFixed (s : State) (offset : Nat) : Nat :=
  match offset with
  | 0x00 => deviceId s.part * 65536 + 0x1FA7
  | 0x04 => 0x00100000
  | 0x08 => 0x118000 * 256 + getF s GL_IDENT_HUB_STEP
  | 0x10 => 0x4
  | 0x18 => 0xC
  | 0x20 => 0x4
  | 0x2C => deviceId s.part * 65536 + 0x1FA7
  | 0x34 => 0x40
  | 0x40 => 0x00035001
  | 0x44 => if s.hi.d3hot then 3 else 0
  | 0x50 => 0x00029010
  | 0x54 => 0x10008022
  | 0x5C => 0x00400000 + 4 * 2 ^ 15 + 2 * 2 ^ 10 + 4 * 16 + 4
  | 0x74 => 0x13
  | 0x7C => 0x1E
  | 0x90 => 0x003F0011
  | 0x94 => 0x8004
  | 0x98 => 0xC004
  | 0x100 => 0x15020001
  | 0x118 => 0xA0
  | 0x150 => 0x16010003
  | 0x154 => Config.serial.toNat
  | 0x160 => 0x18010019
  | 0x180 => 0x1A010026
  | 0x1A0 => 0x00010027
  | _ => 0

/-- A dword of configuration space as the host reads it. -/
def pciWord (s : State) (offset : Nat) : Word := BitVec.ofNat 32 (cfgFixed s offset) ||| cfgWord s offset

/-- The host has enabled ASPM L1 in Link Control (R372). -/
def aspmL1 (s : State) : Bool := (cfgWord s 0x60).getLsbD 1

/-! ## Memory errors, link and power states -/

/-- R385 kind 3 and status 0x16: a host memory access fails. A failing ring access stops the ring; a failing buffer
access ends its command, which keeps the bytes already written. -/
def execHostMemoryError (a : MemAccess) (s : State) : Host.Outcome State Fault Refusal :=
  .next (
    match a with
    | .ring k i => if on s dHOSTIF && decide (i < ringCount k) && ringEn s k i then ringError s k i 3 else s
    | .buffer t =>
      match getTag s t with
      | some x => if x.state = .running ∧ x.off < x.total then endTag s t stHOST_MEMORY x.r0 x.r1 else s
      | none => s)

/-- R408: 1 written to `PEAK_CLR`. -/
def execPeakClr (s : State) : Host.Outcome State Fault Refusal :=
  .next (if on s dHOSTIF then setF s HI_TAGS_TAG_PEAK (allTags s).length else s)

/-- R407: 1 written to `ACK` in `HI_ORPHAN` clears `ORPH_PEND`. -/
def execOrphanAck (s : State) : Host.Outcome State Fault Refusal :=
  .next (if on s dHOSTIF then setF s HI_STATUS_ORPH_PEND 0 else s)

/-- R373: the function enters D3hot: nothing is fetched and no message sent; completions are held in their tags. -/
def execD3hotEntry (s : State) : Host.Outcome State Fault Refusal :=
  .next (if on s dHOSTIF && s.hi.linkUp then { s with hi := { s.hi with d3hot := true } } else s)

/-- R372, R629: the link enters ASPM L1, where the host has enabled it, and copying of trace to the host pauses. -/
def execLinkL1Entry (s : State) : Host.Outcome State Fault Refusal :=
  .next (
    if on s dHOSTIF && s.hi.linkUp && aspmL1 s && !s.hi.l1 then
      let s := { s with hi := { s.hi with l1 := true } }
      if on s dTRACE && flag s TRC_CTRL_HOST_EN then
        { setF s TRC_STATUS_L1_PAUSE 1 with trc := { s.trc with hostGap := some (1, s.now) } }
      else s
    else s)

/-- R372, R629: the link returns to L0; paused copying resumes. -/
def execLinkL1Exit (s : State) : Host.Outcome State Fault Refusal :=
  .next (
    if s.hi.l1 then
      let s := { s with hi := { s.hi with l1 := false } }
      if on s dTRACE then setF s TRC_STATUS_L1_PAUSE 0 else s
    else s)

/-- R493: the PCI Express link completes training while `HOSTIF` is powered. For the tie-links the host is then present (R347). -/
def execLinkUp (s : State) : Host.Outcome State Fault Refusal :=
  .next (
    if on s dHOSTIF then
      { s with
        hi := { s.hi with linkUp := true, l1 := false }
        tlHost := { s.tlHost with present := s.tlHost.present || on s dTLPHY } }
    else s)

end Sys2Proof.Machine
end

