-- ==== Sys2Proof/Machine/Regions.lean ====
section
/-! DEFINITION. Regions online and offline (R53), and the swap command, which waits for every online region (R51). -/

namespace Sys2Proof.Machine

/-- Regions that must acknowledge: present and online (R51). -/
def onlineRegions (s : State) : List Nat := (List.range s.part.regions).filter (online s)

/-- Update the pour in progress. -/
def modPour (s : State) (f : Pour → Pour) : State := { s with lad := { s.lad with pour := s.lad.pour.map f } }

/-- The hub issues the swap as soon as every region that is present and online has acknowledged, until 100 µs before the next
period, and names its first tick as the target (R51, R52). -/
def issueSwap (s : State) : State :=
  match s.lad.pour with
  | some p =>
    if p.sel.isSome && p.target.isNone && decide (s.now + 100000 ≤ p.swapAt) && (onlineRegions s).all p.acks.contains then
      modPour s (fun p => { p with target := some p.swapAt })
    else s
  | none => s

/-- Region k has acknowledged a table that carries a load. -/
def loadAcked (s : State) (k : Nat) (l : Nat × Nat × List Word × Nat) : Bool :=
  match s.lad.pour with | some p => p.loads.contains l && (p.acks.contains k || p.target.isSome) | none => false

/-- Profile and model loads that a region going offline has not acknowledged end with the region's status, with no effect anywhere
(R417). -/
def loseLoads (s : State) (k : Nat) : State :=
  let lost := s.lad.loads.filter (fun l => !loadAcked s k l)
  let s := forEach lost (fun l s => endSt s l.2.2.2 stREGION_OFFLINE) s
  modPour { s with lad := { s.lad with loads := s.lad.loads.filter (fun l => !lost.contains l) } }
    (fun p => { p with loads := p.loads.filter (fun l => !lost.contains l) })

/-- A flask sends no telemetry frames for a time: the one in progress is given up, and the next is a key frame (R441). -/
def telStop (s : State) (f : Nat) : State :=
  { s with tel := s.tel.map (fun (e : Nat × Telemetry) => if e.1 = f then (e.1, { e.2 with force := true, taken := 0, codes := [] }) else e) }

/-- Region k is no longer online: the swap does not wait for it any more, loads it has still to acknowledge fail, and its flasks'
telemetry stops. -/
def goOffline (s : State) (k : Nat) : State :=
  if online s k then
    issueSwap (setBitF (forEach (regionFlasks k) (fun f s => telStop s f) (loseLoads s k)) GL_TOPOLOGY_REGIONS_ONLINE k false)
  else s

end Sys2Proof.Machine
end

