-- ==== Sys2Proof/Machine/Convert.lean ====
section
/-! DEFINITION. The converters (R177, R180, R184, R190, R198): what a conversion at the pins is worth after the factory constants,
the background trim and the calibration entry, at the loop tick and over a millisecond. -/

namespace Sys2Proof.Machine

/-! ## Legs and their calibration (R198, R200) -/

/-- Base of a leg's calibration registers. -/
def legCalBase (l : Nat) : Nat := if l < 4 then SP_SHUNT l else if l < 12 then PP_TLSHUNT (l - 4) else PP_CBSHUNT
/-- Level-3 source of a leg (R198). -/
def legSrc (l : Nat) : Nat := if l < 4 then srcBlock (0x020 + l) else if l < 12 then srcBlock (0x010 + l - 4) else srcBlock 0x001

def leg (s : State) (l : Nat) : Conv := tabGet (fun _ => {}) s.legs l
def setLeg (s : State) (l : Nat) (v : Conv) : State := { s with legs := tabSet (fun _ => {}) s.legs l v }

/-- The three calibration words of a leg as its registers hold them. -/
def legRegs (s : State) (l : Nat) : List Word := (List.range 3).map (fun j => rd s (legCalBase l + 4 * j))

/-- Calibration words of a leg in force since the last millisecond boundary (R200). -/
def legWords (s : State) (l : Nat) : List Word := tabGet (fun _ => []) s.legCal l

/-- The calibration words a leg's registers hold come into force (R200). -/
def takeLegCal (s : State) (l : Nat) : State := { s with legCal := tabSet (fun _ => []) s.legCal l (legRegs s l) }

/-- The calibration of a converter pair: `SHUNT`, `V_RATIO`, `I_GAIN`, `I_OFFS`, `V_OFFS`. -/
structure CalVals where
  shunt : Nat
  ratio : Nat
  gain : Int
  offs : Int
  voffs : Int
  deriving DecidableEq, Repr

/-- A channel's calibration entry. -/
def chanCal (s : State) (c : Nat) : CalVals :=
  ⟨getF s (MC_SHUNT_SHUNT c), getF s (MC_SHUNT_V_RATIO c), getI s (MC_ITRIM_I_GAIN c), getI s (MC_ITRIM_I_OFFS c), getI s (MC_VTRIM_V_OFFS c)⟩

/-- A leg's calibration in force; a value outside its range takes the nearest end (R200). -/
def legCalVals (s : State) (l : Nat) : CalVals :=
  let w := legWords s l
  let g (j lo : Nat) : Nat := bits (w.getD j 0) lo 16
  ⟨max 2500 (g 0 16), min 21000 (max 19000 (g 0 0)), clampI (-20000) 20000 (sext 16 (g 1 16)), sext 16 (g 1 0),
   clampI (-500) 500 (sext 16 (g 2 0))⟩

/-! ## The coulomb converter (R177, R180, R190) -/

/-- Sum over the conversions, each limited to the modulator's ±60.0 mV at the pins, in nV times cycles (R177). -/
def shuntSum (x : ShuntRuns) : Int := (x.map (fun e => clampI (-60000000) 60000000 e.1 * (e.2 : Int))).sum

/-- Modulator cycles. -/
def shuntCycles (x : ShuntRuns) : Nat := (x.map (·.2)).sum

/-- Shunt voltage of largest magnitude at the pins, nV. -/
def shuntPeak (x : ShuntRuns) : Int := x.foldl (fun m e => if m.natAbs < e.1.natAbs then e.1 else m) 0

/-- The corrected sum in units of 10⁻¹⁸ nV·cycles: factory gain, background trim and factory offset, then `I_OFFS` and `I_GAIN`
(R190 steps 1 and 2). -/
def corrShunt (v : Conv) (k : CalVals) (x : ShuntRuns) : Int :=
  (shuntSum x * (1000000 + v.fact.gI) * (1000000 + v.tI.g) - (v.fact.oI + 10 * k.offs) * (shuntCycles x : Int) * 1000000000000) *
    (1000000 + k.gain)

/-- The loop current of R119 in 10 mA: the mean of the corrected stream over the shunt (R180). -/
def tickCurrent (v : Conv) (k : CalVals) (x : ShuntRuns) : Int :=
  if shuntCycles x = 0 ∨ k.shunt = 0 then 0
  else divRound (10 * corrShunt v k x) (1000000000000000000 * shuntCycles x * k.shunt)

/-- Mean shunt voltage at the pins, 10 µV, toward zero. -/
def tickShunt (x : ShuntRuns) : Int := if shuntCycles x = 0 then 0 else divTrunc (shuntSum x) (10000 * shuntCycles x)

/-- Corrected increment of an accumulator over a millisecond: LSB 0.5 nV·s; the part below one LSB is carried (R180). Answers the
new accumulator and remainder. -/
def accStep (v : Conv) (k : CalVals) (x : ShuntRuns) : Nat × Int :=
  let den : Int := 4096000 * 1000000000000000000
  let n := corrShunt v k x + v.frac
  (((v.acc : Int) + n / den).emod (2 ^ 48) |>.toNat, n % den)

/-! ## The voltage converter (R184, R190) -/

/-- Corrected voltage in 10⁻¹⁸ mV of a pin voltage in µV: factory gain and trim, factory offset, `V_RATIO`, `V_OFFS`. -/
def corrPin (v : Conv) (k : CalVals) (pin : Nat) : Int :=
  ((pin : Int) * (1000000 + v.fact.gV) * (1000000 + v.tV.g) + v.fact.oV * 1000000000000) * k.ratio + k.voffs * 1000000000000000000

/-- Millisecond voltage: rounded to 1 mV, 0 to 65 535 (R184). -/
def msVoltage (v : Conv) (k : CalVals) (pin : Nat) : Nat := (clampI 0 65535 (divRound (corrPin v k pin) 1000000000000000000)).toNat

/-- Loop-rate voltage: the same correction in steps of 10 mV, within the same limits (R184). -/
def tickVoltage (v : Conv) (k : CalVals) (pin : Nat) : Nat := (clampI 0 6554 (divRound (corrPin v k pin) 10000000000000000000)).toNat

/-! ## Factory data (R35, R191) -/

/-- The record passes its CRC-32C (R35). -/
def FactRec.good (x : FactRec) : Bool := x.words.isEmpty || x.crc == crc32cWords x.words

/-- Constants of the `i`-th converter of a record: those of a good record, else the nominal ones. -/
def FactRec.at (x : FactRec) (i : Nat) : Fact :=
  if FactRec.good x then
    let g (j : Nat) : Int := (x.words.getD (5 * i + j) 0).toInt
    { gI := g 0, oI := g 1, gV := g 2, oV := g 3, gB := g 4 }
  else {}

/-- NOR offset of the record, within the factory partition (R24). -/
def FactRec.norOffset (x : FactRec) : Word := BitVec.ofNat 32 (Config.norFactory.1 + x.ofs % Config.norFactory.2)

end Sys2Proof.Machine
end

