-- ==== Sys2Proof/Machine/Channels.lean ====
section
/-! DEFINITION. Channel ports (chapter 3): channel states, trips, flask hold, the fault return and its retry, and the
commands that set channel and flask parameters. The loops stand in Loop.lean. -/

namespace Sys2Proof.Machine

/-! ## Live words -/

/-- `STATE` codes of `CH_STATE`. -/
def ChState.code : ChState → Nat
  | .absent => 0
  | .disconnected => 1
  | .hold => 2
  | .run => 3

/-- A flask holds a hold reason (R130). -/
def Flask.held (x : Flask) : Bool := !x.holds.isEmpty
def flaskHeld (s : State) (f : Nat) : Bool := (flask s f).held

/-- `CH_STATE` of a channel as it is now (R142 refreshes the word at each snapshot). -/
def chStateWord (s : State) (c : Nat) : Word :=
  let x := chan s c
  let b (v : Bool) (i : Nat) : Nat := if v then 2 ^ i else 0
  BitVec.ofNat 32 (x.state.code * 2 ^ 30 + x.mode * 2 ^ 28 + x.reason * 2 ^ 24 + b (flaskHeld s (chFlask c)) 19 + b x.vloop 18 +
    b x.clamped 17 + b x.shaved 16 + b x.tone 15 + b x.droop 14)

/-- Charging is suspended (R150); a channel whose windows have not been computed lies in none. -/
def chargingSuspended (s : State) (c : Nat) : Bool :=
  let x := chan s c
  !flag s (CH_CFG_CHG_EN c) || (x.win.inForce && (x.win.cwin == 0 || x.win.cwin == 4 || x.win.cwin == 5)) || x.shaved || x.ph.fault != 0

/-- `CH_PHASE` of a channel as it is now: `CWIN` reads 0 while `PHASE` = 0. -/
def chPhaseWord (s : State) (c : Nat) : Word :=
  let x := chan s c
  let b (v : Bool) (i : Nat) : Nat := if v then 2 ^ i else 0
  let p := x.ph
  BitVec.ofNat 32 (p.phase * 2 ^ 28 + (if p.phase = 0 then 0 else x.win.cwin * 2 ^ 25) + x.win.dwin * 2 ^ 23 + p.fault * 2 ^ 20 +
    b (chargingSuspended s c) 19 + b p.full 18 + b p.timed 17 + b p.restCut 16 + (p.train % 256) * 2 ^ 8 + b p.relaxing 7)

/-- `CH_PHTIME` of a channel. -/
def chPhTimeWord (x : Chan) : Word := pair16 (satTo 65535 (x.ph.elapsed / 1000)) (satTo 65535 (x.ph.timer / 1000))

/-- All four sequencers of a flask's bank run, so its connector's `ALIVE` toggles (R134). -/
def aliveOn (s : State) (f : Nat) : Bool :=
  (List.range 4).all (fun j => (flask s (4 * (f / 4) + j)).running) && s.pw.transport != .transport

/-- `FSTATE`. -/
def fstate (x : Flask) : Nat :=
  if !x.running then 0 else if x.held then 2 else if x.retry = .run then 1 else 3

/-- `FHOLD_REASON`: the earliest reason still held. -/
def holdReason (x : Flask) : Nat := match x.holds with | [] => 0 | r :: _ => if r = 17 then 1 else r

/-- `FL_STATE` of a flask as it is now. -/
def flStateWord (s : State) (f : Nat) : Word :=
  let x := flask s f
  let b (v : Bool) (i : Nat) : Nat := if v then 2 ^ i else 0
  BitVec.ofNat 32 (fstate x * 2 ^ 30 + holdReason x * 2 ^ 24 + (x.retryCount % 16) * 2 ^ 20 + b x.fltPin 19 + b (aliveOn s f) 18 +
    b (!x.pairs.isEmpty) 17)

/-- Trace records of a state change (R623, kinds 0x22 and 0x23). -/
def traceChan (s : State) (c : Nat) : State :=
  offer s 0x22 ((chan s c).reason * 65536 + (chan s c).state.code * 4096 + c) (chStateWord s c)
def traceFlask (s : State) (f : Nat) : State := offer s 0x23 f (flStateWord s f)
/-- Trace record of a phase change (kind 0x20). -/
def tracePhase (s : State) (c old : Nat) : State :=
  offer s 0x20 (old * 65536 + (chan s c).ph.phase * 4096 + c) (chPhaseWord s c)

/-! ## Channel states (R126, R127) -/

/-- The loop stopped: pins at mid-level, integrators at 0, nothing binding. -/
def Chan.stopped (x : Chan) : Chan :=
  { x with mode := 0, vloop := false, clamped := false, shaved := false, tone := false, droop := false,
           xI := 0, cI := 0, fI := 0, satHi := false, satLo := false, base := 0, r := 0, u := 0,
           pwm := {} }

/-- A pending PHASE action whose channel leaves RUN or whose flask is held is rejected at that moment (R163). -/
def rejectPhase (s : State) (c : Nat) : State :=
  let l := (chan s c).ph.actions
  let s := modChan s c (fun x => { x with ph := { x.ph with actions := [] } })
  forEach l (fun (a : Nat × Nat) s => endTag s a.2 stSTATE (chPhaseWord s c) 0) s

/-- Capacity learning ends with a result code (R224). -/
def endLearn (s : State) (c code : Nat) : State :=
  modEst s c (fun e => { e with armed := false, left := none, lastLrn := code, pos := 0, secQ := none, modelNew := false })

/-! ## Calibration runs (R287): what the entry of a channel into another state needs -/

def calRun (s : State) (c : Nat) : CalRun := tabGet (fun _ => {}) s.lad.cal c
def setCalRun (s : State) (c : Nat) (r : CalRun) : State := { s with lad := { s.lad with cal := tabSet (fun _ => {}) s.lad.cal c r } }

/-- A run is in a state from FILL to PAUSE. -/
def calRunning (s : State) : List Nat := (s.lad.cal.filter (fun e => decide (2 ≤ e.2.state))).map (·.1)

/-- `CAL_ACTIVE` follows the runs. -/
def updCalActive (s : State) : State := setF s LD_CAL_CAL_ACTIVE (calRunning s).length

/-- A run ends with a `CAL_END` code. -/
def endCalRun (s : State) (c code : Nat) : State :=
  raise (updCalActive (setCalRun s c { calRun s c with req := false, state := 0, end_ := code })) LD_EVENT 0x80

/-- A channel takes a state and hold reason (R126): each entry into HOLD counts, a channel that leaves RUN or enters it
has its loop at rest. A channel entering RUN from reason 8 is to be classified (R151), till when its phase is 0 with no timer and no elapsed time
(R153, R174), and its filter is initialised at the next snapshot (R215); one that leaves service ends its capacity learning at the next snapshot (R224) and its calibration run at once (R287).
-/
def setChState (s : State) (c : Nat) (st : ChState) (reason : Nat) : State :=
  let x := chan s c
  let y := { x.stopped with
    state := st, reason
    holds := if st = .hold ∧ x.state ≠ .hold then satTo 65535 (x.holds + 1) else x.holds
    ph := if st = .run ∧ x.reason = 8 then
        { x.ph with phase := 0, classify := true, timer := 0, elapsed := 0, relaxing := false, pulse := 0, pulseMs := 0
                    susA := 0, susB := 0, susC := 0 }
      else x.ph }
  let s := setChan s c y
  let s := if st = .run ∧ x.reason = 8 then modEst s c (fun e => { e with initDue := true, initAfter := s.now }) else s
  let s := if (st = .disconnected ∨ st = .absent) ∧ (est s c).armed then modEst s c (fun e => { e with left := some s.now }) else s
  let s := if (st = .disconnected ∨ st = .absent) ∧ st ≠ x.state ∧ (calRun s c).state ≠ 0 then endCalRun s c 5 else s
  let s := if x.state = .run ∧ st ≠ .run then rejectPhase s c else s
  let s := if y.ph.phase = x.ph.phase then s else tracePhase s c x.ph.phase
  traceChan s c

/-- A CHAN_STATE or CHAN_PARAM command that waits for ramps ends once no ramp waits for it; it ends aborted when a
channel entered a state it did not name (R126). -/
def settleRampCmd (s : State) (t : Nat) : State :=
  if s.chans.any (fun e => match e.2.ramp with | some r => r.cmds.any (fun m => m.1 == t) | none => false) then s
  else match getTag s t with
    | some x => if x.state = .running then endSt s t x.status else s
    | none => s

/-- The ramp's commands learn which state was entered. -/
def settleRamp (s : State) (r : Ramp) : State :=
  forEach r.cmds (fun (m : Nat × ChState) s =>
    let s := modTag s m.1 (fun x => { x with status := if m.2 = r.target then x.status else stABORTED })
    settleRampCmd s m.1) s

/-- A channel's ramp ends and it enters the state its latest command names (R126). -/
def endRamp (s : State) (c : Nat) : State :=
  match (chan s c).ramp with
  | none => s
  | some r =>
    let s := modChan s c (fun x => { x with ramp := none })
    let s := match r.target with
      | .hold => if (chan s c).state = .run then setChState s c .hold 1 else s
      | st => setChState s c st 0
    settleRamp s r

/-- A channel in RUN enters HOLD for a reason; a ramp that was running ends with it (R126). One towards DISCONNECTED or ABSENT then
takes the state its command names at once, after HOLD: the spec does not say whether the channel stays in HOLD (DESIGN CHOICE,
log 89). -/
def holdChan (s : State) (c reason : Nat) : State :=
  if (chan s c).state = .run then endRamp (setChState s c .hold reason) c else s

/-- A host hold, disconnect or removal reaches a channel (R126): from RUN it starts the ramp or joins the one running;
any other channel takes its state at once. Command `t` waits for the ramp. -/
def startRamp (s : State) (c : Nat) (target : ChState) (t : Nat) : State :=
  let x := chan s c
  if x.state = .run then
    let r := match x.ramp with
      | some r => { r with target, cmds := r.cmds ++ [(t, target)] }
      | none => { deadline := s.now + 1000000, target, cmds := [(t, target)] }
    setChan s c { x with ramp := some r }
  else match target with
    | .hold => s
    | st => if x.state = st then s else setChState s c st 0

/-- HOLD_RAMP_END (R126): a ramp ends when the current is below 0.50 A in magnitude, or 1 ms after its command. -/
def execHoldRampEnd (c : Nat) (s : State) : Host.Outcome State Fault Refusal :=
  .next (
    match (chan s c).ramp with
    | some r => endRamp (if (chan s c).i.natAbs < 50 then s else advance s r.deadline) c
    | none => s)

/-! ## Trips (R129) -/

/-- The trip condition present on a channel and its hold reason, if any. -/
def tripReason (s : State) (c : Nat) : Option Nat :=
  let x := chan s c
  if x.hiTrip then some 3
  else if 2 ≤ x.lowTicks then some 4
  else if 0 < x.ocTicks ∧ getF s (CH_ITRIP_ITRIP_TICKS c) ≤ x.ocTicks then some 5
  else none

/-- CHANNEL_TRIP (R129): a channel in RUN with a trip condition present enters HOLD, counts and reports the trip. -/
def execChannelTrip (c : Nat) (s : State) : Host.Outcome State Fault Refusal :=
  .next (
    match (if (chan s c).state = .run then tripReason s c else none) with
    | some r =>
      let x := chan s c
      let s := setChan s c { x with trips := satTo 65535 (x.trips + 1) }
      let s := holdChan s c r
      fault s (r - 2) 1 (srcChan c 0) (if r = 5 then BitVec.ofInt 32 x.i else BitVec.ofNat 32 x.vb)
    | none => s)

/-! ## Flask hold (R130) -/

/-- A flask enters flask hold, or adds a reason: loops stop, tones stop, a retry in progress ends. -/
def flaskHold (s : State) (f reason : Nat) : State :=
  let x := flask s f
  if f < s.part.flasks then
    let s := setFlask s f { x with
      holds := if x.holds.contains reason then x.holds else x.holds ++ [reason]
      retry := .run, restarted := [], stopTones := x.stopTones || !x.pairs.isEmpty }
    let s := forEach (flaskChans f) (fun c s => rejectPhase (modChan s c Chan.stopped) c) s
    traceFlask s f
  else s

/-- The flask is left with other hold reasons; with none it leaves flask hold and its channels in RUN restart. -/
def setHolds (s : State) (f : Nat) (l : List Nat) : State :=
  let x := flask s f
  if x.holds = l then s
  else
    let s := setFlask s f { x with holds := l, runAt := if l.isEmpty then s.now else x.runAt }
    traceFlask s f

/-- A flask-state release is refused: reason 4 is held and a stopped sequencer of the bank has not restarted. -/
def releaseRefused (s : State) (f : Nat) : Bool :=
  (flask s f).holds.contains 4 && (List.range 4).any (fun j => (flask s (4 * (f / 4) + j)).failed)

/-! ## Commands -/

/-- A started command whose targets are all online (R417): a region that went offline before ends it with 0x05. -/
def targetsOnline (s : State) (x : Tag) : Bool := (selRegions (x.word 1)).all (online s)

/-- The apply tick: a command whose targets lie in more than one region is applied at a loop tick, the fourth after its start or a
later one, in every region at once (R417); one whose targets lie in one region at a loop tick too (R141, R390); any other at the moment
its row is taken. -/
def applyTime (s : State) (x : Tag) : Nat :=
  let n := (selRegions (x.word 1)).length
  if n = 0 then s.now else max ((s.now + 999) / 1000 * 1000) (if n = 1 then 0 else (x.startAt / 1000 + 4) * 1000)

/-- Parameter words travel to the targets' regions as class 3 (R31). -/
def paramXfer (s : State) (x : Tag) : State :=
  if x.opcode = 0x10 ∨ x.opcode = 0x11 ∨ x.opcode = 0x14 ∨ x.opcode = 0x17 ∨ x.opcode = 0x18 then
    forEach (selRegions (x.word 1)) (fun k s => xfer (xfer s hubFabric 3 rqHost 32) k 3 rqRunner 32) s
  else s

/-- Apply a started command of an opcode at its apply tick: its targets' regions are still online, and its effect is given. -/
def applyCmd (s : State) (t op : Nat) (k : Tag → State → State) : State :=
  match startedAs s t op with
  | some x => if targetsOnline s x then k x (paramXfer { s with now := applyTime s x } x) else endSt s t stREGION_OFFLINE
  | none => s

/-- The first target that fails a test ends the command with a status and its number (R415); with none, the effect. -/
def firstFail (s : State) (t st : Nat) (l : List Nat) (ok : Nat → Bool) (k : State → State) : State :=
  match l.find? (fun c => !ok c) with
  | some c => endTag s t st (BitVec.ofNat 32 c) 0
  | none => k s

/-- The profile and model slots of a number are loaded. -/
def profLoaded (s : State) (p : Nat) : Bool := bits (rd s (PROF p)) 24 8 == 1
def modelLoaded (s : State) (p : Nat) : Bool := bits (rd s (MODEL p)) 24 8 == 1

/-- The channel check (R141, R167, R178, R206) of configuration words `w` and window words `v` on channel `c`. -/
def chanCheck (s : State) (c : Nat) (w v : List Word) : Bool :=
  let g (l : List Word) (i lo n : Nat) : Nat := bits (l.getD i 0) lo n
  let gi (i lo : Nat) : Int := sext 16 (g v i lo 16)
  let present := g w 0 31 1 == 1
  let p := g w 0 24 4
  let sh := getF s (MC_SHUNT_SHUNT c)
  let h : Int := g v 3 24 8
  let prof0 := rd s (PROF p)
  let vtop := bits (rd s (PROF p + 0x14)) 0 16
  decide (g w 3 0 16 < g w 2 0 16) && decide (g w 2 0 16 < g w 2 16 16) && decide (g w 2 16 16 < g w 3 16 16) &&
  decide (g w 1 16 16 < g w 4 16 16) && decide (g w 1 0 16 < g w 4 16 16) &&
  decide (g w 1 16 16 * sh ≤ 500000000) && decide (g w 1 0 16 * sh ≤ 500000000) && decide (g w 4 16 16 * sh ≤ 562500000) &&
  decide (1 ≤ g w 4 0 8) &&
  decide (gi 0 16 ≤ gi 0 0) && decide (gi 0 0 + h < gi 1 16) && decide (gi 1 16 ≤ gi 1 0) &&
  decide (gi 2 16 + h < gi 2 0 - h) &&
  decide (1 ≤ g v 3 16 8) && decide (g v 3 16 8 ≤ 100) && decide (1 ≤ g v 3 8 8) && decide (g v 3 8 8 ≤ 100) && decide (h ≤ 100) &&
  (!present || (profLoaded s p && modelLoaded s p && decide (bits prof0 16 8 * g v 3 0 8 < 10 * vtop)))

/-- The eight configuration words and the four window words of a channel. -/
def cfgWords (s : State) (c : Nat) : List Word := (List.range 8).map (fun j => rd s (CH_CFG c + 4 * j))
def winWords (s : State) (c : Nat) : List Word := (List.range 4).map (fun j => rd s (CH_TCHG1 c + 4 * j))

/-- Write words at consecutive addresses. -/
def wrList (s : State) (a : Nat) : List Word → State
  | [] => s
  | w :: l => wrList (wr s a w) (a + 4) l

/-- A channel's parameters are applied (R126): `PRESENT` = 1 brings an absent channel to HOLD with reason 8, its phase and faults as
they stood (R149, R157) and, unless its temperature is invalid, no window in force (R158, R162); 0 removes it; a changed profile
asks for classification (R151). With a ramp to ABSENT still running, `PRESENT` = 1 leaves the ramp as it is: the channel becomes
ABSENT at its end, `PRESENT` reading 1, and the next such command brings it back. The table of R126 has no row for that case
(DESIGN CHOICE, log 49). -/
def applyChanParam (s : State) (t c : Nat) (w : List Word) : State :=
  let oldP := getF s (CH_CFG_PROFILE c)
  let s := wrList s (CH_CFG c) w
  let s := if getF s (CH_CFG_PROFILE c) ≠ oldP ∧ (chan s c).state ≠ .absent then
      modChan s c (fun x => { x with ph := { x.ph with classify := true } }) else s
  let x := chan s c
  if flag s (CH_CFG_PRESENT c) then
    if x.state = .absent then
      setChState (modEst (setChan s c { x with win := if x.win.cwin = 5 then x.win else {} }) c
        (fun e => { e with live := false, initDue := false, startDue := true })) c .hold 8
    else s
  else startRamp s c .absent t

/-- A command that may have started ramps ends at once when none waits for it. -/
def afterRamps (s : State) (t : Nat) : State := settleRampCmd (runTag s t) t

/-- CHAN_PARAM (R141): checked whole and applied at one loop tick. -/
def execChanParam (t : Nat) (s : State) : Host.Outcome State Fault Refusal :=
  .next (applyCmd s t 0x10 (fun x s =>
    let w := (List.range 8).map x.param
    let l := selRange (x.word 1)
    firstFail s t stCHECK_FAILED l (fun c => chanCheck s c w (winWords s c)) (fun s =>
      afterRamps (noteCfg s (forEach l (fun c s => applyChanParam s t c w) s)) t)))

/-- CHAN_WINDOWS (R167, R174): the four window words, after the channel check. -/
def execChanWindows (t : Nat) (s : State) : Host.Outcome State Fault Refusal :=
  .next (applyCmd s t 0x11 (fun x s =>
    let v := (List.range 4).map x.param
    let l := selRange (x.word 1)
    firstFail s t stCHECK_FAILED l (fun c => chanCheck s c (cfgWords s c) v) (fun s =>
      endSt (noteCfg s (forEach l (fun c s => wrList s (CH_TCHG1 c) v) s)) t stSUCCESS)))

/-- A channel may take a CHAN_STATE action (R126): hold and disconnect need a channel that is not absent, and hold one
that is not disconnected; release one in RUN, or in HOLD for reasons 1 to 7 with no trip condition; reconnect a
disconnected one whose last 1 000 millisecond voltages lay in range. -/
def chanStateOk (s : State) (a c : Nat) : Bool :=
  let x := chan s c
  match a with
  | 0 => x.state == .run || x.state == .hold
  | 1 => x.state == .run || (x.state == .hold && decide (1 ≤ x.reason) && decide (x.reason ≤ 7) && (tripReason s c).isNone)
  | 2 => x.state != .absent
  | _ => x.state == .disconnected && x.vbHist.length == 1000 &&
    x.vbHist.all (fun v => decide (2000 ≤ v) && decide (v ≤ 10 * getF s (CH_VTRIP_VTRIP_HI c)))

/-- The CHAN_STATE action on one channel. -/
def chanStateAct (s : State) (t a c : Nat) : State :=
  match a with
  | 0 => startRamp s c .hold t
  | 1 => if (chan s c).state = .hold then setChState s c .run 0 else s
  | 2 => startRamp s c .disconnected t
  | _ => setChState s c .hold 8

/-- CHAN_STATE (R126): hold, release, disconnect or reconnect of every selected channel, or of none. -/
def execChanState (t : Nat) (s : State) : Host.Outcome State Fault Refusal :=
  .next (applyCmd s t 0x12 (fun x s =>
    let a := bits (x.param 0) 0 2
    let l := selRange (x.word 1)
    firstFail s t stSTATE l (chanStateOk s a) (fun s => afterRamps (forEach l (fun c s => chanStateAct s t a c) s) t)))

/-- The flask check (R141). -/
def flaskCheck (w : Tag) : Bool :=
  decide (50 ≤ bits (w.param 0) 24 8) && decide (bits (w.param 0) 24 8 ≤ 250) && decide (4 ≤ bits (w.param 0) 18 6) &&
  decide (5 ≤ bits (w.param 1) 0 8) && decide (bits (w.param 1) 0 8 ≤ 200)

/-- FLASK_PARAM (R141, R116): the range checks first; then a change of `FSW` outside flask hold is refused. -/
def execFlaskParam (t : Nat) (s : State) : Host.Outcome State Fault Refusal :=
  .next (applyCmd s t 0x14 (fun x s =>
    let l := selRange (x.word 1)
    firstFail s t stCHECK_FAILED l (fun _ => flaskCheck x) (fun s =>
      firstFail s t stSTATE l (fun f => flaskHeld s f || getF s (FL_CFG_FSW f) == bits (x.param 0) 24 8) (fun s =>
        endSt (noteCfg s (forEach l (fun f s => wr (wr s (FL_CFG f) (x.param 0)) (FL_MODE f) (x.param 1)) s)) t stSUCCESS))))

/-- FLASK_STATE (R130): flask hold with reason 1, or release of every reason held. -/
def execFlaskState (t : Nat) (s : State) : Host.Outcome State Fault Refusal :=
  .next (applyCmd s t 0x15 (fun x s =>
    let l := selRange (x.word 1)
    if bits (x.param 0) 0 1 = 1 then endSt (forEach l (fun f s => flaskHold s f 1) s) t stSUCCESS
    else firstFail s t stSTATE l (fun f => !releaseRefused s f) (fun s =>
      match s.atst.cur.filter (fun m => l.contains m.flask) with
      | some m =>
        let s := forEach (l.filter (fun f => f ≠ m.flask)) (fun f s => setHolds s f []) s
        pendTag { s with atst := { s.atst with releases := s.atst.releases ++ [t] } } t
      | none => endSt (forEach l (fun f s => setHolds s f []) s) t stSUCCESS)))

/-! ## Self-check (R131) -/

/-- A sequencer stops: its pins go to mid-level and its tones end. -/
def stopSequencer (s : State) (f : Nat) (failed : Bool) : State :=
  let s := modFlask s f (fun x => { x with running := false, failed := x.failed || failed, pairs := [], stopTones := false,
                                            retry := .run, restarted := [] })
  let s := forEach (flaskChans f) (fun c s => rejectPhase (modChan s c Chan.stopped) c) s
  traceFlask s f

/-- The other flasks of a bank enter flask hold with reason 4. -/
def holdBankMates (s : State) (f : Nat) : State :=
  forEach ((List.range 4).filter (fun j => 4 * (f / 4) + j != f)) (fun j s => flaskHold s (4 * (f / 4) + j) 4) s

/-- SEQUENCER_SELFCHECK_FAIL (R131), with the tick count difference as context. -/
def execSequencerSelfcheckFail (f : Nat) (ctx : Word) (s : State) : Host.Outcome State Fault Refusal :=
  .next (
    if flaskOn s f && (flask s f).running then
      fault (holdBankMates (stopSequencer s f true) f) 0x13 2 (srcFlask f 0) ctx
    else s)

/-! ## Fault return (R132, R133) -/

/-- A new retry starts, or the retries are exhausted. -/
def retryOrHold (s : State) (f : Nat) : State :=
  let x := flask s f
  if x.retryCount < getF s (FL_CFG_RETRY_MAX f) then
    traceFlask (setFlask s f { x with retry := .wait, retryCount := x.retryCount + 1, restarted := [] }) f
  else flaskHold (fault s 0x11 2 (srcFlask f 0) (BitVec.ofNat 32 x.retryCount)) f 3

/-- Attribution: the channel restarted last is put in HOLD with reason 6, if it is still in RUN (R133). -/
def attribute_ (s : State) (f l : Nat) : State :=
  let c := 16 * f + l
  let s := holdChan s c 6
  let s := fault s 0x0A 1 (srcChan c 0) (BitVec.ofNat 32 (flask s f).retryCount)
  traceFlask (modFlask s f (fun x => { x with retry := .wait, restarted := [] })) f

/-- FAULT_RETURN_ASSERT (R132, R133): a filtered low stops the flask's 16 channels, counts, reports, and advances the
retry machine. -/
def execFaultReturnAssert (f : Nat) (s : State) : Host.Outcome State Fault Refusal :=
  .next (
    let x := flask s f
    if flaskOn s f && x.running && !x.fltPin then
      let s := fault s 0x10 1 (srcFlask f 0) (BitVec.ofNat 32 (fstate x))
      let s := setFlask s f { flask s f with fltPin := true, fltAt := s.now, fltEvents := satTo 65535 (x.fltEvents + 1) }
      if x.held then s
      else
        let s := forEach (flaskChans f) (fun c s => modChan s c Chan.stopped) s
        match x.retry with
        | .run => retryOrHold s f
        | .wait => s
        | .restart =>
          match x.restarted with
          | l :: _ => if s.now ≤ x.restartAt + 200000 then attribute_ s f l else retryOrHold s f
          | [] => retryOrHold s f
    else s)

/-- The next channel of the restart sequence: in increasing local order, in RUN, not yet restarted (R133). -/
def nextRestart (s : State) (f : Nat) : Option Nat :=
  (List.range 16).find? (fun l => (chan s (16 * f + l)).state == .run && !(flask s f).restarted.contains l)

/-- Restart the next channel, or end a sequence that has none to restart. -/
def restartNext (s : State) (f : Nat) : State :=
  match nextRestart s f with
  | some l =>
    let s := modChan s (16 * f + l) Chan.stopped
    modFlask s f (fun x => { x with restarted := l :: x.restarted, restartAt := s.now })
  | none => s

/-- The flask returns to RUN after a retry. -/
def retryDone (s : State) (f : Nat) : State :=
  traceFlask (modFlask s f (fun x => { x with retry := .run, restarted := [], runAt := s.now })) f

/-- RETRY_DELAY_EXPIRE (R133): the fault return is released and `RETRY_DLY` has passed since the latest assertion, so
the first channel restarts; a sequence with no channel ends at once. -/
def execRetryDelayExpire (f : Nat) (s : State) : Host.Outcome State Fault Refusal :=
  .next (
    let x := flask s f
    if x.retry = .wait ∧ x.running then
      let s := advance s (x.fltAt + 10000000 * getF s (FL_CFG_RETRY_DLY f))
      let s := setFlask s f { x with fltPin := false, retry := .restart, restarted := [], restartAt := s.now }
      if (nextRestart s f).isSome then restartNext s f else retryDone s f
    else s)

/-- RETRY_CHANNEL_RESTART (R133): 200 µs after the last restart the next channel restarts. -/
def execRetryChannelRestart (f : Nat) (s : State) : Host.Outcome State Fault Refusal :=
  .next (
    let x := flask s f
    if x.retry = .restart ∧ (nextRestart s f).isSome then restartNext (advance s (x.restartAt + 200000)) f else s)

/-- FAULT_RETURN_STUCK (R133): the fault return has stayed low for 1 s in WAIT. -/
def execFaultReturnStuck (f : Nat) (s : State) : Host.Outcome State Fault Refusal :=
  .next (
    let x := flask s f
    if x.retry = .wait ∧ x.fltPin then
      flaskHold (fault (advance s (x.fltAt + 1000000000)) 0x12 2 (srcFlask f 0) 0) f 6
    else s)

/-- RETRY_COMPLETE (R133): 10 ms pass after the last restart with no assertion. -/
def execRetryComplete (f : Nat) (s : State) : Host.Outcome State Fault Refusal :=
  .next (
    let x := flask s f
    if x.retry = .restart ∧ (nextRestart s f).isNone then retryDone (advance s (x.restartAt + 10000000)) f else s)

/-- RETRY_COUNT_RESET (R133): 60 s pass in RUN with no assertion. -/
def execRetryCountReset (f : Nat) (s : State) : Host.Outcome State Fault Refusal :=
  .next (
    let x := flask s f
    if x.retry = .run ∧ x.running ∧ !x.held then
      modFlask (advance s (max x.fltAt x.runAt + 60000000000)) f (fun x => { x with retryCount := 0 })
    else s)

end Sys2Proof.Machine
end

