-- ==== Sys2Proof/Machine/Phases.lean ====
section
/-! DEFINITION. The charge phase machine, the temperature windows and the PHASE command (chapter 4). -/

namespace Sys2Proof.Machine

/-! ## Profiles (R172) -/

/-- A field of the profile a channel uses. -/
def prof (s : State) (c ofs lo n : Nat) : Nat := bits (rd s (PROF (getF s (CH_CFG_PROFILE c)) + ofs)) lo n
def pCELLS (s : State) (c : Nat) : Nat := prof s c 0x00 16 8
def pVPRE (s : State) (c : Nat) : Nat := prof s c 0x04 16 16
def pVRECOV (s : State) (c : Nat) : Nat := prof s c 0x04 0 16
def pIPRE (s : State) (c : Nat) : Nat := prof s c 0x08 16 16
def pTPRE (s : State) (c : Nat) : Nat := prof s c 0x08 0 16
def pICC (s : State) (c : Nat) : Nat := prof s c 0x0C 16 16
def pVCV (s : State) (c : Nat) : Nat := prof s c 0x0C 0 16
def pICV_END (s : State) (c : Nat) : Nat := prof s c 0x10 16 16
def pTCV (s : State) (c : Nat) : Nat := prof s c 0x10 0 16
def pITOP (s : State) (c : Nat) : Nat := prof s c 0x14 16 16
def pVTOP (s : State) (c : Nat) : Nat := prof s c 0x14 0 16
def pITAPER (s : State) (c : Nat) : Nat := prof s c 0x18 16 16
def pTTOP (s : State) (c : Nat) : Nat := prof s c 0x18 0 16
def pTREST (s : State) (c : Nat) : Nat := prof s c 0x1C 16 16
def pMAINT (s : State) (c : Nat) : Nat := prof s c 0x1C 0 1
def pIFLOAT (s : State) (c : Nat) : Nat := prof s c 0x20 16 16
def pVFLOAT (s : State) (c : Nat) : Nat := prof s c 0x20 0 16
def pRECHG_Q (s : State) (c : Nat) : Nat := prof s c 0x24 16 16
def pVRECHG (s : State) (c : Nat) : Nat := prof s c 0x24 0 16
def pIPULSE (s : State) (c : Nat) : Nat := prof s c 0x28 16 16
def pNPULSE (s : State) (c : Nat) : Nat := prof s c 0x28 8 8
def pNTRAIN (s : State) (c : Nat) : Nat := prof s c 0x28 0 8
def pTON (s : State) (c : Nat) : Nat := prof s c 0x2C 16 16
def pTOFF (s : State) (c : Nat) : Nat := prof s c 0x2C 0 16
def pTRELAX (s : State) (c : Nat) : Nat := prof s c 0x30 16 16

/-- The words of an image that a profile load carries pass the check of R170. -/
def profileOk (w : List Word) : Bool :=
  let g (ofs lo n : Nat) : Nat := bits (w.getD (ofs / 4) 0) lo n
  g 0x00 24 8 == 1 && decide (1 ≤ g 0x00 16 8) && decide (g 0x00 16 8 ≤ 20) &&
  decide (g 0x04 0 16 < g 0x04 16 16) && decide (g 0x04 16 16 < g 0x0C 0 16) &&
  decide (g 0x14 0 16 ≤ g 0x0C 0 16) && decide (g 0x20 0 16 ≤ g 0x0C 0 16) && decide (g 0x24 0 16 < g 0x14 0 16) &&
  decide (0 < g 0x18 16 16) && decide (g 0x18 16 16 < g 0x14 16 16) && decide (g 0x14 16 16 ≤ g 0x0C 16 16) &&
  decide (g 0x18 16 16 ≤ g 0x10 16 16) && decide (g 0x10 16 16 ≤ g 0x0C 16 16) &&
  decide (0 < g 0x08 16 16) && decide (g 0x08 16 16 ≤ g 0x0C 16 16) && decide (0 < g 0x28 16 16) &&
  decide (60 ≤ g 0x08 0 16) && decide (60 ≤ g 0x18 0 16) && decide (1 ≤ g 0x30 16 16) &&
  decide (1 ≤ g 0x28 8 8) && decide (1 ≤ g 0x28 0 8) && decide (1 ≤ g 0x2C 16 16) &&
  g 0x1C 1 15 == 0 && g 0x30 0 16 == 0 && ((w.drop 13).take 50).all (· == 0) &&
  crc32cWords (w.take 63) == w.getD 63 0

/-! ## What each phase permits (R144, R145, R147) -/

/-- Phase codes of `PHASE`. -/
def phPRECHARGE : Nat := 1
def phCC : Nat := 2
def phCV : Nat := 3
def phTOPOFF : Nat := 4
def phREST : Nat := 5
def phMAINTAIN : Nat := 6
def phRECOVERY : Nat := 7

/-- A recovery pulse is on: its first `TON` milliseconds, while charging is not suspended (R150, R154). -/
def pulseOn (s : State) (c : Nat) : Bool :=
  let p := (chan s c).ph
  !p.relaxing && !p.susp && decide (p.pulseMs < pTON s c) && decide (p.pulse < pNPULSE s c)

/-- The reference a phase sets itself; none where the table entry applies (R144). A phase fault makes it 0 A (R157). -/
def phaseRef (s : State) (c : Nat) : Option Nat :=
  let p := (chan s c).ph
  let z (v : Nat) : Nat := if p.fault = 0 then v else 0
  match p.phase with
  | 1 => some (z (pIPRE s c))
  | 2 => none
  | 3 => none
  | 4 => some (z (pITOP s c))
  | 5 => some 0
  | 6 => none
  | 7 => some (z (if pulseOn s c then pIPULSE s c else 0))
  | _ => some 0

/-- The phase's permitted charging current, 10 mA (R144, R157). -/
def phaseChg (s : State) (c : Nat) : Nat :=
  let p := (chan s c).ph
  if p.fault ≠ 0 then 0
  else match p.phase with
    | 1 => pIPRE s c
    | 2 => pICC s c
    | 3 => pICC s c
    | 4 => pITOP s c
    | 5 => 0
    | 6 => if pMAINT s c = 1 then pIFLOAT s c else 0
    | 7 => if pulseOn s c then pIPULSE s c else 0
    | _ => 0

/-- The phase permits a discharge; REST only a droop setpoint (R144). -/
def phaseDis (s : State) (c : Nat) (droop : Bool) : Bool :=
  match (chan s c).ph.phase with
  | 2 => true
  | 3 => true
  | 4 => true
  | 5 => droop
  | 6 => true
  | _ => false

/-- The phase's voltage target in mV: lowered in the reduced-hot window (R144, R147). -/
def phaseTarget (s : State) (c : Nat) : Nat :=
  let x := chan s c
  let v := match x.ph.phase with
    | 4 => pVTOP s c
    | 6 => if pMAINT s c = 1 then pVFLOAT s c else pVCV s c
    | _ => pVCV s c
  10 * v - (if x.win.cwin = 3 then pCELLS s c * getF s (CH_TRED_HOT_DV c) else 0)

/-! ## Temperature windows (R159-R162) -/

/-- The charge window of a temperature, from the window in force `w` when one is (R159). -/
def chargeWindow (t1 t2 t3 t4 h : Int) (w : Option Nat) (t : Int) : Nat :=
  let b1 := if w = some 0 then t1 + h else t1
  let b2 := if w = some 0 ∨ w = some 1 then t2 + h else t2
  let b3 := if w = some 3 ∨ w = some 4 then t3 - h else t3
  let b4 := if w = some 4 then t4 - h else t4
  if t < b1 then 0 else if t < b2 then 1 else if t ≤ b3 then 2 else if t ≤ b4 then 3 else 4

/-- The discharge window (R161). -/
def disWindow (lo hi h : Int) (w : Option Nat) (t : Int) : Nat :=
  if t < (if w = some 1 then lo + h else lo) then 1
  else if (if w = some 2 then hi - h else hi) < t then 2 else 0

/-- Windows of a channel computed from its temperature; `fresh` ignores the windows in force (R158, R162). -/
def computeWindows (s : State) (c : Nat) (fresh : Bool) : Windows :=
  let x := chan s c
  let h : Int := getF s (CH_TRED_THYS c)
  let keep := x.win.inForce && !fresh
  { cwin := chargeWindow (getI s (CH_TCHG1_T_CB c)) (getI s (CH_TCHG1_T_CR c)) (getI s (CH_TCHG2_T_RH c)) (getI s (CH_TCHG2_T_BH c)) h
      (if keep then some x.win.cwin else none) x.th.temp
    dwin := disWindow (getI s (CH_TDIS_TD_LO c)) (getI s (CH_TDIS_TD_HI c)) h (if keep then some x.win.dwin else none) x.th.temp
    inForce := true }

/-- A channel takes windows; a change is traced (kind 0x21). The first computation, with no window in force before it, counts as a
change only where the codes differ from 0 and 0: R158 does not say whether it is one (DESIGN CHOICE, log 91). -/
def setWindows (s : State) (c : Nat) (w : Windows) : State :=
  let x := chan s c
  let s := setChan s c { x with win := w }
  if x.win.cwin = w.cwin ∧ x.win.dwin = w.dwin then s
  else offer s 0x21 (w.dwin * 65536 + w.cwin * 4096 + c) (BitVec.ofInt 32 x.th.temp)

/-- The windows of a present channel at a loop tick: invalid ones wait for TEMP_VALID_RESTORED (R158, R162). -/
def tickWindows (s : State) (c : Nat) : State :=
  if (chan s c).win.cwin = 5 then s else setWindows s c (computeWindows s c false)

/-- TEMP_INVALID (R162, R188): the second consecutive out-of-range conversion marks the temperature invalid, blocks both
directions and sends one message. -/
def execTempInvalid (c : Nat) (s : State) : Host.Outcome State Fault Refusal :=
  .next (
    let x := chan s c
    if 2 ≤ x.th.oor ∧ !x.th.invalid then
      let s := setChan s c { x with th := { x.th with invalid := true, validSince := none } }
      let s := setWindows s c { cwin := 5, dwin := 3, inForce := true }
      let s := if online s (chRegion c) then setFlag s ⟨MS_T c, 15, 1⟩ true else s
      if x.state = .hold ∨ x.state = .run then
        fault s 0x05 1 (srcChan c 0) (BitVec.ofNat 32 (x.th.rangeMs * 2 ^ 31 + x.th.pin / 1000))
      else s
    else s)

/-- TEMP_VALID_RESTORED (R162): valid again for 1 s, both windows are computed with no boundary shifted. -/
def execTempValidRestored (c : Nat) (s : State) : Host.Outcome State Fault Refusal :=
  .next (
    let x := chan s c
    match (if x.win.cwin = 5 && !x.th.invalid then x.th.validSince else none) with
    | some t =>
      let s := advance s (t + 1000000000)
      setWindows s c (computeWindows s c true)
    | none => s)

/-! ## Transitions -/

/-- A change of phase: its timers and counts start from 0, and the bits of R153 follow. -/
def enterPhase (s : State) (c ph : Nat) : State :=
  let x := chan s c
  let p := x.ph
  let s := setChan s c { x with ph := { p with
    phase := ph, timer := 0, elapsed := 0, susA := 0, susB := 0, susC := 0, pulse := 0, pulseMs := 0, relaxing := false
    full := p.full && ph != phCC && ph != phPRECHARGE && ph != phRECOVERY
    timed := p.timed && ph != phCC
    restCut := p.restCut && ph != phREST
    train := if ph = phCC ∨ ph = phRECOVERY then 0 else p.train
    mark := x.cv.acc, markQ := 0 } }
  tracePhase s c p.phase

/-- Update the phase of a channel. -/
def modPhase (s : State) (c : Nat) (f : Phase → Phase) : State := modChan s c (fun x => { x with ph := f x.ph })

/-- Brick voltage below a threshold in 10 mV (R148). -/
def vbBelow (s : State) (c thr : Nat) : Bool := decide ((chan s c).cv.vb < 10 * thr)

/-- Classification (R151, R152). -/
def classify (s : State) (c : Nat) : State :=
  let s := modPhase s c (fun p => { p with classify := false })
  enterPhase s c (if vbBelow s c (pVRECOV s c) then phRECOVERY else if vbBelow s c (pVPRE s c) then phPRECHARGE else phCC)

/-- A phase fault (R157). -/
def phaseFault (s : State) (c n : Nat) : State :=
  fault (modPhase s c (fun p => { p with fault := n, susp := true })) 0x06 1 (srcChan c 0) (BitVec.ofNat 32 n)

/-! ## Evaluation at a snapshot (R148-R150) -/

/-- 48-bit modular difference of two latched accumulators (R182). -/
def accDiff (n2 n1 : Nat) : Int :=
  let d : Nat := (n2 + 2 ^ 48 - n1) % 2 ^ 48
  if 2 ^ 47 ≤ d then (d : Int) - 2 ^ 48 else d

/-- Charge in coulombs of an accumulator difference under a shunt in 0.01 µΩ. -/
def accCharge (d : Int) (shunt : Nat) : Rat := (d : Rat) / (20 * (shunt : Rat))

/-- Net charge of MAINTAIN since the mark (R155). -/
def netCharge (s : State) (c : Nat) : Rat :=
  let x := chan s c
  x.ph.markQ + accCharge (accDiff x.cv.acc x.ph.mark) (getF s (MC_SHUNT_SHUNT c))

/-- The sustained guards of a phase, first to third, as they stand at this evaluation (R152). -/
def guards (s : State) (c : Nat) : Bool × Bool × Bool :=
  let x := chan s c
  let i := x.cv.im
  match x.ph.phase with
  | 1 => (!vbBelow s c (pVPRE s c), vbBelow s c (pVRECOV s c) && decide (0 ≤ i), false)
  | 2 => (x.vloop && decide (0 < i), vbBelow s c (pVPRE s c - 100) && decide (0 ≤ i), false)
  | 3 => (x.vloop && decide (0 < i) && decide (i ≤ pICV_END s c), decide (i < 0), false)
  | 4 => (x.vloop && !x.shaved && decide (0 ≤ i) && decide (i ≤ pITAPER s c), decide (i < 0), false)
  | 5 => (decide (i < 0), false, false)
  | 6 => (vbBelow s c (pVRECHG s c) && decide (0 ≤ i), decide (netCharge s c ≤ -(360 * (pRECHG_Q s c : Rat))), false)
  | _ => (false, false, false)

/-- Evaluations each guard must hold for. -/
def guardNeed : Nat → Nat × Nat
  | 1 => (10000, 10000)
  | 2 => (1000, 10000)
  | 3 => (10000, 1000)
  | 4 => (10000, 1000)
  | 5 => (1, 1)
  | 6 => (10000, 1)
  | _ => (1, 1)

/-- The running timer of a phase counts although charging is suspended: the rest and relax timers (R150). -/
def timerRuns (p : Phase) (susp : Bool) : Bool :=
  match p.phase with
  | 1 => !susp
  | 3 => !susp
  | 4 => !susp
  | 5 => true
  | 7 => p.relaxing
  | _ => false

/-- Pulse timing of a recovery train (R150, R154): it pauses while charging is suspended, and a pulse cut short by a
suspension is repeated whole, from the evaluation that ends the suspension. -/
def tickPulse (s : State) (c : Nat) (susp : Bool) (p : Phase) : Phase :=
  if p.phase ≠ phRECOVERY ∨ p.relaxing then p
  else if susp then (if p.pulseMs < pTON s c then { p with pulseMs := 0 } else p)
  else if p.susp then p
  else if pTON s c + pTOFF s c ≤ p.pulseMs + 1 then { p with pulseMs := 0, pulse := p.pulse + 1 }
  else { p with pulseMs := p.pulseMs + 1 }

/-- Count one evaluation of a guard. -/
def sus (b : Bool) (n : Nat) : Nat := if b then n + 1 else 0

/-- Take a pending PHASE action whose condition still holds; else refuse it (R163). -/
def phaseActOk (x : Chan) (a : Nat) : Bool :=
  match a with
  | 0 => x.state == .run
  | 1 => x.state == .run
  | 2 => x.state == .run && (x.ph.phase == phCC || x.ph.phase == phCV || x.ph.phase == phTOPOFF || x.ph.phase == phMAINTAIN)
  | _ => x.state == .run && (x.ph.phase == phREST || x.ph.phase == phMAINTAIN) && x.ph.fault == 0

def takeAction (s : State) (c a t : Nat) : State :=
  if phaseActOk (chan s c) a then
    let s := match a with
      | 0 => classify s c
      | 1 =>
        let s := classify (modPhase s c (fun p => { p with fault := 0 })) c
        modPhase s c (fun p => { p with susp := chargingSuspended s c })
      | 2 => enterPhase s c phREST
      | _ => enterPhase s c phCC
    endTag s t stSUCCESS (chPhaseWord s c) 0
  else endTag s t stSTATE (chPhaseWord s c) 0

/-- The phase machine of a channel in RUN evaluates at a snapshot (R148): timers and sustain counts go on, a classification that is
due is made (R151), and then the pending actions are taken in their order, judged by the phase they find (R163; that order is a
DESIGN CHOICE, log 50). The transitions of R152 have rows of their own. -/
def evalPhase (s : State) (c : Nat) : State :=
  let x := chan s c
  if x.state ≠ .run ∨ flaskHeld s (chFlask c) then s
  else
    let susp := chargingSuspended s c
    let g := guards s c
    let s := modPhase s c (fun p =>
      let q := tickPulse s c susp p
      { q with susp
               timer := if timerRuns p susp then p.timer + 1 else p.timer
               elapsed := p.elapsed + 1
               susA := sus g.1 p.susA, susB := sus g.2.1 p.susB, susC := sus g.2.2 p.susC })
    let s := if (chan s c).ph.classify then classify s c else s
    forEach (chan s c).ph.actions (fun (a : Nat × Nat) s => takeAction s c a.1 a.2) (modPhase s c (fun p => { p with actions := [] }))

/-! ## Terminations (R156, R223, R228) -/

/-- A channel event record, when its bit of `EV_EN` is 1 (R229, R436). -/
def chanEvent (s : State) (c ev : Nat) (timed : Bool) : State :=
  if bitF s (EP_CFG_EV_EN c) ev then
    stage s s.hi.routeChan { rtype := 0x11, hdr := ev * 8192 + (if timed then 4096 else 0) + c, time := stamp s,
                             content := [rd s (ES_SOC c), rd s (MS_IV c)] }
  else s

/-- A taper termination is a full point: learning is ARMED and marks the charge (R223, R224). -/
def fullPoint (s : State) (c : Nat) : State :=
  modEst s c (fun e => { e with
    armed := true, left := none, pos := 0, secQ := none, modelNew := false, prof := getF s (CH_CFG_PROFILE c)
    mark := e.q + e.qPrev + accCharge (accDiff (chan s c).cv.acc e.acc) (getF s (MC_SHUNT_SHUNT c)) })

/-! ## The rows -/

/-- Take the transition of the first guard of the phase that has been sustained (R152). -/
def sustainMet (s : State) (c : Nat) : State :=
  let p := (chan s c).ph
  let need := guardNeed p.phase
  let a := decide (need.1 ≤ p.susA)
  let b := decide (need.2 ≤ p.susB)
  match p.phase with
  | 1 => if a then enterPhase s c phCC else if b then enterPhase s c phRECOVERY else s
  | 2 => if a then enterPhase s c phCV else if b then enterPhase s c phPRECHARGE else s
  | 3 => if a then enterPhase s c phTOPOFF else if b then enterPhase s c phCC else s
  | 4 =>
    if a then chanEvent (fullPoint (modPhase (enterPhase s c phREST) c (fun p => { p with full := true, timed := false })) c) c 4 false
    else if b then enterPhase s c phCC else s
  | 5 => if a then modPhase (enterPhase s c phMAINTAIN) c (fun p => { p with restCut := true }) else s
  | 6 => if a || b then enterPhase s c phCC else s
  | _ => s

/-- The phase machine of a channel is not suspended (R149). -/
def phaseLive (s : State) (c : Nat) : Bool := (chan s c).state == .run && !flaskHeld s (chFlask c) && s.pw.transport == .run

/-- PHASE_SUSTAIN_MET (R152). -/
def execPhaseSustainMet (c : Nat) (s : State) : Host.Outcome State Fault Refusal :=
  .next (if phaseLive s c && (chan s c).ph.fault == 0 then sustainMet s c else s)

/-- PULSE_TRAIN_DONE (R152): `NPULSE` pulses of the train have completed, and relaxation begins. -/
def execPulseTrainDone (c : Nat) (s : State) : Host.Outcome State Fault Refusal :=
  .next (
    let p := (chan s c).ph
    if phaseLive s c && p.phase == phRECOVERY && p.fault == 0 && !p.relaxing && decide (pNPULSE s c ≤ p.pulse) then
      modPhase s c (fun p => { p with relaxing := true, timer := 0, pulse := 0, pulseMs := 0 })
    else s)

/-- A timer has reached a limit in seconds. -/
def timerAt (s : State) (c limit : Nat) : Bool := decide (1000 * limit ≤ (chan s c).ph.timer)

/-- RELAX_TIMER_EXPIRE (R152). `TRAIN` + 1 above `NTRAIN`, which a replaced profile can bring about and the table has no row for, is
exhausted recovery like `TRAIN` + 1 = `NTRAIN` (DESIGN CHOICE, log 92). -/
def execRelaxTimerExpire (c : Nat) (s : State) : Host.Outcome State Fault Refusal :=
  .next (
    let p := (chan s c).ph
    if phaseLive s c && p.phase == phRECOVERY && p.relaxing && p.fault == 0 && timerAt s c (pTRELAX s c) then
      if !vbBelow s c (pVRECOV s c) then enterPhase s c phPRECHARGE
      else
        let s := modPhase s c (fun p => { p with train := p.train + 1 })
        if p.train + 1 < pNTRAIN s c then modPhase s c (fun p => { p with relaxing := false, timer := 0 })
        else phaseFault s c 2
    else s)

/-- PRECHARGE_TIMEOUT (R152). -/
def execPrechargeTimeout (c : Nat) (s : State) : Host.Outcome State Fault Refusal :=
  .next (
    let p := (chan s c).ph
    if phaseLive s c && p.phase == phPRECHARGE && p.fault == 0 && timerAt s c (pTPRE s c) then phaseFault s c 1 else s)

/-- CV_TIMEOUT (R152): `TCV` ≠ 0. -/
def execCvTimeout (c : Nat) (s : State) : Host.Outcome State Fault Refusal :=
  .next (
    let p := (chan s c).ph
    if phaseLive s c && p.phase == phCV && p.fault == 0 && pTCV s c != 0 && timerAt s c (pTCV s c) then enterPhase s c phTOPOFF else s)

/-- TOPOFF_TIMEOUT (R152, R156): a timed termination. -/
def execTopoffTimeout (c : Nat) (s : State) : Host.Outcome State Fault Refusal :=
  .next (
    let p := (chan s c).ph
    if phaseLive s c && p.phase == phTOPOFF && p.fault == 0 && timerAt s c (pTTOP s c) then
      chanEvent (modPhase (enterPhase s c phREST) c (fun p => { p with timed := true })) c 4 true
    else s)

/-- REST_TIMER_EXPIRE (R152). -/
def execRestTimerExpire (c : Nat) (s : State) : Host.Outcome State Fault Refusal :=
  .next (
    let p := (chan s c).ph
    if phaseLive s c && p.phase == phREST && p.fault == 0 && timerAt s c (pTREST s c) then enterPhase s c phMAINTAIN else s)

/-- PHASE (R163): accepted when its condition holds, the action is taken at the next evaluation; refused where no
evaluation will take place. -/
def execPhase (t : Nat) (s : State) : Host.Outcome State Fault Refusal :=
  .next (applyCmd s t 0x16 (fun x s =>
    let c := selFirst (x.word 1)
    let a := bits (x.param 0) 0 2
    if phaseActOk (chan s c) a && !flaskHeld s (chFlask c) then
      modPhase (runTag s t) c (fun p => { p with actions := p.actions ++ [(a, t)] })
    else endTag s t stSTATE (chPhaseWord s c) 0))

end Sys2Proof.Machine
end

