-- ==== Sys2Proof/Machine/PowerPath.lean ====
section
/-! DEFINITION. The power path (chapter 2): sprues, arming, fallback, planned transfers, the droop response, the
input-current search and power-path safe state. Transport mode and supplies stand in Startup.lean. -/

namespace Sys2Proof.Machine

/-! ## Lists and gates (R56-R63) -/

/-- The priority list: it ends at the first empty entry (R60, `PP_PRIORITY`). -/
def priorityList (s : State) : List Nat :=
  ([PP_PRIORITY_P0, PP_PRIORITY_P1, PP_PRIORITY_P2, PP_PRIORITY_P3].map (getF s)).takeWhile (fun v => decide (v ≤ 3))

/-- The mode in force of a sprue: 3 is treated as 2 (R58). -/
def spMode (s : State) (n : Nat) : Nat := let m := getF s (SP_CFG_MODE n); if m = 3 then 2 else m

/-- The active sprue, if any. -/
def activeSprue (s : State) : Option Nat := let a := getF s PP_STATUS_ACTIVE; if a ≤ 3 then some a else none

def armed (s : State) : Bool := flag s PP_STATUS_ARMED
def ppSafe (s : State) : Bool := flag s PP_STATUS_SAFE
def droopOn (s : State) : Bool := flag s PP_STATUS_DROOP
/-- The module runs from `BOOT` (R97). -/
def onBoot (s : State) : Bool := s.pw.supply == .boot

/-- The level a sprue's gate is to have (R57, R58, R61, R63, R97, R98, R103). -/
def gateLevel (s : State) (n : Nat) : Gate :=
  if s.pw.transport = .transport ∨ s.pw.transport = .wake ∨ s.pw.transport = .shutdown then .low
  else if !on s dPPATH || s.pw.supply == .none then .hiz
  else if onBoot s then .hiz
  else if spMode s n = 2 then .low
  else if spMode s n = 1 || ppSafe s || !armed s then .hiz
  else if activeSprue s = some n then .high
  else if (activeSprue s).isSome || s.pp.dead.isSome then .low
  else if !(priorityList s).contains n then .low
  else if flag s (SP_STATUS_LOCKOUT n) then .low else .hiz

/-- A gate takes its level: a low period begins or ends, and with it the tracking of VNL (R83). -/
def setGate (s : State) (n : Nat) : State :=
  let x := sprue s n
  let g := gateLevel s n
  let s := setBitF s PP_STATUS_GATE_HIZ n (g == .hiz)
  if g = x.gate then s
  else setSprue s n { x with
    gate := g
    lowSince := if g = .low then some s.now else none
    trackedEnd := if x.gate = .low ∧ x.tracked then some s.now else x.trackedEnd
    tracked := false }

def updGates (s : State) : State := forEach (List.range 4) (fun n s => setGate s n) s

/-! ## Search quantities (R83) -/

def spStep (s : State) (n : Nat) : Nat := getF s (SP_SEARCH_IMAX n) / 100
def spStart (s : State) (n : Nat) : Nat := getF s (SP_SEARCH_IMAX n) * getF s (SP_SEARCH_START_PCT n) / 100
def spVtrip (s : State) (n vnl : Nat) : Nat := vnl * (1000 - getF s (SP_SEARCH_DROOP_PCT n)) / 1000

/-- The limit a sprue takes on activation with its search on: the held limit if valid, else START (R86). -/
def spResume (s : State) (n : Nat) : Nat := if flag s (SP_LIMIT_HELD_VALID n) then (sprue s n).held else spStart s n

/-- A VNL tracked under R83 whose tracking ended at most 10 s ago, counting one that ends now. -/
def vnlFresh (s : State) (n : Nat) : Bool :=
  let x := sprue s n
  x.tracked || (match x.trackedEnd with | some t => decide (s.now ≤ t + 10000000000) | none => false)

/-- The capability a sprue will present on activation (R71). -/
def capOnActivation (s : State) (n : Nat) : Nat :=
  if !flag s (SP_CFG_SEARCH_EN n) then getF s (SP_SEARCH_IMAX n)
  else if !vnlFresh s n then 0 else spResume s n

/-- Capability delivered to the comparators (R71, R82): the active sprue's limit, 0 while presented as 0. -/
def setCapability (s : State) (v : Nat) : State := { s with pp := { s.pp with capability := v } }
def updCapability (s : State) : State :=
  match activeSprue s with
  | some n => setCapability s (if (sprue s n).presentZero then 0 else getF s (SP_LIMIT_LIMIT n))
  | none => match s.pp.dead with | some _ => s | none => setCapability s 0

/-- Enter REFERENCE: the 10 ms reference starts and charging capability is presented as 0 (R86). -/
def enterReference (s : State) (n : Nat) : State :=
  let s := setF s (SP_LIMIT_SSTATE n) 1
  updCapability (setSprue s n { sprue s n with refEnd := s.now + 10000000, presentZero := true, prev := none, belowPrev := false })

/-- Enter RAMP: the grid of evaluations starts now (R84). -/
def enterRamp (s : State) (n : Nat) : State :=
  let s := setF s (SP_LIMIT_SSTATE n) 2
  updCapability (setSprue s n { sprue s n with
    evalNext := s.now + 2000000, presentZero := false, prev := none, belowPrev := false
    vtrip := spVtrip s n (getF s (SP_VNL_VNL n)) })

/-- A sprue becomes active (R86, R85): a source change. -/
def activate (s : State) (n : Nat) : State :=
  let fresh := vnlFresh s n
  let s := setF s PP_STATUS_ACTIVE n
  let s := setFlag s (SP_STATUS_ACTIVE n) true
  let s :=
    if !flag s (SP_CFG_SEARCH_EN n) then
      let s := setF (setF s (SP_LIMIT_LIMIT n) (getF s (SP_SEARCH_IMAX n))) (SP_LIMIT_SSTATE n) 5
      updCapability (setSprue s n { sprue s n with presentZero := false, prev := none })
    else
      let s := setF s (SP_LIMIT_LIMIT n) (spResume s n)
      if fresh then enterRamp s n else enterReference s n
  updGates (raisePP s ppSOURCE_CHG)

/-- The active sprue stops being active: its limit is held and its search goes to OFF (R86, R88). -/
def deactivate (s : State) : State :=
  match activeSprue s with
  | none => s
  | some n =>
    let s := setSprue s n { sprue s n with held := getF s (SP_LIMIT_LIMIT n), presentZero := false, prev := none }
    let s := setFlag s (SP_LIMIT_HELD_VALID n) true
    let s := setF s (SP_LIMIT_SSTATE n) 0
    let s := setFlag s (SP_STATUS_ACTIVE n) false
    setF s PP_STATUS_ACTIVE 7

/-- The first priority-managed sprue in list order that is ready and not in lockout (R62, R70). -/
def chooseSprue (s : State) : Option Nat :=
  (priorityList s).find? (fun n => spMode s n == 0 && flag s (SP_STATUS_READY n) && !flag s (SP_STATUS_LOCKOUT n))

/-- The block switches sprues: armed, from `AUX12`, not in safe state. -/
def switching (s : State) : Bool := on s dPPATH && armed s && !onBoot s && !ppSafe s

/-- R62, R63: with no sprue active and none due, the first ready listed sprue becomes active. -/
def chooseActive (s : State) : State :=
  if switching s && (activeSprue s).isNone && s.pp.dead.isNone then
    match chooseSprue s with
    | some n => activate s n
    | none => updGates (updCapability s)
  else updGates s

/-! ## Droop response (R72-R76, R92) -/

/-- The partner's budget limits an importing leg: mode 3 is entered and the budget is at most 3 s old (R363). -/
def budgetLimit (s : State) (n v : Nat) : Nat :=
  match (tl s n).budgetAt with
  | some t =>
    if getF s (PP_TLSTAT_DIR n) = 1 ∧ bitF s (TL_CSTATE_MODES n) 2 ∧ s.now ≤ t + 3000000000 then min v (getF s (TL_FLEET_P_EXP_I n))
    else v
  | none => v

/-- A leg may carry DC: its converter is fitted and rated, and the block is not in safe state (R89, R98). -/
def legFitted (s : State) (n : Nat) : Bool := flag s (PP_TLCFG_PRESENT n) && getF s (PP_TLCFG_IHW n) != 0 && !ppSafe s

/-- Current limit in force of a tie-link leg (R89-R92, R341, R363). -/
def legLimit (s : State) (n : Nat) : Nat :=
  if getF s (PP_TLSTAT_DIR n) = 0 ∨ flag s (PP_TLSTAT_SHED n) ∨ (tl s n).noDC ∨ !legFitted s n then 0
  else budgetLimit s n (min (getF s (TL_CONTRACT_CI n)) (getF s (PP_TLCFG_IHW n)))

/-- Refresh a leg's `ILIM`. -/
def updLeg (s : State) (n : Nat) : State := setF s (PP_TLSTAT_ILIM n) (legLimit s n)

/-- Shed or restore the exporting legs (R92). -/
def shedExport (s : State) (shed : Bool) : State :=
  forEach (List.range 8) (fun n s =>
    if getF s (PP_TLSTAT_DIR n) = 2 || !shed then updLeg (setFlag s (PP_TLSTAT_SHED n) shed) n else s) s

/-- Calibration runs from FILL to PAUSE return to QUEUED when the droop response engages (R287). -/
def suspendCalRuns (s : State) : State :=
  if s.lad.cal.any (fun e => decide (2 ≤ e.2.state)) then
    let s := { s with lad := { s.lad with cal := s.lad.cal.map (fun e => if 2 ≤ e.2.state then (e.1, { e.2 with state := 1 }) else e) } }
    raise (setF s LD_CAL_CAL_ACTIVE 0) LD_EVENT 0x100
  else s

/-- An event of R72 engages the droop response, or restarts its end condition (R76): tones stop (R137), export is shed
(R92) and calibration runs return to QUEUED (R287). -/
def engageDroop (s : State) : State :=
  let was := droopOn s
  let s := { s with pp := { s.pp with droopAt := s.now } }
  if was then s
  else
    let s := setFlag s PP_STATUS_DROOP true
    let s := offer s 0x13 1 (BitVec.ofNat 32 s.pp.cbusMs)
    let s := { s with flasks := s.flasks.map (fun e => (e.1, { e.2 with
      stopTones := e.2.stopTones || !e.2.pairs.isEmpty, paused := e.2.paused || !e.2.pairs.isEmpty })) }
    let s := if flag s PP_CTRL_EXPORT_SHED then shedExport s true else s
    suspendCalRuns s

/-- The droop response ends (R76): export is restored and a droop test completes with its results (R415). The lowest millisecond voltage is
that of the milliseconds that end within the response; a response that sees none end takes the latest (DESIGN CHOICE, log 97). -/
def endDroop (s : State) : State :=
  if droopOn s then
    let s := setFlag s PP_STATUS_DROOP false
    let s := offer s 0x13 0 (BitVec.ofNat 32 s.pp.cbusMs)
    let s := shedExport s false
    match s.pp.droopTest with
    | some (t, sum, low) =>
      endTag { s with pp := { s.pp with droopTest := none } } t stSUCCESS (BitVec.ofNat 32 sum) (BitVec.ofNat 32 (low.getD s.pp.cbusMs))
    | none => s
  else s

/-! ## Arming (R60, R62) -/

/-- The first failing check of an arm request, 0 when all pass (`ARM_ERR`). -/
def armCheck (s : State) : Nat :=
  let l := priorityList s
  if ppSafe s then 7
  else if l.isEmpty then 1
  else if !l.Nodup then 2
  else if l.any (fun n => decide (getF s (SP_VTH_QUAL_MIN n) ≤ getF s (SP_VTH_COLLAPSE n))) then 3
  else if l.any (fun n => decide (getF s (SP_VTH2_QUAL_MAX n) ≤ getF s (SP_VTH_QUAL_MIN n))) then 4
  else if getF s PP_DROOP_V_ZERO ≤ getF s PP_DROOP_V_FULL then 5
  else if l.any (fun n => spMode s n != 0) then 6
  else 0

/-- Disarm: the active sprue stops being active, a dead time in progress is dropped, gates return (R60). -/
def disarm (s : State) : State :=
  let s := setFlag (deactivate s) PP_STATUS_ARMED false
  updGates (updCapability { s with pp := { s.pp with dead := none } })

/-- Sprues may be switched (R487): step 8 of start-up has been taken, or is being taken again by supervisors that restart. -/
def mayArm (s : State) : Bool := s.pw.done.testBit 8 || s.fw.restarting

/-- PP_ARM (R60): the configuration is checked; a passing check arms an unarmed block, a failing one disarms. Before step 8 the write has
no effect (R487; DESIGN CHOICE, log 99: no error is stated for it). -/
def ppArm (s : State) : State :=
  if on s dPPATH && mayArm s then
    let e := armCheck s
    if e = 0 then
      let s := setF s PP_STATUS_ARM_ERR 0
      if armed s then s else chooseActive (setFlag s PP_STATUS_ARMED true)
    else setF (if armed s then disarm s else s) PP_STATUS_ARM_ERR e
  else s

def execPpArm (s : State) : Host.Outcome State Fault Refusal := .next (ppArm s)

/-- PP_DISARM (R60). -/
def ppDisarm (s : State) : State := if on s dPPATH && armed s then disarm s else s
def execPpDisarm (s : State) : Host.Outcome State Fault Refusal := .next (ppDisarm s)

/-! ## Transfers and fallback (R64-R71) -/

/-- The active sprue's gate goes low and a dead time of 1 µs runs. -/
def startDead (s : State) (kind : DeadKind) (from_ : Nat) (chosen : Option Nat) : State :=
  let s := deactivate s
  { s with pp := { s.pp with dead := some { kind, chosen, from_, deadline := s.now + 1000 } } }

/-- A planned return or transfer from `a` to `n` (R65, R66). -/
def plannedTransfer (s : State) (a n : Nat) : State :=
  let s := startDead s .planned a (some n)
  let s := incSat s PP_SWCOUNT_RETURNS
  updGates (raisePP (setCapability s 0) ppRETURN)

/-- A fallback from the active sprue `n` with its cause: lockout, dead time, capability, count, event, message and
droop response (R64, R70, R71, R72). Its qualification time is counted from the end of the fault. -/
def fallback (s : State) (n cause : Nat) : State :=
  let s := setFlag (startDead s .fallback n none) (SP_STATUS_LOCKOUT n) true
  let s := setSprue s n { sprue s n with inSince := none }
  let c := chooseSprue s
  let s := { s with pp := { s.pp with dead := s.pp.dead.map (fun d => { d with chosen := c }) } }
  let s := setCapability s (match c with | some m => capOnActivation s m | none => 0)
  let s := incSat (updGates s) PP_SWCOUNT_FALLBACKS
  let s := raisePP s (ppFALLBACK + (if c.isNone then ppNO_SOURCE else 0))
  let s := fault s 0x30 (if c.isNone then 2 else 1) (srcBlock (0x020 + n))
    (BitVec.ofNat 32 (n + (match c with | some m => m | none => 15) * 16 + cause * 256))
  engageDroop s

/-- The active sprue when it is `n` and the block switches sprues. -/
def isActive (s : State) (n : Nat) : Bool := switching s && activeSprue s == some n

/-- The sprue's voltage lies in its ready window (R59). -/
def inWindow (s : State) (n v : Nat) : Bool :=
  decide (getF s (SP_VTH_QUAL_MIN n) ≤ v) && decide (v ≤ getF s (SP_VTH2_QUAL_MAX n))

/-- The time since which a condition has held, brought up to date: it begins now, goes on, or ends. -/
def since (now : Nat) (c : Bool) (t : Option Nat) : Option Nat := if c then some (t.getD now) else none

/-- The fault that put a sprue into lockout lasts: its voltage is below `COLLAPSE`, or a reverse current flows (R64). -/
def faultLasts (s : State) (n v : Nat) : Bool :=
  flag s (SP_STATUS_LOCKOUT n) && (flag s (SP_STATUS_REVERSE n) || decide (v < getF s (SP_VTH_COLLAPSE n)))

/-- Store a sprue's latest voltage, 10 mV: the times in the ready window and above `QUAL_MAX` run or end with it (R59, R69), the
first, in lockout, not while the fault lasts (R64). -/
def setVs (s : State) (n v : Nat) : State :=
  let x := sprue s n
  let s := setSprue s n { x with
    vs := v
    inSince := since s.now (inWindow s n v && !faultLasts s n v) x.inSince
    ovSince := since s.now (decide (getF s (SP_VTH2_QUAL_MAX n) < v)) x.ovSince }
  setFlag s (SP_STATUS_BELOW_COLLAPSE n) (decide (v < getF s (SP_VTH_COLLAPSE n)))

/-- SPRUE_COLLAPSE (R67): the active sprue's voltage `v` (10 mV) falls through `COLLAPSE`. -/
def execSprueCollapse (n v : Nat) (s : State) : Host.Outcome State Fault Refusal :=
  .next (if isActive s n && decide (v < getF s (SP_VTH_COLLAPSE n)) then fallback (setVs s n v) n 0 else s)

/-- SPRUE_REVERSE (R68): the active sprue's shunt voltage `uv` (10 µV) falls below −`REV_TH`. -/
def execSprueReverse (n : Nat) (uv : Int) (s : State) : Host.Outcome State Fault Refusal :=
  .next (
    if isActive s n && decide (uv < -(getF s (SP_VTH2_REV_TH n) : Int)) then
      fallback (setFlag s (SP_STATUS_REVERSE n) true) n 1
    else s)

/-- SPRUE_OVERVOLTAGE (R69): the active sprue has been above `QUAL_MAX` for 100 µs without interruption, now at `v`; a first
sample above it only starts the time. -/
def execSprueOvervoltage (n v : Nat) (s : State) : Host.Outcome State Fault Refusal :=
  .next (
    if isActive s n && decide (getF s (SP_VTH2_QUAL_MAX n) < v) then
      match (sprue s n).ovSince with
      | some t => let s := advance s (t + 100000); fallback (setVs s n v) n 2
      | none => setVs s n v
    else s)

/-- DEAD_TIME_END (R70): the first sprue that qualifies now becomes active; with none, R63 applies. -/
def execDeadTimeEnd (s : State) : Host.Outcome State Fault Refusal :=
  .next (
    match s.pp.dead with
    | some d =>
      let s := advance { s with pp := { s.pp with dead := none } } d.deadline
      chooseActive s
    | none => s)

/-- Set or clear a sprue's ready bits. -/
def setReady (s : State) (n : Nat) (b : Bool) : State := setBitF (setFlag s (SP_STATUS_READY n) b) PP_STATUS_READY n b

/-- Qualification time of a sprue, ns (`QUAL`, 10 ms). -/
def qualNs (s : State) (n : Nat) : Nat := 10000000 * getF s (SP_CFG_QUAL n)

/-- The sprue becomes ready: a lockout ends, and it may become active (R59, R63, R64). -/
def becomeReady (s : State) (n : Nat) : State :=
  let s := setFlag (setReady s n true) (SP_STATUS_LOCKOUT n) false
  chooseActive (setSprue s n { sprue s n with readySince := s.now })

/-- SPRUE_READY (R59, R63, R64): the voltage, now `v`, has stayed in its window for `QUAL`, counted after a fallback from the end
of the fault; a first sample in the window only starts the time. -/
def execSprueReady (n v : Nat) (s : State) : Host.Outcome State Fault Refusal :=
  .next (
    if on s dPPATH && decide (n < 4) && inWindow s n v && (!flag s (SP_STATUS_READY n) || flag s (SP_STATUS_LOCKOUT n)) then
      match (sprue s n).inSince with
      | some t => let s := advance s (t + qualNs s n); becomeReady (setVs s n v) n
      | none => setVs s n v
    else s)

/-- A sample outside the window ends a sprue's being ready (R59). -/
def sampleVs (s : State) (n v : Nat) : State :=
  let s := setVs s n v
  if flag s (SP_STATUS_READY n) && !inWindow s n v then updGates (setReady s n false) else s

/-- SPRUE_NOT_READY (R59): the voltage leaves its window. -/
def execSprueNotReady (n v : Nat) (s : State) : Host.Outcome State Fault Refusal :=
  .next (
    if on s dPPATH && decide (n < 4) && !inWindow s n v then sampleVs s n v else s)

/-- Sprue `n` stands earlier in the list than `a`. -/
def listedBefore (s : State) (n a : Nat) : Bool := ((priorityList s).takeWhile (· != a)).contains n && (priorityList s).contains a

/-- PLANNED_RETURN (R65): an earlier-listed sprue has been ready without a break for `RETURN_DLY` seconds. -/
def execPlannedReturn (n : Nat) (s : State) : Host.Outcome State Fault Refusal :=
  .next (
    match activeSprue s with
    | some a =>
      let d := getF s PP_PRIORITY_RETURN_DLY
      if switching s && d != 0 && listedBefore s n a && spMode s n == 0 && flag s (SP_STATUS_READY n) &&
         !flag s (SP_STATUS_LOCKOUT n) then
        plannedTransfer (advance s ((sprue s n).readySince + 1000000000 * d)) a n
      else s
    | none => s)

/-! ## Configuration writes (R66, R109, R419) -/

/-- The effect on the search of a change of `SEARCH_EN` on the active sprue (R86, R98). -/
def searchEnChange (old s : State) (n : Nat) : State :=
  let a := flag old (SP_CFG_SEARCH_EN n)
  let b := flag s (SP_CFG_SEARCH_EN n)
  if a = b ∨ activeSprue s ≠ some n ∨ ppSafe s then s
  else if b then enterReference (raisePP s ppSOURCE_CHG) n
  else
    let s := setF (setF s (SP_LIMIT_LIMIT n) (getF s (SP_SEARCH_IMAX n))) (SP_LIMIT_SSTATE n) 5
    updCapability (setSprue s n { sprue s n with presentZero := false, prev := none })

/-- What follows from writes to the power path's configuration made at one instant: R109's disarm, R66's transfer. -/
def ppSettle (old s : State) : State :=
  let s := forEach (List.range 4) (fun n s => searchEnChange old s n) s
  if armed s && (priorityList s).any (fun n => spMode old n == 0 && spMode s n != 0) then
    setF (disarm s) PP_STATUS_ARM_ERR 6
  else if switching s then
    match activeSprue s with
    | some a =>
      if (priorityList s).contains a then updGates s
      else match chooseSprue s with
        | some n => plannedTransfer s a n
        | none => chooseActive (deactivate s)
    | none => chooseActive s
  else updGates s

/-- Write the bits of `m` of a word. -/
def wrMask (s : State) (a : Nat) (m v : Word) : State := wr s a ((rd s a &&& ~~~m) ||| (v &&& m))

/-- PP_PRIORITY_WRITE (R66). -/
def ppPriorityWrite (s : State) (v : Word) : State :=
  if on s dPPATH then ppSettle s (wrMask s PP_PRIORITY 0x00FFFFFF v) else s
def execPpPriorityWrite (v : Word) (s : State) : Host.Outcome State Fault Refusal := .next (noteCfg s (ppPriorityWrite s v))

/-- The RWL fields of a sprue's four configuration words. -/
def spMask (j : Nat) : Word := if j = 0 then 0x00FF0133 else 0xFFFFFFFF

/-- SP_CONFIG_WRITE (R109): word `j` (0 to 3) of sprue `n`'s group; locked by `SP_LOCK`. -/
def spConfigWrite (s : State) (n j : Nat) (v : Word) : State :=
  if on s dPPATH && decide (n < 4) && decide (j < 4) && !flag s SP_LOCK_LOCK then
    ppSettle s (wrMask s (SP_CFG n + 4 * j) (spMask j) v)
  else s
def execSpConfigWrite (n j : Nat) (v : Word) (s : State) : Host.Outcome State Fault Refusal := .next (noteCfg s (spConfigWrite s n j v))

/-- A PP_SET would write locked words (R418). -/
def ppSetLocked (s : State) (x : Tag) : Bool := bits (x.param 1) 0 4 != 0 && flag s SP_LOCK_LOCK

/-- The writes of a PP_SET, at one sample (R419). -/
def ppSet (s : State) (x : Tag) : State :=
  let mask := bits (x.param 1) 0 4
  let w := bytesWords x.src
  let old := s
  let s := forEach (List.range 16) (fun i s =>
    if mask.testBit (i / 4) then wrMask s (SP_CFG (i / 4) + 4 * (i % 4)) (spMask (i % 4)) (w.getD i 0) else s) s
  let s := if (x.param 1).getLsbD 8 then wrMask s PP_PRIORITY 0x00FFFFFF (x.param 0) else s
  noteCfg old (ppSettle old s)

/-- PP_SET (R419): the masked sprues' words and `PP_PRIORITY`; refused while `SP_LOCK` locks them. -/
def execPpSet (t : Nat) (s : State) : Host.Outcome State Fault Refusal :=
  .next (applyCmd s t 0x30 (fun x s =>
    if ppSetLocked s x then endSt s t stLOCKED
    else
      let s := ppSet s x
      endTag s t stSUCCESS (rd s PP_STATUS) 0))

/-! ## CBUS events (R72, R78) -/

/-- Store the latest `CBUS_VS`, 10 mV; the time below `OV` − 1.00 V runs or ends with it (R78). -/
def setCbus (s : State) (v : Nat) : State :=
  { s with pp := { s.pp with cbusV := v, ovBelow := since s.now (decide (v + 100 < getF s PP_CBUS_OV)) s.pp.ovBelow } }

/-- CBUS_UNDERVOLTAGE (R72): `CBUS_VS`, now `v`, falls through `UV`. -/
def execCbusUndervoltage (v : Nat) (s : State) : Host.Outcome State Fault Refusal :=
  .next (
    if on s dPPATH && decide (v < getF s PP_CBUS_UV) then engageDroop (raisePP (setCbus s v) ppCBUS_UV) else s)

/-- CBUS_OVERVOLTAGE (R78): CBUS rises through `OV`; discharge is clamped and the droop scale is 0. -/
def execCbusOvervoltage (v : Nat) (s : State) : Host.Outcome State Fault Refusal :=
  .next (
    if on s dPPATH && decide (getF s PP_CBUS_OV < v) && !flag s PP_STATUS_OV_CLAMP then
      let s := setFlag (setCbus s v) PP_STATUS_OV_CLAMP true
      raisePP { s with pp := { s.pp with scale := 0, scaleNext := 0 } } ppCBUS_OV
    else s)

/-- CBUS_OV_RELEASE (R78): CBUS, now `v`, has been below `OV` − 1.00 V for 1 ms; a first value below it only starts the time. -/
def execCbusOvRelease (v : Nat) (s : State) : Host.Outcome State Fault Refusal :=
  .next (
    if flag s PP_STATUS_OV_CLAMP && decide (v + 100 < getF s PP_CBUS_OV) then
      match s.pp.ovBelow with
      | some t => let s := advance s (t + 1000000); setFlag (setCbus s v) PP_STATUS_OV_CLAMP false
      | none => setCbus s v
    else s)

/-- The droop scale of a CBUS voltage in 1/256 (R74, R78). -/
def droopScale (s : State) (v : Nat) : Nat :=
  let z := getF s PP_DROOP_V_ZERO
  let f := getF s PP_DROOP_V_FULL
  if flag s PP_STATUS_OV_CLAMP || decide (getF s PP_CBUS_OV < v) then 0
  else if v ≤ f then 256 else if z ≤ v then 0 else 256 * (z - v) / (z - f)

/-- The entry in force of a channel: setpoint (10 mA, signed) and riser allocation (10 mA) of its flask's table. -/
def entry (s : State) (c : Nat) : Word := (flask s (chFlask c)).tab.getD (c % 16) 0
def setpt (s : State) (c : Nat) : Int := sext 16 (bits (entry s c) 16 16)
def riser (s : State) (c : Nat) : Nat := bits (entry s c) 0 16

/-- DROOP_TEST (R72, R415, R422): engages the droop response for proof testing. -/
def execDroopTest (t : Nat) (s : State) : Host.Outcome State Fault Refusal :=
  .next (applyCmd s t 0x31 (fun _ s =>
    if !armed s || droopOn s then endSt s t stSTATE
    else
      let sum := ((s.chans.filter (fun e => e.2.state == .run && !flaskHeld s (chFlask e.1))).map (fun e => riser s e.1)).sum
      let s := runTag s t
      engageDroop { s with pp := { s.pp with droopTest := some (t, sum, none) } }))

/-! ## Input-current search (R83-R88) -/

/-- Mean of a sprue's voltage, 10 mV, and of its current, 10 mA, over the interval for which the pin voltage averages `pin` µV and the
shunt voltage `sh` nV: corrected as every leg's is (R198). -/
def meanVs (s : State) (n pin : Nat) : Nat := tickVoltage (leg s n) (legCalVals s n) pin
def meanIs (s : State) (n : Nat) (sh : Int) : Int := tickCurrent (leg s n) (legCalVals s n) [(sh, 1)]

/-- VNL_TRACKED (R83): the gate has been low for a whole 10 ms; `pin` is the mean pin voltage over it, µV. -/
def execVnlTracked (n pin : Nat) (s : State) : Host.Outcome State Fault Refusal :=
  .next (
    match (if on s dPPATH then (sprue s n).lowSince else none) with
    | some t =>
      let s := advance s (t + 10000000)
      setF (setSprue s n { sprue s n with tracked := true }) (SP_VNL_VNL n) (meanVs s n pin)
    | none => s)

/-- Back off three steps, start the hold timer, set `KNEE`, go to HOLD (R86). -/
def backOff (s : State) (n : Nat) : State :=
  let s := setF s (SP_LIMIT_LIMIT n) (getF s (SP_LIMIT_LIMIT n) - 3 * spStep s n)
  let s := setSprue s n { sprue s n with holdEnd := s.now + 60000000000 }
  updCapability (raisePP (setF s (SP_LIMIT_SSTATE n) 4) ppKNEE)

/-- One evaluation of the search in RAMP, PAUSED or HOLD (R86). -/
def evaluate (s : State) (n v : Nat) (i : Int) (belowPrev : Bool) : State :=
  let lim := getF s (SP_LIMIT_LIMIT n)
  let imax := getF s (SP_SEARCH_IMAX n)
  let step := spStep s n
  let low := decide (v < (sprue s n).vtrip)
  match getF s (SP_LIMIT_SSTATE n) with
  | 2 =>
    if low then backOff s n
    else if imax ≤ lim then
      let s := setF (setF s (SP_LIMIT_LIMIT n) imax) (SP_LIMIT_SSTATE n) 4
      updCapability (setSprue s n { sprue s n with holdEnd := s.now + 60000000000 })
    else if i < (lim : Int) - step then setF s (SP_LIMIT_SSTATE n) 3
    else updCapability (setF s (SP_LIMIT_LIMIT n) (min (lim + step) imax))
  | 3 => if low then backOff s n else if (lim : Int) - step ≤ i then setF s (SP_LIMIT_SSTATE n) 2 else s
  | 4 => if low && belowPrev then backOff s n else s
  | _ => s

/-- Two successive evaluations show a source change (R85): more than 2 % in voltage, less than 1 % of `IMAX` in current. The 2 % are
of the earlier evaluation: the spec does not say of which (DESIGN CHOICE, log 43). -/
def sourceChanged (s : State) (n v : Nat) (i : Int) : Bool :=
  match (sprue s n).prev with
  | some (v0, i0) => decide (2 * v0 < 100 * (max v v0 - min v v0)) && decide (100 * (i - i0).natAbs < getF s (SP_SEARCH_IMAX n))
  | none => false

/-- The search of a sprue acts: the sprue is active and the block is not in safe state (R98). -/
def searchLive (s : State) (n : Nat) : Bool := on s dPPATH && activeSprue s == some n && !ppSafe s

/-- SEARCH_EVALUATION (R84, R86): the 2 ms evaluation, with the means over its last 1 ms of the pin voltage `pin` (µV) and of the shunt
voltage `sh` (nV). -/
def execSearchEvaluation (n pin : Nat) (sh : Int) (s : State) : Host.Outcome State Fault Refusal :=
  .next (
    let st := getF s (SP_LIMIT_SSTATE n)
    let v := meanVs s n pin
    let i := meanIs s n sh
    if searchLive s n && (st == 2 || st == 3 || st == 4) then
      let x := sprue s n
      let s := advance s x.evalNext
      if sourceChanged s n v i then enterReference (raisePP s ppSOURCE_CHG) n
      else
        let s := evaluate s n v i x.belowPrev
        setSprue s n { sprue s n with evalNext := x.evalNext + 2000000, prev := some (v, i), belowPrev := decide (v < x.vtrip) }
    else s)

/-- SEARCH_REFERENCE_DONE (R86): the 10 ms reference ends; `pin` is the mean pin voltage over it, µV. -/
def execSearchReferenceDone (n pin : Nat) (s : State) : Host.Outcome State Fault Refusal :=
  .next (
    if searchLive s n && getF s (SP_LIMIT_SSTATE n) == 1 then
      enterRamp (setF (advance s (sprue s n).refEnd) (SP_VNL_VNL n) (meanVs s n pin)) n
    else s)

/-- SEARCH_HOLD_EXPIRE (R86). -/
def execSearchHoldExpire (n : Nat) (s : State) : Host.Outcome State Fault Refusal :=
  .next (
    if searchLive s n && getF s (SP_LIMIT_SSTATE n) == 4 then setF (advance s (sprue s n).holdEnd) (SP_LIMIT_SSTATE n) 2
    else s)

/-- REPROBE (R85, R86): a source change on the active sprue. -/
def reprobe (s : State) (n : Nat) : State :=
  if searchLive s n then
    let s := raisePP s ppSOURCE_CHG
    if getF s (SP_LIMIT_SSTATE n) = 5 then s else enterReference s n
  else s
def execReprobe (n : Nat) (s : State) : Host.Outcome State Fault Refusal := .next (reprobe s n)

/-- SEARCH_RESTART (R86): the limit returns to START and the reference is taken again. -/
def searchRestart (s : State) (n : Nat) : State :=
  let st := getF s (SP_LIMIT_SSTATE n)
  if searchLive s n && decide (1 ≤ st) && decide (st ≤ 4) then enterReference (setF s (SP_LIMIT_LIMIT n) (spStart s n)) n else s
def execSearchRestart (n : Nat) (s : State) : Host.Outcome State Fault Refusal := .next (searchRestart s n)

/-! ## Safe state (R98, R99) -/

/-- A tie-link leg. -/
def tleg (s : State) (n : Nat) : TlLeg := tabGet (fun _ => {}) s.pp.tlegs n
def setTleg (s : State) (n : Nat) (x : TlLeg) : State :=
  { s with pp := { s.pp with tlegs := tabSet (fun _ => {}) s.pp.tlegs n x } }

/-- A leg at rest: its PWM pins at mid-level, nothing allotted to it, no protection's time running. -/
def legRest (s : State) (n : Nat) : State := setTleg s n { vs := (tleg s n).vs, i := (tleg s n).i }

/-- A tie-link leg carries no DC: its PWM pins are at mid-level. -/
def legOff (s : State) (n : Nat) : State :=
  legRest (updLeg (setFlag (setFlag (setF s (PP_TLSTAT_DIR n) 0) (PP_TLSTAT_SHED n) false) (PP_TLSTAT_LIMITING n) false) n) n

/-- Trace of a contract change (R623). -/
def traceContract (s : State) (n : Nat) : State := offer s 0x33 (n * 65536) (rd s (TL_CONTRACT n))

/-- `CSTATE` shows the contract machine, with a swap and a re-attach over it (R365). -/
def showContract (s : State) (n : Nat) : State :=
  let x := tl s n
  setF s (TL_CSTATE_CSTATE n)
    (if x.swap.isSome && x.swap != some .accepted then 7
     else if x.reatt || x.own == some .reattach then 8
     else x.cs)

/-- A TL_REQUEST command's request is the contract in force (R420). -/
def requestMet (s : State) (n : Nat) (w : Word) : Bool :=
  if bits w 0 16 = 0 then rd s (TL_CONTRACT n) == 0 else rd s (TL_CONTRACT n) == w

/-- End the TL_REQUEST commands of a port whose request satisfies a test (R415, R420). -/
def endRequests (s : State) (n st : Nat) (p : Word → Bool) : State :=
  let hit := (tl s n).reqTags.filter (fun e => p e.2.1)
  let s := modTl s n (fun x => { x with reqTags := x.reqTags.filter (fun e => !p e.2.1) })
  forEach hit (fun e s => endTag s e.1 st (rd s (TL_CONTRACT n)) (rd s (TL_CSTATE n))) s

/-- Requests met by the contract now in force end. -/
def settleRequests (s : State) (n : Nat) : State := endRequests s n stSUCCESS (requestMet s n)

/-- A port holds the default contract (R336, R337): no DC crosses the leg; a DC contract that ends sets `DEFAULTED`, and TL_REQUEST
commands for current 0 are met (R420). -/
def contractDefault (s : State) (n : Nat) : State :=
  let was := rd s (TL_CONTRACT n) != 0
  let s := wr s (TL_CONTRACT n) 0
  let s := modTl s n (fun x => { x with
    kaDue := none, psDue := none, noDC := false, cs := if x.cs = 4 ∨ x.cs = 5 then 1 else x.cs })
  let s := legOff s n
  let s := if was then traceContract (raise s (TL_CEVENT n) 2) n else s
  settleRequests (showContract s n) n

/-- Power-path safe state takes effect (R98): disarmed, gates to diode-OR, legs without DC, the search frozen. -/
def enterSafe (s : State) : State :=
  if on s dPPATH && !ppSafe s then
    let s := match activeSprue s with | some n => setFlag s (SP_STATUS_ACTIVE n) false | none => s
    let s := setF (setFlag s PP_STATUS_ARMED false) PP_STATUS_ACTIVE 7
    let s := setFlag { s with pp := { s.pp with dead := none } } PP_STATUS_SAFE true
    let s := forEach (List.range 8) (fun n s => contractDefault s n) s
    raisePP (updGates (updCapability s)) ppSAFE_ENTER
  else s

/-- SAFE_EXIT (R99): ends safe state once the collector's cause has been cleared; the block stays disarmed. With no sprue active
every search is then OFF, and the held limits stay those of before safe state: the spec does not say what the frozen search does
when it ends (DESIGN CHOICE, log 44). -/
def safeExit (s : State) : State :=
  if ppSafe s && !flag s FC_EVENT_PP_SAFE then
    updGates (forEach (List.range 4) (fun n s => setF s (SP_LIMIT_SSTATE n) 0) (setFlag s PP_STATUS_SAFE false))
  else s
def execSafeExit (s : State) : Host.Outcome State Fault Refusal := .next (safeExit s)

end Sys2Proof.Machine
end

