-- ==== Sys2Proof/Machine/TieBase.lean ====
section
/-! DEFINITION. What the layers of a tie-link port share (chapters 8 and 9): its roles, the messages it wants to send,
the contract it holds, and the request it forms. -/

namespace Sys2Proof.Machine

/-! ## Roles and events -/

def aDISABLED : Nat := 0
def aUNATT_SNK : Nat := 1
def aUNATT_SRC : Nat := 2
def aWAIT_SNK : Nat := 3
def aWAIT_SRC : Nat := 4
def aTRY_SRC : Nat := 5
def aTRY_SNK : Nat := 6
def aTRYWAIT_SNK : Nat := 7
def aTRYWAIT_SRC : Nat := 8
def aATT_SNK : Nat := 9
def aATT_SRC : Nat := 10
def aREATTACH : Nat := 11

/-- State of the attach machine (R304). -/
def astate (s : State) (n : Nat) : Nat := getF s (TL_ATTACH_ASTATE n)
def attached (s : State) (n : Nat) : Bool := astate s n == aATT_SNK || astate s n == aATT_SRC
/-- Power-role source and sink, while attached. -/
def isSrc (s : State) (n : Nat) : Bool := astate s n == aATT_SRC
def isSnk (s : State) (n : Nat) : Bool := astate s n == aATT_SNK
/-- Bits of the header for the port's own roles. -/
def prole (s : State) (n : Nat) : Nat := getF s (TL_ATTACH_PROLE n)
def lrole (s : State) (n : Nat) : Nat := getF s (TL_ATTACH_LROLE n)
def bootSrc (s : State) (n : Nat) : Bool := flag s (TL_ATTACH_BOOT_SRC n)
def pidValid (s : State) (n : Nat) : Bool := flag s (TL_CSTATE_PID_VALID n)
def hostLost (s : State) (n : Nat) : Bool := flag s (TL_CSTATE_HOST_LOST n)
def modeOn (s : State) (n m : Nat) : Bool := bitF s (TL_CSTATE_MODES n) (m - 1)
def modeEn (s : State) (n m : Nat) : Bool := bitF s (TL_CCTRL_MODE_EN n) (m - 1)

/-- A port exists and its domain is powered. -/
def tlOn (s : State) (n : Nat) : Bool := on s dTLPHY && decide (n < 8)

def raiseTl (s : State) (n bit : Nat) : State := raise s (TL_EVENT n) (2 ^ bit)
def raiseTlc (s : State) (n bit : Nat) : State := raise s (TL_CEVENT n) (2 ^ bit)

/-- Record of an attach or a detach (R623). -/
def traceAttach (s : State) (n : Nat) : State := offer s 0x32 (n * 65536 + astate s n) (rd s (TL_ATTACH n))

/-- A deadline of a port, if it runs. -/
def dueThen (s : State) (d : Option Nat) (k : State → State) : State :=
  match d with | some t => k (advance s t) | none => s

def ms : Nat := 1000000
def us : Nat := 1000

/-! ## Message types and layouts (R317, R318, R333, R334, R357) -/

def mGOODCRC : Nat := 0x01
def mACCEPT : Nat := 0x02
def mREJECT : Nat := 0x03
def mWAIT : Nat := 0x04
def mNOT_SUPPORTED : Nat := 0x05
def mSOFT_RESET : Nat := 0x06
def mGET_CAPS : Nat := 0x07
def mLES_SWAP : Nat := 0x08
def mREATTACH : Nat := 0x09
def mPS_READY : Nat := 0x0A
def mCAPS : Nat := 0x20
def mREQUEST : Nat := 0x21
def mIDENT : Nat := 0x22
def mVENDOR : Nat := 0x3F

def hType (w : Word) : Nat := bits w 26 6
def hNdo (w : Word) : Nat := bits w 22 4
def hSeq (w : Word) : Nat := bits w 18 4
def hProle (w : Word) : Nat := bits w 17 1
def hRev (w : Word) : Nat := bits w 14 2

/-- The header a port sends (R317, R319). -/
def header (s : State) (n typ ndo seq : Nat) : Word :=
  BitVec.ofNat 32 (typ * 2 ^ 26 + ndo * 2 ^ 22 + seq % 16 * 2 ^ 18 + prole s n * 2 ^ 17 + lrole s n * 2 ^ 16)

/-- Request object (R334): `POS`, voltage in 10 mV, current in 10 mA. -/
def reqObj (pos v i : Nat) : Word := BitVec.ofNat 32 (pos * 2 ^ 28 + (v - 4000) % 2048 * 2 ^ 17 + i % 32768 * 4)
def rPos (w : Word) : Nat := bits w 28 4
def rV (w : Word) : Nat := 4000 + bits w 17 11
def rI (w : Word) : Nat := bits w 2 15

/-- A capability object holds voltage `v` and offers at least `i`; the reserved types hold nothing (R333, R340). -/
def capFits (w : Word) (v i : Nat) : Bool :=
  match bits w 30 2 with
  | 0 => decide (4000 + bits w 19 11 = v) && decide (i ≤ bits w 4 15)
  | 1 => decide (4000 + bits w 8 11 ≤ v) && decide (v ≤ 4000 + bits w 19 11) && decide (i ≤ 100 * bits w 0 8)
  | _ => false

/-- Vendor header of the structured messages (R357). -/
def vdmHeader (ctype mode cmd : Nat) : Word := BitVec.ofNat 32 (0x4F4A8000 + ctype * 256 + mode * 16 + cmd)

/-! ## Sending (R356) -/

/-- An answer or PS_READY goes ahead of the port's own new messages. -/
def answer (s : State) (n typ : Nat) (objs : List Word := []) (act : TlAct := .none) : State :=
  modTl s n (fun x => { x with answers := x.answers ++ [{ typ, objs, act }] })

/-- An own new message. -/
def send (s : State) (n typ : Nat) (objs : List Word := []) (act : TlAct := .none) : State :=
  modTl s n (fun x => { x with news := x.news ++ [{ typ, objs, act }] })

def notSupported (s : State) (n : Nat) : State := answer s n mNOT_SUPPORTED

/-- The capability objects a source advertises: up to the first word that reads 0 (R342). -/
def advertised (s : State) (n : Nat) : List Word := ((List.range 6).map (fun i => rd s (TL_CAPS n i))).takeWhile (fun w => w != 0)

/-- The objects of a CAPS (R342). -/
def capsObjs (s : State) (n : Nat) : List Word :=
  if (advertised s n).isEmpty || !legFitted s n then [0] else advertised s n

/-! ## The contract (R336-R340) -/

/-- A request equals the DC contract in force. -/
def equalsDc (s : State) (n : Nat) (w : Word) : Bool :=
  rd s (TL_CONTRACT n) != 0 && getF s (TL_CONTRACT_CV n) == rV w && getF s (TL_CONTRACT_CI n) == rI w

/-- Set the contract machine's state. -/
def setCs (s : State) (n c : Nat) : State := showContract (modTl s n (fun x => { x with cs := c })) n

/-- A source's leg is on the way to a new voltage (TRANSITION of R341). -/
def legMoving (s : State) (n : Nat) : Bool := isSrc s n && (tl s n).cs == 4

/-- A DC contract comes into force (R336): direction 1 import, 2 export. The leg's protections start afresh with it. -/
def contractDc (s : State) (n v i : Nat) : State :=
  let src := isSrc s n
  let s := wr (legRest s n) (TL_CONTRACT n) (pair16 v i)
  let s := modTl s n (fun x => { x with
    noDC := false, psDue := none
    kaDue := some (s.now + (if src then 12000 else 5000) * ms) })
  let s := setFlag (setF s (PP_TLSTAT_DIR n) (if src then 2 else 1)) (PP_TLSTAT_TRIPPED n) false
  let s := setFlag s (PP_TLSTAT_SHED n) (src && droopOn s && flag s PP_CTRL_EXPORT_SHED)
  let s := updLeg s n
  settleRequests (setCs (traceContract (raiseTlc s n 0) n) n 5) n

/-- The request in force: voltage and current (R339); a standing voltage or current outside its range makes it 0. -/
def requestInForce (s : State) (n : Nat) : Nat × Nat :=
  if flag s (TL_CSTATE_HREQ n) then (getF s (TL_REQ_HV n), getF s (TL_REQ_HI n))
  else
    let v := getF s (TL_REVREQ_SV n)
    let i := getF s (TL_REVREQ_SI n)
    if 4000 ≤ v ∧ v ≤ 6000 ∧ i ≤ 25000 then (v, i) else (0, 0)

/-- The standing request is used (R339, `STANDING`). -/
def updStanding (s : State) (n : Nat) : State := setFlag s (TL_CSTATE_STANDING n) (isSnk s n && !flag s (TL_CSTATE_HREQ n))

/-- The partner's latest capability objects (R366). -/
def partnerCaps (s : State) (n : Nat) : List Word :=
  (List.range (bits (rd s (PARTNER n + 0x18)) 0 4)).map (fun i => rd s (PARTNER n + 4 * i))

/-- Lowest position whose object holds the request (R340). -/
def matchPos (s : State) (n v i : Nat) : Option Nat := ((partnerCaps s n).findIdx? (fun w => capFits w v i)).map (· + 1)

/-- Send a request object; the response timer starts at its acknowledgement (R341). -/
def sendRequest (s : State) (n : Nat) (w : Word) : State :=
  let s := modTl s n (fun x => { x with
    lastReq := w, own := some .request, ownDue := none, reqDue := false, psDue := none
    news := x.news.filter (fun m => m.typ ≠ mREQUEST) })
  setCs (send s n mREQUEST [w]) n 3

/-- Form and send a request (R340): with no object that fits, none is sent and the default contract is held; while
requests are withheld after trips no request for DC is sent (R346). -/
def formRequest (s : State) (n v i : Nat) : State :=
  let s := modTl s n (fun x => { x with reqDue := false })
  if i = 0 then sendRequest s n 0
  else if flag s (TL_CSTATE_TRIP_LOCK n) then setCs s n (if rd s (TL_CONTRACT n) = 0 then 1 else 5)
  else match matchPos s n v i with
    | some p => sendRequest s n (reqObj p v i)
    | none =>
      let s := setCs (contractDefault (raiseTlc s n 3) n) n 1
      endRequests s n stNO_MATCH (fun w => w == pair16 v i)

/-- Send an own message that awaits an answer (R356). -/
def sendOwn (s : State) (n : Nat) (k : TlOwn) : State :=
  let s' := modTl s n (fun x => { x with own := some k, ownDue := none })
  match k with
  | .getCaps => setCs (send s' n mGET_CAPS) n 2
  | .request => formRequest s n (requestInForce s n).1 (requestInForce s n).2
  | .lesSwap => send s' n mLES_SWAP
  | .reattach => showContract (send s' n mREATTACH) n
  | .vdm c m => send s' n mVENDOR [vdmHeader 0 m c] (if c = 9 then .syncReq else .none)
  | .keepAlive =>
    if rd s (TL_CONTRACT n) = 0 then s else formRequest s n (getF s (TL_CONTRACT_CV n)) (getF s (TL_CONTRACT_CI n))

/-- Ask the partner something, at once or once the outstanding message is answered (R356). -/
def ask (s : State) (n : Nat) (k : TlOwn) : State :=
  if (tl s n).own.isNone then sendOwn s n k
  else modTl s n (fun x => { x with wants := if x.wants.contains k then x.wants else x.wants ++ [k] })

/-- Send what waits until one awaits an answer. -/
def sendWants (s : State) (n : Nat) : List TlOwn → State
  | [] => modTl s n (fun x => { x with wants := [] })
  | k :: t =>
    if (tl s n).own.isNone then sendWants (sendOwn s n k) n t
    else modTl s n (fun x => { x with wants := k :: t })

/-- The outstanding message is answered or given up; what waits is sent. -/
def clearOwn (s : State) (n : Nat) : State :=
  let s := modTl s n (fun x => { x with own := none, ownDue := none })
  showContract (sendWants s n (tl s n).wants) n

/-- The request in force has changed (R341): it is sent from DEFAULT and DC, and later from a state on the way. -/
def requestChanged (s : State) (n : Nat) : State :=
  if isSnk s n then
    let c := (tl s n).cs
    if c = 1 ∨ c = 5 then ask s n .request else modTl s n (fun x => { x with reqDue := c == 3 || c == 4 })
  else s

/-- A sink has arrived in DEFAULT or DC: a change of the request meanwhile is sent. -/
def sendDue (s : State) (n : Nat) : State := if (tl s n).reqDue then ask s n .request else s

/-- Hold-off (R341): enter HOLDOFF for `t` ms; the contract stands as it is. -/
def holdOff (s : State) (n t : Nat) : State :=
  setCs (updLeg (modTl s n (fun x => { x with holdDue := some (s.now + t * ms), noDC := false })) n) n 6

/-! ## Conditions of sending a swap or a re-attach (R349, R353) -/

/-- The conditions of R349 at this end. -/
def swapOk (s : State) (n : Nat) : Bool :=
  pidValid s n && !bootSrc s n && s.pw.supply == .aux12 && getF s (TL_LES_LES_STATE n) != 3 &&
  (lrole s n == 1 || flag s (TL_CFG_LES_EN n))

/-! ## LES (R298-R302) -/

/-- `LES_IN` and `BOOT_SRC` follow the conductor (R301, R308). -/
def updLesIn (s : State) (n : Nat) : State :=
  let i := !flag s (TL_ATTACH_LES_OUT n) && decide (9000 < (tl s n).pinLes)
  setFlag (setFlag s (TL_ATTACH_LES_IN n) i) (TL_ATTACH_BOOT_SRC n) (i && onBoot s)

/-- LES is off; a latched-off state stands. -/
def lesOff (s : State) (n : Nat) : State :=
  let s := setF (setFlag s (TL_ATTACH_LES_OUT n) false) (TL_LES_LES_I n) 0
  updLesIn (if getF s (TL_LES_LES_STATE n) = 3 then s else setF s (TL_LES_LES_STATE n) 0) n

/-- LES switch-on under R298, the role being held or coming. -/
def lesSwitchOn (s : State) (n : Nat) : State :=
  if !flag s (TL_CFG_LES_EN n) || s.pw.supply != .aux12 || getF s (TL_LES_LES_STATE n) == 3 then s
  else if (tl s n).pinLes < 2000 then
    updLesIn (setF (setFlag s (TL_ATTACH_LES_OUT n) true) (TL_LES_LES_STATE n) 1) n
  else
    let s := modTl s n (fun x => { x with lesRetry := s.now + 1000 * ms })
    setF (raiseTl s n 3) (TL_LES_LES_STATE n) 2

/-- The port is to supply LES: it holds the role, or in a swap has switched on for it; the old source of a swap in progress has
switched off (R350). -/
def lesRole (s : State) (n : Nat) : Bool :=
  match (tl s n).swap with
  | none => lrole s n == 1
  | some .accepted => lrole s n == 1
  | some .newOn => true
  | some .newDone => true
  | some _ => false

/-- The conditions of R298 other than the conductor hold. -/
def lesWanted (s : State) (n : Nat) : Bool :=
  attached s n && lesRole s n && flag s (TL_CFG_LES_EN n) && s.pw.supply == .aux12

/-- Review the LES supply after a change of one of its conditions. -/
def lesReview (s : State) (n : Nat) : State :=
  if !lesWanted s n then lesOff s n
  else if getF s (TL_LES_LES_STATE n) = 0 then lesSwitchOn s n
  else s

/-! ## Alternate modes: entry and exit (R358, R361) -/

/-- The tunnel closes: its commands end with 0x0A (R420). -/
def closeTunnel (s : State) (n : Nat) : State :=
  let u := (tl s n).tun
  let tags := (match u.frame with | some f => [f.tag] | none => []) ++ u.waiting.map (·.2)
  let s := modTl s n (fun x => { x with tun := {} })
  forEach tags (fun t s => endSt s t stABORTED) s

/-- A mode ends. -/
def exitMode (s : State) (n m : Nat) : State :=
  if modeOn s n m then
    let s := raiseTlc (setBitF s (TL_CSTATE_MODES n) (m - 1) false) n 9
    let s := if m = 2 then closeTunnel s n else s
    if m = 3 then updLeg (modTl s n (fun x => { x with budgetAt := none, budSent := none })) n else s
  else s

def exitModes (s : State) (n : Nat) : State := forEach [1, 2, 3] (fun m s => exitMode s n m) s

/-- A mode is entered: its periodic messages are due from now on, and a change of the module digest from its present value (R359). -/
def enterMode (s : State) (n m : Nat) : State :=
  let s := raiseTlc (setBitF s (TL_CSTATE_MODES n) (m - 1) true) n 9
  modTl s n (fun x =>
    if m = 1 then
      { x with
        digDue := s.now + 10000 * ms, syncDue := s.now + 1000 * ms
        digSent := some (rd s GL_DIGEST_LO, rd s GL_DIGEST_HI, rd s GL_CFGGEN) }
    else if m = 3 then { x with budDue := s.now + 1000 * ms } else { x with tun := {} })

/-- The IDENT exchange is complete and a mode is enabled: a sink sends DISCOVER (R358). -/
def discover (s : State) (n : Nat) : State :=
  if isSnk s n && pidValid s n && (tl s n).identSent && getF s (TL_CCTRL_MODE_EN n) != 0 then ask s n (.vdm 1 0) else s

/-! ## Swaps given up (R351) -/

/-- A swap command ends. -/
def endSwapCmd (s : State) (n st : Nat) : State :=
  match (tl s n).swapTag with
  | some t =>
    let lost := (tl s n).swapLost
    let s := modTl s n (fun x => { x with swapTag := none, swapLost := false })
    endTag s t st (if lost && st == stSUCCESS then 1 else 0) (rd s (TL_ATTACH n))
  | none => modTl s n (fun x => { x with swapLost := false })

/-- A re-attach command ends. -/
def endReattachCmd (s : State) (n st : Nat) : State :=
  match (tl s n).reTag with
  | some t => endTag (modTl s n (fun x => { x with reTag := none, reDue := none })) t st (rd s (TL_ATTACH n)) 0
  | none => s

/-- After a soft reset a swap in progress is over: the LES role is the power-role source's (R351). -/
def abortSwap (s : State) (n : Nat) : State :=
  let x := tl s n
  if x.swap.isSome then
    let s := modTl s n (fun x => { x with swap := none, swapDue := none })
    let s := setF s (TL_ATTACH_LROLE n) (prole s n)
    let s := endSwapCmd s n stTIMEOUT
    lesReview (if isSnk s n then lesOff s n else s) n
  else if x.own = some .lesSwap ∨ x.wants.contains .lesSwap then endSwapCmd s n stTIMEOUT
  else s

/-- The tags of VENDOR messages that will not be sent any more end. -/
def failVendors (s : State) (n st : Nat) : State :=
  let x := tl s n
  let ms := (match x.cur with | some c => [c.msg] | none => []) ++ x.news ++ x.answers
  forEach ms (fun m s => match m.act with | .vendor t => endSt s t st | _ => s) s

/-- The port's IDENT has not been acknowledged yet. -/
def identWaits (s : State) (n : Nat) : Bool :=
  let x := tl s n
  ((match x.cur with | some c => [c.msg] | none => []) ++ x.news ++ x.answers).any (fun m => m.typ == mIDENT)

/-- The protocol counters and everything waiting on the line are reset (R323); an IDENT not acknowledged is to be sent anew (R335). -/
def resetProtocol (s : State) (n : Nat) : State :=
  let s := if identWaits s n then modTl s n (fun x => { x with identSent := false }) else s
  let s := failVendors s n stTIMEOUT
  let s := abortSwap s n
  let s := if (tl s n).own = some .reattach ∨ (tl s n).wants.contains .reattach then endReattachCmd s n stTIMEOUT else s
  let s := exitModes s n
  modTl s n (fun x => { x with
    txSeq := 0, rxSeq := none, cur := none, answers := [], news := [], inbox := [], backoff := none
    own := none, ownDue := none, wants := [], enters := [], softRepeat := none
    heard := isSnk s n, reatt := false
    sending := if x.sending = 1 then 1 else 0 })

/-- Send SOFT_RESET (R323, R326): the counters are reset before. -/
def sendSoftReset (s : State) (n : Nat) : State :=
  let s := raiseTl (resetProtocol s n) n 6
  showContract (answer s n mSOFT_RESET) n

/-- Send SOFT_RESET and hold off for 1 s (R341). -/
def softHoldOff (s : State) (n : Nat) : State := modTl (holdOff (sendSoftReset s n) n 1000) n (fun x => { x with softHold := true })

/-- After a soft reset an end that has still to send its IDENT in this attach sends it: a sink that has the capabilities, a source
that has the partner's (R335). -/
def identAgain (s : State) (n : Nat) : State :=
  let x := tl s n
  if x.identSent then s
  else if isSnk s n then
    if x.cs = 2 then s else send (modTl s n (fun x => { x with identSent := true })) n mIDENT [rd s (TL_LINKID n)]
  else if pidValid s n then answer (modTl s n (fun x => { x with identSent := true })) n mIDENT [rd s (TL_LINKID n)]
  else s

/-- A soft reset is complete: the sink sends its request in force again at once (R338), or GET_CAPS where it still
has no capabilities, and discovers again (R358). -/
def afterSoftReset (s : State) (n : Nat) : State :=
  if isSnk s n then
    let s := if (tl s n).cs = 2 then (if (tl s n).capsRetry.isSome then s else ask s n .getCaps) else ask s n .request
    discover s n
  else s

end Sys2Proof.Machine
end

