-- ==== Sys2Proof/Machine/TieAttach.lean ====
section
/-! DEFINITION. The attach machine of a tie-link port, its LES supply and its leg protections (R293-R310, R93). -/

namespace Sys2Proof.Machine

/-! ## Presentation and classification (R294, R303) -/

/-- The state presents source (R304). -/
def presentsSrc (a : Nat) : Bool := [aUNATT_SRC, aWAIT_SRC, aTRY_SRC, aTRYWAIT_SRC, aATT_SRC].contains a

/-- The state presents nothing: DISABLED and REATTACH (R304). -/
def presentsNone (a : Nat) : Bool := a == aDISABLED || a == aREATTACH

/-- The level of a 1 ms mean of `TLn_LCW`, mV (R294). -/
def lcwClass (mv : Nat) : Nat := if mv < 200 then 0 else if 300 ≤ mv ∧ mv ≤ 1600 then 1 else if 2450 < mv then 2 else 3

/-- The classification of a 1 ms mean, which a voltage between windows leaves; a change of it starts its time (R294, R303). -/
def classed (x : TlPort) (now lvl : Nat) : TlPort :=
  let v := if lvl = 3 then x.seen else lvl == 1
  { x with seen := v, seenAt := if v = x.seen then x.seenAt else now }

/-- A 1 ms mean of `TLn_LCW`, mV: the level shown, and the classification of a port that presents source or sink; one that presents
neither sees no partner (R303). -/
def lcwReading (s : State) (n mv : Nat) : State :=
  let open_ := presentsNone (astate s n)
  let s := setF s (TL_ATTACH_LCW_LVL n) (lcwClass mv)
  modTl s n (fun x => if open_ then { x with pinLcw := mv, seen := false, seenAt := s.now } else classed { x with pinLcw := mv } s.now (lcwClass mv))

/-- An edge on LCW: the idle time of the line and of a back-off starts anew (R328). -/
def lineEdge (s : State) (n t : Nat) : State :=
  let b := if isSrc s n then 400 * us else 900 * us
  modTl s n (fun x => { x with lineAt := max x.lineAt t, backoff := x.backoff.map (fun e => (max e.1 (t + b), e.2)) })

/-- The millisecond that ends now is shown (R294), but the detach filter ignores it in an attached state when it holds an edge on LCW,
of this port's packets or another, and so the 100 µs that follow it: the time of the classification in force stands still
meanwhile (R303). -/
def lcwMs (s : State) (n mv : Nat) (edge : Option Nat) : State :=
  let s := match edge with | some e => lineEdge s n (s.now - e) | none => s
  let x := tl s n
  if attached s n && (x.sending != 0 || decide (s.now < x.lineAt + 1000000)) then
    modTl (setF s (TL_ATTACH_LCW_LVL n) (lcwClass mv)) n (fun x => { x with pinLcw := mv, skipped := true, seenAt := x.seenAt + (if x.skipped then 1000000 else 1100000) })
  else lcwReading (modTl s n (fun x => { x with skipped := false })) n mv

/-- The classification in force has held for `t` ms, or will have: module time reaches that moment. -/
def heldMs (s : State) (n t : Nat) : State := advance s ((tl s n).seenAt + t * ms)

/-- A port enters a state of the attach machine; a port that resumes from `BOOT` takes its `PREF` (R310). -/
def enterA (s : State) (n a : Nat) : State :=
  let p := getF s (TL_CFG_PREF n)
  let s := modTl s n (fun x => { x with
    since := s.now
    seen := x.seen && presentsSrc a == presentsSrc (astate s n) && !presentsNone a
    seenAt := if presentsSrc a = presentsSrc (astate s n) ∧ !presentsNone a ∧ !presentsNone (astate s n) then x.seenAt else s.now
    pref := if x.bootPref ∧ !onBoot s then (if 4 < p then 0 else p) else x.pref
    bootPref := x.bootPref && onBoot s })
  setF s (TL_ATTACH_ASTATE n) a

/-- The preference a port acts by (R307). -/
def effPref (s : State) (n : Nat) : Nat := if onBoot s then 0 else (tl s n).pref
def dualRole (s : State) (n : Nat) : Bool := decide (2 ≤ effPref s n) && decide (effPref s n ≤ 4)

/-- Enter an unattached state: `PREF` takes effect; a single-role preference chooses the state (R304, R307). -/
def enterUnatt (s : State) (n : Nat) (src : Bool) : State :=
  let p := getF s (TL_CFG_PREF n)
  let p := if 4 < p ∨ onBoot s then 0 else p
  let s := modTl s n (fun x => { x with pref := p, bootPref := onBoot s })
  enterA s n (if p = 1 then aUNATT_SRC else if p = 0 then aUNATT_SNK else if src then aUNATT_SRC else aUNATT_SNK)

/-- "Unattached" of R304. -/
def unattached (s : State) (n : Nat) : State := enterUnatt s n false

/-! ## Attach and detach actions (R305, R306) -/

/-- The attach actions and entry to an attached state. -/
def attach (s : State) (n : Nat) (src : Bool) : State :=
  let r := if src then 1 else 0
  let s := setF (setF (enterA s n (if src then aATT_SRC else aATT_SNK)) (TL_ATTACH_PROLE n) r) (TL_ATTACH_LROLE n) r
  let s := resetWords s (fun a => decide (PARTNER n ≤ a) && decide (a < PARTNER n + 0x80))
  let s := wr (setFlag s (TL_CSTATE_PID_VALID n) false) (TL_PLINKID n) 0
  let s := modTl s n (fun x => { x with
    txSeq := 0, rxSeq := none, heard := !src, identSent := false, reatt := false, skipped := false, softHold := false, kaAt := 0
    cs := 1, reqDue := false, lastReq := 0 })
  let s := updStanding (contractDefault s n) n
  let s := if src then lesSwitchOn s n else lesOff s n
  let s := raiseTl (incSat s (TL_ATTACH_ATT_COUNT n)) n 0
  let s := traceAttach s n
  let x := tl s n
  let s := if x.reTag.isSome ∧ x.reRole = r then endReattachCmd s n stSUCCESS else s
  if src then showContract s n else ask s n .getCaps

/-- The message awaiting acknowledgement, sent at least once, fails (R306). -/
def failPending (s : State) (n : Nat) : State :=
  match (tl s n).cur with
  | some c => if c.sent.isSome then raiseTl (incSat s (TL_ERRS_TX_FAILS n)) n 4 else s
  | none => s

/-- A port leaves its attached state: the contract ends, LES goes off, the line is given up (R306). -/
def leaveAttached (s : State) (n : Nat) : State :=
  let s := exitModes (contractDefault (failPending s n) n) n
  let s := failVendors s n stTIMEOUT
  let s := endSwapCmd s n stNOT_ATTACHED
  let s := if (tl s n).reatt then s else endReattachCmd s n stNOT_ATTACHED
  let s := modTl s n (fun x => { x with
    cur := none, answers := [], news := [], good := none, sending := 0, backoff := none, heard := false, inbox := []
    softRepeat := none, cs := 0, own := none, wants := [], ownDue := none, capsRetry := none, psDue := none
    holdDue := none, kaDue := none, tripDue := none, identSent := false, verdicts := [], pendReq := false
    pendSwap := false, pendReatt := false, swap := none, swapDue := none, enters := [] })
  let s := lesOff (setF s (TL_LES_LES_STATE n) 0) n
  let s := setF (setF s (TL_ATTACH_PROLE n) 0) (TL_ATTACH_LROLE n) 0
  let s := raiseTl (setFlag s (TL_CSTATE_STANDING n) false) n 1
  showContract s n

/-- A loss of the partner. -/
def detach (s : State) (n : Nat) : State := showContract (traceAttach (unattached (leaveAttached s n) n) n) n

/-- The REATTACH transition (R304): the order carries the next preference, or none. -/
def toReattach (s : State) (n : Nat) (next : Option Nat) : State :=
  let s := leaveAttached s n
  let s := modTl s n (fun x => { x with nextPref := next, reatt := true })
  showContract (traceAttach (enterA s n aREATTACH) n) n

/-- A write to `TL_CFG` (R304, R331): fields under `LOCK`, which is set and never cleared. -/
def tlCfgWrite (s : State) (n : Nat) (v : Word) : State :=
  if tlOn s n then
    let old := rd s (TL_CFG n)
    let s := wr s (TL_CFG n) (if old.getLsbD 31 then old else (v &&& 0x8000001F))
    let en := flag s (TL_CFG_EN n)
    if en && astate s n == aDISABLED then unattached s n
    else if !en && astate s n != aDISABLED then
      let was := attached s n
      let s := if was then leaveAttached s n else lesOff s n
      let s := enterA (modTl s n (fun x => { x with reatt := false, nextPref := none })) n aDISABLED
      showContract (if was then traceAttach s n else s) n
    else lesReview s n
  else s

/-! ## Meanings of the attach machine (R304) -/

/-- TL_ENABLE, TL_DISABLE: a write of `TL_CFG`. -/
def execTlEnable (n : Nat) (v : Word) (s : State) : Host.Outcome State Fault Refusal := .next (noteCfg s (tlCfgWrite s n (v ||| 1)))
def execTlDisable (n : Nat) (v : Word) (s : State) : Host.Outcome State Fault Refusal := .next (noteCfg s (tlCfgWrite s n (v &&& ~~~1)))

/-- LCW_PARTNER_SEEN: the 1 ms mean `mv` (mV) of LCW shows a partner to an unattached port. -/
def execLcwPartnerSeen (n mv : Nat) (s : State) : Host.Outcome State Fault Refusal :=
  .next (
    if tlOn s n then
      let s := lcwReading s n mv
      if !(tl s n).seen then s
      else if astate s n = aUNATT_SNK then enterA s n aWAIT_SNK
      else if astate s n = aUNATT_SRC then enterA s n aWAIT_SRC
      else s
    else s)

/-- Module time reaches `t` ms after the port's entry to its state. -/
def sinceMs (s : State) (n t : Nat) : State := advance s ((tl s n).since + t * ms)

/-- DRP_TOGGLE. -/
def execDrpToggle (n : Nat) (s : State) : Host.Outcome State Fault Refusal :=
  .next (
    if tlOn s n && dualRole s n then
      if astate s n = aUNATT_SNK then enterUnatt (sinceMs s n 36) n true
      else if astate s n = aUNATT_SRC then enterUnatt (sinceMs s n 24) n false
      else s
    else s)

/-- ATTACH_DEBOUNCE_DONE: the partner has been seen for 120 ms. -/
def execAttachDebounceDone (n : Nat) (s : State) : Host.Outcome State Fault Refusal :=
  .next (
    if tlOn s n then
      let a := astate s n
      if !(tl s n).seen then s
      else if a = aWAIT_SNK then
        let s := heldMs s n 120
        if effPref s n = 3 then enterA s n aTRY_SRC else attach s n false
      else if a = aWAIT_SRC then
        let s := heldMs s n 120
        if effPref s n = 4 then enterA s n aTRY_SNK else attach s n true
      else if a = aTRYWAIT_SNK then attach (heldMs s n 120) n false
      else if a = aTRYWAIT_SRC then attach (heldMs s n 120) n true
      else s
    else s)

/-- ATTACHWAIT_LOST: no partner for 10 ms. -/
def execAttachwaitLost (n : Nat) (s : State) : Host.Outcome State Fault Refusal :=
  .next (
    if tlOn s n && !(tl s n).seen && (astate s n == aWAIT_SNK || astate s n == aWAIT_SRC) then unattached (heldMs s n 10) n else s)

/-- TRY_PARTNER_SEEN: the partner has been seen for 10 ms in a try state. -/
def execTryPartnerSeen (n : Nat) (s : State) : Host.Outcome State Fault Refusal :=
  .next (
    if tlOn s n then
      if !(tl s n).seen then s
      else if astate s n = aTRY_SRC then attach (heldMs s n 10) n true
      else if astate s n = aTRY_SNK then attach (heldMs s n 10) n false
      else s
    else s)

/-- TRY_TIMER_EXPIRE: 80 ms. A port that runs from `BOOT` meanwhile presents no source (R307). -/
def execTryTimerExpire (n : Nat) (s : State) : Host.Outcome State Fault Refusal :=
  .next (
    if tlOn s n then
      if astate s n = aTRY_SRC then enterA (sinceMs s n 80) n aTRYWAIT_SNK
      else if astate s n = aTRY_SNK then
        let s := sinceMs s n 80
        if onBoot s then unattached s n else enterA s n aTRYWAIT_SRC
      else s
    else s)

/-- TRYWAIT_TIMER_EXPIRE: 500 ms. -/
def execTrywaitTimerExpire (n : Nat) (s : State) : Host.Outcome State Fault Refusal :=
  .next (
    if tlOn s n && (astate s n == aTRYWAIT_SNK || astate s n == aTRYWAIT_SRC) then enterUnatt (sinceMs s n 500) n false
    else s)

/-- DETACH: the partner has been lost for 10 ms, the ignored milliseconds left out (R303). -/
def execDetach (n : Nat) (s : State) : Host.Outcome State Fault Refusal :=
  .next (if tlOn s n && attached s n && !(tl s n).seen then detach (heldMs s n 10) n else s)

/-- REATTACH_TIMER_EXPIRE: 100 ms; `PREF` takes the value of the order, whatever `LOCK` holds (R354). -/
def execReattachTimerExpire (n : Nat) (s : State) : Host.Outcome State Fault Refusal :=
  .next (
    if tlOn s n && astate s n == aREATTACH then
      let s := sinceMs s n 100
      let s := match (tl s n).nextPref with | some p => setF s (TL_CFG_PREF n) p | none => s
      showContract (unattached (modTl s n (fun x => { x with nextPref := none, reatt := false })) n) n
    else s)

/-! ## LES (R298, R300) -/

/-- LES_RETRY: one second after a withheld or a tripped switch-on. -/
def execLesRetry (n : Nat) (s : State) : Host.Outcome State Fault Refusal :=
  .next (
    if tlOn s n && getF s (TL_LES_LES_STATE n) == 2 then
      let s := advance s (tl s n).lesRetry
      if lesWanted s n then lesSwitchOn (setF s (TL_LES_LES_STATE n) 0) n else lesOff s n
    else s)

/-- LES_OVERCURRENT: the limit exceeded for 1 ms; the fourth fault within 30 s latches LES off (R300). -/
def execLesOvercurrent (n : Nat) (s : State) : Host.Outcome State Fault Refusal :=
  .next (
    if tlOn s n && flag s (TL_ATTACH_LES_OUT n) then
      let l := s.now :: (tl s n).lesFaults.filter (fun t => decide (s.now < t + 30000 * ms))
      let s := modTl s n (fun x => { x with lesFaults := l, lesRetry := s.now + 1000 * ms })
      let s := raiseTl (setF (lesOff s n) (TL_LES_LES_FAULTS n) (satTo 15 l.length)) n 2
      let s := setF s (TL_LES_LES_STATE n) (if 4 ≤ l.length then 3 else 2)
      fault s 0x32 1 (srcBlock (0x010 + n)) (BitVec.ofNat 32 (satTo 15 l.length))
    else s)

/-! ## Leg protections (R93, R346) -/

/-- The time at which protection `p` of a leg acts (0 reverse current, 1 voltage, 2 current): at once when the latest current opposes
the direction by more than 1.00 A, else 100 µs after its condition began; none while the condition does not hold (R93). -/
def legTripAt (s : State) (n p : Nat) : Option Nat :=
  let x := tleg s n
  let dir := getF s (PP_TLSTAT_DIR n)
  match p % 3 with
  | 0 => if (dir = 1 ∧ x.i < -100) ∨ (dir = 2 ∧ 100 < x.i) then some s.now else none
  | 1 => x.vSince.map (· + 100000)
  | _ => x.iSince.map (· + 100000)

/-- TL_LEG_TRIP: protection `p` of leg n acts; the contract ends (R337), and a sink sends its request again 10 s later, or
withholds it after three trips within 10 minutes (R346). -/
def execTlLegTrip (n p : Nat) (s : State) : Host.Outcome State Fault Refusal :=
  .next (
    match (if on s dPPATH && decide (n < 8) && getF s (PP_TLSTAT_DIR n) != 0 then legTripAt s n p else none) with
    | some t =>
      let s := advance s t
      let s := raisePP (setFlag s (PP_TLSTAT_TRIPPED n) true) ppTL_TRIP
      let s := fault s 0x31 1 (srcBlock (0x010 + n)) (BitVec.ofNat 32 (p % 3))
      let s := contractDefault s n
      if isSnk s n then
        let l := s.now :: (tl s n).trips.filter (fun t => decide (s.now < t + 600000 * ms))
        let s := modTl s n (fun x => { x with trips := l, tripDue := some (s.now + 10000 * ms) })
        if 3 ≤ l.length ∧ !flag s (TL_CSTATE_TRIP_LOCK n) then raiseTlc (setFlag s (TL_CSTATE_TRIP_LOCK n) true) n 12 else s
      else s
    | none => s)

/-! ## The domain (R297, R308, R332) -/

/-- `TLPHY` has lost power: nothing of a port is left but the levels on its pins, and the TL_REQUEST commands that wait for their 5 s
(R420); the legs carry no DC. -/
def tlphyStop (s : State) : State :=
  forEach (List.range 8) (fun n s =>
    let x := tl s n
    let s := failVendors s n stABORTED
    let s := endSwapCmd s n stNOT_ATTACHED
    let s := endReattachCmd s n stNOT_ATTACHED
    let s := closeTunnel s n
    legOff (setTl s n { pinLes := x.pinLes, pinLcw := x.pinLcw, reqTags := x.reqTags }) n) { s with tlHost := {} }

/-- `TLPHY` starts (R308): a port with live LES that sees a source enters ATTACHWAIT_SNK, every other its unattached
state; one whose settings hold `EN` = 0 stays DISABLED. A host whose link is up is present (R347). -/
def tlphyStart (s : State) : State :=
  forEach (List.range 8) (fun n s =>
    let s := updLesIn s n
    if flag s (TL_CFG_EN n) then
      let s := unattached s n
      let x := tl s n
      if 9000 < x.pinLes ∧ 300 ≤ x.pinLcw ∧ x.pinLcw ≤ 1600 then enterA (lcwReading s n x.pinLcw) n aWAIT_SNK else s
    else s)
    { s with tlHost := { present := s.hi.linkUp } }

end Sys2Proof.Machine
end

