-- ==== Sys2Proof/Machine/TieLink.lean ====
section
/-! DEFINITION. The packet engine of a tie-link port (R314-R329) and the service tunnel's frames (R361). -/

namespace Sys2Proof.Machine

/-! ## Times on the line (R314, R330, R361) -/

/-- CRC of a packet and of a tunnel frame (R321). -/
def packetCrc (hdr : Word) (objs : List Word) : Word := crc32 (wordsBytes (hdr :: objs))
def tunnelCrc (hdr : Word) (bytes : List Byte) : Word := crc32 (wordBytes hdr ++ bytes)
/-- Level runs of a packet and of a tunnel frame, in half-bits. -/
def packetLine (hdr : Word) (objs : List Word) : List Nat := packetRuns (hdr :: objs ++ [packetCrc hdr objs])
def tunnelLine (hdr : Word) (bytes : List Byte) : List Nat := tunnelRuns hdr bytes (tunnelCrc hdr bytes)
/-- End of the second hold of a packet's start delimiter, from its start: 102 half-bits. -/
def holdNs : Nat := 102 * packetHalf

/-- Back-off time of a port, ns (R328); `lineEdge` keeps the same. -/
def backoffNs (s : State) (n : Nat) : Nat := if isSrc s n then 400 * us else 900 * us

/-! ## Starting and ending a transmission (R322, R325, R328, R345) -/

/-- A source that has not heard the sink sends nothing but the SOFT_RESET itself (R345). -/
def maySend (s : State) (n : Nat) (m : TlMsg) : Bool := !isSrc s n || (tl s n).heard || m.typ == mSOFT_RESET

/-- A swap or a re-attach is sent only while its conditions hold (R349, R353): one that waited and may not go now is dropped, and its
command ends. -/
def forbidden (s : State) (n : Nat) (m : TlMsg) : Option State :=
  if m.typ = mLES_SWAP ∧ !swapOk s n then some (endSwapCmd (clearOwn s n) n stSTATE)
  else if m.typ = mREATTACH ∧ (!pidValid s n ∨ bootSrc s n) then some (endReattachCmd (clearOwn s n) n stSTATE)
  else none

/-- The next message that may go: answers before own new messages (R356). -/
def takeNext (s : State) (n : Nat) : Option TlMsg × State :=
  match (tl s n).answers with
  | m :: t => if maySend s n m then (some m, modTl s n (fun x => { x with answers := t })) else (none, s)
  | [] =>
    match (tl s n).news with
    | m :: t =>
      if maySend s n m then
        let s := modTl s n (fun x => { x with news := t })
        match forbidden s n m with
        | some s => (none, s)
        | none => (some m, s)
      else (none, s)
    | [] => (none, s)

/-- The tunnel has a frame to send: its own, or an acknowledgement. -/
def tunnelReady (s : State) (n : Nat) : Bool :=
  let u := (tl s n).tun
  modeOn s n 2 && (u.ackOwed || (match u.frame with | some f => f.ackDue.isNone | none => false))

/-- Begin to drive the line: 1 GOODCRC, 2 message, 3 tunnel frame; LCW has shown no edge for 26 µs. -/
def startTx (s : State) (n k : Nat) : State :=
  let s := advance s ((tl s n).lineAt + 26 * us)
  modTl s n (fun x => { x with sending := k, txAt := s.now })

/-- A GOODCRC that collided waits for its own back-off. -/
def goodBacksOff (x : TlPort) : Bool := match x.backoff with | some (_, k) => k == 1 | none => false

/-- What a port sends next. -/
def txStart (s : State) (n : Nat) : State :=
  let x := tl s n
  if x.sending ≠ 0 ∨ goodBacksOff x then s
  else if x.good.isSome then startTx s n 1
  else if x.backoff.isSome then s
  else
    let unsent := match x.cur with | some c => c.ackDue.isNone | none => false
    if unsent then startTx s n 2
    else if x.cur.isSome then (if tunnelReady s n then startTx s n 3 else s)
    else match takeNext s n with
      | (some m, s) => startTx (modTl s n (fun x => { x with cur := some { msg := m, seq := x.txSeq } })) n 2
      | (none, s) => if tunnelReady s n then startTx s n 3 else s

/-- PACKET_TX_START (R328, R329). -/
def execPacketTxStart (n : Nat) (s : State) : Host.Outcome State Fault Refusal :=
  .next (if tlOn s n && attached s n then txStart s n else s)

/-- Record of a packet (R623). -/
def tracePacket (s : State) (kind n seq typ : Nat) (objs : List Word) : State :=
  offer s kind (n * 65536 + seq * 256 + typ) (objs.headD 0)

/-- Put a packet out (R314, R321). -/
def putPacket (s : State) (n : Nat) (hdr : Word) (objs : List Word) : State :=
  tracePacket (emit s (.packet n hdr objs (packetCrc hdr objs) (lineWave packetHalf (packetLine hdr objs)))) 0x30 n (hSeq hdr) (hType hdr) objs

/-- Objects as they leave: the hardware inserts t3 into SYNC_RESP (R360). -/
def objsSent (m : TlMsg) (t3 : Nat) : List Word :=
  match m.act with
  | .syncResp t2 => [m.objs.headD 0, lo32 t2, hi32 t2, lo32 t3, hi32 t3]
  | _ => m.objs

/-- Header and objects of the message on the line; a retry repeats what was first sent (R325). -/
def messageOut (s : State) (n : Nat) (c : TlTx) : Word × List Word :=
  match c.sent with
  | some p => p
  | none =>
    let objs := objsSent c.msg (stampAt s ((tl s n).txAt + holdNs))
    (header s n c.msg.typ objs.length c.seq, objs)

/-- Header and payload of the tunnel frame on the line (R361). -/
def tunnelOut (s : State) (n : Nat) : Word × List Byte :=
  let u := (tl s n).tun
  let bytes := match u.frame with | some f => if f.ackDue.isNone then f.bytes else [] | none => []
  let tfn := match u.frame with | some f => f.tfn | none => (u.next + 255) % 256
  (BitVec.ofNat 32 (tfn % 256 * 2 ^ 24 + u.tack % 256 * 65536 + bytes.length), bytes)

/-- Level runs of what a port is sending, in half-bits, and the length of a half-bit in ns. -/
def lineOut (s : State) (n : Nat) : List Nat × Nat :=
  let x := tl s n
  if x.sending = 1 then (packetLine (header s n mGOODCRC 0 (x.good.getD 0)) [], packetHalf)
  else if x.sending = 2 then
    match x.cur with
    | some c => (packetLine (messageOut s n c).1 (messageOut s n c).2, packetHalf)
    | none => ([], packetHalf)
  else if x.sending = 3 then (tunnelLine (tunnelOut s n).1 (tunnelOut s n).2, tunnelHalf)
  else ([], packetHalf)

/-- The transmission ends and the line is released, at the level its last run left at this port's receiver too; a back-off starts
anew after it (R314, R328). -/
def endTx (s : State) (n : Nat) : State :=
  let o := lineOut s n
  let s := advance s ((tl s n).txAt + o.1.sum * o.2)
  modTl s n (fun x => { x with
    sending := 0, lineAt := s.now, rxHigh := endsHigh o.1, rxWait := false
    backoff := x.backoff.map (fun b => (s.now + backoffNs s n, b.2)) })

/-- The new LES source's PS_READY has been sent: the swap is done at its end (R350). -/
def swapDoneSent (s : State) (n : Nat) : State :=
  let s := setF s (TL_ATTACH_LROLE n) 1
  let s := raiseTlc (modTl s n (fun x => { x with swap := none, swapDue := none })) n 6
  showContract (endSwapCmd (lesReview s n) n stSUCCESS) n

/-- The message has been sent: the acknowledgement time starts (R325). A sink's request equal to its DC contract is a keep-alive (R344),
whose age `KA_AGE` shows (R365). -/
def messageSent (s : State) (n : Nat) (c : TlTx) : State :=
  let t := stampAt s ((tl s n).txAt + holdNs)
  let p := messageOut s n c
  let s := putPacket (endTx s n) n p.1 p.2
  let s := modTl s n (fun x => { x with cur := some { c with ackDue := some (s.now + 1500 * us), sent := some p } })
  let s := if isSnk s n && c.msg.typ == mREQUEST && equalsDc s n (p.2.headD 0) then modTl s n (fun x => { x with kaAt := s.now }) else s
  match c.msg.act with
  | .syncReq => modTl s n (fun x => { x with syncT1 := t })
  | .swapDone => if (tl s n).swap = some .newDone then swapDoneSent s n else s
  | _ => s

/-- A tunnel frame has been sent (R361). -/
def tunnelSent (s : State) (n : Nat) : State :=
  let p := tunnelOut s n
  let s := emit (endTx s n) (.tunnel n p.1 p.2 (tunnelCrc p.1 p.2) (lineWave tunnelHalf (tunnelLine p.1 p.2)))
  modTl s n (fun x => { x with tun := { x.tun with
    ackOwed := false
    frame := match x.tun.frame with
      | some f => if f.ackDue.isNone then some { f with ackDue := some (s.now + 1000 * us) } else some f
      | none => none } })

/-- PACKET_TX_DONE. -/
def execPacketTxDone (n : Nat) (s : State) : Host.Outcome State Fault Refusal :=
  .next (
    if tlOn s n && attached s n then
      let x := tl s n
      if x.sending = 1 then
        match x.good with
        | some q =>
          let hdr := header s n mGOODCRC 0 q
          putPacket (modTl (endTx s n) n (fun x => { x with good := none })) n hdr []
        | none => modTl s n (fun x => { x with sending := 0 })
      else if x.sending = 2 then
        match x.cur with
        | some c => messageSent s n c
        | none => modTl s n (fun x => { x with sending := 0 })
      else if x.sending = 3 then tunnelSent s n
      else s
    else s)

/-- TX_COLLISION (R328): the receiver's levels at the middle of the half-bits sent so far; where two in succession differ from what
is driven the line is released. The attempt is not a retry. -/
def execTxCollision (n : Nat) (line : List Bool) (s : State) : Host.Outcome State Fault Refusal :=
  .next (
    let o := lineOut s n
    match (if tlOn s n && attached s n && (tl s n).sending != 0 then clash 0 false (halfBits true o.1) line else none) with
    | some k =>
      let s := advance s ((tl s n).txAt + k * o.2 + o.2 / 2)
      modTl s n (fun x => { x with sending := 0, lineAt := s.now, backoff := some (s.now + backoffNs s n, x.sending) })
    | none => s)

/-- COLLISION_BACKOFF_END (R328): the packet is started again; a GOODCRC that has come due goes first. -/
def execCollisionBackoffEnd (n : Nat) (s : State) : Host.Outcome State Fault Refusal :=
  .next (
    match (if tlOn s n && attached s n && (tl s n).sending == 0 then (tl s n).backoff else none) with
    | some (t, _) => txStart (modTl (advance s t) n (fun x => { x with backoff := none })) n
    | none => s)

/-! ## Acknowledgement (R325, R326) -/

/-- The LES swap begins at this end (R350). -/
def beginSwap (s : State) (n : Nat) : State :=
  if lrole s n = 1 then
    showContract (modTl (lesOff s n) n (fun x => { x with swap := some .oldOff, swapDue := none })) n
  else
    showContract (modTl s n (fun x => { x with swap := some .newWait, swapDue := some (s.now + 150 * ms) })) n

/-- Take the REATTACH transition of an agreed re-attach (R354): a former sink carries `PREF` = 1, a former source 0. A port that has
come to carry the module's only supply meanwhile never does (R309): the order is refused. -/
def reattachNow (s : State) (n : Nat) : State :=
  if bootSrc s n then endReattachCmd (modTl s n (fun x => { x with reatt := false })) n stSTATE
  else toReattach (modTl s n (fun x => { x with reatt := true })) n (some (if isSnk s n then 1 else 0))

/-- The message awaits an answer, whose time starts now. -/
def startAnswerTime (s : State) (n : Nat) (m : TlMsg) : State :=
  let hit := match (tl s n).own with
    | some .getCaps => m.typ == mGET_CAPS
    | some .request => m.typ == mREQUEST
    | some .lesSwap => m.typ == mLES_SWAP
    | some .reattach => m.typ == mREATTACH
    | some (.vdm c k) => m.typ == mVENDOR && m.objs.head? == some (vdmHeader 0 k c)
    | some .keepAlive => false
    | none => false
  if hit then modTl s n (fun x => { x with ownDue := some (s.now + 30 * ms) }) else s

/-- The message is acknowledged. A sink's own soft reset is followed at once by its request in force (R338); where the row that sent it
gives a hold-off, its request goes when that expires (R341). -/
def acked (s : State) (n : Nat) (c : TlTx) : State :=
  let s := modTl s n (fun x => { x with cur := none, txSeq := (c.seq + 1) % 16 })
  let s := startAnswerTime s n c.msg
  match c.msg.act with
  | .swapAccepted => if (tl s n).swap = some .accepted then beginSwap s n else s
  | .reattachAccepted => reattachNow s n
  | .vendor t => endSt s t stSUCCESS
  | _ =>
    if c.msg.typ = mSOFT_RESET then
      let hold := (tl s n).softHold
      let s := modTl s n (fun x => { x with softHold := false })
      identAgain (if hold then discover s n else afterSoftReset s n) n
    else s

/-- The message has failed after its retries (R326). -/
def failed (s : State) (n : Nat) (c : TlTx) : State :=
  let s := modTl s n (fun x => { x with cur := none, txSeq := (c.seq + 1) % 16 })
  let s := raiseTl (incSat s (TL_ERRS_TX_FAILS n)) n 4
  let s := match c.msg.act with | .vendor t => endSt s t stTIMEOUT | _ => s
  if c.msg.typ ≠ mSOFT_RESET then sendSoftReset s n
  else if bootSrc s n then modTl s n (fun x => { x with softRepeat := some (s.now + 1000 * ms) })
  else toReattach s n none

/-- Take the oldest delivered packet of a type. -/
def takeRx (s : State) (n typ : Nat) : Option (TlRx × State) :=
  match (tl s n).inbox.findIdx? (fun r => hType r.hdr == typ) with
  | some i =>
    match (tl s n).inbox[i]? with
    | some r => some (r, modTl s n (fun x => { x with inbox := x.inbox.eraseIdx i }))
    | none => none
  | none => none

/-- A row that handles a delivered packet of a type. -/
def onRx (s : State) (n typ : Nat) (k : TlRx → State → State) : State :=
  if tlOn s n && attached s n then match takeRx s n typ with | some (r, s) => k r s | none => s else s

/-- GOODCRC (R325): acknowledges the message whose `SEQ` it carries; any other is ignored. -/
def execGoodcrc (n : Nat) (s : State) : Host.Outcome State Fault Refusal :=
  .next (onRx s n mGOODCRC (fun r s =>
    match (tl s n).cur with
    | some c => if c.ackDue.isSome ∧ hSeq r.hdr = c.seq then acked s n c else s
    | none => s))

/-- ACK_TIMEOUT (R325, R326). -/
def execAckTimeout (n : Nat) (s : State) : Host.Outcome State Fault Refusal :=
  .next (
    if tlOn s n && attached s n then
      match (tl s n).cur with
      | some c => dueThen s c.ackDue (fun s =>
          if c.tries < 2 then modTl s n (fun x => { x with cur := some { c with tries := c.tries + 1, ackDue := none } })
          else failed s n c)
      | none => s
    else s)

/-- SOFT_RESET (R323): received; the counters are reset after its acknowledgement. -/
def execSoftReset (n : Nat) (s : State) : Host.Outcome State Fault Refusal :=
  .next (onRx s n mSOFT_RESET (fun _ s => showContract (identAgain (afterSoftReset (raiseTl (resetProtocol s n) n 6) n) n) n))

/-- SOFT_RESET_REPEAT (R309). -/
def execSoftResetRepeat (n : Nat) (s : State) : Host.Outcome State Fault Refusal :=
  .next (if tlOn s n && attached s n then dueThen s (tl s n).softRepeat (fun s => sendSoftReset s n) else s)

/-! ## Reception (R315, R319, R320, R322, R324) -/

/-- Types the contract layer knows, with the numbers of objects they carry (R318). -/
def knownType (typ ndo : Nat) : Bool :=
  if typ = mCAPS then decide (1 ≤ ndo) && decide (ndo ≤ 6)
  else if typ = mREQUEST ∨ typ = mIDENT then ndo == 1
  else if typ = mVENDOR then decide (1 ≤ ndo) && decide (ndo ≤ 12)
  else ndo == 0 && decide (1 ≤ typ) && decide (typ ≤ 0x0A)

/-- Deliver a packet to the contract layer; a reserved type, a wrong number of objects and an unsupported revision are
answered NOT_SUPPORTED (R319, R341). -/
def deliver (s : State) (n : Nat) (r : TlRx) : State :=
  if !knownType (hType r.hdr) (hNdo r.hdr) || decide (2 ≤ hRev r.hdr) then notSupported s n
  else modTl s n (fun x => { x with inbox := x.inbox ++ [r] })

/-- A CRC-good packet: it is acknowledged, and delivered unless it is a retransmission (R322, R324). -/
def goodPacket (s : State) (n : Nat) (r : TlRx) : State :=
  let typ := hType r.hdr
  let seq := hSeq r.hdr
  let s := tracePacket s 0x31 n seq typ r.objs
  let s := modTl s n (fun x => { x with heard := true })
  if typ = mGOODCRC then modTl s n (fun x => { x with inbox := x.inbox ++ [r] })
  else
    let s := modTl s n (fun x => { x with good := some seq, backoff := if goodBacksOff x then none else x.backoff })
    if hProle r.hdr = prole s n then incSat s (TL_ERRS_FRAME_ERRS n)
    else if typ = mSOFT_RESET then deliver s n r
    else if (tl s n).rxSeq = some seq then s
    else deliver (modTl s n (fun x => { x with rxSeq := some seq })) n r

/-- The line as a port hears it (R312, R313, R315, R361): the segments (mV, ns) of `wave` end now. Each packet discarded for its
framing is counted, and a back-off starts anew. -/
def hear (s : State) (n : Nat) (wave : List (Nat × Nat)) : RxOut × State :=
  let x := tl s n
  let r := receive x.rxHigh x.rxWait (modeOn s n 2) (s.now - waveNs wave - x.lineAt) wave
  let s := modTl s n (fun x => { x with
    lineAt := s.now, rxHigh := waveLevel x.rxHigh wave, rxWait := r.wait
    backoff := x.backoff.map (fun b => (s.now + backoffNs s n, b.2)) })
  (r, forEach (List.range r.bad) (fun _ s => raiseTl (incSat s (TL_ERRS_FRAME_ERRS n)) n 5) s)

/-- PACKET_RECEIVED (R315, R321, R329): a packet on the line of an attached port, with its CRC. -/
def execPacketReceived (n : Nat) (wave : List (Nat × Nat)) (s : State) : Host.Outcome State Fault Refusal :=
  .next (
    if tlOn s n && attached s n then
      let (r, s) := hear s n wave
      match r.packet with
      | none => s
      | some (hdr, objs, crc, at_) =>
        let ok := crc == packetCrc hdr objs
        let (inj, s) := if ok then injectOne s 4 else (false, s)
        if ok && !inj then goodPacket s n ⟨hdr, objs, stampAt s (s.now - waveNs wave + at_)⟩
        else
          let s := raiseTl (incSat s (TL_ERRS_CRC_ERRS n)) n 5
          injectSettle (sendFault s ⟨0x33, 0, srcBlock (0x010 + n), BitVec.ofNat 32 (hType hdr), inj⟩)
    else s)

/-! ## The service tunnel (R361, R437) -/

/-- The next waiting tunnel data becomes the frame outstanding. -/
def nextFrame (s : State) (n : Nat) : State :=
  modTl s n (fun x => match x.tun.frame, x.tun.waiting with
    | none, (b, t) :: l => { x with tun := { x.tun with
        frame := some { tfn := x.tun.next, bytes := b, tag := t }, next := (x.tun.next + 1) % 256, waiting := l } }
    | _, _ => x)

/-- A record of this many entries finds room in staging (R400, R437). -/
def stageRoom (s : State) (ring : Nat) (r : Record) : Bool :=
  let e := evRing s ring
  decide (stagedEntries e.staging + recEntries r ≤ 1024) || e.staging.any isTel

/-- A good tunnel frame acknowledges ours and, with data, is written as a record and acknowledged. -/
def goodFrame (s : State) (n : Nat) (hdr : Word) (bytes : List Byte) : State :=
  let s := match (tl s n).tun.frame with
    | some f =>
      if f.ackDue.isSome ∧ f.tfn = bits hdr 16 8 then
        let s := modTl s n (fun x => { x with tun := { x.tun with frame := none } })
        nextFrame (endTag s f.tag stSUCCESS (BitVec.ofNat 32 f.tfn) 0) n
      else s
    | none => s
  if bytes.isEmpty then s
  else
    let tfn := bits hdr 24 8
    let r : Record := { rtype := 0x31, hdr := n * 65536 + bytes.length, time := stamp s, content := bytesWords bytes }
    if (tl s n).tun.tack = tfn then modTl s n (fun x => { x with tun := { x.tun with ackOwed := true } })
    else if on s dPPATH && stageRoom s s.hi.routeTl r then
      modTl (stage s s.hi.routeTl r) n (fun x => { x with tun := { x.tun with tack := tfn, ackOwed := true } })
    else s

/-- TUNNEL_FRAME_RECEIVED (R361): a frame that fails its CRC is discarded. -/
def execTunnelFrameReceived (n : Nat) (wave : List (Nat × Nat)) (s : State) : Host.Outcome State Fault Refusal :=
  .next (
    if tlOn s n && attached s n && modeOn s n 2 then
      let (r, s) := hear s n wave
      match r.tunnel with
      | some (hdr, bytes, crc, _) => if crc = tunnelCrc hdr bytes then goodFrame s n hdr bytes else s
      | none => s
    else s)

/-- TUNNEL_ACK_TIMEOUT: two retries, then the tunnel closes and the mode exits. -/
def execTunnelAckTimeout (n : Nat) (s : State) : Host.Outcome State Fault Refusal :=
  .next (
    if tlOn s n && attached s n then
      match (tl s n).tun.frame with
      | some f => dueThen s f.ackDue (fun s =>
          if f.tries < 2 then
            modTl s n (fun x => { x with tun := { x.tun with frame := some { f with tries := f.tries + 1, ackDue := none } } })
          else ask (raiseTlc (exitMode s n 2) n 11) n (.vdm 3 2))
      | none => s
    else s)

end Sys2Proof.Machine
end

