-- ==== Sys2Proof/Machine/TieContract.lean ====
section
/-! DEFINITION. The contract layer of a tie-link port: negotiation, keep-alives, LES swaps, re-attaches, and the host's
commands (R332-R356, R420). -/

namespace Sys2Proof.Machine

/-! ## Capabilities and identities (R335, R341, R342) -/

/-- GET_CAPS: a source in DEFAULT or DC sends CAPS. -/
def execGetCaps (n : Nat) (s : State) : Host.Outcome State Fault Refusal :=
  .next (onRx s n mGET_CAPS (fun _ s =>
    if isSrc s n && ((tl s n).cs == 1 || (tl s n).cs == 5) then answer s n mCAPS (capsObjs s n) else notSupported s n))

/-- Store the partner's capability objects; unused positions are 0 (R366). -/
def storeCaps (s : State) (n : Nat) (objs : List Word) : State :=
  let s := forEach (List.range 6) (fun i s => wr s (PARTNER n + 4 * i) (objs.getD i 0)) s
  wr s (PARTNER n + 0x18) (BitVec.ofNat 32 objs.length)

/-- CAPS (R340, R341): the request sent again waits while an own message awaits its answer (R356). -/
def execCaps (n : Nat) (s : State) : Host.Outcome State Fault Refusal :=
  .next (onRx s n mCAPS (fun r s =>
    if isSnk s n then
      let s := storeCaps s n r.objs
      if (tl s n).cs = 2 then
        let s := modTl s n (fun x => { x with capsRetry := none })
        let s :=
          if (tl s n).identSent then s
          else send (modTl s n (fun x => { x with identSent := true })) n mIDENT [rd s (TL_LINKID n)]
        let s := modTl s n (fun x => { x with own := if x.own = some .getCaps then none else x.own, ownDue := none, cs := 1 })
        ask (showContract s n) n .request
      else ask s n .request
    else notSupported s n))

/-- IDENT (R335, R341). -/
def execIdent (n : Nat) (s : State) : Host.Outcome State Fault Refusal :=
  .next (onRx s n mIDENT (fun r s =>
    let id := r.objs.headD 0
    let s := setFlag (wr (wr s (TL_PLINKID n) id) (PARTNER n + 0x3C) id) (TL_CSTATE_PID_VALID n) true
    let s :=
      if (tl s n).identSent then s
      else answer (modTl s n (fun x => { x with identSent := true })) n mIDENT [rd s (TL_LINKID n)]
    discover s n))

/-! ## Requests at the source (R344) -/

/-- A stored host verdict less than 10 s old. -/
def verdictOf (s : State) (n kind : Nat) (w : Word) : Option Bool :=
  ((tl s n).verdicts.find? (fun v => v.kind == kind && (kind != 0 || v.obj == w) && decide (s.now < v.at_ + 10000 * ms))).map (·.accept)

/-- The three verdicts, and a wait that asks the host. -/
inductive TlVerdict where
  | accept
  | reject
  | wait
  deriving DecidableEq, Repr

/-- The host-decides setting of R344 rule 6 and R349. -/
def byHost (s : State) (n kind : Nat) (w : Word) : TlVerdict :=
  match verdictOf s n kind w with
  | some true => .accept
  | some false => .reject
  | none => if hostLost s n then .reject else .wait

/-- The verdict on a request (R344). -/
def requestVerdict (s : State) (n : Nat) (w : Word) : TlVerdict :=
  if rI w ≠ 0 ∧ (!legFitted s n || decide (getF s (PP_TLCFG_IHW n) < rI w) || onBoot s) then .reject
  else if rI w = 0 then .accept
  else if equalsDc s n w then .accept
  else if !(decide (1 ≤ rPos w) && (match (advertised s n)[rPos w - 1]? with | some c => capFits c (rV w) (rI w) | none => false)) then .reject
  else match getF s (TL_CCTRL_REQ_ACC n) with
    | 1 => .accept
    | 2 => byHost s n 0 w
    | _ => .reject

/-- A swap or a re-attach is in progress. -/
def swapping (s : State) (n : Nat) : Bool := (tl s n).swap.isSome || (tl s n).reatt

/-- REQUEST (R341, R344, R355). -/
def execRequest (n : Nat) (s : State) : Host.Outcome State Fault Refusal :=
  .next (onRx s n mREQUEST (fun r s =>
    let w := r.objs.headD 0
    if !isSrc s n then notSupported s n
    else if (tl s n).cs = 4 ∨ swapping s n then answer s n mWAIT
    else match requestVerdict s n w with
      | .accept =>
        let s := answer s n mACCEPT
        if rI w = 0 then setCs (contractDefault s n) n 1
        else if equalsDc s n w then
          modTl s n (fun x => { x with kaAt := s.now, kaDue := some (s.now + 12000 * ms) })
        else
          let s := modTl s n (fun x => { x with lastReq := w, noDC := true, psDue := some (s.now + 500 * ms), kaDue := none })
          setCs (updLeg s n) n 4
      | .reject =>
        let s := answer s n mREJECT
        if equalsDc s n w then setCs (contractDefault s n) n 1 else s
      | .wait =>
        let s := modTl (wr s (PARTNER n + 0x1C) w) n (fun x => { x with pendReq := true })
        answer (raiseTlc s n 4) n mWAIT))

/-- TRANSITION_SETTLED (R341): `TLn_VS` has been within 2 % of the voltage to be contracted for 10 ms, on a leg that may carry DC
(R89). -/
def execTransitionSettled (n : Nat) (s : State) : Host.Outcome State Fault Refusal :=
  .next (
    match (if tlOn s n && legMoving s n && legFitted s n then (tleg s n).okSince else none) with
    | some t =>
      let w := (tl s n).lastReq
      let s := advance s (t + 10 * ms)
      answer (contractDc s n (rV w) (rI w)) n mPS_READY
    | none => s)

/-! ## Answers (R341, R350, R354) -/

/-- The partner has accepted an LES swap or a re-attach of this port. -/
def reattachAgreed (s : State) (n : Nat) : State :=
  let s := contractDefault (modTl s n (fun x => { x with
    own := none, ownDue := none, reatt := true, reDue := if x.reTag.isSome then some (s.now + 2000 * ms) else none })) n
  reattachNow s n

/-- ACCEPT. A request that waits to be sent again waits on where the sink goes to PS_WAIT (DESIGN CHOICE, log 94). -/
def execAccept (n : Nat) (s : State) : Host.Outcome State Fault Refusal :=
  .next (onRx s n mACCEPT (fun _ s =>
    let x := tl s n
    match x.own with
    | some .request =>
      let w := x.lastReq
      if rI w = 0 then
        let s := setCs (contractDefault s n) n 1
        sendDue (clearOwn (settleRequests s n) n) n
      else if equalsDc s n w then
        let s := modTl s n (fun x => { x with kaDue := some (s.now + 5000 * ms), noDC := false })
        let s := setCs (updLeg s n) n 5
        sendDue (clearOwn (settleRequests s n) n) n
      else
        let s := modTl s n (fun x => { x with
          noDC := true, psDue := some (s.now + 600 * ms), kaDue := none, own := none, ownDue := none
          reqDue := x.reqDue || x.wants.contains .request, wants := x.wants.filter (fun k => k ≠ .request ∧ k ≠ .keepAlive) })
        clearOwn (setCs (updLeg s n) n 4) n
    | some .lesSwap => beginSwap (clearOwn s n) n
    | some .reattach => reattachAgreed s n
    | _ => notSupported s n))

/-- REJECT. -/
def execReject (n : Nat) (s : State) : Host.Outcome State Fault Refusal :=
  .next (onRx s n mREJECT (fun _ s =>
    let x := tl s n
    match x.own with
    | some .request =>
      let w := x.lastReq
      let s := raiseTlc (if equalsDc s n w then contractDefault s n else s) n 2
      let s := endRequests s n stPARTNER_REJECT (fun v => if rI w = 0 then bits v 0 16 == 0 else v == pair16 (rV w) (rI w))
      clearOwn (holdOff s n 10000) n
    | some .lesSwap => endSwapCmd (clearOwn s n) n stPARTNER_REJECT
    | some .reattach => endReattachCmd (clearOwn s n) n stPARTNER_REJECT
    | _ => notSupported s n))

/-- WAIT. -/
def execWait (n : Nat) (s : State) : Host.Outcome State Fault Refusal :=
  .next (onRx s n mWAIT (fun _ s =>
    match (tl s n).own with
    | some .request => clearOwn (holdOff s n 1000) n
    | some .lesSwap => endSwapCmd (clearOwn s n) n stBUSY
    | some .reattach => endReattachCmd (clearOwn s n) n stBUSY
    | _ => notSupported s n))

/-- A structured request has failed or been refused: what follows it goes on (R358). -/
def vdmNak (s : State) (n : Nat) : State :=
  let s := clearOwn s n
  match (tl s n).enters with
  | m :: t => ask (modTl s n (fun x => { x with enters := t })) n (.vdm 2 m)
  | [] => s

/-- NOT_SUPPORTED: to a request it is a soft reset and a hold-off; to a structured request it counts as NAK. -/
def execNotSupported (n : Nat) (s : State) : Host.Outcome State Fault Refusal :=
  .next (onRx s n mNOT_SUPPORTED (fun _ s =>
    match (tl s n).own with
    | some .request => softHoldOff s n
    | some .lesSwap => endSwapCmd (clearOwn s n) n stPARTNER_REJECT
    | some .reattach => endReattachCmd (clearOwn s n) n stPARTNER_REJECT
    | some (.vdm _ _) => vdmNak s n
    | _ => s))

/-- PS_READY: a DC contract comes into force at the sink, unless its leg may carry no DC (R89, R98), where the sink does as when the
PS timer expires (DESIGN CHOICE, log 48); an LES swap advances (R341, R350). -/
def execPsReady (n : Nat) (s : State) : Host.Outcome State Fault Refusal :=
  .next (onRx s n mPS_READY (fun _ s =>
    let x := tl s n
    if x.swap = some .newWait then
      let s := modTl s n (fun x => { x with swap := some .newOn, swapDue := none })
      lesSwitchOn (setF s (TL_LES_LES_STATE n) 0) n
    else if x.swap = some .oldWait then
      let s := setF s (TL_ATTACH_LROLE n) 0
      let s := raiseTlc (modTl s n (fun x => { x with swap := none, swapDue := none })) n 6
      showContract (endSwapCmd s n stSUCCESS) n
    else if isSnk s n && x.cs == 4 then
      if legFitted s n then sendDue (contractDc s n (rV x.lastReq) (rI x.lastReq)) n
      else holdOff (contractDefault s n) n 10000
    else notSupported s n))

/-! ## Timers of the contract machine (R341, R343, R346, R348) -/

/-- A row for an attached port. -/
def onAtt (s : State) (n : Nat) (k : TlPort → State → State) : State := if tlOn s n && attached s n then k (tl s n) s else s

/-- RESPONSE_TIMER_EXPIRE (R341, R352): 30 ms after the acknowledgement of an own message. -/
def execResponseTimerExpire (n : Nat) (s : State) : Host.Outcome State Fault Refusal :=
  .next (onAtt s n (fun x s =>
    match x.own with
    | some .getCaps => dueThen s x.ownDue (fun s =>
        showContract (modTl (sendSoftReset s n) n (fun x => { x with capsRetry := some (s.now + 1000 * ms), cs := 2 })) n)
    | some .request => dueThen s x.ownDue (fun s => softHoldOff s n)
    | some .lesSwap => dueThen s x.ownDue (fun s => sendSoftReset s n)
    | some .reattach => dueThen s x.ownDue (fun s => sendSoftReset s n)
    | _ => s))

/-- GET_CAPS_RETRY (R341). -/
def execGetCapsRetry (n : Nat) (s : State) : Host.Outcome State Fault Refusal :=
  .next (onAtt s n (fun x s => dueThen s x.capsRetry (fun s =>
    ask (modTl s n (fun x => { x with capsRetry := none })) n .getCaps)))

/-- SINK_PS_TIMER_EXPIRE (R341): 600 ms. -/
def execSinkPsTimerExpire (n : Nat) (s : State) : Host.Outcome State Fault Refusal :=
  .next (onAtt s n (fun x s =>
    if isSnk s n && x.cs == 4 then dueThen s x.psDue (fun s => holdOff (contractDefault s n) n 10000) else s))

/-- SOURCE_PS_TIMER_EXPIRE (R341): 500 ms. -/
def execSourcePsTimerExpire (n : Nat) (s : State) : Host.Outcome State Fault Refusal :=
  .next (onAtt s n (fun x s =>
    if isSrc s n && x.cs == 4 then dueThen s x.psDue (fun s => setCs (contractDefault s n) n 1) else s))

/-- HOLDOFF_EXPIRE (R341). -/
def execHoldoffExpire (n : Nat) (s : State) : Host.Outcome State Fault Refusal :=
  .next (onAtt s n (fun x s =>
    if isSnk s n && x.cs == 6 then
      dueThen s x.holdDue (fun s => ask (modTl s n (fun x => { x with holdDue := none })) n .request)
    else s))

/-- SINK_KEEPALIVE_EXPIRE (R343): the request equal to the contract is sent, once no own message awaits its answer (R356). -/
def execSinkKeepaliveExpire (n : Nat) (s : State) : Host.Outcome State Fault Refusal :=
  .next (onAtt s n (fun x s =>
    if isSnk s n && rd s (TL_CONTRACT n) != 0 && (x.cs == 1 || x.cs == 5) then
      dueThen s x.kaDue (fun s =>
        ask (modTl s n (fun x => { x with kaDue := none })) n .keepAlive)
    else s))

/-- SOURCE_KEEPALIVE_EXPIRE (R343): 12 s. -/
def execSourceKeepaliveExpire (n : Nat) (s : State) : Host.Outcome State Fault Refusal :=
  .next (onAtt s n (fun x s => if isSrc s n then dueThen s x.kaDue (fun s => contractDefault s n) else s))

/-- TRIP_RETRY_EXPIRE (R346): 10 s after a trip the request in force is sent again, or withheld after three trips. -/
def execTripRetryExpire (n : Nat) (s : State) : Host.Outcome State Fault Refusal :=
  .next (onAtt s n (fun x s =>
    if isSnk s n then
      dueThen s x.tripDue (fun s =>
        let s := modTl s n (fun x => { x with tripDue := none })
        if flag s (TL_CSTATE_TRIP_LOCK n) then s else ask s n .request)
    else s))

/-! ## The host lost and regained (R347, R348) -/

/-- The host is lost (R347): each sink on a host request above 0 starts its 30-minute hold (R348). -/
def loseHost (s : State) : State :=
  if on s dTLPHY && s.tlHost.present && !s.tlHost.lost then
    forEach (List.range 8) (fun n s =>
      let s := setFlag s (TL_CSTATE_HOST_LOST n) true
      if isSnk s n && flag s (TL_CSTATE_HREQ n) && getF s (TL_REQ_HI n) != 0 then
        setF (modTl s n (fun x => { x with hostHold := some (s.now + 1800000 * ms) })) (TL_HOLD_HOLD_S n) 1800
      else s) { s with tlHost := { s.tlHost with lost := true } }
  else s

/-- The host issues a tie-link command: it is present, and regained (R347, R348). -/
def regainHost (s : State) : State :=
  if on s dTLPHY then
    forEach (List.range 8) (fun n s =>
      setF (setFlag (modTl s n (fun x => { x with hostHold := none })) (TL_CSTATE_HOST_LOST n) false) (TL_HOLD_HOLD_S n) 0)
      { s with tlHost := { present := true, lost := false } }
  else s

/-- HOST_LOST_HOLD_EXPIRE (R348). -/
def execHostLostHoldExpire (n : Nat) (s : State) : Host.Outcome State Fault Refusal :=
  .next (
    if tlOn s n then
      dueThen s (tl s n).hostHold (fun s =>
        let s := setF (modTl s n (fun x => { x with hostHold := none })) (TL_HOLD_HOLD_S n) 0
        let s := raiseTlc (noteCfg s (wr s (TL_REQ n) 0)) n 5
        if isSnk s n then ask (contractDefault s n) n .request else s)
    else s)

/-! ## LES swap (R349-R352) -/

/-- Of two colliding requests this port's proceeds: the higher identity, or the power-role source (R352). -/
def ownProceeds (s : State) (n : Nat) : Bool :=
  let a := (rd s (TL_LINKID n)).toNat
  let b := (rd s (TL_PLINKID n)).toNat
  if a = b then isSrc s n else decide (b < a)

/-- The own request of a type is outstanding: its transmission has started, and no answer has come (R352). -/
def outstanding (s : State) (n typ : Nat) (k : TlOwn) : Bool :=
  (tl s n).own == some k && !(tl s n).news.any (fun m => m.typ == typ)

/-- Withdraw the own request of a type: its message and its response timer go (R352). -/
def withdraw (s : State) (n typ : Nat) (k : TlOwn) : State :=
  modTl s n (fun x => { x with
    own := if x.own = some k then none else x.own
    ownDue := if x.own = some k then none else x.ownDue
    news := x.news.filter (fun m => m.typ ≠ typ)
    cur := match x.cur with | some c => if c.msg.typ = typ then none else some c | none => none
    txSeq := match x.cur with | some c => if c.msg.typ = typ then (c.seq + 1) % 16 else x.txSeq | none => x.txSeq })

/-- Answer a verdict on a swap or a re-attach. -/
def answerVerdict (s : State) (n : Nat) (v : TlVerdict) (swap : Bool) : State :=
  match v with
  | .reject => answer s n mREJECT
  | .wait =>
    let s := modTl s n (fun x => if swap then { x with pendSwap := true } else { x with pendReatt := true })
    answer (raiseTlc s n 4) n mWAIT
  | .accept =>
    if swap then
      answer (modTl s n (fun x => { x with swap := some .accepted })) n mACCEPT [] .swapAccepted
    else
      let s := contractDefault (modTl s n (fun x => { x with reatt := true })) n
      showContract (answer s n mACCEPT [] .reattachAccepted) n

/-- Answer by a setting of `LSW_ACC` or `RA_ACC` (R349, R353): while the host is lost, 2 gives REJECT, whatever verdict is stored. -/
def answerBy (s : State) (n acc kind : Nat) (swap : Bool) : State :=
  answerVerdict s n (match acc with | 1 => .accept | 2 => (if hostLost s n then .reject else byHost s n kind 0) | _ => .reject) swap

/-- LES_SWAP (R349, R352, R355). -/
def execLesSwap (n : Nat) (s : State) : Host.Outcome State Fault Refusal :=
  .next (onRx s n mLES_SWAP (fun _ s =>
    let out := outstanding s n mLES_SWAP .lesSwap
    if swapping s n then notSupported s n
    else if outstanding s n mREATTACH .reattach then answer s n mWAIT
    else if out && ownProceeds s n then s
    else
      let s := if out then
          modTl (raiseTlc (withdraw s n mLES_SWAP .lesSwap) n 7) n (fun x => { x with swapLost := true })
        else s
      let s := if !swapOk s n then answer s n mREJECT else answerBy s n (getF s (TL_CCTRL_LSW_ACC n)) 1 true
      let s := if (tl s n).swap.isSome then withdraw s n mLES_SWAP .lesSwap else s
      if (tl s n).swapLost ∧ (tl s n).swap.isNone then endSwapCmd s n (if (tl s n).pendSwap then stBUSY else stPARTNER_REJECT)
      else s))

/-- REATTACH (R353-R355). -/
def execReattach (n : Nat) (s : State) : Host.Outcome State Fault Refusal :=
  .next (onRx s n mREATTACH (fun _ s =>
    let lost := outstanding s n mREATTACH .reattach
    if swapping s n then notSupported s n
    else if outstanding s n mLES_SWAP .lesSwap then answer s n mWAIT
    else if lost && ownProceeds s n then s
    else
      let s := if lost then raiseTlc (withdraw s n mREATTACH .reattach) n 7 else s
      let s := if bootSrc s n then answer s n mREJECT else answerBy s n (getF s (TL_CCTRL_RA_ACC n)) 2 false
      if (tl s n).reatt then
        modTl (withdraw s n mREATTACH .reattach) n (fun x => { x with reDue := if x.reTag.isSome then some (s.now + 2000 * ms) else none })
      else if lost then endReattachCmd s n (if (tl s n).pendReatt then stBUSY else stPARTNER_REJECT)
      else s))

/-- LES_SWAP_OFF_DONE (R350): the old source reads below 2.0 V. -/
def execLesSwapOffDone (n : Nat) (s : State) : Host.Outcome State Fault Refusal :=
  .next (onAtt s n (fun x s =>
    if x.swap = some .oldOff ∧ x.pinLes < 2000 then
      let s := modTl s n (fun x => { x with swap := some .oldWait, swapDue := some (s.now + 150 * ms) })
      answer s n mPS_READY
    else s))

/-- LES_SWAP_ON_DONE (R350): the new source reads 11.40 V. -/
def execLesSwapOnDone (n : Nat) (s : State) : Host.Outcome State Fault Refusal :=
  .next (onAtt s n (fun x s =>
    if x.swap = some .newOn ∧ 11400 ≤ x.pinLes then
      answer (modTl s n (fun x => { x with swap := some .newDone })) n mPS_READY [] .swapDone
    else s))

/-- LES_SWAP_STEP_TIMEOUT (R351): 150 ms. -/
def execLesSwapStepTimeout (n : Nat) (s : State) : Host.Outcome State Fault Refusal :=
  .next (onAtt s n (fun x s => if x.swap.isSome then dueThen s x.swapDue (fun s => sendSoftReset s n) else s))

/-! ## Commands (R415, R418, R420) -/

/-- A started tie-link command: it regains the host (R347) and acts on its port. -/
def tlCmd (s : State) (t op : Nat) (k : Tag → Nat → State → State) : State :=
  match startedAs s t op with
  | some x => k x (selPort (x.word 1)) (regainHost s)
  | none => s

/-- The capability objects a TL_ADVERTISE names come into force on a port (R342). -/
def advertise (s : State) (n : Nat) (x : Tag) : State :=
  let k := bits (x.param 6) 0 3
  let new := (List.range 6).map (fun i => if i < k then x.param i else 0)
  let changed := new != (List.range 6).map (fun i => rd s (TL_CAPS n i))
  let s := noteCfg s (forEach (List.range 6) (fun i s => wr s (TL_CAPS n i) (new.getD i 0)) s)
  if changed && isSrc s n then send s n mCAPS (capsObjs s n) else s

/-- TL_ADVERTISE (R342, R418). -/
def execTlAdvertise (t : Nat) (s : State) : Host.Outcome State Fault Refusal :=
  .next (tlCmd s t 0x38 (fun x n s =>
    if !tlOn s n then endSt s t stSTATE
    else if flag s (TL_CFG_LOCK n) then endSt s t stLOCKED
    else endSt (advertise s n x) t stSUCCESS))

/-- TL_REQUEST (R339, R346, R420). -/
def execTlRequest (t : Nat) (s : State) : Host.Outcome State Fault Refusal :=
  .next (tlCmd s t 0x39 (fun x n s =>
    if !(tlOn s n && attached s n) then endTag s t stNOT_ATTACHED (rd s (TL_CONTRACT n)) (rd s (TL_CSTATE n))
    else if isSrc s n then endTag s t stSTATE (rd s (TL_CONTRACT n)) (rd s (TL_CSTATE n))
    else
      let w := x.param 0
      let old := requestInForce s n
      let s := setFlag (noteCfg s (wr s (TL_REQ n) w)) (TL_CSTATE_HREQ n) true
      let s := updStanding (setFlag s (TL_CSTATE_TRIP_LOCK n) false) n
      let s := modTl s n (fun x => { x with trips := [], reqTags := x.reqTags ++ [(t, w, s.now + 5000 * ms)] })
      let s := settleRequests (runTag s t) n
      if requestInForce s n = old ∧ (tl s n).cs ≠ 1 then s else requestChanged s n))

/-- TL_REQUEST_TIMEOUT (R420): 5 s. -/
def execTlRequestTimeout (t : Nat) (s : State) : Host.Outcome State Fault Refusal :=
  .next (
    match s.tls.find? (fun e => e.2.reqTags.any (fun r => r.1 == t)) with
    | some (n, p) =>
      match p.reqTags.find? (fun r => r.1 == t) with
      | some (_, _, due) =>
        let s := modTl (advance s due) n (fun x => { x with reqTags := x.reqTags.filter (fun r => r.1 ≠ t) })
        endTag s t stTIMEOUT (rd s (TL_CONTRACT n)) (rd s (TL_CSTATE n))
      | none => s
    | none => s)

/-- TL_ACCEPT (R344, R349, R353, R420). -/
def execTlAccept (t : Nat) (s : State) : Host.Outcome State Fault Refusal :=
  .next (tlCmd s t 0x3A (fun x n s =>
    let k := low2 (x.param 0)
    let p := tl s n
    let w := x.param 1
    let pend := if k = 0 then p.pendReq && w == rd s (PARTNER n + 0x1C) else if k = 1 then p.pendSwap else p.pendReatt
    if !tlOn s n || !pend then endSt s t stSTATE
    else
      let v : Verdict := ⟨k, if k = 0 then w else 0, (x.param 0).getLsbD 8, s.now⟩
      let s := modTl s n (fun y => { y with
        verdicts := v :: y.verdicts.filter (fun u => u.kind ≠ k ∨ u.obj ≠ v.obj)
        pendReq := if k = 0 then false else y.pendReq
        pendSwap := if k = 1 then false else y.pendSwap
        pendReatt := if k = 2 then false else y.pendReatt })
      endSt s t stSUCCESS))

/-- TL_VENDOR (R357, R413, R420). -/
def execTlVendor (t : Nat) (s : State) : Host.Outcome State Fault Refusal :=
  .next (tlCmd s t 0x3B (fun x n s =>
    let objs := bytesWords x.src
    let h := objs.headD 0
    if !(tlOn s n && attached s n) then endSt s t stNOT_ATTACHED
    else if bits h 16 16 = 0x4F4A ∧ h.getLsbD 15 then endSt s t stCHECK_FAILED
    else send (pendTag s t) n mVENDOR objs (.vendor t)))

/-- TL_LES_SWAP (R349, R420). -/
def execTlLesSwap (t : Nat) (s : State) : Host.Outcome State Fault Refusal :=
  .next (tlCmd s t 0x3C (fun _ n s =>
    if !(tlOn s n && attached s n) then endTag s t stNOT_ATTACHED 0 (rd s (TL_ATTACH n))
    else if !swapOk s n then endTag s t stSTATE 0 (rd s (TL_ATTACH n))
    else if swapping s n || (tl s n).swapTag.isSome then endTag s t stBUSY 0 (rd s (TL_ATTACH n))
    else ask (modTl (pendTag s t) n (fun x => { x with swapTag := some t })) n .lesSwap))

/-- TL_REATTACH (R353, R420). -/
def execTlReattach (t : Nat) (s : State) : Host.Outcome State Fault Refusal :=
  .next (tlCmd s t 0x3D (fun _ n s =>
    if !(tlOn s n && attached s n) then endTag s t stNOT_ATTACHED (rd s (TL_ATTACH n)) 0
    else if !pidValid s n || bootSrc s n then endTag s t stSTATE (rd s (TL_ATTACH n)) 0
    else if swapping s n || (tl s n).reTag.isSome then endTag s t stBUSY (rd s (TL_ATTACH n)) 0
    else ask (modTl (pendTag s t) n (fun x => { x with reTag := some t, reRole := 1 - prole s n, reDue := none })) n .reattach))

/-- TL_REATTACH_TIMEOUT (R420): 2 s after the ACCEPT. -/
def execTlReattachTimeout (t : Nat) (s : State) : Host.Outcome State Fault Refusal :=
  .next (
    match s.tls.find? (fun e => e.2.reTag == some t) with
    | some (n, p) => dueThen s p.reDue (fun s => endReattachCmd s n stTIMEOUT)
    | none => s)

/-- TUNNEL_SEND (R361, R420). -/
def execTunnelSend (t : Nat) (s : State) : Host.Outcome State Fault Refusal :=
  .next (tlCmd s t 0x3E (fun x n s =>
    if !(tlOn s n && attached s n) then endSt s t stNOT_ATTACHED
    else if !modeOn s n 2 then endSt s t stSTATE
    else
      let s := modTl (pendTag s t) n (fun y => { y with tun := { y.tun with waiting := y.tun.waiting ++ [(x.src, t)] } })
      nextFrame s n))

/-! ## Register writes (R339, R346) -/

/-- TL_REVREQ_WRITE: the standing request changes and `TRIP_LOCK` is cleared, unless the port is locked. -/
def tlRevreqWrite (s : State) (n : Nat) (v : Word) : State :=
  if tlOn s n && !flag s (TL_CFG_LOCK n) then
    let old := requestInForce s n
    let was := flag s (TL_CSTATE_TRIP_LOCK n)
    let s := setFlag (wr s (TL_REVREQ n) v) (TL_CSTATE_TRIP_LOCK n) false
    let s := modTl s n (fun x => { x with trips := [] })
    if requestInForce s n = old ∧ !was then s else requestChanged s n
  else s
def execTlRevreqWrite (n : Nat) (v : Word) (s : State) : Host.Outcome State Fault Refusal := .next (noteCfg s (tlRevreqWrite s n v))

/-- A word of `PP_TLCFG` written (R89, R337): with `PRESENT` or `IHW` written 0 a DC contract ends. -/
def ppTlcfgWrite (s : State) (n : Nat) (v : Word) : State :=
  let s := wr s (PP_TLCFG n) v
  if flag s (PP_TLCFG_PRESENT n) && getF s (PP_TLCFG_IHW n) != 0 then updLeg s n else contractDefault s n

end Sys2Proof.Machine
end

