-- ==== Sys2Proof/Machine/TieModes.lean ====
section
/-! DEFINITION. The alternate modes of a tie-link port (R357-R363). -/

namespace Sys2Proof.Machine

/-! ## Layout of a vendor header (R357) -/

def vVid (w : Word) : Nat := bits w 16 16
def vVer (w : Word) : Nat := bits w 13 2
def vType (w : Word) : Nat := bits w 8 2
def vMode (w : Word) : Nat := bits w 4 4
def vCmd (w : Word) : Nat := bits w 0 4
def isStructured (w : Word) : Bool := vVid w == 0x4F4A && w.getLsbD 15

/-- ACK and NAK of a structured request. -/
def vdmAck (s : State) (n : Nat) (w : Word) (objs : List Word) : State :=
  answer s n mVENDOR (vdmHeader 1 (vMode w) (vCmd w) :: objs)
def vdmRefuse (s : State) (n : Nat) (w : Word) : State := answer s n mVENDOR [vdmHeader 2 (vMode w) (vCmd w)]

/-! ## Digest, time and budget as received (R359, R360, R363) -/

/-- The module's own digest (low, high) and its epoch (R591). -/
def ownDigest (s : State) : Word × Word × Word := (rd s GL_DIGEST_LO, rd s GL_DIGEST_HI, rd s GL_CFGGEN)

/-- DIGEST received: the partner record takes it; a different digest at the same epoch is flagged (R359). -/
def takeDigest (s : State) (n : Nat) (lo hi ep : Word) : State :=
  let a := PARTNER n
  let s := wr (wr (wr (wr (wr s (a + 0x20) lo) (a + 0x24) hi) (a + 0x28) ep) (a + 0x2C) (lo32 (stamp s))) (a + 0x30) (hi32 (stamp s))
  let (l, h, e) := ownDigest s
  if ep = e ∧ (lo ≠ l ∨ hi ≠ h) then raiseTlc s n 10 else s

/-- The offset of the partner's time (R360): ((t2 − t1) − (t4 − t3))/2, saturating. -/
def timeOffset (t1 t2 t3 t4 : Nat) : Int :=
  clampI (-(2 ^ 31 - 1)) (2 ^ 31 - 1) (divTrunc (((t2 : Int) - t1) - ((t4 : Int) - t3)) 2)

/-- A 64-bit number of two objects, low word first. -/
def obj64 (l : List Word) (i : Nat) : Nat := (l.getD i 0).toNat + 2 ^ 32 * (l.getD (i + 1) 0).toNat

/-- BUDGET received (R363). -/
def takeBudget (s : State) (n : Nat) (objs : List Word) : State :=
  let w := objs.getD 1 0
  let s := setF (setF (setF s (TL_FLEET_P_EXP_I n) (bits w 16 16)) (TL_FLEET_P_RES_OK n) (bits w 15 1)) (TL_FLEET_F_AGE n) 0
  let s := wr (wr s (PARTNER n + 0x34) (objs.getD 2 0)) (PARTNER n + 0x38) (objs.getD 3 0)
  updLeg (modTl s n (fun x => { x with budgetAt := some s.now })) n

/-! ## VENDOR (R357, R358) -/

/-- A structured request. -/
def vdmRequest (s : State) (n : Nat) (r : TlRx) : State :=
  let w := r.objs.headD 0
  let m := vMode w
  match vCmd w with
  | 1 => if isSrc s n then vdmAck s n w [BitVec.ofNat 32 (2 * getF s (TL_CCTRL_MODE_EN n))] else vdmRefuse s n w
  | 2 =>
    if isSrc s n && decide (1 ≤ m) && decide (m ≤ 3) && modeEn s n m then
      vdmAck (if modeOn s n m then s else enterMode s n m) n w []
    else vdmRefuse s n w
  | 3 => if 1 ≤ m ∧ m ≤ 3 then vdmAck (exitMode s n m) n w [] else vdmRefuse s n w
  | 8 =>
    if m = 1 ∧ modeOn s n 1 ∧ r.objs.length = 4 then takeDigest s n (r.objs.getD 1 0) (r.objs.getD 2 0) (r.objs.getD 3 0)
    else if m = 3 ∧ modeOn s n 3 ∧ r.objs.length = 4 then takeBudget s n r.objs
    else vdmRefuse s n w
  | 9 =>
    if m = 1 ∧ modeOn s n 1 ∧ isSrc s n then answer s n mVENDOR [vdmHeader 1 1 10] (.syncResp r.hold)
    else vdmRefuse s n w
  | _ => vdmRefuse s n w

/-- A SYNC_RESP whose SYNC_REQ is outstanding: the offset is written. -/
def syncResponse (s : State) (n : Nat) (r : TlRx) : State :=
  if (tl s n).own = some (.vdm 9 1) ∧ r.objs.length = 5 then
    let o := timeOffset (tl s n).syncT1 (obj64 r.objs 1) (obj64 r.objs 3) r.hold
    clearOwn (setI s (TL_TSOFS_TSOFS n) o) n
  else s

/-- An ACK of a structured request: entry goes on mode by mode (R358). -/
def vdmAcked (s : State) (n : Nat) (r : TlRx) : State :=
  let w := r.objs.headD 0
  if vCmd w = 10 then syncResponse s n r
  else if (tl s n).own ≠ some (.vdm (vCmd w) (vMode w)) then s
  else
    let m := vMode w
    if vCmd w = 1 then
      let both := [1, 2, 3].filter (fun k => modeEn s n k && (r.objs.getD 1 0).getLsbD k && !modeOn s n k)
      vdmNak (modTl s n (fun x => { x with enters := both })) n
    else if vCmd w = 2 then vdmNak (if modeEn s n m && !modeOn s n m then enterMode s n m else s) n
    else clearOwn s n

/-- A structured message. -/
def structured (s : State) (n : Nat) (r : TlRx) : State :=
  let w := r.objs.headD 0
  match vType w with
  | 0 => if vVer w ≠ 0 then vdmRefuse s n w else if vCmd w = 10 then syncResponse s n r else vdmRequest s n r
  | 1 => vdmAcked s n r
  | _ => if (tl s n).own = some (.vdm (vCmd w) (vMode w)) then vdmNak s n else s

/-- VENDOR (R357): a structured message is handled; any other is passed to the host or answered NOT_SUPPORTED. -/
def execVendor (n : Nat) (s : State) : Host.Outcome State Fault Refusal :=
  .next (onRx s n mVENDOR (fun r s =>
    if isStructured (r.objs.headD 0) then structured s n r
    else if flag s (TL_CCTRL_VDM_PASS n) then
      raiseTlc (stage s s.hi.routeTl
        { rtype := 0x30, hdr := n * 65536 + r.objs.length, time := stamp s, content := r.objs }) n 8
    else notSupported s n))

/-- VDM_TIMEOUT (R358): no answer for 30 ms counts as NAK. -/
def execVdmTimeout (n : Nat) (s : State) : Host.Outcome State Fault Refusal :=
  .next (onAtt s n (fun x s =>
    match x.own with
    | some (.vdm _ _) => dueThen s x.ownDue (fun s => vdmNak s n)
    | _ => s))

/-! ## What the modes send (R359, R360, R363) -/

/-- DIGEST_SEND: every 10 s, or at once when the digest has changed. -/
def execDigestSend (n : Nat) (s : State) : Host.Outcome State Fault Refusal :=
  .next (onAtt s n (fun x s =>
    if modeOn s n 1 then
      let d := ownDigest s
      let changed := match x.digSent with | some (l, h, _) => l != d.1 || h != d.2.1 | none => false
      let s := if changed then s else advance s x.digDue
      let s := modTl s n (fun x => { x with digSent := some d, digDue := s.now + 10000 * ms })
      send s n mVENDOR [vdmHeader 0 1 8, d.1, d.2.1, d.2.2]
    else s))

/-- SYNC_SEND: a sink's exchange, every 1 s. -/
def execSyncSend (n : Nat) (s : State) : Host.Outcome State Fault Refusal :=
  .next (onAtt s n (fun x s =>
    if modeOn s n 1 && isSnk s n then
      let s := advance s x.syncDue
      ask (modTl s n (fun x => { x with syncDue := s.now + 1000 * ms })) n (.vdm 9 1)
    else s))

/-- The values of a BUDGET (R363): `EXP_I` (10 mA), from P_B in W, P_B (10 W) and E_avail (10 Wh) of the latest pour. -/
def budgetOf (s : State) (n : Nat) : Int × Int × Int :=
  let pb := getI s PT_LOAD_P_BUDGET
  let w : Rat := if s.lad.pb < 0 then 0 else s.lad.pb
  let vs := (tabGet (fun _ => ({} : Conv)) s.legs (4 + n)).vb
  let e : Nat := if isSrc s n ∧ 0 < vs then min (getF s (TL_CONTRACT_CI n)) (w * 100000 / (vs : Rat)).floor.toNat else 0
  (e, pb, getF s PT_RES_RES_AVAIL)

/-- A value differs by more than 5 % from the one last sent. -/
def differs5 (a b : Int) : Bool := decide (b.natAbs < 20 * (a - b).natAbs)

/-- BUDGET_SEND: after a pour whose values differ by more than 5 % from those last sent, and at least every 1 s. -/
def execBudgetSend (n : Nat) (s : State) : Host.Outcome State Fault Refusal :=
  .next (onAtt s n (fun x s =>
    if modeOn s n 3 then
      let b := budgetOf s n
      let changed := match x.budSent with
        | some o => differs5 b.1 o.1 || differs5 b.2.1 o.2.1 || differs5 b.2.2 o.2.2
        | none => true
      let s := if changed then s else advance s x.budDue
      let s := modTl s n (fun x => { x with budSent := some b, budDue := s.now + 1000 * ms })
      let w := BitVec.ofNat 32 (b.1.toNat * 65536 + getF s LD_STATUS_RES_OK * 32768)
      send s n mVENDOR [vdmHeader 0 3 8, w, BitVec.ofInt 32 b.2.1, BitVec.ofInt 32 b.2.2]
    else s))

/-- TL_CCTRL_WRITE (R358): clearing a `MODE_EN` bit sends EXIT for that mode, to an attached partner; setting one discovers again. -/
def tlCctrlWrite (s : State) (n : Nat) (v : Word) : State :=
  if tlOn s n && !flag s (TL_CFG_LOCK n) then
    let old := getF s (TL_CCTRL_MODE_EN n)
    let s := wr s (TL_CCTRL n) (v &&& 0x0071FC00)
    let s := forEach [1, 2, 3] (fun m s =>
      if attached s n && old.testBit (m - 1) && !modeEn s n m then ask (exitMode s n m) n (.vdm 3 m) else s) s
    if [1, 2, 3].any (fun m => modeEn s n m && !old.testBit (m - 1)) then discover s n else s
  else s
def execTlCctrlWrite (n : Nat) (v : Word) (s : State) : Host.Outcome State Fault Refusal := .next (noteCfg s (tlCctrlWrite s n v))

end Sys2Proof.Machine
end

