-- ==== Sys2Proof/Machine/BlackBox.lean ====
section
/-! DEFINITION. The black box (R548-R557): ingots, the mirrored rings, the reading of a pair of copies, the log queue
and replace request (R558-R561). -/

namespace Sys2Proof.Machine

/-! ## Ingots (R548) -/

/-- Slots of a ring. -/
def ringSlots : Nat := 32768

/-- The 64 words of an ingot: content after four header words, the CRC over the first 62, the commit word. -/
def ingotWords (seq itype : Nat) (pin : Bool) (time : Nat) (content : List Word) : List Word :=
  let h := BitVec.ofNat 32 (itype * 2 ^ 24 + (if pin then 2 ^ 23 else 0) + 4 * content.length)
  let body := BitVec.ofNat 32 seq :: h :: lo32 time :: hi32 time ::
    (content.take 58 ++ List.replicate (58 - content.length) 0)
  body ++ [crc32cWords body, BitVec.ofNat 32 seq ^^^ 0xFFFFFFFF]

/-- Sequence number, type and `PINNED` of a copy. -/
def iSeq (c : List Word) : Nat := (c.getD 0 0).toNat
def iType (c : List Word) : Nat := bits (c.getD 1 0) 24 8
def iPinned (c : List Word) : Bool := (c.getD 1 0).getLsbD 23
/-- Content word `i`. -/
def iWord (c : List Word) (i : Nat) : Word := c.getD (4 + i) 0
/-- The data of a copy, +0x00 to +0xF7. -/
def iData (c : List Word) : List Word := c.take 62

/-- The commit word matches. -/
def copyDone (c : List Word) : Bool := c.length == 64 && c.getD 63 0 == (c.getD 0 0 ^^^ 0xFFFFFFFF)
/-- The copy is good: the CRC matches as well. -/
def copyGood (c : List Word) : Bool := copyDone c && crc32cWords (iData c) == c.getD 62 0

/-- A copy with `PINNED` set as given and its CRC recomputed. -/
def rePin (c : List Word) (pin : Bool) : List Word :=
  let w := c.getD 1 0
  let body := (iData c).set 1 (if pin then w ||| 0x800000 else w &&& ~~~0x800000)
  body ++ [crc32cWords body, c.getD 63 0]

/-! ## Counting corrected errors (R561) -/

/-- `CE_HOUR` from its bins; a rate above the threshold sends CE_RATE once per bin. -/
def updCe (s : State) : State :=
  let n := s.fc.ceBins.sum
  let s := setF s FC_CE_CE_HOUR (satTo 65535 n)
  if getF s FC_CE_CE_TH < n ∧ !s.fc.ceSent then
    fault { s with fc := { s.fc with ceSent := true } } 0x3B 2 (srcBlock 0x008) (BitVec.ofNat 32 (satTo 65535 n))
  else s

/-- One more corrected error in the present bin. -/
def countCe (s : State) : State :=
  updCe { s with fc := { s.fc with ceBins := match s.fc.ceBins with | [] => [1] | b :: t => (b + 1) :: t } }

/-! ## Slots and their reading (R553, R554) -/

def slot (s : State) (i : Nat) : Slot := tabGet (fun _ => {}) s.bb.slots i
def setSlot (s : State) (i : Nat) (x : Slot) : State :=
  { s with bb := { s.bb with slots := tabSet (fun _ => {}) s.bb.slots i x } }

/-- What reading a pair of copies gives: empty, unreadable, or a copy, with what it counts: 0 nothing, 1 incomplete,
2 check only, 3 data repair, 4 a rewrite that counts nothing. -/
inductive PairRead where
  | empty
  | unreadable
  | copy (c : List Word) (counted : Nat)
  deriving DecidableEq, Repr

/-- R553. -/
def readPair (a b : List Word) : PairRead :=
  if copyGood a && copyGood b then
    if iData a = iData b then .copy a 0
    else if iSeq a ≠ iSeq b then .copy (if iSeq b < iSeq a then a else b) 1
    else if iData (rePin a false) = iData (rePin b false) then .copy a 4
    else .unreadable
  else if copyGood a || copyGood b then
    let g := if copyGood a then a else b
    let x := if copyGood a then b else a
    .copy g (if !copyDone x then 1 else if iData x = iData g then 2 else 3)
  else if !copyDone a && !copyDone b then .empty
  else .unreadable

/-- A pair of mirrored copies has been read and, with `k` from 1, repaired (R553, R554): counts, event and message; `q` is the
sequence number, `inj` that the check was stored inverted by an injection (R546). -/
def mirrorRead (s : State) (k : Nat) (q : Word) (inj : Bool := false) : State :=
  let s := if k = 0 then s else raise s FC_EVENT 0x40
  match k with
  | 1 => incSat s FC_BBERR2_INCOMPLETE
  | 2 => sendFault (incSat s FC_BBERR_CHECK_ONLY) { kind := 0x38, sev := 0, src := srcBlock 0x009, ctx := q, inj }
  | 3 => fault (countCe (incSat s FC_BBERR_DATA_REPAIR)) 0x39 1 (srcBlock 0x009) q
  | _ => s

/-- Neither copy of a pair is accepted. -/
def mirrorUnreadable (s : State) (i : Nat) : State :=
  fault (raise (incSat s FC_BBERR2_UNREADABLE) FC_EVENT 0x80) 0x39 1 (srcBlock 0x009) (BitVec.ofNat 32 i)

/-- The slot after the latest ingot, past pinned and skipped ones. -/
def nextSlot (s : State) : Nat :=
  let from_ := match s.bb.latest with | some i => i + 1 | none => 0
  let bad (i : Nat) : Bool := s.bb.skipped.contains i || s.bb.pinned.any (fun p => p.2 == i)
  ((List.range (s.bb.pinned.length + s.bb.skipped.length + 1)).map (fun j => (from_ + j) % ringSlots)).find? (fun i => !bad i)
    |>.getD (from_ % ringSlots)

/-- A slot reads back wrong twice: it is skipped for the rest of the power cycle, with its message (R550). -/
def skipSlot (s : State) (i : Nat) : State :=
  let s := { s with bb := { s.bb with skipped := s.bb.skipped ++ [i] } }
  fault (setF s FC_BB_SKIPPED (satTo 65535 s.bb.skipped.length)) 0x3A 2 (srcBlock 0x009) (BitVec.ofNat 32 i)

/-- The slot a write comes to: worn ones on the way are skipped (R550). -/
def goodSlotFrom : Nat → State → Nat × State
  | 0, s => (nextSlot s, s)
  | n + 1, s => if (slot s (nextSlot s)).worn then goodSlotFrom n (skipSlot s (nextSlot s)) else (nextSlot s, s)
def goodSlot (s : State) : Nat × State := goodSlotFrom (s.bb.slots.filter (fun e => e.2.worn)).length s

/-- Both copies of an accepted ingot are written again at its slot, or, where that is worn, at the next slot, after which the ring then
goes on (R550, R553; DESIGN CHOICE, log 101). The slot it stands at after that. -/
def rewriteSlot (s : State) (i : Nat) (c : List Word) : Nat × State :=
  if (slot s i).worn then
    let (j, s) := goodSlot (skipSlot s i)
    (j, setSlot { s with bb := { s.bb with latest := some j, pinned := s.bb.pinned.map (fun p => if p.2 = i then (p.1, j) else p) } } j { a := c, b := c })
  else (i, setSlot s i { a := c, b := c })

/-- Read a slot and repair it (R553): the accepted copy, if any, with its slot. -/
def readSlot (s : State) (i : Nat) : Option (Nat × List Word) × State :=
  let x := slot s i
  match readPair x.a x.b with
  | .empty => (none, s)
  | .unreadable => (none, mirrorUnreadable s i)
  | .copy c k =>
    let (j, s) := if k = 0 then (i, s) else rewriteSlot s i c
    (some (j, c), mirrorRead s k (BitVec.ofNat 32 (iSeq c)) (k == 2 && x.inj))

/-- Read every slot that holds anything, in order: the accepted copies with their slots. -/
def readAll (s : State) : List (Nat × List Word) × State :=
  s.bb.slots.foldl (fun (acc : List (Nat × List Word) × State) e =>
    let (c, s) := readSlot acc.2 e.1
    (match c with | some c => acc.1 ++ [c] | none => acc.1, s)) ([], s)

/-- Insert by rising sequence number. -/
def insSeq (x : Nat × List Word) : List (Nat × List Word) → List (Nat × List Word)
  | [] => [x]
  | y :: t => if iSeq x.2 ≤ iSeq y.2 then x :: y :: t else y :: insSeq x t
def sortSeq (l : List (Nat × List Word)) : List (Nat × List Word) := l.foldr insSeq []

/-- One of every two ingots of one number, which a slot that was given up may leave. -/
def oneEach (l : List (Nat × List Word)) : List (Nat × List Word) :=
  l.foldr (fun x m => match m with | y :: _ => if iSeq x.2 = iSeq y.2 then m else x :: m | [] => [x]) []

/-! ## The log queue (R551) -/

def updLogq (s : State) : State := setF s FC_STATUS_LOGQ (min 512 s.fc.logq.length)

/-- A message that is not logged is counted by kind for the next summary. -/
def summarise (s : State) (kind : Nat) : State :=
  let f := s.fc
  let start := if f.summary.isEmpty then stamp s else f.sumStart
  let s := { s with fc := { f with
    sumStart := start
    summary := tabSet (fun _ => 0) f.summary kind (satTo 65535 (tabGet (fun _ => 0) f.summary kind + 1)) } }
  incSat s FC_LOST_SUMMARISED

/-- Remove the newest queued message of severity below Major. -/
def dropMinorItem (l : List LogItem) : Option (LogItem × List LogItem) :=
  match l.reverse.findIdx? (fun y => y.budgeted && decide (y.sev < 2)) with
  | none => none
  | some i => match l.reverse[i]? with
    | some y => some (y, (l.reverse.eraseIdx i).reverse)
    | none => none

/-- Put an ingot on the log queue: 512 entries for messages, under the displacement rule of R30. The other types are written whatever comes
(R551). -/
def logPush (s : State) (x : LogItem) : State :=
  if !on s dBBOX then s
  else
    let q := s.fc.logq
    if !x.budgeted || decide ((q.filter (fun y => y.budgeted)).length < 512) then updLogq { s with fc := { s.fc with logq := q ++ [x] } }
    else if x.sev < 2 then summarise s x.kind
    else match dropMinorItem q with
      | some (y, q') => updLogq (summarise { s with fc := { s.fc with logq := q' ++ [x] } } y.kind)
      | none => summarise s x.kind

/-- An ingot of a type outside the budget. -/
def logOther (s : State) (itype : Nat) (content : List Word) (pin : Bool := false) : State :=
  logPush s { itype, time := stamp s, content, pin }

/-! ## Replace request (R558-R560) -/

/-- `REPLACE` is asserted while any cause is set (R559). -/
def updReplace (s : State) : State := setFlag s FC_STATUS_REPLACE (getF s FC_REPLACE_CAUSES != 0)

/-- The replace causes become `v`: each change writes a replace ingot and sets `REPLACE` (R559). -/
def setCauses (s : State) (v : Nat) : State :=
  if !on s dBBOX || getF s FC_REPLACE_CAUSES == v then s
  else
    let s := updReplace (setF s FC_REPLACE_CAUSES v)
    let s := logOther s 0x07 [BitVec.ofNat 32 v, BitVec.ofNat 32 (getF s WD_COUNTS_HRST_COUNT)] true
    raise s FC_EVENT 2

/-- A replace cause is set. -/
def setCause (s : State) (bit : Nat) : State := setCauses s (getF s FC_REPLACE_CAUSES ||| 2 ^ bit)

/-- A flask bank is offline (R560). -/
def bankOffline (s : State) (k b : Nat) : Bool :=
  (!on s (dBANK k b) && !s.pw.offByRequest.getLsbD (dBANK k b)) || !online s k ||
  (List.range 4).all (fun j =>
    let f := 16 * k + 4 * b + j
    flaskHeld s f && (flask s f).holds.any (fun r => r ≠ 1 && r ≠ 5 && r ≠ 17))

/-- Number of offline banks. -/
def banksOff (s : State) : Nat :=
  ((List.range s.part.regions).flatMap (fun k => (List.range 4).filter (fun b => bankOffline s k b))).length

/-- The lasting conditions of replace request, evaluated once start-up has ended (R558, R560, R561): one that holds sets its cause; the
first evaluation clears restored causes whose condition no longer holds (R559). -/
def updConditions (s : State) : State :=
  if on s dBBOX && s.fc.condOn then
    let n := banksOff s
    let s := setF s FC_STATUS_BANKS_OFF n
    let v := getF s FC_REPLACE_CAUSES &&& (if s.fc.restored then 0x63 else 0x7F)
    let s := { s with fc := { s.fc with restored := false } }
    let v := v ||| (if 2 < n then 4 else 0) ||| (if getF s FC_CE_CE_TH < s.fc.ceBins.sum then 8 else 0) |||
      (if 900 < getF s FC_BB_BB_WEAR then 16 else 0)
    setCauses s v
  else s

/-! ## Writing (R545, R550, R551) -/

/-- `BB_WEAR` of a greatest sequence number (R560). -/
def bbWearOf (seq : Nat) : Nat := satTo 1000 (1000 * seq / 3276800000)

def updPins (s : State) : State := setF s FC_STATUS_PINS s.bb.pinned.length

/-- Every sequence number has been used: no further ingot is written (R650). -/
def ringSpent (s : State) : Bool := decide (2 ^ 32 ≤ s.bb.nextSeq)

/-- An ingot of a type outside the budget spends its second (R551). -/
def spendOther (s : State) (x : LogItem) : State :=
  if x.budgeted || x.itype = 0x04 then s else { s with fc := { s.fc with otherAt := max s.fc.otherAt s.now + 1000000000 } }

/-- Write an ingot at the next good slot: both copies; a queued injection of checker 5 stores copy B with its CRC inverted. -/
def writeIngot (s : State) (x : LogItem) : State :=
  if ringSpent s then s else
  let (i, s) := goodSlot (spendOther s x)
  let seq := s.bb.nextSeq
  let pin := x.pin && decide (s.bb.pinned.length < 16)
  let w := ingotWords seq x.itype pin x.time x.content
  let (inj, s) := injectOne s 5
  let s := setSlot s i { a := w, b := if inj then w.set 62 (~~~(w.getD 62 0)) else w, inj }
  let s := { s with bb := { s.bb with
    latest := some i, nextSeq := seq + 1, pinned := if pin then s.bb.pinned ++ [(seq, i)] else s.bb.pinned } }
  let s := setF (setF s FC_BBSEQ_LAST_SEQ seq) FC_BB_BB_WEAR (bbWearOf seq)
  let s := if x.pin && !pin then raise s FC_EVENT 0x10 else s
  let s := if x.itype = 0x02 then setF s FC_FIRST_SEQ_FIRST_SEQ seq else s
  let s := if x.itype = 0x0A then offer s 0x71 0 (x.content.headD 0) else s
  injectSettle (updPins s)

/-- The budget lets a message be written: Minor and Note above 0, Major and Critical down to −512. -/
def budgetAllows (s : State) (x : LogItem) : Bool :=
  if x.sev < 2 then decide (0 < s.fc.budget) else decide (-512 < s.fc.budget)

/-- Take an ingot off the queue and write it, or summarise it. -/
def writeItem (s : State) (j : Nat) (x : LogItem) : State :=
  let s := updLogq { s with fc := { s.fc with logq := s.fc.logq.eraseIdx j } }
  if x.budgeted then
    if budgetAllows s x then writeIngot { s with fc := { s.fc with budget := s.fc.budget - 1 } } x
    else summarise s x.kind
  else writeIngot s x

/-- The slot and content of the boot record: the accepted firmware ingot with the greatest number (R568). -/
def lastFirmware (s : State) : Option (List Word) :=
  (s.bb.slots.filterMap (fun e => match readPair e.2.a e.2.b with
    | .copy c _ => if iType c = 0x0A then some c else none
    | _ => none)).foldl (fun (m : Option (List Word)) c => match m with
      | some d => if iSeq d < iSeq c then some c else some d
      | none => some c) none

/-- BOOT_RECORD_REFRESH (R569): before the ring could overwrite the only boot record, it is written again. -/
def refreshBoot (s : State) : State :=
  match lastFirmware s with
  | some c =>
    if iSeq c + 16384 < s.bb.nextSeq then
      writeIngot s { itype := 0x0A, time := stamp s, content := ((c.drop 4).take 6).set 0 ((iWord c 0) &&& 0x00FFFFFF) }
    else s
  | none => s

/-- Write an ingot at once, past the queue; the boot record is refreshed first where it must be, but before a new one (R569). -/
def writeNow (s : State) (itype : Nat) (content : List Word) : State :=
  if on s dBBOX then writeIngot (if itype = 0x0A then s else refreshBoot s) { itype, time := stamp s, content } else s

/-- A copy whose commit word was never written (R474, R552). -/
def uncommitted (c : List Word) : List Word := c.set 63 0

/-- An ingot of a type outside the budget waits: more than 512 of its kind have been written in as many seconds (R551, which gives the
average alone; DESIGN CHOICE, log 84). Power loss never waits, nor does any on hold-up power (R552). -/
def otherWaits (s : State) (x : LogItem) : Bool :=
  !x.budgeted && x.itype != 0x04 && s.pw.supply != .none && decide (s.now + 511000000000 < s.fc.otherAt)

/-- The queue's next ingot to be written: the oldest that does not wait. -/
def nextItem (s : State) : Nat := (s.fc.logq.findIdx? (fun x => !otherWaits s x)).getD 0

/-- The slot's memory wears out. -/
def wearSlot (s : State) (i : Nat) : State := setSlot s i { slot s i with worn := true }

/-- INGOT_WRITE (R550): the next queued ingot goes to the next slot. `how` says how the write ends: 0 done; 1 a copy read
back wrong twice, so that the slot is skipped and the ingot goes to the next one; 2 power gone in copy A, 3 in copy B,
which an uncharged hold-up bank allows in supply failure. -/
def execIngotWrite (how : Nat) (s : State) : Host.Outcome State Fault Refusal :=
  .next (
    match (if on s dBBOX then s.fc.logq[nextItem s]? else none) with
    | some x =>
      let j := nextItem s
      let s := if otherWaits s x then advance s (s.fc.otherAt - 511000000000) else s
      let s := refreshBoot (if how = 1 ∧ !ringSpent s then wearSlot s (nextSlot s) else s)
      let before := s
      let s := updConditions (writeItem s j x)
      match (if 2 ≤ how ∧ s.pw.supply = .none ∧ !s.pw.holdupOk ∧ s.bb.nextSeq ≠ before.bb.nextSeq then s.bb.latest else none) with
      | some i =>
        let y := slot s i
        setSlot s i (if how = 2 then { y with a := uncommitted y.a, b := (slot before i).b } else { y with b := uncommitted y.b })
      | none => s
    | none => s)

/-- UNPIN (R545): a pinned ingot named by its sequence number is read, and both copies are rewritten from the ingot accepted with
`PINNED` = 0. -/
def unpin (s : State) (seq : Nat) : State :=
  match (if on s dBBOX then s.bb.pinned.find? (fun p => p.1 == seq) else none) with
  | some p =>
    match readSlot s p.2 with
    | (some (i, c), s) =>
      let s := (rewriteSlot s i (rePin c false)).2
      updPins { s with bb := { s.bb with pinned := s.bb.pinned.filter (fun q => q.1 ≠ seq) } }
    | (none, s) => s
  | none => s
def execUnpin (v : Word) (s : State) : Host.Outcome State Fault Refusal := .next (unpin s v.toNat)

/-- LOG_BUDGET_REFILL (R551): one ingot every 250 ms, up to 512. -/
def execLogBudgetRefill (s : State) : Host.Outcome State Fault Refusal :=
  .next (
    if on s dBBOX then
      let s := advance s (s.fc.refillAt + 250000000)
      { s with fc := { s.fc with refillAt := s.now, budget := min 512 (s.fc.budget + 1) } }
    else s)

/-- SUMMARY_INGOT (R551): the end of a 60 s period in which something was summarised. -/
def execSummaryIngot (s : State) : Host.Outcome State Fault Refusal :=
  .next (
    if on s dBBOX && !s.fc.summary.isEmpty then
      let f := s.fc
      let s := advance s (f.sumStart + 60000000000)
      let counts := (List.range 32).map (fun i =>
        pair16 (tabGet (fun _ => 0) f.summary (2 * i + 1)) (tabGet (fun _ => 0) f.summary (2 * i)))
      let s := { s with fc := { s.fc with summary := [], sumStart := stamp s } }
      raise (logOther s 0x03 (counts ++ [lo32 f.sumStart, hi32 f.sumStart])) FC_EVENT 0x20
    else s)

/-! ## Scans and reads (R556, R557) -/

/-- A change of the medium: slot, copy B or A, word index, bits that flipped; an index past the copy wears the slot out (R550). -/
def rot (s : State) (i : Nat) (b : Bool) (j : Nat) (x : Word) : State :=
  let y := slot s i
  if 64 ≤ j then wearSlot s i
  else if b then setSlot s i { y with b := if j < y.b.length then y.b.set j (y.b.getD j 0 ^^^ x) else y.b }
  else setSlot s i { y with a := if j < y.a.length then y.a.set j (y.a.getD j 0 ^^^ x) else y.a }

/-- BLACKBOX_SCAN (R556): 24 h after the last scan every slot is read and repaired; `bad` lists the bits the medium has lost since
then. -/
def execBlackboxScan (bad : List (Nat × Bool × Nat × Word)) (s : State) : Host.Outcome State Fault Refusal :=
  .next (
    let s := forEach bad (fun x s => rot s x.1 x.2.1 x.2.2.1 x.2.2.2) s
    if on s dBBOX then
      let s := advance s (s.bb.scanAt + 86400000000000)
      updConditions (readAll { s with bb := { s.bb with scanAt := s.now } }).2
    else s)

/-- The accepted ingots with their slots, as reading finds them, in rising order. -/
def accepted (s : State) : List (Nat × List Word) :=
  sortSeq (s.bb.slots.filterMap (fun e => match readPair e.2.a e.2.b with | .copy c _ => some (e.1, c) | _ => none))

/-- The start scan (R556, R559, R512): the latest ingot, the next number and the pins; every slot is repaired. -/
def startScan (s : State) : State :=
  let s := { s with bb := { s.bb with latest := none, nextSeq := 0, skipped := [], pinned := [], scanAt := s.now } }
  let l := accepted s
  let s := match l.getLast? with
    | some (i, c) =>
      let s := { s with bb := { s.bb with latest := some i, nextSeq := iSeq c + 1 } }
      setF (setF s FC_BBSEQ_LAST_SEQ (iSeq c)) FC_BB_BB_WEAR (bbWearOf (iSeq c))
    | none => s
  let s := { s with bb := { s.bb with pinned := (oneEach (l.filter (fun e => iPinned e.2))).map (fun e => (iSeq e.2, e.1)) } }
  updPins (readAll s).2

/-- `HRST_COUNT` of an ingot that carries it, and its replace causes (R549). -/
def hrstOf (c : List Word) : Option Nat :=
  match iType c with
  | 0x04 => some (iWord c 0).toNat
  | 0x05 => some (iWord c 0).toNat
  | 0x07 => some (iWord c 1).toNat
  | 0x0B => some (iWord c 1).toNat
  | _ => none
def causesOf (c : List Word) : Option Nat :=
  match iType c with
  | 0x04 => some (bits (iWord c 1) 0 7)
  | 0x07 => some (bits (iWord c 0) 0 7)
  | 0x0B => some (bits (iWord c 2) 0 7)
  | _ => none

/-- Restore the replace causes from the latest ingot that carries them (R559), and after an AON power-on reset, before module time
starts, `HRST_COUNT` (R476, R512). -/
def restoreCounts (s : State) : State :=
  let l := (accepted s).reverse.map (·.2)
  let s := if s.pw.timeRuns then s else setF s WD_COUNTS_HRST_COUNT (satTo 65535 ((l.findSome? hrstOf).getD 0))
  let s := { s with fc := { s.fc with restored := true } }
  match l.findSome? causesOf with | some v => updReplace (setF s FC_REPLACE_CAUSES v) | none => s

/-- BB_READ (R557): accepted ingots in rising sequence number. -/
def execBbRead (t : Nat) (s : State) : Host.Outcome State Fault Refusal :=
  .next (
    match startedAs s t 0x41 with
    | some x =>
      if !on s dBBOX then endSt s t stSTATE
      else
        let n := bits (x.param 1) 0 16
        let (l, s) := readAll s
        let l := ((oneEach (sortSeq l)).filter (fun e => decide ((x.param 0).toNat ≤ iSeq e.2) &&
          (!(x.param 2).getLsbD 0 || iPinned e.2))).take (if n = 0 then 32768 else n)
        let last := match l.getLast? with | some e => BitVec.ofNat 32 (iSeq e.2) | none => 0
        if l.isEmpty then endTag s t stSUCCESS 0 0
        else giveResult s t (BitVec.ofNat 32 l.length) last (l.flatMap (·.2))
    | none => s)

end Sys2Proof.Machine
end

