-- ==== Sys2Proof/Machine/Collector.lean ====
section
/-! DEFINITION. The fault network's forwarding (R29-R31, R531), the fault collector (R532-R547) and its host-written
registers (R538, R540, R545, R558). -/

namespace Sys2Proof.Machine

/-! ## Forwarding (R29, R30, R531) -/

/-- The queue's next message, with the overflow message of a queue that now has space behind it. -/
def forwardFrom (s : State) (i : Nat) (agg : Bool) (cap ovfSrc : Nat) : Option (FaultMsg × State) :=
  let q := faultQ s i
  match q.q with
  | [] => none
  | x :: t =>
    let lost := if agg then q.lost else (flask s i).lostMsg
    let ovf : Queued := ⟨{ kind := 0x16, sev := 1, src := ovfSrc, ctx := BitVec.ofNat 32 lost }, s.now⟩
    let l := if q.ovfDue ∧ t.length < cap then queueInsert agg ovf t else t
    some (x.msg, setFaultQ s i { q with q := l, ovfDue := q.ovfDue && !decide (t.length < cap) })

/-- FLASK_FAULT_PORT_FORWARD (R29, R30): flask f's port sends its next message to the region aggregator, 80 ns a message. -/
def execFlaskFaultPortForward (f : Nat) (s : State) : Host.Outcome State Fault Refusal :=
  .next (
    if flaskOn s f then
      match forwardFrom s f false 32 (srcFlask f 3) with
      | some (m, s) => aggregatorArrive s (f / 16) m
      | none => s
    else s)

/-- AGGREGATOR_FORWARD (R531): region k's aggregator sends its next message to the collector. -/
def execAggregatorForward (k : Nat) (s : State) : Host.Outcome State Fault Refusal :=
  .next (
    if on s (dCTL k) then
      match forwardFrom s (64 + k) true 64 (srcRegion k 3) with
      | some (m, s) => collectorArrive (xfer s k 1 rqController 8) k m
      | none => s
    else s)

/-! ## Messages and masks (R529, R534-R536) -/

/-- A message as the collector handles it: as sent, its effective severity and its lift. -/
structure Handled where
  msg : FaultMsg
  eff : Nat
  lift : Nat
  deriving DecidableEq, Repr

/-- Bits [31:0] of a message with the effective severity. -/
def Handled.lo (h : Handled) : Word :=
  BitVec.ofNat 32 (h.msg.kind * 2 ^ 24 + (if h.msg.inj then 2 ^ 21 else 0) + h.lift * 2 ^ 18 + h.eff * 2 ^ 16 + h.msg.src)

/-- Escalation window T of a kind, ns (R534). -/
def escWindow (s : State) (kind : Nat) : Nat := 100000000 * 2 ^ getF s (FC_KIND_ESC_T kind)

/-- An entry still counts: its pair has sent something within one window (R535). -/
def escUsed (s : State) (e : Esc) : Bool := decide (s.now < e.last + escWindow s e.kind)

/-- One entry's step of R534: the entry after, from the entry before, if any. -/
def escStep (now t n src kind : Nat) (e : Option Esc) : Esc :=
  let e0 : Esc := match e with | some e => e | none => ⟨src, kind, now, 0, now, 0⟩
  let lift := if e.isSome ∧ t ≤ now - e0.last then 0 else e0.lift
  let (start, count) := if e.isNone ∨ t ≤ now - e0.start then (now, 0) else (e0.start, e0.count)
  if n ≠ 0 ∧ n ≤ count + 1 then ⟨src, kind, now, 0, now, min (lift + 1) 3⟩
  else ⟨src, kind, start, count + 1, now, lift⟩

/-- Count a message (R534, R535): what it is handled as. -/
def escalate (s : State) (m : FaultMsg) : Handled × State :=
  if m.inj then (⟨m, m.sev, 0⟩, s)
  else
    let t := escWindow s m.kind
    let n := getF s (FC_KIND_ESC_N m.kind)
    let old := s.fc.esc.find? (fun e => e.src == m.src && e.kind == m.kind)
    let live := s.fc.esc.filter (fun e => escUsed s e && !(e.src == m.src && e.kind == m.kind))
    if old.isNone && decide (2048 ≤ live.length) then
      (⟨m, m.sev, 0⟩, raise (incSat s FC_LOST_ESC_OVF) FC_EVENT 0x200)
    else
      let e := escStep s.now t n m.src m.kind old
      let s := { s with fc := { s.fc with esc := live ++ [e] } }
      (⟨m, min (m.sev + e.lift) 3, e.lift⟩, setF s FC_ESCUSE_ESC_USED (min 2047 (live.length + 1)))

/-- The reaction mask of an effective severity (R536). -/
def maskOf (s : State) (kind eff : Nat) : Nat :=
  match eff with
  | 0 => if flag s (FC_KIND_NOTE_IRQ kind) then 1 else 0
  | 1 => getF s (FC_KIND_R_MIN kind)
  | 2 => getF s (FC_KIND_R_MAJ kind)
  | _ => getF s (FC_KIND_R_CRIT kind)

/-- The mask applied: of an injected message the interrupt alone (R541). -/
def maskApplied (s : State) (h : Handled) : Nat :=
  let m := maskOf s h.msg.kind h.eff
  if h.msg.inj then m % 2 else m

/-- The message is logged (R536). -/
def isLogged (s : State) (h : Handled) : Bool := h.eff != 0 || flag s (FC_KIND_NOTE_LOG h.msg.kind)

/-- The message qualifies as a first fault (R543). -/
def qualifies (s : State) (h : Handled) : Bool := !h.msg.inj && (h.eff != 0 || flag s FC_CTRL_FF_NOTE)

/-- A message item of an ingot (R549). -/
def msgItem (s : State) (h : Handled) (simul : Bool) : List Word :=
  [h.lo, h.msg.ctx,
   BitVec.ofNat 32 (maskApplied s h + (if simul then 256 else 0) + (if h.msg.inj then maskOf s h.msg.kind h.eff * 65536 else 0)), 0]

/-! ## Reactions (R537-R540) -/

/-- Region hold (R538); on the ZRC-256 flask hold of all its flasks and power-path safe state (R539). -/
def regionHold (s : State) (k : Nat) : State :=
  if s.part = .zrc256 then
    raise (enterSafe (forEach (regionFlasks k) (fun f s => flaskHold s f 2) s)) FC_EVENT 8
  else if k < s.part.regions then
    let was := (region s k).held
    let s := forEach (regionFlasks k) (fun f s => flaskHold s f 2) s
    let s := setBitF (goOffline s k) FC_RHOLD_RHELD k true
    let s := modRegion s k (fun x => { x with held := true })
    if was then s else raise s FC_EVENT 4
  else s

/-- A message that selects power-path safe state and whose condition may persist is remembered (R540). -/
def noteSafe (s : State) (m : FaultMsg) : State :=
  let e := (m.kind, srcRegionOf m.src)
  if (m.kind = 0x21 ∨ m.kind = 0x37) ∧ !s.fc.safeKinds.contains e then
    { s with fc := { s.fc with safeKinds := s.fc.safeKinds ++ [e] } } else s

/-- The collector chooses power-path safe state (R540). -/
def chooseSafe (s : State) (m : FaultMsg) : State := raise (enterSafe (noteSafe s m)) FC_EVENT 8

/-- Fault-network traffic reaches a region controller (R538). -/
def heardFault (s : State) (m : FaultMsg) (mask : Nat) : State :=
  if srcLevel m.src ≤ 2 ∧ mask / 2 % 8 ≠ 0 then modRegion s (srcRegionOf m.src) (fun r => { r with faultAt := s.now }) else s

/-- The reactions of a mask to a message (R536, R537). A hold that goes down the fault network to a region controller is traffic it
hears (R538); on the ZRC-256 region hold carries power-path safe state with it (R539). -/
def react (s : State) (m : FaultMsg) (mask : Nat) : State :=
  let lv := srcLevel m.src
  let s := heardFault s m mask
  let s := when (mask.testBit 1 && lv == 0) (fun s => holdChan s (srcChanOf m.src) 2) s
  let s := when (mask.testBit 2 && decide (lv ≤ 1)) (fun s => flaskHold s (srcFlaskOf m.src) 2) s
  let s := when (mask.testBit 3 && decide (lv ≤ 2)) (fun s =>
    regionHold (if s.part = .zrc256 then noteSafe s m else s) (srcRegionOf m.src)) s
  let s := when (mask.testBit 4) (fun s => chooseSafe s m) s
  when (mask.testBit 5) (fun s => setCause s 5) s

/-! ## A collector cycle (R532, R543, R544) -/

/-- Handling order: higher effective severity, then lower source (R532). -/
def handledBefore (a b : Handled) : Bool := b.eff < a.eff || (a.eff == b.eff && decide (a.msg.src < b.msg.src))

def insHandled (x : Handled) : List Handled → List Handled
  | [] => [x]
  | y :: t => if handledBefore x y then x :: y :: t else y :: insHandled x t

/-- The first message of each input, and the messages left. -/
def takeCycle : List Nat → List (Nat × FaultMsg) → List FaultMsg × List (Nat × FaultMsg)
  | _, [] => ([], [])
  | seen, (i, m) :: t =>
    if seen.contains i then let (a, b) := takeCycle seen t; (a, (i, m) :: b)
    else let (a, b) := takeCycle (i :: seen) t; (m :: a, b)

/-- Count a message by effective severity. -/
def countMsg (s : State) (eff : Nat) : State :=
  incSat s (match eff with | 0 => FC_MSG0_NOTES | 1 => FC_MSG0_MINORS | 2 => FC_MSG1_MAJORS | _ => FC_MSG1_CRITICALS)

/-- The trace stops `POST` records after the record of the first fault `h` (R625); where class 4 is not recorded or the queue was full,
after those that wait now (DESIGN CHOICE, log entry 61). -/
def freezeAfter (s : State) (h : Handled) : State :=
  if on s dTRACE && flag s TRC_CTRL_FREEZE_FF && s.trc.post.isNone && s.trc.freezeOn.isNone then
    match s.trc.queue.reverse.find? (fun (x : TraceRec) => x.kind == 0x40 && x.data == h.lo && x.time == s.now) with
    | some x => { s with trc := { s.trc with freezeOn := some x } }
    | none =>
      let n := getF s TRC_FREEZE_POST + s.trc.queue.length
      if n = 0 then freezeTrace s else { s with trc := { s.trc with post := some n } }
  else s

/-- Handle one message: its trace record, counts, fault record, log and reactions. -/
def handleMsg (s : State) (first : Option Handled) (h : Handled) : State :=
  let mask := maskApplied s h
  let s := countMsg s h.eff
  let s := offer s 0x40 (h.msg.ctx.toNat % 2 ^ 24) h.lo
  let s := if first = some h then freezeAfter s h else s
  let s := if mask % 2 = 1 then
      stage s s.hi.routeBlock { rtype := 0x12, hdr := 0, time := stamp s, content := [h.lo, h.msg.ctx] } else s
  let s := if isLogged s h then
      logPush s { itype := 0x01, time := stamp s, content := msgItem s h false, sev := h.eff, kind := h.msg.kind, budgeted := true }
    else s
  let s := if h.msg.kind = 0x24 then countCe s else s
  let s := if h.msg.kind = 0x21 ∧ !h.msg.inj then setCause s 1 else s
  react s h.msg (if h.msg.inj then 0 else mask)

/-- The first-fault record of a cycle's qualifying messages, in order (R543, R544). -/
def recordFirst (s : State) (q : List Handled) : State :=
  match q with
  | [] => s
  | h :: t =>
    if flag s FC_STATUS_FF_VALID then s
    else
      let s := wr (wr (wr (wr s FC_FIRST_LO h.lo) FC_FIRST_HI h.msg.ctx) FC_FIRST_TLO (lo32 (stamp s))) FC_FIRST_THI (hi32 (stamp s))
      let s := match t with
        | g :: _ => wr (wr s FC_SIMUL_LO g.lo) FC_SIMUL_HI g.msg.ctx
        | [] => wr (wr s FC_SIMUL_LO 0) FC_SIMUL_HI 0
      let s := setF (setFlag s FC_STATUS_FF_VALID true) FC_FIRST_INFO_NSIM (satTo 255 q.length)
      let items := q.take 4
      let head := BitVec.ofNat 32 (satTo 255 q.length * 2 ^ 24 + items.length)
      let body := msgItem s h false ++ (items.drop 1).flatMap (fun g => msgItem s g true)
      let s := logPush s { itype := 0x02, time := stamp s, content := head :: 0 :: body, pin := true, sev := max 1 h.eff
                           kind := h.msg.kind, budgeted := true }
      raise s FC_EVENT 1

/-- FAULT_MESSAGE: one cycle of the collector, at most one message from each input (R532). -/
def execFaultMessage (s : State) : Host.Outcome State Fault Refusal :=
  .next (
    if on s dBBOX && !s.fc.inbox.isEmpty then
      let (ms, rest) := takeCycle [] s.fc.inbox
      let s := { s with fc := { s.fc with inbox := rest } }
      let (hs, s) := ms.foldl (fun (acc : List Handled × State) m =>
        let (h, s) := escalate acc.2 m
        (insHandled h acc.1, s)) (([] : List Handled), s)
      let fresh := !flag s FC_STATUS_FF_VALID
      let q := hs.filter (qualifies s)
      let s := recordFirst s q
      updConditions (forEach hs (fun h s => handleMsg s (if fresh then q.head? else none) h) s)
    else s)

/-- REGION_SELF_HOLD (R538): 1 ms since a region controller has heard an alignment word or fault-network traffic. -/
def execRegionSelfHold (k : Nat) (s : State) : Host.Outcome State Fault Refusal :=
  .next (
    if on s (dCTL k) && decide (k < s.part.regions) then
      regionHold (advance s (max (region s k).strobeAt (region s k).faultAt + 1000000)) k
    else s)

/-! ## Written by the host (R538, R540, R558) -/

/-- A region comes online (R53). -/
def bringOnline (s : State) (k : Nat) : State :=
  modRegion (setBitF s GL_TOPOLOGY_REGIONS_ONLINE k true) k (fun x => { x with lastSwap := some s.now })

/-- REGION_RELEASE: a write to `FC_RHOLD`; `RELEASE` of a held region whose link is trained ends its hold. -/
def rholdWrite (s : State) (v : Word) : State :=
  if on s dBBOX && s.part != .zrc256 then
    forEach (List.range s.part.regions) (fun k s =>
      let x := region s k
      if v.getLsbD (4 + k) && x.held && x.trained && !x.lost then
        bringOnline (setBitF (modRegion s k (fun x => { x with held := false })) FC_RHOLD_RHELD k false) k
      else s) s
  else s
def execRegionRelease (v : Word) (s : State) : Host.Outcome State Fault Refusal := .next (updConditions (rholdWrite s v))

/-- The condition of the message that selected safe state persists (R540). -/
def safePersists (s : State) : Bool :=
  s.fc.safeKinds.any (fun e => if e.1 = 0x37 then !s.pw.refOk else (region s e.2).lost || !(region s e.2).trained)

/-- A write to `FC_EVENT`: W1C bits, `PP_SAFE` only once its condition has ended (R540). -/
def fcEventWrite (s : State) (v : Word) : State :=
  if on s dBBOX then
    let v := if safePersists s then v &&& ~~~8 else v
    let s := if v.getLsbD 3 then { s with fc := { s.fc with safeKinds := [] } } else s
    wr s FC_EVENT (rd s FC_EVENT &&& ~~~v)
  else s
def execPpSafeClear (v : Word) (s : State) : Host.Outcome State Fault Refusal := .next (fcEventWrite s v)

/-- REPLACE_CLEAR (R558): W1C of the causes; one whose condition holds is set again at once. -/
def replaceWrite (s : State) (v : Word) : State :=
  updConditions (setCauses s (getF s FC_REPLACE_CAUSES &&& (127 - bits v 0 7)))
def execReplaceClear (v : Word) (s : State) : Host.Outcome State Fault Refusal := .next (replaceWrite s v)

/-! ## Injection (R546, R547) -/

/-- The arm ends: inject commands that still wait end with what they performed (R547). -/
def endArm (s : State) : State :=
  match s.fc.arm with
  | some a =>
    let s := forEach a.jobs (fun j s => endTag s j.tag stTIMEOUT (BitVec.ofNat 32 j.done) 0) s
    let s := if a.jobs.isEmpty then s else raise s FC_EVENT 0x100
    updInj { s with fc := { s.fc with arm := none } }
  | none => s

/-- A double-bit error of the SRAM test area, injected (R546, checker 1). -/
def injectSram (s : State) : State :=
  sendFault s { kind := 0x25, sev := 2, src := srcBlock 0x00E, ctx := Config.sramTestArea, inj := true }

/-- FAULT_INJECT: arm, inject, disarm (R415, R546, R547). Inject actions queue behind one another; one is accepted while `INJ_EN` is 1 and an arm
for its checker is in force. -/
def execFaultInject (t : Nat) (s : State) : Host.Outcome State Fault Refusal :=
  .next (
    match startedAs s t 0x40 with
    | some x =>
      let c := bits (x.param 0) 0 4
      let n := bits (x.param 1) 0 16
      if !on s dBBOX then endSt s t stSTATE
      else match bits (x.param 0) 8 4 with
        | 1 =>
          if s.fc.key != 0 && x.param 2 == s.fc.key then
            let same := match s.fc.arm with | some a => a.checker == c | none => false
            let s := if same then s else endArm s
            let a : Arm := match s.fc.arm with
              | some a => { a with deadline := s.now + 60000000000 }
              | none => { checker := c, deadline := s.now + 60000000000 }
            endSt (updInj { s with fc := { s.fc with arm := some a } }) t stSUCCESS
          else endSt s t stSUCCESS
        | 3 => endSt (endArm s) t stSUCCESS
        | _ =>
          match s.fc.arm with
          | some a =>
            if !flag s FC_CTRL_INJ_EN || a.checker != c then endSt s t stNOT_ARMED
            else if c = 3 ∧ !flag s HI_CTRL_DCRC_EN then endSt s t stSTATE
            else
              let s := runTag s t
              let s := { s with fc := { s.fc with arm := some { a with jobs := a.jobs ++ [⟨t, n, 0⟩] } } }
              injectSettle (if c = 1 then forEach (List.range n) (fun _ s =>
                let (_, s) := injectOne s 1
                injectSram s) s else s)
          | none => endSt s t stNOT_ARMED
    | none => s)

/-- INJECT_ARM_EXPIRE: 60 s. -/
def execInjectArmExpire (s : State) : Host.Outcome State Fault Refusal :=
  .next (match s.fc.arm with | some a => endArm (advance s a.deadline) | none => s)

/-- FAULT_CLEAR (R543). -/
def execFaultClear (t : Nat) (s : State) : Host.Outcome State Fault Refusal :=
  .next (
    match startedAs s t 0x42 with
    | some x =>
      if !on s dBBOX then endSt s t stSTATE
      else endSt (if (x.param 0).getLsbD 0 then setFlag s FC_STATUS_FF_VALID false else s) t stSUCCESS
    | none => s)

/-- CE_RATE_BIN (R561): a 5-minute bin closes; one message a bin while the excess lasts. -/
def execCeRateBin (s : State) : Host.Outcome State Fault Refusal :=
  .next (
    if on s dBBOX then
      let s := advance s ((s.now / 300000000000 + 1) * 300000000000)
      let s := { s with fc := { s.fc with ceBins := 0 :: s.fc.ceBins.take 11, ceSent := false } }
      updConditions (updCe s)
    else s)

end Sys2Proof.Machine
end

