-- ==== Sys2Proof/Machine/Runner.lean ====
section
/-! DEFINITION. The runner links between the hub and the region dies (R35-R38). -/

namespace Sys2Proof.Machine

/-- The online region whose link takes the next injection of checker 2: one link per injection, in increasing order
(R546). -/
def injectLink (s : State) : Option Nat :=
  let l := (List.range s.part.regions).filter (online s)
  let d := match s.fc.arm with | some a => (match a.jobs.find? (fun j => decide (0 < j.left)) with | some j => j.done | none => 0) | none => 0
  if l.isEmpty then none else l[d % l.length]?

/-- A frame's CRC-32C over header and payload in byte order (R35). -/
def frameCrc (x : RunFrame) : Word := crc32c (x.hdr ++ x.payload)

/-- Bytes a frame occupies on its link: header, payload and CRC; 64 bits of header, at most 256 bytes of payload and 64 in
class 0 (R38). -/
def frameBytes (x : RunFrame) : Nat := x.hdr.length + x.payload.length + 4
def frameSizeOk (x : RunFrame) : Bool := x.hdr.length == 8 && decide (x.payload.length ≤ (if x.cls = 0 then 64 else 256))

/-- A frame's check fails at its receiver; a frame from the hub takes a queued injection. A frame whose size breaks R38 is treated as
one that failed its CRC: the spec does not say what a receiver does with it (DESIGN CHOICE, log 66). -/
def frameFails (s : State) (k : Nat) (x : RunFrame) : Bool × Bool × State :=
  let ok := frameSizeOk x && x.crc == frameCrc x
  let (inj, s) := if x.toRegion && injectLink s == some k then injectOne s 2 else (false, s)
  (if inj then ok else !ok, inj, s)

/-- A link retrains: its region is not online. -/
def retrains (s : State) (k : Nat) : State := updConditions (goOffline s k)

/-- How often a frame has failed. -/
def frameTries (r : Region) (x : RunFrame) : Nat :=
  match r.retx.find? (fun e => e.1 == (x.toRegion, x.num)) with | some e => e.2 | none => 0

/-- The frames that still fail, without one. -/
def retxWithout (r : Region) (x : RunFrame) : List ((Bool × Nat) × Nat) := r.retx.filter (fun e => e.1 != (x.toRegion, x.num))

/-- RUNNER_FRAME_RX (R36, R37): a frame on region k's link, in either direction. A failing frame is discarded, reported and
sent again; when the third retransmission of one frame has failed the link retrains and the region is not online. A good
frame's payload goes on over the fabric of its receiver, in the frame's class (R31). -/
def execRunnerFrameRx (k : Nat) (x : RunFrame) (s : State) : Host.Outcome State Fault Refusal :=
  .next (
    if on s (dCTL k) && decide (k < s.part.regions) && (region s k).trained then
      let (bad, inj, s) := frameFails s k x
      let n := frameTries (region s k) x
      let rest := retxWithout (region s k) x
      if bad then
        let s := sendFault s { kind := 0x20, sev := 1, src := srcRegion k 4, ctx := BitVec.ofNat 32 n, inj }
        if n < 3 then injectSettle (modRegion s k (fun r => { r with retx := ((x.toRegion, x.num), n + 1) :: rest }))
        else retrains (injectSettle (modRegion s k (fun r => { r with retx := [], trained := false }))) k
      else
        let s := modRegion s k (fun r => { r with retx := rest })
        if x.toRegion then xfer s k x.cls rqRunner x.payload.length else xfer s hubFabric x.cls k x.payload.length
    else s)

/-- The link of a region trains: it comes online unless it is in region hold (R53). -/
def linkTrained (s : State) (k : Nat) : State :=
  let s := modRegion s k (fun x => { x with trained := true, retx := [], lost := false })
  updConditions (if (region s k).held then s else bringOnline s k)

/-- RUNNER_RETRAIN (R37): retraining ends; a link that does not retrain is reported as region lost. -/
def execRunnerRetrain (k : Nat) (ok : Bool) (s : State) : Host.Outcome State Fault Refusal :=
  .next (
    if on s (dCTL k) && decide (k < s.part.regions) && !(region s k).trained then
      if ok then linkTrained s k
      else fault (modRegion s k (fun x => { x with lost := true })) 0x21 3 (srcRegion k 4) 0
    else s)

end Sys2Proof.Machine
end

