-- ==== Sys2Proof/Machine/Trace.lean ====
section
/-! DEFINITION. The trace unit (R621-R634) and the analogue test controller (R635-R639). -/

namespace Sys2Proof.Machine

/-! ## The buffer (R621, R622, R624, R625) -/

/-- Address of record `i` of the trace buffer (R621). -/
def traceAddr (i : Nat) : Nat := bar2 + 0x100000 + 16 * i

/-- The four words of a record. -/
def traceWords (r : TraceRec) : List Word :=
  [BitVec.ofNat 32 (r.kind * 2 ^ 24 + r.subj % 2 ^ 24), r.data, lo32 r.time, hi32 r.time]

/-- The words of record `i` as the buffer holds them. -/
def bufferRec (s : State) (i : Nat) : List Word := (List.range 4).map (fun j => rd s (traceAddr i + 4 * j))

/-- Record `i` is about to be overwritten: a path that has still to send it skips it (R629). -/
def skipRec (s : State) (i : Nat) : State :=
  let t := s.trc
  let t := if t.hostDue.contains i then
    { t with hostDue := t.hostDue.filter (· ≠ i), hostSkip := t.hostSkip + 1, hostGap := t.hostGap <|> some (2, s.now) } else t
  let t := if t.portDue.contains i then
    { t with portDue := t.portDue.filter (· ≠ i), portSkip := t.portSkip + 1, portGap := t.portGap <|> some (3, s.now) } else t
  { s with trc := t }

/-- Write a record at `WR_IDX`, which advances and wraps (R624). -/
def putRec (s : State) (r : TraceRec) : State :=
  let i := getF s TRC_STATUS_WR_IDX
  let s := skipRec s i
  let s := wrList s (traceAddr i) (traceWords r)
  let s := { s with trc := { s.trc with
    hostDue := if flag s TRC_CTRL_HOST_EN then s.trc.hostDue ++ [i] else s.trc.hostDue
    portDue := if flag s TRC_CTRL_PORT_EN then s.trc.portDue ++ [i] else s.trc.portDue } }
  if i + 1 = Config.sramTrace / 16 then setFlag (setF s TRC_STATUS_WR_IDX 0) TRC_STATUS_WRAPPED true else setF s TRC_STATUS_WR_IDX (i + 1)

/-- The trace unit accepts a record (R622): it is written, or discarded by a full stop-mode buffer (R624), and the count
towards the freeze goes down (R625). -/
def acceptRec (s : State) (r : TraceRec) : State :=
  if flag s TRC_STATUS_FROZEN then traceLose s
  else if flag s TRC_CTRL_MODE && flag s TRC_STATUS_WRAPPED then
    let s := if flag s TRC_STATUS_FULL then s else raise (setFlag s TRC_STATUS_FULL true) TRC_EVENT 2
    traceLose s
  else
    let s := putRec s r
    match s.trc.post with
    | some n => if n ≤ 1 then freezeTrace s else { s with trc := { s.trc with post := some (n - 1) } }
    | none => s

/-- After the record of the first fault, `POST` more are written before the freeze (R625). -/
def startPost (s : State) (r : TraceRec) : State :=
  if s.trc.freezeOn = some r then
    let n := getF s TRC_FREEZE_POST
    if n = 0 then freezeTrace s else { s with trc := { s.trc with post := some n, freezeOn := none } }
  else s

/-- Accept the oldest record of the input queue, at the present module time. -/
def acceptHead (s : State) : State :=
  match s.trc.queue with
  | [] => s
  | r :: q => startPost (acceptRec { s with trc := { s.trc with queue := q } } { r with time := stamp s }) r

/-- Accept every queued record. -/
def flushQueue (s : State) : State := forEach (List.range s.trc.queue.length) (fun _ s => acceptHead s) s

/-- TRACE_RECORD (R622). -/
def execTraceRecord (s : State) : Host.Outcome State Fault Refusal :=
  .next (if on s dTRACE then acceptHead s else s)

/-! ## Markers (R630-R632) -/

/-- Write a marker behind everything queued. -/
def marker (s : State) (kind reason d n : Nat) : State :=
  if on s dTRACE && flag s TRC_CTRL_EN then
    acceptRec (flushQueue s) ⟨kind, reason * 65536 + d, BitVec.ofNat 32 n, stamp s⟩
  else s

/-- The domain feeds trace (R630). -/
def feedsTrace (d : Nat) : Bool := d != dBBOX && d != dPPATH

/-- The sleep marker of a domain about to be switched off, or lost (R630). -/
def sleepMarker (s : State) (d reason : Nat) : State :=
  if feedsTrace d && on s d then
    let s := marker s 0xF0 reason d 0
    { s with trc := { s.trc with sleep := tabSet (fun _ => none) s.trc.sleep d (some (reason, s.trc.lostAll)) } }
  else s

/-- Write the AON trace queue to the buffer, in order, with the times of its events (R632). -/
def flushAon (s : State) : State :=
  forEach s.trc.aonq (fun r s => acceptRec s r) { s with trc := { s.trc with aonq := [] } }

/-- The wake marker of a domain that is on again (R632, R633). `TRACE` always gets one, after the AON queue. -/
def wakeMarker (s : State) (d : Nat) : State :=
  let x := tabGet (fun _ => none) s.trc.sleep d
  let s := { s with trc := { s.trc with sleep := tabSet (fun _ => none) s.trc.sleep d none } }
  if d = dTRACE then
    let n := s.trc.offLost + s.trc.aonOvf + getF s TRC_LOST_LOST
    let s := { flushAon s with trc := { (flushAon s).trc with offLost := 0, aonOvf := 0 } }
    let s := setF s TRC_LOST_LOST 0
    marker s 0xF1 (match x with | some (r, _) => r | none => 2) d (satTo 0xFFFFFFFF n)
  else match x with
    | some (r, l) => if feedsTrace d then marker s 0xF1 r d (satTo 0xFFFFFFFF (s.trc.lostAll - l)) else s
    | none => s

/-- `TRACE` goes off: what it holds beside the registers kept in `PPATH` is gone. -/
def traceStop (s : State) : State :=
  { s with trc := { s.trc with
    queue := [], post := none, freezeOn := none, hostDue := [], portDue := [], hostGap := none, portGap := none, hostSkip := 0, portSkip := 0 } }

/-! ## Host copy (R626, R627, R629) -/

/-- Size of the host buffer in bytes: values of `LOG2KB` outside 6 to 16 are treated as 6. -/
def traceHostSize (s : State) : Nat :=
  let n := getF s TRC_HCFG_LOG2KB
  1024 * 2 ^ (if 6 ≤ n ∧ n ≤ 16 then n else 6)

/-- Unread bytes of the host buffer. -/
def traceUnread (s : State) : Nat :=
  let z := traceHostSize s
  (getF s TRC_HWR_HWR % z + z - getF s TRC_HRD_HRD % z) % z

/-- The host buffer is full. -/
def traceHostFull (s : State) : Bool :=
  (getF s TRC_HWR_HWR + 16) % traceHostSize s == getF s TRC_HRD_HRD % traceHostSize s

/-- `HOST_STALL` follows the host buffer while records are copied. -/
def updStall (s : State) : State :=
  if on s dTRACE then setFlag s TRC_STATUS_HOST_STALL (flag s TRC_CTRL_HOST_EN && traceHostFull s) else s

/-- Copying can go on: the link is in L0 and the function in D0. -/
def traceLinkOk (s : State) : Bool := on s dHOSTIF && s.hi.linkUp && !s.hi.l1 && !s.hi.d3hot && !s.hi.resetting

/-- A gap marker's record on a path (R629): `TTIME` is the earlier of the next record's and now. -/
def gapRec (s : State) (port : Bool) (gap : Nat × Nat) (skip : Nat) (due : List Nat) : TraceRec :=
  let t := match due with
    | i :: _ => let w := bufferRec s i; min (stamp s) ((w.getD 2 0).toNat + 2 ^ 32 * (w.getD 3 0).toNat)
    | [] => stamp s
  ⟨0xF2, gap.1 * 2 ^ 20 + (if port then 2 ^ 19 else 0) + satTo (2 ^ 19 - 1) ((s.now - gap.2) / 1000),
   BitVec.ofNat 32 skip, t⟩

/-- Address in host memory of byte `ofs` of the host buffer. -/
def traceHostAddr (s : State) (ofs : Nat) : Nat := (rd s TRC_HBASE_LO).toNat + 2 ^ 32 * (rd s TRC_HBASE_HI).toNat + ofs

/-- Copy one record's words to the host buffer at `TRC_HWR`, which advances. -/
def copyOne (s : State) (w : List Word) : State :=
  let h := getF s TRC_HWR_HWR
  let half := traceHostSize s / 2
  let before := traceUnread s
  let s := emit s (.traceHost (traceHostAddr s (h % traceHostSize s)) w)
  let s := setF s TRC_HWR_HWR ((h + 16) % traceHostSize s)
  if before < half ∧ half ≤ traceUnread s then raise s TRC_EVENT 8 else s

/-- The next item on the host path: a gap marker that is due, else the next record. -/
def copyNext (s : State) : State :=
  if traceHostFull s then
    if s.trc.hostDue.isEmpty && s.trc.hostGap.isNone then s
    else { s with trc := { s.trc with hostGap := s.trc.hostGap <|> some (2, s.now) } }
  else match s.trc.hostGap with
    | some g =>
      let r := gapRec s false g s.trc.hostSkip s.trc.hostDue
      let s := copyOne (raise (addSat s TRC_SKIP_HOST_SKIP s.trc.hostSkip) TRC_EVENT 16) (traceWords r)
      { s with trc := { s.trc with hostGap := none, hostSkip := 0 } }
    | none => match s.trc.hostDue with
      | i :: l => copyOne { s with trc := { s.trc with hostDue := l } } (bufferRec s i)
      | [] => s

/-- TRACE_HOST_COPY (R626): a batch of up to 256 bytes. -/
def execTraceHostCopy (s : State) : Host.Outcome State Fault Refusal :=
  .next (
    if on s dTRACE && flag s TRC_CTRL_HOST_EN && traceLinkOk s then
      updStall (forEach (List.range 16) (fun _ s => copyNext s) (xfer s hubFabric 3 rqTrace 256))
    else s)

/-- A host-interface reset stops copying at once (R627). -/
def traceHostOff (s : State) : State :=
  if on s dTRACE then
    let s := setFlag (setFlag s TRC_CTRL_HOST_EN false) TRC_STATUS_L1_PAUSE false
    updStall { s with trc := { s.trc with hostDue := [], hostGap := none, hostSkip := 0 } }
  else s

/-! ## Trace port (R628) -/

/-- The half-bytes of a frame, low one first: 0xA5, 0x5A, the sixteen record bytes and the CRC of R35 over them. -/
def portFrame (w : List Word) : List (BitVec 4) :=
  ([0xA5, 0x5A] ++ wordsBytes w ++ wordBytes (crc32cWords w)).flatMap (fun (b : Byte) => [b.extractLsb' 0 4, b.extractLsb' 4 4])

/-- A frame leaves on the port. -/
def frameOut (s : State) (w : List Word) : State := emit s (.tracePort (portFrame w))

/-- TRACE_PORT_FRAME: a gap marker that is due, the next record, or an all-zero record. -/
def execTracePortFrame (s : State) : Host.Outcome State Fault Refusal :=
  .next (
    if on s dTRACE && flag s TRC_CTRL_PORT_EN then
      match s.trc.portGap with
      | some g =>
        let r := gapRec s true g s.trc.portSkip s.trc.portDue
        let s := frameOut (raise (addSat s TRC_SKIP_PORT_SKIP s.trc.portSkip) TRC_EVENT 16) (traceWords r)
        { s with trc := { s.trc with portGap := none, portSkip := 0 } }
      | none => match s.trc.portDue with
        | i :: l => frameOut { s with trc := { s.trc with portDue := l } } (bufferRec s i)
        | [] => frameOut s [0, 0, 0, 0]
    else s)

/-! ## Registers (R625, R626, R634) -/

/-- `RESUME`: writing restarts at record 0 and `FULL` and `FROZEN` end. -/
def traceResume (s : State) : State :=
  setF (setFlag (setFlag (setFlag { s with trc := { s.trc with post := none, freezeOn := none } } TRC_STATUS_WRAPPED false)
    TRC_STATUS_FULL false) TRC_STATUS_FROZEN false) TRC_STATUS_WR_IDX 0

/-- A write to `TRC_CTRL`. -/
def trcCtrlWrite (s : State) (v : Word) : State :=
  if on s dTRACE then
    let m : Word := if flag s TRC_CTRL_LOCK then 0x00000008 else 0x0000FF1F
    let wasH := flag s TRC_CTRL_HOST_EN
    let s := wr s TRC_CTRL ((rd s TRC_CTRL &&& ~~~m) ||| (v &&& m) ||| (v &&& 0x80000000))
    let s := if flag s TRC_CTRL_HOST_EN && wasH then s
      else { s with trc := { s.trc with hostDue := [], hostGap := none, hostSkip := 0 } }
    let s := if flag s TRC_CTRL_PORT_EN then s
      else { s with trc := { s.trc with portDue := [], portGap := none, portSkip := 0 } }
    let s := setFlag s TRC_STATUS_L1_PAUSE (flag s TRC_CTRL_HOST_EN && s.hi.l1)
    updStall (if v.getLsbD 5 then traceResume s else s)
  else s

/-- TRACE_RESUME (R625): a write to `TRC_CTRL` with `RESUME` = 1. -/
def execTraceResume (v : Word) (s : State) : Host.Outcome State Fault Refusal := .next (noteCfg s (trcCtrlWrite s (v ||| 0x20)))

/-! ## Analogue test (R636-R639) -/

/-- A domain begins to be switched on (R478). -/
def beginOn (s : State) (d : Nat) : State :=
  { s with pw := { s.pw with switchingOn := s.pw.switchingOn ||| BitVec.ofNat 32 (2 ^ d), lastSwitch := s.now } }

/-- The interlock holds: the flask's sequencer runs in a region that is online. -/
def interlock (s : State) (f : Nat) : Bool := flaskOn s f && (flask s f).running && online s (f / 16)

/-- The measurement of a command begins (R637), or the command ends without one. -/
def measureOne (s : State) (t : Nat) (x : Tag) : State :=
  let f := selFirst (x.word 1)
  if !flag s AT_CTRL_FIELD_EN || s.atst.boundary then endSt s t stSTATE
  else
    let s := if flaskOn s f then flaskHold s f 5 else s
    if interlock s f then
      let m : Measure := { tag := t, flask := f, node := bits (x.param 0) 0 8, bus := bits (x.param 0) 8 1,
                           lch := bits (x.param 1) 0 4, started := s.now }
      let s := wr s AT_STATUS (BitVec.ofNat 32 (2 ^ 31 + m.bus * 2 ^ 30 + f * 2 ^ 24 + m.node * 2 ^ 16 +
        (if 4 ≤ m.node ∧ m.node ≤ 8 then m.lch else 0)))
      { s with atst := { s.atst with cur := some m } }
    else endSt (raise (incSat s AT_COUNTS_INTERLOCK_FAIL) AT_EVENT 2) t stINTERLOCK

/-- Measurements wait their turn (R638): with none running and `ATEST` staying on, the next one begins; commands that end
without a measurement make way. -/
def measureNext (s : State) : State :=
  forEach s.atst.waiting (fun t s =>
    if s.atst.cur.isNone && on s dATEST && (tabGet (fun _ => 0) s.pw.switchingOff dATEST == 0) then
      let s := { s with atst := { s.atst with waiting := s.atst.waiting.filter (· ≠ t) } }
      match getTag s t with
      | some x => measureOne s t x
      | none => s
    else s) s

/-- ATEST (R637): the command joins the queue; it switches `ATEST` on when that is off (R482). -/
def execAtest (t : Nat) (s : State) : Host.Outcome State Fault Refusal :=
  .next (
    match startedAs s t 0x52 with
    | some _ =>
      let s := pendTag { s with atst := { s.atst with waiting := s.atst.waiting ++ [t] } } t
      if on s dATEST then measureNext s
      else beginOn (setBitF s ⟨CK_PDREQ, 0, 32⟩ dATEST true) dATEST
    | none => s)

/-- The switch opens: releases that waited take effect and the next measurement begins. -/
def measureEnd (s : State) (m : Measure) : State :=
  let l := s.atst.releases
  let s := wr { s with atst := { s.atst with cur := none, releases := [] } } AT_STATUS 0
  let s := forEach l (fun t s =>
    if releaseRefused s m.flask then endSt s t stSTATE else endSt (setHolds s m.flask []) t stSUCCESS) s
  measureNext s

/-- ATEST_MEASURE_DONE (R637), with the mean of the 10 ms in µV. -/
def execAtestMeasureDone (uv : Int) (s : State) : Host.Outcome State Fault Refusal :=
  .next (
    match (if on s dATEST then s.atst.cur else none) with
    | some m =>
      if interlock s m.flask then
        let s := advance s (m.started + 11110000)
        let s := setI s AT_RESULT_RESULT uv
        let s := raise (incSat s AT_COUNTS_MEAS) AT_EVENT 1
        measureEnd (endTag s m.tag stSUCCESS (BitVec.ofInt 32 uv) 0) m
      else s
    | none => s)

/-- ATEST_INTERLOCK_LOSS (R638): the sequencer has stopped or the region is offline. -/
def execAtestInterlockLoss (s : State) : Host.Outcome State Fault Refusal :=
  .next (
    match (if on s dATEST then s.atst.cur else none) with
    | some m =>
      if interlock s m.flask then s
      else measureEnd (endSt (incSat s AT_COUNTS_INTERLOCK_FAIL) m.tag stINTERLOCK) m
    | none => s)

end Sys2Proof.Machine
end

