-- ==== Sys2Proof/Machine/Watchdog.lean ====
section
/-! DEFINITION. The host watchdog (R502-R515). -/

namespace Sys2Proof.Machine

/-! ## Question, token and window (R503-R508) -/

/-- The next question. -/
def nextQuestion (q : BitVec 16) : BitVec 16 :=
  let fb := q.getLsbD 15 ^^ q.getLsbD 13 ^^ q.getLsbD 12 ^^ q.getLsbD 10
  (q <<< 1) ||| (if fb then 1 else 0)

/-- The token that answers a question under a key. -/
def token (q : BitVec 16) (key : Word) : BitVec 16 := (q ^^^ key.extractLsb' 16 16).rotateLeft 3 + key.extractLsb' 0 16

/-- States of the watchdog in `WD_STATUS`. -/
def wdOFF : Nat := 0
def wdIDLE : Nat := 1
def wdBOOT : Nat := 2
def wdRUN : Nat := 3
def wdPULSE : Nat := 4
def wdGIVEN_UP : Nat := 5
def wdState (s : State) : Nat := getF s WD_STATUS_STATE

def question (s : State) : BitVec 16 := (rd s WD_QUESTION).extractLsb' 0 16
def stepQ (s : State) : State := setF s WD_QUESTION_Q (nextQuestion (question s)).toNat
/-- Seed the question with bits [25:10] of module time, 0 replaced by 1. -/
def seedQ (s : State) : State :=
  let q := stamp s / 1024 % 65536
  setF s WD_QUESTION_Q (if q = 0 then 1 else q)

/-- A value taken at the nearest end of its range. -/
def nearest (lo hi v : Nat) : Nat := max lo (min hi v)

/-- Module time as the timers see it: stopped by debug halt (R513). -/
def wdTime (s : State) : Nat := s.wd.frozenAt.getD s.now

/-- A timer started during debug halt is frozen from its start. -/
def wdFreeze (s : State) : State :=
  { s with wd := { s.wd with frozenAt := if s.fuses.wdDbg && s.wd.halt then some s.now else none } }

/-- A period or a boot time of `ns` begins. -/
def wdTimer (s : State) (ns : Nat) : State := wdFreeze { s with wd := { s.wd with start := s.now, deadline := s.now + ns } }

/-- Enter BOOT (R508). -/
def wdBoot (s : State) : State :=
  setFlag (setF (wdTimer s (nearest 1 3600 (getF s WD_CFG_BOOT_S) * 1000000000)) WD_STATUS_STATE wdBOOT) WD_CTRL_START true

/-- Enter RUN with the accepted period and window (R506, R507). -/
def wdRun (s : State) : State :=
  let s := setF (setF s WD_NOW_PERIOD_NOW (nearest 10 60000 (getF s WD_PERIOD_PERIOD))) WD_NOW_WIN_NOW
    (nearest 25 75 (getF s WD_PERIOD_WIN_PCT))
  setFlag (setF (wdTimer s (getF s WD_NOW_PERIOD_NOW * 1000000)) WD_STATUS_STATE wdRUN) WD_CTRL_START true

/-- The open window is open in RUN (R506). -/
def wdOpen (s : State) : Bool :=
  decide (s.wd.start + getF s WD_NOW_PERIOD_NOW * (100 - getF s WD_NOW_WIN_NOW) * 10000 ≤ wdTime s)

/-- An answer now would not be early: always in BOOT and GIVEN_UP, in RUN while the open window is open (R508, R509). -/
def wdNotEarly (s : State) : Bool := wdState s == wdBOOT || wdState s == wdGIVEN_UP || (wdState s == wdRUN && wdOpen s)

/-- The running timer has expired: its expiry came before anything that happens now. -/
def wdLate (s : State) : Bool := decide (s.wd.deadline ≤ wdTime s)

/-- A service: the question steps, `CONSEC` is 0 and a period begins. -/
def wdService (s : State) : State := wdRun (setF (stepQ s) WD_STATUS_CONSEC 0)

/-- `HRSTn` is released (R509, R511). -/
def releaseHrst (s : State) : State := if s.wd.hrstLow then emit { s with wd := { s.wd with hrstLow := false } } .hostResetEnd else s

/-- The failure actions, with a reason (R510, R512). -/
def wdFail (s : State) (reason : Nat) : State :=
  let s := emit s .hostReset
  let s := { s with wd := { s.wd with start := s.now, deadline := s.now + 10000000, frozenAt := none, hrstLow := true } }
  let s := setF s WD_STATUS_STATE wdPULSE
  let s := incSat (incSat s WD_COUNTS_HRST_COUNT) WD_STATUS_CONSEC
  let s := setF (stepQ s) WD_COUNTS_LAST_FAIL reason
  let s := logOther s 0x05 [BitVec.ofNat 32 (getF s WD_COUNTS_HRST_COUNT), BitVec.ofNat 32 reason]
  let s := raise s WD_EVENT 1
  loseHost (fault s 0x34 1 (srcBlock 0x007) (BitVec.ofNat 32 reason))

/-! ## Transitions (R509) -/

/-- `HOSTIF` is powered: hardware start or IDLE, by the fuse. -/
def wdPower (s : State) : State :=
  let s := setFlag (setFlag s WD_STATUS_WDSTART s.fuses.wdStart) WD_STATUS_WDDBG s.fuses.wdDbg
  let s := setFlag s WD_STATUS_FROZEN (s.fuses.wdDbg && s.wd.halt)
  if s.fuses.wdStart then wdBoot (seedQ s) else setF s WD_STATUS_STATE wdIDLE

/-- A write to `WD_CTRL`: `LOCK`, and `START` from IDLE. -/
def wdCtrlWrite (s : State) (v : Word) : State :=
  if on s dHOSTIF then
    let s := if v.getLsbD 31 then setFlag s WD_CTRL_LOCK true else s
    if v.getLsbD 0 && wdState s == wdIDLE then wdRun (seedQ s) else s
  else s

/-- WD_START: a write to `WD_CTRL` with `START` = 1. -/
def execWdStart (v : Word) (s : State) : Host.Outcome State Fault Refusal := .next (noteCfg s (wdCtrlWrite s (v ||| 1)))

/-- A write to `WD_ANSWER` (R509). The open window and the boot period end with their timer: an answer after that finds the watchdog
in PULSE. -/
def wdAnswer (s : State) (v : Word) : State :=
  if on s dHOSTIF then
    let ok := v.extractLsb' 0 16 == token (question s) s.wd.key
    if wdState s = wdBOOT then (if wdLate s then wdFail s 4 else if ok then wdService s else wdFail s 3)
    else if wdState s = wdRUN then (if wdLate s then wdFail s 1 else if !wdOpen s then wdFail s 2 else if ok then wdService s else wdFail s 3)
    else if wdState s = wdGIVEN_UP then (if ok then wdService s else s)
    else s
  else s

/-- WD_ANSWER. -/
def execWdAnswer (v : Word) (s : State) : Host.Outcome State Fault Refusal := .next (wdAnswer s v)

/-- A write to `WD_PERIOD` (R507). -/
def wdPeriodWrite (s : State) (v : Word) : State :=
  if on s dHOSTIF then
    if wdState s = wdRUN ∧ !wdOpen s then raise s WD_EVENT 2 else wr s WD_PERIOD (v &&& 0x00FFFFFF)
  else s

/-- WD_PERIOD_WRITE. -/
def execWdPeriodWrite (v : Word) (s : State) : Host.Outcome State Fault Refusal := .next (wdPeriodWrite s v)

/-- A write to `WD_KEY` (R505). -/
def wdKeyWrite (s : State) (v : Word) : State :=
  if on s dHOSTIF && !flag s WD_CTRL_LOCK then { s with wd := { s.wd with key := v } } else s

/-- WD_KEY_WRITE. -/
def execWdKeyWrite (v : Word) (s : State) : Host.Outcome State Fault Refusal := .next (wdKeyWrite s v)

/-- WD_PERIOD_EXPIRE: reason 1. -/
def execWdPeriodExpire (s : State) : Host.Outcome State Fault Refusal :=
  .next (if on s dHOSTIF && wdState s == wdRUN && s.wd.frozenAt.isNone then wdFail (advance s s.wd.deadline) 1 else s)

/-- WD_BOOT_EXPIRE: reason 4. -/
def execWdBootExpire (s : State) : Host.Outcome State Fault Refusal :=
  .next (if on s dHOSTIF && wdState s == wdBOOT && s.wd.frozenAt.isNone then wdFail (advance s s.wd.deadline) 4 else s)

/-- WD_PULSE_END: `HRSTn` is released after 10 ms. -/
def execWdPulseEnd (s : State) : Host.Outcome State Fault Refusal :=
  .next (
    if on s dHOSTIF && wdState s == wdPULSE then
      let s := releaseHrst (advance s s.wd.deadline)
      let m := getF s WD_CFG_FAIL_MAX
      if m ≠ 0 ∧ m ≤ getF s WD_STATUS_CONSEC then raise (setF s WD_STATUS_STATE wdGIVEN_UP) WD_EVENT 4
      else wdBoot s
    else s)

/-- Debug halt begins or ends: running timers freeze, and go on from where they stood (R513). -/
def wdHalt (s : State) (h : Bool) : State :=
  let s := { s with wd := { s.wd with halt := h } }
  let s := if on s dHOSTIF then setFlag s WD_STATUS_FROZEN (s.fuses.wdDbg && h) else s
  match s.wd.frozenAt with
  | some t =>
    if h then s
    else
      let d := s.now - t
      { s with wd := { s.wd with frozenAt := none, start := s.wd.start + d, deadline := s.wd.deadline + d } }
  | none => if wdState s = wdBOOT ∨ wdState s = wdRUN then wdFreeze s else s

/-- DEBUG_HALT (R513, R517): bit 0 supervisor A, bit 1 supervisor B held halted. -/
def execDebugHalt (m : Nat) (s : State) : Host.Outcome State Fault Refusal :=
  .next (wdHalt { s with sv := { s.sv with halted := m % 4 } } (m % 4 != 0))

/-- PERST# asserted: RUN is left for BOOT. -/
def wdPerst (s : State) : State :=
  if on s dHOSTIF && wdState s == wdRUN then raise (wdBoot s) WD_EVENT 8 else s

/-- `HOSTIF` goes off: `HRSTn` is released, and everything but the halt is gone with the registers. -/
def wdOff (s : State) : State := { releaseHrst s with wd := { halt := s.wd.halt } }

end Sys2Proof.Machine
end

