-- ==== Sys2Proof/Machine/HostReset.lean ====
section
/-! DEFINITION. Resets of the host interface and the orphan log (R405-R408). -/

namespace Sys2Proof.Machine

/-- `LAST_RESET` of an event of R405. -/
def resetCode : HostResetKind → Nat
  | .hotReset => 1
  | .perst => 1
  | .flr => 2
  | .d3ToD0 => 2
  | .linkDown => 3

/-- The event takes the link down. -/
def linkLost : HostResetKind → Bool
  | .hotReset => true
  | .perst => true
  | .linkDown => true
  | _ => false

/-- The command stops at once at a reset (the opcode's safe point). -/
def stopsAtOnce (x : Tag) : Bool := match opInfo x.opcode with | some i => i.atOnce | none => true

/-- What a reset makes of the command of tag `t`, under generation `g`: unstarted commands, also a capture that has not reserved its pages
(R404), end with outcome 1, those at once with outcome 2, those awaiting a CONTINUE with outcome 3; the others run on. -/
def cutTag (s : State) (g t : Nat) (x : Tag) : Tag :=
  if x.orphan.isSome then x
  else
    let stop (o : Nat) : Tag :=
      { x with orphan := some g, state := .done, outcome := o, status := stHOST_RESET, ended := s.hi.nextEnd, endAt := stamp s }
    match x.state with
    | .done => { x with orphan := some g }
    | .fetched => stop 1
    | .waitBuf => stop 3
    | _ =>
      if s.hi.captures.any (fun c => c.tag == t && c.state == .waiting) then stop 1
      else if stopsAtOnce x then stop 2 else { x with orphan := some g }

/-- The generation a new reset's entries carry: above `OL_GEN` and every one still to be entered. -/
def nextGen (s : State) : Nat := (allTags s).foldl (fun m e => max m (e.2.orphan.getD 0)) (rd s OL_GEN).toNat + 1

/-- Staged event records are discarded and counted, also for the ring's next lost-records record (R400, R405); the next telemetry frame of
a flask that lost one is a key frame (R444). -/
def dropStaged (s : State) (e : Nat) : State :=
  forEach (evRing s e).staging (fun r s => if isTel r then forceKey (countLost s e true) r else countLost s e false) s

/-- Words of the host interface returned to reset values at an event of R405 (R408). -/
def hiWord (a : Nat) : Bool :=
  (decide (0x10000 ≤ a) && decide (a < 0x20000) && a != HI_STATUS && a != HI_EVLOST) || decide (bar4 ≤ a)

/-- What a reset clears of the host interface beside its registers; the counts of lost records stand till they are reported (R400). -/
def hiCleared (h : HostIf) : HostIf :=
  { tags := h.tags, nextOrder := h.nextOrder, nextBell := h.nextBell, nextEnd := h.nextEnd + 1, nextStart := h.nextStart
    capFree := h.capFree, captures := h.captures, chanReads := h.chanReads, linkUp := h.linkUp, hbSecond := h.hbSecond, resetting := true
    evs := h.evs.map (fun (e : Nat × EvRing) => (e.1, { lostEvt := e.2.lostEvt, lostTel := e.2.lostTel, lostAt := e.2.lostAt })) }

/-- The blocks let go of the commands that have been stopped at once (R405, R413): captures, coherent reads, tie-link requests, an
injection and energy reads that a command waits for. -/
def dropStopped (s : State) : State :=
  { s with
    hi := { s.hi with captures := s.hi.captures.filter (fun (c : Capture) => tagRuns s c.tag), chanReads := s.hi.chanReads.filter (tagRuns s) }
    tls := s.tls.map (fun (e : Nat × TlPort) => (e.1, { e.2 with reqTags := e.2.reqTags.filter (fun r => tagRuns s r.1) }))
    fc := { s.fc with arm := s.fc.arm.map (fun (a : Arm) => { a with jobs := a.jobs.filter (fun j => tagRuns s j.tag) }) }
    site := { s.site with en := { s.site.en with reads := s.site.en.reads.filter (tagRuns s) } } }

/-- An orphan-log entry of a command (R407): written in full before `OL_COUNT` steps. -/
def logOrphan (s : State) (x : Tag) (g : Nat) : State :=
  let k := (rd s OL_COUNT).toNat
  let s := if (rd s OL_GEN).toNat < g then wr s OL_GEN (BitVec.ofNat 32 g) else s
  let s := wrList s (OL_ENTRY (k % 1024))
    [BitVec.ofNat 32 (x.cid * 65536 + x.status * 256 + x.sq * 16 + x.outcome),
     BitVec.ofNat 32 (x.opcode * 2 ^ 24 + x.slot), x.r0, x.r1, BitVec.ofNat 32 x.off, BitVec.ofNat 32 g, lo32 x.endAt, hi32 x.endAt]
  let s := wr s OL_COUNT (rd s OL_COUNT + 1)
  raiseHi (traceCmd (setFlag s HI_STATUS_ORPH_PEND true) 2 x) eORPHANS

/-- The descriptors in the staging slots, fetched and not started, as the reset ends them. -/
def stagedOrphans (s : State) : List Tag :=
  (List.range 16).filterMap (fun i => (subRing s i).staging.map (fun y =>
    { tagOf y.desc i y.slot y.bell 0 with bad := y.bad, state := .done, outcome := 1, status := stHOST_RESET, endAt := stamp s }))

/-- The reset itself (R405): engine, rings and vectors. -/
def hostReset (s : State) (k : HostResetKind) : State :=
  let g := nextGen s
  let lost := stagedOrphans s
  let s := forEach (List.range 4) (fun e s => dropStaged s e) { s with hi := { s.hi with resetting := true } }
  let s := { s with hi := { s.hi with tags := s.hi.tags.map (fun (e : Nat × Option Tag) => (e.1, e.2.map (cutTag s g e.1))) } }
  let s := dropStopped { s with hi := hiCleared s.hi }
  let s := traceHostOff (resetWords s hiWord)
  let s := setFlag (setFlag s HI_STATUS_READY false) HI_STATUS_RUNNING false
  let s := setF s HI_STATUS_LAST_RESET (resetCode k)
  forEach lost (fun x s => logOrphan s x g) s

/-- HOST_IF_RESET (R405). PERST# also moves the watchdog from RUN to BOOT (R509); a link that goes down loses the host for
the tie-links (R347). -/
def execHostIfReset (k : HostResetKind) (s : State) : Host.Outcome State Fault Refusal :=
  .next (
    if on s dHOSTIF && (k != .d3ToD0 || s.hi.d3hot) then
      let s := hostReset s k
      let s := if linkLost k then loseHost { s with hi := { s.hi with linkUp := false } } else s
      if k = .perst then wdPerst s else s
    else s)

/-- Enter a command in the orphan log (R407) and free its tag and pages. -/
def orphanEntry (s : State) (t : Nat) (x : Tag) (g : Nat) : State :=
  let s := logOrphan s x g
  updIdle (setTag { s with hi := { s.hi with capFree := s.hi.capFree + x.pages } } t none) x.sq

/-- Enter a command that has ended and was cut off by a reset. -/
def enterOrphan (s : State) (t : Nat) : State :=
  match getTag s t with
  | some x =>
    match x.orphan with
    | some g => if x.state = .done then orphanEntry s t x g else s
    | none => s
  | none => s

/-- ORPHAN_ENTRY (R407). -/
def execOrphanEntry (t : Nat) (s : State) : Host.Outcome State Fault Refusal :=
  .next (if on s dPPATH then enterOrphan s t else s)

/-- HOST_IF_READY (R406): every unstarted command is entered; the interface is ready once start-up has ended. -/
def execHostIfReady (s : State) : Host.Outcome State Fault Refusal :=
  .next (
    if on s dHOSTIF && s.hi.resetting && s.pw.done.testBit 12 then
      let s := forEach (((allTags s).filter (fun e => e.2.outcome == 1)).map (·.1)) (fun t s => enterOrphan s t) s
      let s := setFlag { s with hi := { s.hi with resetting := false } } HI_STATUS_READY true
      forEach (List.range 4) (fun e s => updEvFull s e) (setFlag s HI_STATUS_RUNNING (flag s HI_CTRL_EN))
    else s)

end Sys2Proof.Machine
end

