-- ==== Sys2Proof/Machine/Carrier.lean ====
section
/-! DEFINITION. The carrier of the channels' stages (R43, R111-R119): its periods, the modes and duties of the modulator, the edges
of a period, the boundary at which a new drive takes effect, and the level of the pins. -/

namespace Sys2Proof.Machine

/-! ## Carrier references (R43, R116, R117, R492)

Real time is counted in units of 1/1 000 of a step of 78.125 ps divided by `FSW`, in which a period without spread is the same
number at every frequency. -/

/-- Stretch of the carrier periods that begin now, in 0.1 %: none without `SPREAD_EN`, else at most 1.5 % either way (R43). A change
of `SPREAD_EN` acts from each reference's next period on (R492). -/
def spreadOf (s : State) : Int := if flag s CK_CTRL_SPREAD_EN then clampI (-15) 15 (Config.spread (s.tickAt / 1000)) else 0

/-- A period stretched by `d` 0.1 %. -/
def carLen (d : Int) : Nat := 6400000 * (1000 + d).toNat

/-- `ns` of module time at a frequency. -/
def carNs (fsw ns : Nat) : Nat := 12800 * fsw * ns

/-- A reference `t` units later; a period that begins meanwhile is stretched by `d`. Periods that a gap in the ticks leaves out
count as of that length. -/
def Carrier.step (c : Carrier) (t : Nat) (d : Int) : Carrier :=
  let x := c.ref + t
  if x < carLen c.d then { c with ref := x }
  else
    let y := x - carLen c.d
    { ref := y % carLen d, d, old := if y < carLen d then c.d else d }

/-- The reference of a frequency; one that no flask has used starts with a period. -/
def carrier (s : State) (fsw : Nat) : Carrier := tabGet (fun _ => {}) s.pw.cars fsw

/-- Steps of 78.125 ps in a flask's carrier period without spread, to the nearest (R118; DESIGN CHOICE, log 45). -/
def periodSteps (s : State) (f : Nat) : Nat := (divRound 6400000 (getF s (FL_CFG_FSW f))).toNat

/-- Delay of a channel's carrier behind its flask's reference: l·T/16, and (q mod 4)·T/64 with `INTERLEAVE`, T the period without
spread (R117; DESIGN CHOICE, log 88). -/
def carrierOffset (s : State) (c : Nat) : Nat :=
  (c % 16) * 400000000 + (if flag s (FL_CFG_INTERLEAVE (chFlask c)) then (chFlask c % 4) * 100000000 else 0)

/-- A channel's own carrier: how far its period has gone, the length of that period and that of the next. -/
structure CarView where
  p : Nat
  len : Nat
  next : Nat
  deriving DecidableEq, Repr

/-- The view of a reference `off` units later than it, a period that begins next being stretched by `d`: each period of the channel
is the reference's own, delayed. -/
def Carrier.view (c : Carrier) (off : Nat) (d : Int) : CarView :=
  if off ≤ c.ref then ⟨c.ref - off, carLen c.d, carLen d⟩ else ⟨c.ref + carLen c.old - off, carLen c.old, carLen c.d⟩

def CarView.adv (v : CarView) (t : Nat) : CarView :=
  if v.p + t < v.len then { v with p := v.p + t } else { v with p := (v.p + t - v.len) % v.next, len := v.next }

/-- A channel's carrier at the latest tick. -/
def carrierView (s : State) (c : Nat) : CarView :=
  (carrier s (getF s (FL_CFG_FSW (chFlask c)))).view (carrierOffset s c) (spreadOf s)

/-! ## Modes and duties (R114, R115, R118) -/

/-- A pin of a duty over a period of `len` units: both edges, centred on the peak, to the nearest step; a high or low time below
`DEADT` + 50 ns is suppressed. -/
def pinDrive (fsw dead len : Nat) (duty : Int × Int) : PinDrive :=
  let n : Int := len
  let k : Int := (1000 * fsw : Nat)
  let m : Int := (64 * dead + 640 : Nat)
  let num := duty.1
  let den := duty.2
  if den ≤ 0 ∨ n * num < m * k * den then .low
  else if n * (den - num) < m * k * den then .high
  else .pulse (divRound (n * (den - num)) (2 * k * den).toNat).toNat (divRound (n * (den + num)) (2 * k * den).toNat).toNat

/-- The pins of a drive over a period of `len` units. -/
def Drive.pins (x : Drive) (fsw dead len : Nat) : Pins :=
  ⟨(divRound len (1000 * fsw)).toNat, pinDrive fsw dead len x.a, pinDrive fsw dead len x.b⟩

/-- The mode, duties and saturation of the modulator for `u`, brick and CBUS voltages in mV (R114). Saturation (R120) looks at the
computed duty, before R115 suppresses a short level: the spec does not say which (DESIGN CHOICE, log 46). -/
def drive (s : State) (c : Nat) (u vb vbus : Int) : Drive × Bool × Bool :=
  let f := chFlask c
  let b : Int := getF s (FL_MODE_BB_BAND f)
  if 1000 * (vb + u) ≤ (1000 - b) * vbus then (⟨1, (vb + u, vbus), (1, 1)⟩, false, decide (vb + u ≤ 0))
  else if 1000 * (vbus - u) ≤ (1000 - b) * vb then (⟨3, (1, 1), (vbus - u, vb)⟩, decide (vbus - u ≤ 0), false)
  else
    let y := (1000 - b) * vbus - 1000 * u
    (⟨2, (1000 - b, 1000), (y, 1000 * vb)⟩, decide (y ≤ 0), decide (1000 * vb ≤ y))

/-- High time of a pin in a period of `n` steps. -/
def PinDrive.high_ (n : Nat) : PinDrive → Nat
  | .low => 0
  | .high => n
  | .pulse r f => f - r

/-- A number of steps of a period of `n`, as steps of a period of `n0`. -/
def stepsOf (n0 n x : Nat) : Nat := (divRound (x * n0) n).toNat

/-- High times of a channel's two pins in force, and its dead time, as steps of a period without spread. -/
def hiTimes (s : State) (c : Nat) : Nat × Nat × Nat :=
  let n0 := periodSteps s (chFlask c)
  let dead := 64 * getF s (FL_CFG_DEADT (chFlask c))
  match (chan s c).pwm.pins with
  | some d => (stepsOf n0 d.n (d.a.high_ d.n), stepsOf n0 d.n (d.b.high_ d.n), stepsOf n0 d.n dead)
  | none => (0, 0, dead)

/-! ## Taking effect (R114, R115, R119) -/

/-- Two pins' drives are of one kind, so that the edges of the one may follow those of the other within a period. -/
def PinDrive.kin : PinDrive → PinDrive → Bool
  | .low, .low => true
  | .high, .high => true
  | .pulse .., .pulse .. => true
  | _, _ => false

/-- A drive may take effect at the middle of a period: the mode stays, and so does a pin that stays low or high for the period
(R114, R115). -/
def Pins.kin (x y : Pins) : Bool := x.a.kin y.a && x.b.kin y.b

/-- The pin's period once a new drive has taken effect at its middle: the rise was that of the old drive, the fall is the new one's.
Each drive's high and low times keep the shortest level, so what the two halves make does too (R113, R115). -/
def PinDrive.join : PinDrive → PinDrive → PinDrive
  | .pulse r _, .pulse _ f => .pulse r f
  | x, _ => x

/-- Over `t` units of a channel's carrier from `v` on, a computed drive takes effect at the first half-period boundary; a mode, or a
pin that starts or stops switching, only at the boundary of a period. A stage that starts, starts with a period (DESIGN CHOICE,
log 47). -/
def Pwm.latch (x : Pwm) (new : Option Drive) (fsw dead : Nat) (v : CarView) (t : Nat) : Pwm :=
  if (v.p = 0 ∧ 0 < t) ∨ v.len < v.p + t then
    let len := if v.p = 0 then v.len else v.next
    let y := match new with | some w => some w | none => x.drv
    { x with drv := y, pins := y.map (fun w => w.pins fsw dead len), last := x.pins }
  else if 2 * v.p ≤ v.len ∧ v.len < 2 * (v.p + t) then
    match x.drv, x.pins, new with
    | some d, some z, some w =>
      let y := w.pins fsw dead v.len
      if d.mode == w.mode && z.kin y then { x with drv := some w, pins := some { z with a := z.a.join y.a, b := z.b.join y.b } } else x
    | _, _, _ => x
  else x

/-- The modulator `ns` after a tick: a boundary within the first 600 ns brings the drive of the tick before, a later one that of the
tick (R119). -/
def Pwm.run (x : Pwm) (fsw dead : Nat) (v : CarView) (ns : Nat) : Pwm :=
  let a := carNs fsw (min ns 600)
  (x.latch x.prev fsw dead v a).latch x.due fsw dead (v.adv a) (carNs fsw ns - a)

/-- A channel's modulator up to a tick `ns` after the one before; `MODE` is the mode in force. -/
def latchChan (s : State) (ns c : Nat) : State :=
  let f := chFlask c
  let v := carrierView s c
  modChan s c (fun x =>
    let y := x.pwm.run (getF s (FL_CFG_FSW f)) (getF s (FL_CFG_DEADT f)) v ns
    { x with pwm := { y with prev := y.due }, mode := match y.drv with | some d => d.mode | none => 0 })

/-- Frequencies in use. -/
def carFreqs (s : State) : List Nat := ((s.flasks.map (·.1)).map (fun f => getF s (FL_CFG_FSW f))).eraseDups

/-- Every modulator and every reference up to the tick at module time `t`. -/
def carrierTick (s : State) (t : Nat) : State :=
  let ns := t - s.tickAt
  let s := forEach ((s.chans.filter (fun e => e.2.pwm.due.isSome)).map (·.1)) (fun c s => latchChan s ns c) s
  let cars := (carFreqs s).foldl (fun l k => tabSet (fun _ => {}) l k ((carrier s k).step (carNs k ns) (spreadOf s))) []
  { s with pw := { s.pw with cars } }

/-! ## Pin levels (R111, R113) -/

/-- Level of a pin `t` steps into its period: a change between high and low passes through mid-level for `dead` steps, also a change
with the period or one that the period before had begun. `last` is that period, with its length. -/
def PinDrive.level (x : PinDrive) (last : Option (Nat × PinDrive)) (dead t : Nat) : Gate :=
  let rest : Gate := match last with
    | some (_, .high) => if t < dead then .hiz else .low
    | some (n, .pulse _ f) => if t + n < f + dead then .hiz else .low
    | _ => .low
  match x with
  | .low => rest
  | .high => match last with
    | some (_, .low) => if t < dead then .hiz else .high
    | some (_, .pulse ..) => if t < dead then .hiz else .high
    | _ => .high
  | .pulse r f => if t < r then rest else if t < r + dead then .hiz else if t < f then .high else if t < f + dead then .hiz else .low

/-- Levels of `CHn_PWMA` and `CHn_PWMB`, `ns` after the latest loop tick: mid-level (high-impedance) unless the channel is driven. -/
def pwmPins (s : State) (c ns : Nat) : Gate × Gate :=
  let f := chFlask c
  let k := getF s (FL_CFG_FSW f)
  let v := carrierView s c
  let x := (chan s c).pwm.run k (getF s (FL_CFG_DEADT f)) v ns
  match x.pins with
  | none => (.hiz, .hiz)
  | some d =>
    let dead := 64 * getF s (FL_CFG_DEADT f)
    let t := (v.adv (carNs k ns)).p / (1000 * k)
    (d.a.level (x.last.map (fun y => (y.n, y.a))) dead t, d.b.level (x.last.map (fun y => (y.n, y.b))) dead t)

end Sys2Proof.Machine
end

