-- ==== Sys2Proof/Machine/Legs.lean ====
section
/-! DEFINITION. The tie-link legs at the loop tick (R89-R93, R364), and the levels of pins that follow from the state: `ALIVE`
(R103, R105, R134), the legs' PWM pins (R89, R98) and the terminations on `TLn_LCW` (R293, R295, R304). -/

namespace Sys2Proof.Machine

/-! ## Leg regulation (R90, R91, R364) -/

/-- The leg's converter is driven: under a DC contract, or on the way to one at a source, and while it may carry DC (R89, R98). -/
def legDriven (s : State) (n : Nat) : Bool := legFitted s n && (getF s (PP_TLSTAT_DIR n) != 0 || legMoving s n)

/-- The current an importing leg may draw: what the ladle has allotted, within its limit (R91); on `BOOT`, where no ladle runs, its
limit (R364). -/
def legMay (s : State) (n : Nat) : Nat :=
  let lim := getF s (PP_TLSTAT_ILIM n)
  if onBoot s then lim else min lim (tleg s n).allot

/-- An import current of `i` less at least 10 mA, and `more` beyond that, while a condition holds. -/
def reduced (c : Bool) (i more : Nat) : Nat := if c then i - (1 + more) else i

/-- The current a leg's loop asks for at `TLn_VS` = `vs`, 10 mA, positive into CBUS. An importing leg draws what it may, less while
`vs` is below 95 % of the contracted voltage, and on `BOOT` while `CBUS_VS` is above it (R91, R364); an exporting one regulates
`TLn_VS` to the contracted voltage within its limit (R90). The laws of the three loops are free (log 73). -/
def legRef (s : State) (n vs : Nat) : Int :=
  let cv := getF s (TL_CONTRACT_CV n)
  match getF s (PP_TLSTAT_DIR n) with
  | 1 =>
    let i := legMay s n
    let j := reduced (decide (100 * vs < 95 * cv)) i (Config.legFold n cv vs i)
    (reduced (onBoot s && decide (cv < s.pp.cbusV)) j (Config.legHold n cv s.pp.cbusV j) : Int)
  | 2 => -((min (getF s (PP_TLSTAT_ILIM n)) (Config.legExport n cv vs (getF s (PP_TLSTAT_ILIM n))) : Nat) : Int)
  | _ => 0

/-- A leg's readings at a tick: its loop, the times of its protections (R93) and of its settling (R341), and `LIMITING`: the loop asks
for the whole of the limit. While a source moves from one DC contract to another, the 5 % is of the voltage `TL_CONTRACT` still
shows, the old one: the spec does not say which is the contracted voltage then (DESIGN CHOICE, log 73). -/
def legTick (s : State) (n vs : Nat) (i : Int) : State :=
  let x := tleg s n
  let dc := getF s (PP_TLSTAT_DIR n) != 0
  let cv : Int := getF s (TL_CONTRACT_CV n)
  let want : Int := rV (tl s n).lastReq
  let d := legDriven s n
  let r := if d then legRef s n vs else 0
  let s := setTleg s n {
    allot := x.allot, vs, i, driven := d, ref := r
    vSince := since s.now (dc && decide (cv < 20 * ((vs : Int) - cv).natAbs)) x.vSince
    iSince := since s.now (dc && decide (11 * getF s (TL_CONTRACT_CI n) < 10 * i.natAbs)) x.iSince
    okSince := since s.now (legMoving s n && decide (50 * (((vs : Int) - want).natAbs : Int) ≤ want)) x.okSince }
  setFlag s (PP_TLSTAT_LIMITING n) (d && r != 0 && decide (r.natAbs = getF s (PP_TLSTAT_ILIM n)))

/-! ## Pins -/

/-- The level of `ALIVE` on a connector (bank of four flasks) `ns` after the present moment: static low in transport mode,
high-impedance unless all four sequencers run, else high in the first half of each millisecond of module time. -/
def alivePin (s : State) (bank ns : Nat) : Gate :=
  if s.pw.transport = .transport ∨ s.pw.transport = .wake then .low
  else if !aliveOn s (4 * bank) then .hiz
  else if (s.now + ns) % 1000000 < 500000 then .high else .low

/-- `TLn_PWMA` and `TLn_PWMB` are driven; otherwise they are at mid-level, high-impedance. -/
def legPwm (s : State) (n : Nat) : Bool :=
  on s dPPATH && s.pw.transport != .transport && s.pw.transport != .wake && (tleg s n).driven && legDriven s n

/-- Switching frequency of a leg in 2 kHz: values outside 50 to 250 are treated as 100 (`PP_TLCFG`). -/
def legFsw (s : State) (n : Nat) : Nat := let v := getF s (PP_TLCFG_FSW n); if 50 ≤ v ∧ v ≤ 250 then v else 100

/-- Levels of `TLn_PWMA` and `TLn_PWMB` `ns` after the latest tick: the three-level drive of a channel at the leg's own frequency, to
which the reference spread does not extend (R43), with duties by the free law of the leg's loop (log 73). Each leg's period starts at
module time 0, and no dead time is shorter than a step. -/
def legPins (s : State) (n ns : Nat) : Gate × Gate :=
  if legPwm s n then
    let k := legFsw s n
    let x := tleg s n
    let pin (i : Nat) : PinDrive := pinDrive k Config.legDead (carLen 0) (min 65536 (Config.legDuty n i x.vs s.pp.cbusV x.ref), 65536)
    let m := (divRound 6400000 k).toNat
    let t := carNs k (s.tickAt + ns) % carLen 0 / (1000 * k)
    ((pin 0).level (some (m, pin 0)) (64 * Config.legDead) t, (pin 1).level (some (m, pin 1)) (64 * Config.legDead) t)
  else (.hiz, .hiz)

/-- What a port presents on `TLn_LCW` (R293). -/
inductive Term where
  | source
  | sink
  | unpoweredSink
  | open_
  deriving DecidableEq, Repr

/-- The presentation of a port: the unpowered sink termination while `TLPHY` is off (R295), else the one named with its state
(R304). -/
def termination (s : State) (n : Nat) : Term :=
  if !on s dTLPHY then .unpoweredSink
  else if presentsSrc (astate s n) then .source
  else if astate s n = aDISABLED ∨ astate s n = aREATTACH then .open_
  else .sink

end Sys2Proof.Machine
end

