-- ==== Sys2Proof/Machine/Tones.lean ====
section
/-! DEFINITION. Tones at the loop tick (R26, R135-R139, R230-R236): a flask's generator, the pairs it admits and drops, the
contribution to a channel's reference, and the sums a channel's point is made of. -/

namespace Sys2Proof.Machine

/-! ## Tones (R26, R135-R137) -/

/-- The pair a channel belongs to, and whether it is the pair's second channel. -/
def tonePair (s : State) (c : Nat) : Option (TonePair × Bool) :=
  match (flask s (chFlask c)).pairs.find? (fun p => p.a == c % 16 || p.b == c % 16) with
  | some p => some (p, p.b == c % 16)
  | none => none

/-- Terms of the sine series: the present term, the square of the angle, scaled by 10^18. -/
def sinSum (t2 : Int) : Nat → Nat → Int → Int
  | 0, _, _ => 0
  | f + 1, k, t => t + sinSum t2 f (k + 2) (-(t * t2 / 1000000000000000000) / ((k * (k + 1) : Nat) : Int))

/-- sin(2π·acc/2³²), scaled by 10^18. -/
def sinAcc (acc : Nat) : Int :=
  let q : Nat := acc / 2 ^ 30 % 4
  let x : Nat := acc % 2 ^ 30
  let y : Nat := if q % 2 = 1 then 2 ^ 30 - x else x
  let t : Int := ((1570796326794896619 * y / 2 ^ 30 : Nat) : Int)
  let v := sinSum (t * t / 1000000000000000000) 12 2 t
  if 2 ≤ q then -v else v

/-- FW = round(f_k·2³²/10⁶) of each tone, f_k = 0.05 Hz × 40 000^(k/23) (R230). -/
def toneStep (k : Nat) : Nat := [215, 340, 540, 855, 1356, 2150, 3408, 5402, 8563, 13575, 21519, 34113, 54076, 85722, 135889, 215414, 341478, 541318, 858108, 1360290, 2156359, 3418304, 5418765, 8589935].getD k 0

/-- A pair's sample at a tick: A·sin in 1 mA, taken to 10 mA with the remainder carried; the second channel carries the
opposite sign (R233, R234). -/
def TonePair.step (p : TonePair) (acc : Nat) : TonePair :=
  let v := sinAcc acc
  let a := divRound (p.ampA * v) 1000000000000000000 + p.remA
  let b := -divRound (p.ampB * v) 1000000000000000000 + p.remB
  { p with valA := divTrunc a 10, remA := a - 10 * divTrunc a 10, valB := divTrunc b 10, remB := b - 10 * divTrunc b 10 }

/-- The tone's contribution to a channel's reference at this tick. -/
def toneValue (s : State) (c : Nat) : Int :=
  match tonePair s c with
  | some (p, second) => if second then p.valB else p.valA
  | none => 0

/-- The second clamp (R136). -/
def secondClamp (s : State) (c : Nat) (v : Int) : Int :=
  clampI (-(getF s (CH_ILIM_IDIS_MAX c) : Int)) (getF s (CH_ILIM_ICHG_MAX c)) v

/-- A channel may carry a tone (R135, R166). -/
def toneOk (s : State) (c : Nat) : Bool :=
  let x := chan s c
  x.state == .run && flag s (CH_CFG_TONE_EN c) && x.ph.phase != phRECOVERY && x.ph.phase != phPRECHARGE && x.ph.fault == 0 &&
  x.win.cwin != 0 && x.win.cwin != 4 && x.win.cwin != 5 && x.win.dwin == 0

/-- A channel of the crucible's sweeps stays eligible: it may carry a tone, is not ARMED, and its `TONE_AMP` is not 0 (R226,
R232). -/
def eligible (s : State) (c : Nat) : Bool := toneOk s c && !(est s c).armed && getF s (EP_CFG_TONE_AMP c) != 0

/-- Pairs that stop at this tick leave the generator and are returned to the crucible (R26, R136, R137, R166), also when a channel of one becomes
ARMED or its `TONE_AMP` 0 (R226, R232). -/
def pruneTones (s : State) (f : Nat) : State :=
  let x := flask s f
  if x.pairs.isEmpty then s
  else
    let keep (p : TonePair) : Bool := !x.stopTones && !p.clipped && !x.held && eligible s (16 * f + p.a) && eligible s (16 * f + p.b)
    let gone := x.pairs.filter (fun p => !keep p)
    let s := setFlask s f { x with pairs := x.pairs.filter keep, stopTones := false,
                                    lostPairs := x.lostPairs ++ gone.map (fun p => (p.a, p.b)) }
    forEach gone (fun (p : TonePair) s =>
      modChan (modChan s (16 * f + p.a) (fun y => { y with tone := false })) (16 * f + p.b) (fun y => { y with tone := false })) s

/-! ## Amplitudes (R233) -/

/-- A non-negative rational to the nearestNat integer. -/
def nearestNat (x : Rat) : Nat := (divRound x.num x.den).toNat

/-- `TONE_AMP` × FS × VB of a channel, in mA·mV (R233). -/
def tonePower (s : State) (c : Nat) : Rat :=
  (getF s (EP_CFG_TONE_AMP c) : Rat) * 5000000 * ((chan s c).cv.vb : Rat) / (getF s (MC_SHUNT_SHUNT c) : Rat)

/-- Amplitudes of a pair in 1 mA (R233). -/
def toneAmps (s : State) (f a b : Nat) : Nat × Nat :=
  let (x, y) := (16 * f + a, 16 * f + b)
  let p := if tonePower s x ≤ tonePower s y then tonePower s x else tonePower s y
  (nearestNat (p / ((chan s x).cv.vb : Rat)), nearestNat (p / ((chan s y).cv.vb : Rat)))

/-! ## Admission (R26, R135, R139) -/

/-- A local channel of a flask is in a pair. -/
def carries (x : Flask) (l : Nat) : Bool := x.pairs.any (fun p => p.a == l || p.b == l)

/-- A sequencer accepts a tone pair (R26, R135, R166). -/
def acceptPair (s : State) (f a b : Nat) : Bool :=
  let x := flask s f
  a < 16 && b < 16 && a != b && x.running && !x.held && toneOk s (16 * f + a) && toneOk s (16 * f + b) &&
  decide (x.pairs.length < 8) && !carries x a && !carries x b

/-- One offered pair at a tick: admitted with its amplitudes, or returned to the crucible. -/
def admitPair (s : State) (f : Nat) (p : Nat × Nat) : State :=
  if acceptPair s f p.1 p.2 && !droopOn s then
    let (na, nb) := toneAmps s f p.1 p.2
    modFlask s f (fun x => { x with pairs := x.pairs ++ [{ a := p.1, b := p.2, ampA := na, ampB := nb, nextA := na, nextB := nb }] })
  else modFlask s f (fun x => { x with lostPairs := x.lostPairs ++ [p] })

/-- The pairs offered since the last tick, in the order of their requests. -/
def admitTones (s : State) (f : Nat) : State :=
  let l := (flask s f).asked
  if l.isEmpty then s else forEach l (fun p s => admitPair s f p) (modFlask s f (fun x => { x with asked := [] }))

/-- A flask's generator at a tick: the samples at the accumulator's phase, which then advances (R230). -/
def stepTones (s : State) (f : Nat) : State :=
  modFlask s f (fun x =>
    if x.pairs.isEmpty then x
    else { x with pairs := x.pairs.map (·.step x.toneAcc), toneAcc := (x.toneAcc + toneStep x.tone) % 2 ^ 32, toneTicks := x.toneTicks + 1 })

/-! ## Demodulation (R231, R236) -/

/-- Whole periods of a tone that end within its dwell: four for k ≤ 8, else those of 2 s (R231). -/
def tonePeriods (k : Nat) : Nat := [4, 4, 4, 4, 4, 4, 4, 4, 4, 6, 10, 15, 25, 39, 63, 100, 159, 252, 399, 633, 1004, 1591, 2523, 4000].getD k 4

/-- The sample just taken lies in the analysis periods: those after the first. -/
def analysed (x : Flask) : Bool :=
  let n := (x.toneTicks - 1) * toneStep x.tone
  decide (2 ^ 32 ≤ n) && decide (n < tonePeriods x.tone * 2 ^ 32)

/-- A sample joins a channel's sums: current in µA, voltage in µV, at accumulator phase `acc`. -/
def IqSum.add (q : IqSum) (acc : Nat) (i v : Int) : IqSum :=
  let si := sinAcc acc
  let co := sinAcc ((acc + 2 ^ 30) % 2 ^ 32)
  { iI := q.iI + i * si, iQ := q.iQ + i * co, vI := q.vI + v * si, vQ := q.vQ + v * co, n := q.n + 1 }

/-- A channel's 1 µs samples at a tick join the sums of the tone it carries. -/
def demod (s : State) (m : ChanTick) : State :=
  let f := chFlask m.c
  let x := flask s f
  if flaskOn s f && (tonePair s m.c).isSome && analysed x && shuntCycles m.us != 0 then
    let v := (chan s m.c).cv
    let k := chanCal s m.c
    let i := divRound (100000 * corrShunt v k m.us) (1000000000000000000 * shuntCycles m.us * k.shunt)
    let u := divRound (corrPin v k m.pin) 1000000000000000
    let acc := (x.toneTicks - 1) * toneStep x.tone % 2 ^ 32
    setFlask s f { x with pairs := x.pairs.map (fun p =>
      if p.a = m.c % 16 then { p with sumA := p.sumA.add acc i u }
      else if p.b = m.c % 16 then { p with sumB := p.sumB.add acc i u } else p) }
  else s

end Sys2Proof.Machine
end

