-- ==== Sys2Proof/Machine/Loop.lean ====
section
/-! DEFINITION. The loop tick (R45, R114-R125): reference, clamps, current and voltage loops, drive mode, windows, trip
conditions, tones, droop scale and shave factor; the tick strobe and the local copies of module time (R44, R45). -/

namespace Sys2Proof.Machine

/-! ## Reference (R122, R123, R145) -/

/-- A droop setpoint replaces the channel's own value (R73, R79). -/
def droopActs (s : State) (c : Nat) : Bool := droopOn s && flag s PP_CTRL_DROOP_EN && riser s c != 0

/-- Step 1: droop setpoint, ramp to 0 A, the phase's own reference, or the table entry (R145); 0 A in DRAIN (R101). -/
def step1 (s : State) (c : Nat) : Int :=
  if s.pw.transport = .drain then 0
  else if droopActs s c then -((riser s c * s.pp.scale / 256 : Nat) : Int)
  else if (chan s c).ramp.isSome then 0
  else match phaseRef s c with
    | some v => v
    | none => setpt s c

/-- The shave factor on a region's charging values: 0 under the stale shave (R280, R282). -/
def shaveF (s : State) (k : Nat) : Nat := if (region s k).stale then 0 else s.lad.f

/-- Step 2 (R283). -/
def step2 (f : Nat) (v : Int) : Int := if 0 < v then ((v.toNat * f / 256 : Nat) : Int) else v

/-- An integer of magnitude at most `m` with the sign of `v`. -/
def limitMag (m : Nat) (v : Int) : Int := if v.natAbs ≤ m then v else if v < 0 then -(m : Int) else m

/-- Step 3: growth in magnitude is limited to `slew` a tick, from 0 A after a change of sign; the ramp of a host hold
falls by at most `slew` a tick; 0 means no limit (R123). -/
def slewLimit (slew : Nat) (ramp : Bool) (prev v : Int) : Int :=
  if ramp then (if slew = 0 then 0 else limitMag (prev.natAbs - slew) prev)
  else if slew = 0 then v
  else if prev * v < 0 then limitMag slew v
  else limitMag (prev.natAbs + slew) v

/-! ## Voltage loop (R121) -/

/-- One step of the law of R120 on an integrator: the new integrator limited to [0, `hi`], and the output. -/
def piStep (kp ki : Nat) (e x hi : Int) : Int × Int :=
  let x := clampI 0 hi (x + divTrunc (ki * e) 65536)
  (x, divTrunc (kp * e) 256 + x)

/-- The voltage target, mV (R121). -/
def vTarget (s : State) (c : Nat) : Nat := min (10 * getF s (CH_VLIM_VMAX c)) (phaseTarget s c)

/-- Charging ceiling: integrator and value, preset while the brick is more than 1 % below the target. -/
def ceiling (s : State) (c : Nat) : Int × Int :=
  let x := chan s c
  let vb := 10 * x.vb
  let t := vTarget s c
  let m : Int := getF s (CH_ILIM_ICHG_MAX c)
  if 100 * vb < 99 * t then (m, m)
  else piStep (getF s (CH_VGAIN_VKP c)) (getF s (CH_VGAIN_VKI c)) ((t : Int) - vb) x.cI m

/-- Discharging floor, as a magnitude, computed the same way with the sign reversed. -/
def floor_ (s : State) (c : Nat) : Int × Int :=
  let x := chan s c
  let vb := 10 * x.vb
  let t := 10 * getF s (CH_VLIM_VMIN c)
  let m : Int := getF s (CH_ILIM_IDIS_MAX c)
  if 101 * t < 100 * vb then (m, m)
  else piStep (getF s (CH_VGAIN_VKP c)) (getF s (CH_VGAIN_VKI c)) ((vb : Int) - t) x.fI m

/-! ## Clamp stage (R124, R160, R161) -/

/-- The charging bounds other than the voltage loop's; 0 in settings quarantine (R584). -/
def chgBound (s : State) (c : Nat) : Nat :=
  let x := chan s c
  let m := min (getF s (CH_ILIM_ICHG_MAX c)) (phaseChg s c)
  let m := match x.win.cwin with
    | 0 => 0
    | 1 => min m (m * getF s (CH_TRED_COLD_PCT c) / 100)
    | 2 => m
    | 3 => min m (m * getF s (CH_TRED_HOT_PCT c) / 100)
    | _ => 0
  if flag s (CH_CFG_CHG_EN c) && !quarantine s then m else 0

/-- The discharging bounds other than the voltage loop's; `droop`: the value is a droop setpoint. -/
def disBound (s : State) (c : Nat) (droop : Bool) : Nat :=
  if flag s (CH_CFG_DISCH_EN c) && (chan s c).win.dwin == 0 && phaseDis s c droop && !flag s PP_STATUS_OV_CLAMP then
    getF s (CH_ILIM_IDIS_MAX c)
  else 0

/-- The clamped value, `VLOOP` and `CLAMPED`: the voltage loop binds when it is the lowest bound and cuts the value. -/
def clampStage (s : State) (c : Nat) (droop : Bool) (ceil flr : Int) (v : Int) : Int × Bool × Bool :=
  if 0 < v then
    let b : Int := chgBound s c
    let cl := max 0 ceil
    if cl < b ∧ cl < v then (cl, true, false) else if b < v then (b, false, true) else (v, false, false)
  else if v < 0 then
    let b : Int := disBound s c droop
    let fl := max 0 flr
    if fl < b ∧ fl < -v then (-fl, true, false) else if b < -v then (-b, false, true) else (v, false, false)
  else (0, false, false)

/-! ## Shunt check (R602) -/

def shc (s : State) (c : Nat) : ShuntCheck := tabGet (fun _ => {}) s.site.shc c
def setShc (s : State) (c : Nat) (x : ShuntCheck) : State :=
  { s with site := { s.site with shc := tabSet (fun _ => {}) s.site.shc c x } }

/-- Dead time that a switching pin gains or loses in a period, by the sign of the current (R113). -/
def deadSteps (n dead hi : Nat) (i : Int) : Int := if 0 < hi ∧ hi < n then (if 0 < i then (dead : Int) else if i < 0 then -(dead : Int) else 0) else 0

/-- A tick of a channel in RUN: high times are summed; what R602 excludes ends the window. -/
def shuntTick (s : State) (c : Nat) (slewed : Bool) : State :=
  if getF s TM_SHCHK_R_STAGE = 0 then s
  else
    let x := chan s c
    let y := shc s c
    let n := periodSteps s (chFlask c)
    let (ha, hb, d) := hiTimes s c
    setShc s c { y with
      sumA := y.sumA + ha - deadSteps n d ha x.i
      sumB := y.sumB + hb + deadSteps n d hb x.i
      ticks := y.ticks + 1
      mode := if y.mode = 0 then x.mode else y.mode
      ok := y.ok && (x.mode == 1 || x.mode == 3) && (y.mode == 0 || y.mode == x.mode) && !x.tone && !x.droop && !slewed }

/-- A tick at which the channel's loop does not run. -/
def shuntIdle (s : State) (c : Nat) : State := if (shc s c).ok then setShc s c { shc s c with ok := false } else s

/-- The loops of one driven channel at a tick; the drive they compute waits for its carrier boundary (R119). `vbus` is the CBUS voltage
converted in the tick before, 10 mV (R185). -/
def runLoops (s : State) (c vbus : Nat) : State :=
  let x := chan s c
  let droop := droopActs s c
  let f := shaveF s (chRegion c)
  let v := if droop then step1 s c else step2 f (step1 s c)
  let prev := if x.ramp.isSome ∧ x.r.natAbs < x.base.natAbs then x.r else x.base
  let base := if droop then v else slewLimit (getF s (CH_SLEW_SLEW c)) x.ramp.isSome prev v
  let (cI, ceil) := ceiling s c
  let (fI, flr) := floor_ s c
  let (r0, vl, cl) := clampStage s c droop ceil flr base
  let t := toneValue s c
  let r := if (tonePair s c).isSome then secondClamp s c (r0 + t) else r0
  let cut := (tonePair s c).isSome && r != r0 + t
  let e := r - x.i
  let frozen := (x.satHi && decide (0 < e)) || (x.satLo && decide (e < 0))
  let xI := if frozen then x.xI else x.xI + divTrunc (getF s (CH_IGAIN_IKI c) * e) 65536
  let u := divTrunc (getF s (CH_IGAIN_IKP c) * e) 256 + xI
  let (new, satHi, satLo) := drive s c u (10 * x.vb) (10 * vbus)
  let s := setChan s c { x with
    pwm := { x.pwm with due := some new }, satHi, satLo, xI, cI, fI, base, r, u, vloop := vl, clamped := cl, shaved := decide (f < 256), droop
    tone := (tonePair s c).isSome }
  let s := shuntTick s c (base != v)
  if cut then
    modFlask s (chFlask c) (fun y => { y with pairs := y.pairs.map (fun p =>
      if p.a = c % 16 ∨ p.b = c % 16 then { p with clipped := true } else p) })
  else s

/-- A channel is driven: in RUN, its sequencer running, its flask not held, and restarted if a retry is in progress. -/
def driven (s : State) (c : Nat) : Bool :=
  let f := flask s (chFlask c)
  (chan s c).state == .run && f.running && !f.held &&
  (match f.retry with | .run => true | .wait => false | .restart => f.restarted.contains (c % 16))

/-- A channel's readings at a tick, corrected (R119, R180, R184), and its trip conditions (R129). -/
def readChan (s : State) (m : ChanTick) : State :=
  if flaskOn s (chFlask m.c) then
    let k := chanCal s m.c
    modChan s m.c (fun x =>
      let i := tickCurrent x.cv k m.sh
      let vb := tickVoltage x.cv k m.pin
      { x with
        i, vb
        hiTrip := decide (getF s (CH_VTRIP_VTRIP_HI m.c) < vb)
        lowTicks := if vb < getF s (CH_VTRIP_VTRIP_LO m.c) ∧ i < 0 then satTo 2 (x.lowTicks + 1) else 0
        ocTicks := if getF s (CH_ITRIP_ITRIP m.c) < i.natAbs then satTo 255 (x.ocTicks + 1) else 0 })
  else s

/-- One channel at a tick: windows while present, loops while driven. -/
def tickChan (s : State) (vbus c : Nat) : State :=
  if flaskOn s (chFlask c) && (chan s c).state != .absent then
    let s := tickWindows s c
    if driven s c then runLoops s c vbus else shuntIdle s c
  else s

/-! ## Supply capability and shave (R282-R284) -/

/-- Voltage of the sprue whose capability is delivered: the active one, or the one chosen in a dead time (R71). -/
def capVoltage (s : State) : Nat :=
  match activeSprue s with
  | some n => (sprue s n).vs
  | none => match s.pp.dead with
    | some d => (match d.chosen with | some n => (sprue s n).vs | none => 0)
    | none => 0

/-- P_cap in 10 W (R282), from the sprue's and the importing legs' latest voltages. -/
def pCap (s : State) : Nat :=
  (s.pp.capability * capVoltage s + ((List.range 8).map (fun n =>
    if getF s (PP_TLSTAT_DIR n) = 1 then getF s (PP_TLSTAT_ILIM n) * (tleg s n).vs else 0)).sum) / 100000

/-- `cap_f` of R282. -/
def capF (pp pchg pcap : Nat) : Nat := if pp ≤ pcap then 256 else if pchg ≤ pp - pcap then 0 else 256 * (pchg - (pp - pcap)) / pchg

/-- The shave's edges: `SHAVING`, its events and count (R284). -/
def setShaving (s : State) (b : Bool) : State :=
  if s.lad.shaving = b then s
  else
    let s := setFlag { s with lad := { s.lad with shaving := b } } LD_STATUS_SHAVING b
    if b then raise (incSat s LD_COUNTS_SHAVES) LD_EVENT 0x10 else raise s LD_EVENT 0x20

/-- Publish f and g, and trace a change of f (kind 0x12). The comparators compute f themselves from the alignment word of the tick. -/
def setShave (s : State) (capf g pcap : Nat) : State :=
  let f := min capf g
  let ch := s.lad.fNext != f
  let s := { s with lad := { s.lad with fNext := f, g, capPrev := capf } }
  let s := setF (setF s LD_SHAVE_SHAVE_F f) LD_SHAVE_SHAVE_G g
  let s := setShaving s (decide (f < 256))
  if ch then offer s 0x12 f (BitVec.ofNat 32 pcap) else s

/-- The comparators' computation at a tick (R282). -/
def shaveTick (s : State) (pcap : Nat) (above : Bool) : State :=
  let s := { s with lad := { s.lad with pcap } }
  let capf := capF (getF s PT_PWR_BASIS) (getF s PT_PWR_P_CHG) pcap
  let g := if above then s.lad.g - 1 else s.lad.g
  let s := if above || decide (capf < s.lad.capPrev) then { s with lad := { s.lad with trigger := s.now } } else s
  setShave s capf g pcap

/-! ## Dead battery (R94) -/

/-- A present channel can discharge (R94). -/
def canDischarge (s : State) (c : Nat) : Bool :=
  let x := chan s c
  let f := flask s (chFlask c)
  x.state == .run && f.running && !f.held && flag s (CH_CFG_DISCH_EN c) && x.win.dwin == 0 && phaseDis s c true &&
  decide (10 * getF s (CH_VLIM_VMIN c) ≤ x.cv.vb)

/-- `DEAD_BATT` follows the condition; its edges are events. -/
def updDeadBatt (s : State) : State :=
  let d := !s.chans.any (fun e => canDischarge s e.1)
  if flag s PP_STATUS_DEAD_BATT = d then s
  else raisePP (setFlag s PP_STATUS_DEAD_BATT d) (if d then ppDEAD_SET else ppDEAD_CLR)

/-! ## The tick -/

/-- A leg's readings at a tick, corrected (R185, R198): a sprue's voltage, current and `REVERSE`, a tie-link leg's loop, the CBUS
voltage. -/
def readLeg (s : State) (m : LegTick) : State :=
  let v := leg s m.leg
  let k := legCalVals s m.leg
  let vs := tickVoltage v k m.pin
  let i := tickCurrent v k m.sh
  if m.leg < 4 then
    let s := setFlag s (SP_STATUS_REVERSE m.leg) (decide (tickShunt m.sh < -(getF s (SP_VTH2_REV_TH m.leg) : Int)))
    let s := sampleVs s m.leg vs
    setSprue s m.leg { sprue s m.leg with i }
  else if m.leg < 12 then legTick s (m.leg - 4) vs i
  else setCbus s vs

/-- The loop-tick alignment word goes to each region die as class 0 traffic: the droop scale for the next tick, P_cap and the bit of
R282 (R31, R74). -/
def alignWord (s : State) : State :=
  forEach ((List.range s.part.regions).filter (fun k => on s (dCTL k))) (fun _ s => xfer s hubFabric 0 rqPpath 8) s

/-- The power-path block's part of a tick: voltages, droop scale for the next tick, shave, dead battery. -/
def tickPower (s : State) (x : TickIn) : State :=
  if on s dPPATH then
    let s := forEach x.legs (fun m s => readLeg s m) s
    let s := { s with pp := { s.pp with scaleNext := droopScale s s.pp.cbusV } }
    let above := match activeSprue s with | some n => decide ((getF s (SP_LIMIT_LIMIT n) : Int) < (sprue s n).i) | none => false
    updDeadBatt (shaveTick (alignWord s) (pCap s) above)
  else s

/-! ## Captures at a tick (R424) -/

/-- Duty of a pin in 1/65 536 (R115, R424). -/
def duty (s : State) (c hi : Nat) : Nat := satTo 65535 (divRound (65536 * hi) (periodSteps s (chFlask c))).toNat

/-- The four words of a sample: current, voltage, reference in 1 mA, duties. -/
def captureSample (s : State) (c : Nat) : List Word :=
  let x := chan s c
  [BitVec.ofInt 32 x.i, BitVec.ofNat 32 x.vb, BitVec.ofInt 32 (10 * x.r), pair16 (duty s c (hiTimes s c).1) (duty s c (hiTimes s c).2.1)]

/-- The value of module time that identifies the latest loop tick of a channel's flask (R45). -/
def tickId (s : State) (c : Nat) : Nat := 1000 * (region s (chRegion c)).tick

/-- The 64-byte header of a capture whose sample 0 is taken now. -/
def captureHeader (s : State) (x : Capture) : List Word :=
  [BitVec.ofNat 32 (2 ^ 24 + x.chan), BitVec.ofNat 32 x.nsamp, BitVec.ofNat 32 (x.dec + 256 * x.trig), BitVec.ofNat 32 x.flags,
   lo32 (tickId s x.chan), hi32 (tickId s x.chan), rd s (MC_SHUNT x.chan), BitVec.ofNat 32 (chan s x.chan).calSeq] ++ List.replicate 8 0

/-- Set bits of a capture's `FLAGS`, in its header as long as that is in the module. -/
def captureFlags (s : State) (x : Capture) (m : Nat) : Capture × State :=
  let f := x.flags ||| m
  if f = x.flags then (x, s)
  else ({ x with flags := f }, modTag s x.tag (fun y => { y with result := y.result.set 3 (BitVec.ofNat 32 f) }))

/-- Edges of a capture at a tick: the channel has left RUN, the droop response has engaged. -/
def captureEdges (s : State) (x : Capture) : Capture × State :=
  let run := (chan s x.chan).state == .run
  let dr := droopOn s
  let (x, s) := captureFlags s x ((if x.wasRun && !run then 1 else 0) ||| (if dr && !x.wasDroop then 4 else 0))
  ({ x with wasRun := run, wasDroop := dr }, s)

/-- Bytes in the local capture memory of region k: samples that still wait for the region's fabric (R46). -/
def localCapture (s : State) (k : Nat) : Nat :=
  (((fabric s k).waiting.filter (fun y => y.cls == 3 && decide (y.req < 16))).map (·.bytes)).sum

/-- A sampling capture at a tick: sample 0 brings its header and the command's results with it. No sample grows over the end of the
local capture memory: it is taken at a later tick (R46; DESIGN CHOICE, log 90). -/
def captureTake (s : State) (x : Capture) : Capture × State :=
  let (x, s) := captureEdges s x
  if 0 < x.skip then ({ x with skip := x.skip - 1 }, s)
  else if Config.sramLocal < localCapture s (chRegion x.chan) + 16 then (x, s)
  else
    let s := if x.taken = 0 then
        modTag s x.tag (fun y => { y with result := captureHeader s x, total := 64 + 16 * x.nsamp, r0 := lo32 (tickId s x.chan), r1 := hi32 (tickId s x.chan) })
      else s
    let s := modTag s x.tag (fun y => { y with result := y.result ++ captureSample s x.chan })
    let s := xfer s (chRegion x.chan) 3 (chFlask x.chan % 16) 16
    ({ x with taken := x.taken + 1, skip := x.dec }, s)

/-- The command of a capture still runs. -/
def captureLive (s : State) (x : Capture) : Bool :=
  match getTag s x.tag with
  | some y => y.opcode == 0x1A && (y.state == .running || y.state == .waitBuf)
  | none => false

/-- Its trigger of kind 2 or 3 awaits an edge: the state before it has been seen. -/
def captureEdgeSeen (s : State) (x : Capture) : Bool :=
  x.edge || (match x.trig with | 2 => (chan s x.chan).state == .run | 3 => !droopOn s | _ => false)

/-- Every capture at a tick; one with all its samples waits for the end of its last millisecond (R424). -/
def captureTick (s : State) : State :=
  forEach s.hi.captures (fun (x : Capture) s =>
    if !captureLive s x then s
    else
      let (y, s) := match x.state with
        | .sampling => if x.full then (x, s) else captureTake s x
        | .armed => ({ x with edge := captureEdgeSeen s x }, s)
        | .waiting => (x, s)
      { s with hi := { s.hi with captures := s.hi.captures ++ [y] } }) { s with hi := { s.hi with captures := [] } }

/-! ## Module time across the dies (R44, R45) -/

/-- Value of a local copy of module time: one that is ahead of the master steps at a reduced rate until the two agree; it
never steps backwards. -/
def TimeCopy.read (c : TimeCopy) (now : Nat) : Nat := max now (c.value + (now - c.at_) / (Config.slowStep + 2))

/-- One resolution step of module time, ns (R494). -/
def timeStep (s : State) : Nat := match s.pw.timeSrc with | .reference => 40 | .crystal => 30518 | .rc => 63

/-- A copy found `d` ns ahead of the master is set; one that is behind steps up to it. No copy goes back, and none is further
ahead than one resolution step. -/
def TimeCopy.realign (c : TimeCopy) (now step : Nat) (d : Int) : TimeCopy :=
  { value := max (c.read now) (now + min step d.toNat), at_ := now }

/-- The whole microsecond of the hub's copy of module time at which the next strobe goes out: the one it reads now when that has had
none, else the next. -/
def nextStrobe (s : State) : Nat :=
  let h := s.pw.hubCopy.read s.now
  if h % 1000 = 0 ∧ s.pw.hubTick < h then h else (h / 1000 + 1) * 1000

/-- The moment, not before `now`, at which a copy comes to read `v` or more. -/
def TimeCopy.reach (c : TimeCopy) (now v : Nat) : Nat := max now (min v (c.at_ + (v - c.value) * (Config.slowStep + 2)))

/-- The moment of the next tick strobe (R45). -/
def tickTime (s : State) : Nat := s.pw.hubCopy.reach s.now (nextStrobe s)

/-- A region's flasks begin a tick: with the strobe, or, once it has been absent for 2 µs, by the region's own copy of module
time. -/
def ticks (s : State) (x : TickIn) (k : Nat) : Bool := !x.noStrobe.contains k || (region s k).strobeLost

/-- The strobe of this tick at every region, and the identity that the region's copy of module time gives the tick. -/
def strobes (s : State) (x : TickIn) : State :=
  forEach (List.range s.part.regions) (fun k s =>
    if on s (dCTL k) then
      modRegion s k (fun r => { r with
        strobeAt := if x.noStrobe.contains k then r.strobeAt else s.now
        strobeLost := r.strobeLost && x.noStrobe.contains k
        tick := if ticks s x k then r.copy.read s.now / 1000 else r.tick })
    else s) s

/-- LOOP_TICK (R45): the next whole microsecond of the hub's copy of module time, with the readings of its tick. -/
def execLoopTick (x : TickIn) (s : State) : Host.Outcome State Fault Refusal :=
  .next (
    let t := tickTime s
    let h := nextStrobe s
    let s := carrierTick s t
    let s := strobes { s with now := t, tickAt := t, pw := { s.pw with hubTick := h } } x
    let vbus := s.pp.cbusV
    let s := { s with pp := { s.pp with scale := s.pp.scaleNext }, lad := { s.lad with f := s.lad.fNext } }
    let s := forEach ((s.flasks.map (·.1)).filter (fun f => ticks s x (f / 16))) (fun f s => stepTones (admitTones (pruneTones s f) f) f) s
    let s := forEach (s.flasks.map (·.1)) (fun f s => if x.fltLow.contains f then s else modFlask s f (fun y => { y with fltPin := false })) s
    let s := forEach x.chans (fun m s => demod (readChan s m) m) s
    let s := forEach ((s.chans.map (·.1)).filter (fun c => ticks s x (chRegion c))) (fun c s => tickChan s vbus c) s
    fabricsRun (captureTick (tickPower s x)))

/-- TICK_STROBE_LOST (R45): a region's strobe has been absent for 2 µs; its flasks count ticks from the local copy of
module time until it returns. -/
def execTickStrobeLost (k : Nat) (s : State) : Host.Outcome State Fault Refusal :=
  .next (
    if on s (dCTL k) && decide (k < s.part.regions) then
      modRegion (advance s ((region s k).strobeAt + 2000)) k (fun r => { r with strobeLost := true })
    else s)

/-- Difference found for a copy: 0 to 3 a region's, 4 the hub's. -/
def copyDiff (diff : List (Nat × Int)) (i : Nat) : Int := match diff.find? (fun e => e.1 == i) with | some e => e.2 | none => 0

/-- TIME_REALIGN (R44): every millisecond each local copy is realigned to the master. `diff` gives, in ns, how far a copy is
ahead of the master (negative: behind); a copy that is not listed agrees with it. -/
def execTimeRealign (diff : List (Nat × Int)) (s : State) : Host.Outcome State Fault Refusal :=
  .next (
    let st := timeStep s
    let s := if on s dPPATH then { s with pw := { s.pw with hubCopy := s.pw.hubCopy.realign s.now st (copyDiff diff 4) } } else s
    forEach (List.range s.part.regions) (fun k s =>
      if on s (dCTL k) then modRegion s k (fun r => { r with copy := r.copy.realign s.now st (copyDiff diff k) }) else s) s)

end Sys2Proof.Machine
end

