-- ==== Sys2Proof/Machine/Measure.lean ====
section
/-! DEFINITION. Measurement (chapter 5): accumulators, snapshot values, temperature conversion, background trims and
calibration entries. -/

namespace Sys2Proof.Machine

/-! ## Conversions (R176, R180, R184, R190) -/

/-- One millisecond of a converter pair, given its calibration; `scale` is 5 000 for 10 mA, 50 000 for 1 mA. -/
def convStep (v : Conv) (k : CalVals) (sh : ShuntRuns) (pin scale : Nat) (sat : Option Int) : Conv :=
  let (acc, frac) := accStep v k sh
  let i := divRound (accDiff acc v.acc * scale) k.shunt
  { v with acc, frac, im := match sat with | some m => clampI (-m) m i | none => i
           vb := msVoltage v k pin, ovr := decide (56250000 < (shuntPeak sh).natAbs) }

/-- A trim's update takes effect at the millisecond boundary (R192). -/
def Trim.step (t : Trim) : Trim := { t with g := t.next }
def Conv.boundary (v : Conv) : Conv := { v with tI := v.tI.step, tV := v.tV.step, tB := v.tB.step }

/-! ## Temperature (R186-R189) -/

/-- Halve or double a ratio until it lies in [2/3, 4/3]; answers it with the power of two taken out. -/
def lnReduce : Nat → Nat → Nat → Int → Nat × Nat × Int
  | 0, n, d, k => (n, d, k)
  | f + 1, n, d, k =>
    if 4 * d < 3 * n then lnReduce f n (2 * d) (k + 1)
    else if 3 * n < 2 * d then lnReduce f (2 * n) d (k - 1)
    else (n, d, k)

/-- Terms of the series of the inverse hyperbolic tangent: `p` the power reached, `y2` the square, scaled by 10^15. -/
def atanhSum (y2 : Int) : Nat → Nat → Int → Int
  | 0, _, _ => 0
  | f + 1, k, p => p / (k : Int) + atanhSum y2 f (k + 2) (p * y2 / 1000000000000000)

/-- Natural logarithm of n/d, scaled by 10^15. -/
def lnScaled (n d : Nat) : Int :=
  let (n, d, k) := lnReduce 64 n d 0
  let y : Int := ((n : Int) - d) * 1000000000000000 / (n + d : Nat)
  2 * atanhSum (y * y / 1000000000000000) 14 1 y + k * 693147180559945

/-- The temperature of R187 in 10^-9 °C for a pin voltage (µV) and a bias current (10^-12 nA); none where the expression has
no value within the sensor's reach. -/
def thermNano (ts bias b r25 : Nat) (toffs : Int) : Option Int :=
  if ts = 0 ∨ bias = 0 ∨ b = 0 ∨ r25 = 0 then none
  else
    let a : Int := 100000000000000000 / 29815 + lnScaled (100000000000000 * ts) (bias * r25) / b
    if a ≤ 0 then none else some (1000000000000000000000000 / a - 273150000000 + 100000000 * toffs)

/-- The temperature in 0.1 °C: the module's evaluation lies within ±0.02 °C of the expression (the error is free; its bound
leaves 10^-8 °C for what `thermNano` cuts off) and is rounded to the nearest 0.1 °C, ties away from zero (R187). -/
def thermTenths (t err : Int) : Int := divRound (t + clampI (-19999990) 19999990 err) 100000000

/-- The conversion is out of range (R188). -/
def thermOut (range ts : Nat) (t : Option Int) : Bool :=
  (range == 1 && decide (3100000 < ts)) || (range == 0 && decide (ts < 30000)) ||
  (match t with | some v => decide (v < -500) || decide (1500 < v) | none => true)

/-- A counted conversion: out of range, or compared with the reference conversion (R188, R189). A conversion rejected as a spike
is in range, so it breaks a run of out-of-range conversions and clears the mark, though it is not used (DESIGN CHOICE, log 42). -/
def thermTake (x : Therm) (now ts : Nat) (t : Option Int) : Therm :=
  if thermOut x.range ts t then { x with oor := satTo 2 (x.oor + 1) }
  else match t with
    | none => x
    | some v =>
      let x := { x with oor := 0, invalid := false, validSince := if x.invalid then some now else x.validSince }
      match x.ref with
      | some r => if 100 < (v - r).natAbs then { x with ref := some v } else { x with ref := some v, temp := v }
      | none => { x with ref := some v, temp := v }

/-- The range change a conversion asks for (R186). -/
def thermRange (x : Therm) (ts : Nat) : Therm :=
  if x.range = 0 ∧ 2800000 < ts then { x with range := 1, discard := 2 }
  else if x.range = 1 ∧ ts < 250000 then { x with range := 0, discard := 2 } else x

/-- One millisecond's conversion (R186-R189). -/
def thermStep (x : Therm) (now ts : Nat) (t : Option Int) : Therm :=
  let x := { x with rangeMs := x.range, pin := ts }
  if 0 < x.discard then { x with discard := x.discard - 1 } else thermRange (thermTake x now ts t) ts

/-! ## Channels at a snapshot -/

/-- A channel's conversions of the millisecond that ends (R175, R176). -/
def convChan (s : State) (m : ChanMs) : State :=
  if flaskOn s (chFlask m.c) then
    let c := m.c
    let x := chan s c
    let cv := convStep x.cv (chanCal s c) m.sh m.pin 5000 (some 32767)
    let bias := ((m.bias : Int) * (1000000 + x.cv.fact.gB) * (1000000 + x.cv.tB.g)).toNat
    let (n, s) := draw s
    let t := (thermNano m.ts bias (getF s (MC_NTC_NTC_B c)) (getF s (MC_NTC_NTC_R25 c)) (getI s (MC_VTRIM_T_OFFS c))).map
      (fun v => thermTenths v (Config.thermError n))
    let s := setChan s c { x with
      cv, th := thermStep x.th s.now m.ts t
      vbHist := cv.vb :: x.vbHist.take 999 }
    if cv.ovr && !x.cv.ovr && (x.state == .hold || x.state == .run) then
      fault s 0x04 1 (srcChan c 1) (BitVec.ofInt 32 (divTrunc (shuntPeak m.sh) 1000))
    else s
  else s

/-- `MS_T` of a channel. -/
def msTWord (x : Chan) : Word :=
  let b (v : Bool) (i : Nat) : Nat := if v then 2 ^ i else 0
  BitVec.ofNat 32 (toBits 16 x.th.temp * 65536 + b x.th.invalid 15 + x.th.rangeMs * 2 ^ 14 + b x.cv.ovr 13 + x.calSeq % 256)

/-- The mirror entry of a channel at millisecond `ms` (R203). -/
def mirrorChan (s : State) (ms c : Nat) : State :=
  let x := chan s c
  wrList s (MS_ACC_LO c) [lo32 x.cv.acc, BitVec.ofNat 32 ((ms % 32768) * 65536 + x.cv.acc / 2 ^ 32),
    BitVec.ofNat 32 (toBits 16 x.cv.im * 65536 + x.cv.vb), msTWord x, lo32 x.cv.start, hi32 x.cv.start]

/-- The live words of a channel are refreshed (R142, R174). -/
def refreshChan (s : State) (c : Nat) : State :=
  let x := chan s c
  let s := wr (wr s (CH_STATE c) (chStateWord s c)) (CH_COUNTS c) (pair16 x.holds x.trips)
  wr (wr s (CH_PHASE c) (chPhaseWord s c)) (CH_PHTIME c) (chPhTimeWord x)

/-- The live words of a flask are refreshed (R142). -/
def refreshFlask (s : State) (f : Nat) : State :=
  let x := flask s f
  wr (wr s (FL_STATE f) (flStateWord s f)) (FL_COUNTS f) (pair16 x.fltEvents x.lostMsg)

/-- Channels of powered flasks. -/
def liveChans (s : State) : List Nat := (List.range s.part.channels).filter (fun c => flaskOn s (chFlask c))

def tele (s : State) (f : Nat) : Telemetry := tabGet (fun _ => {}) s.tel f
def setTele (s : State) (f : Nat) (x : Telemetry) : State := { s with tel := tabSet (fun _ => {}) s.tel f x }

/-- The charge of a channel's telemetry up to accumulator value `acc` is kept in coulombs; the accumulator goes on from
`to_` (R197, R439). -/
def foldTele (s : State) (c acc to_ : Nat) (shunt : Nat) : State :=
  let f := chFlask c
  let x := tele s f
  setTele s f { x with charge := x.charge.map (fun e =>
    if e.1 = c % 16 then (e.1, { e.2 with q := e.2.q + accCharge (accDiff acc e.2.acc) shunt, acc := to_ }) else e) }

/-- An accepted calibration entry comes into force, and `CAL_SEQ` steps; a change of `SHUNT` splits the charge since
the net-charge mark, since the latest filter update and of telemetry (R155, R196, R197). -/
def takeCal (s : State) (c : Nat) (w : List Word) : State :=
  let x := chan s c
  let seq := (getF s (MC_VTRIM_CAL_SEQ c) + 1) % 256
  let old := getF s (MC_SHUNT_SHUNT c)
  let ph := { x.ph with markQ := x.ph.markQ + accCharge (accDiff x.cv.acc x.ph.mark) old, mark := x.cv.acc }
  let s := modEst s c (fun e => { e with qPrev := e.qPrev + accCharge (accDiff x.cv.acc e.acc) old, acc := x.cv.acc })
  let s := foldTele (setChan s c { x with calSeq := seq, ph }) c x.cv.acc x.cv.acc old
  wrList s (MC_SHUNT c) [w.getD 0 0, w.getD 1 0, setBits (w.getD 2 0) 0 8 seq, w.getD 3 0]

/-- A channel's boundary: trims take effect (R192). -/
def boundaryChan (s : State) (c : Nat) : State := modChan s c (fun x => { x with cv := x.cv.boundary })

/-- The calibration check of four words on a channel (R196, with R141 and R178 under the new `SHUNT`). -/
def calCheck (s : State) (c : Nat) (w : List Word) : Bool :=
  let g (j lo : Nat) : Nat := bits (w.getD j 0) lo 16
  let sh := g 0 16
  decide (15000 ≤ sh) && decide (19000 ≤ g 0 0) && decide (g 0 0 ≤ 21000) &&
  decide ((sext 16 (g 1 16)).natAbs ≤ 20000) && decide ((sext 16 (g 2 16)).natAbs ≤ 500) &&
  decide ((sext 8 (bits (w.getD 2 0) 8 8)).natAbs ≤ 50) && decide (2000 ≤ g 3 16) && decide (g 3 16 ≤ 5000) &&
  decide (100 ≤ g 3 0) && decide (g 3 0 ≤ 3000) &&
  decide (getF s (CH_ILIM_ICHG_MAX c) * sh ≤ 500000000) && decide (getF s (CH_ILIM_IDIS_MAX c) * sh ≤ 500000000) &&
  decide (getF s (CH_ITRIP_ITRIP c) * sh ≤ 562500000)

/-- An accepted calibration entry waits for the next millisecond boundary (R196). -/
def waitCal (s : State) (l : List Nat) (w : List Word) (t : Nat) : State := { s with calWaits := s.calWaits ++ [⟨l, w, t⟩] }

/-- A waiting calibration entry at its boundary (R196), whether or not its channels' banks are powered: the entries lie in the
regions' memory. A command's entry is checked once more against the values now in force, and is rejected whole where a channel
fails (R416). -/
def takeCals (s : State) (x : CalWait) : State :=
  match if x.tag = noTag then none else x.chans.find? (fun c => !calCheck s c x.words) with
  | some c => endTag s x.tag stCHECK_FAILED (BitVec.ofNat 32 c) 0
  | none => endSt (noteCfg s (forEach x.chans (fun c s => takeCal s c x.words) s)) x.tag stSUCCESS

/-- The calibration entries that wait for the boundary. -/
def boundaryCals (s : State) : State := forEach s.calWaits (fun x s => takeCals s x) { s with calWaits := [] }

/-! ## Legs (R198-R200) -/

/-- A leg's conversions of the millisecond (R198). -/
def convLeg (s : State) (m : LegMs) : State :=
  let v := leg s m.leg
  let v' := convStep v (legCalVals s m.leg) m.sh m.pin 50000 none
  let s := setLeg s m.leg v'
  if v'.ovr && !v.ovr then fault s 0x04 1 (legSrc m.leg) (BitVec.ofInt 32 (divTrunc (shuntPeak m.sh) 1000)) else s

/-- The mirror entry of a leg (R203). -/
def mirrorLeg (s : State) (ms l : Nat) : State :=
  let v := leg s l
  wrList s (LG_ACC_LO l) [lo32 v.acc, BitVec.ofNat 32 ((ms % 32768) * 65536 + v.acc / 2 ^ 32), BitVec.ofInt 32 v.im,
    BitVec.ofNat 32 (v.vb + (if v.ovr then 65536 else 0)), lo32 v.start, hi32 v.start]

/-- A leg's boundary: trims and calibration registers take effect (R200). -/
def boundaryLeg (s : State) (l : Nat) : State := takeLegCal (setLeg s l (leg s l).boundary) l

/-! ## Background trimming (R27, R28, R192-R195) -/

def calConv (s : State) (u : Nat) : CalConv := tabGet (fun _ => {}) s.calConvs u
def setCalConv (s : State) (u : Nat) (x : CalConv) : State := { s with calConvs := tabSet (fun _ => {}) s.calConvs u x }

/-- A trim's update by a slot's results; the Bool says that it has newly reached its limit (R192, R193). -/
def trimUpdate (t : Trim) (m c : Int) : Trim × Bool :=
  if m = 0 then (t, false)
  else
    let n := (c - m) * 1000000 * (if m < 0 then -1 else 1)
    let g := t.next + clampI (-100) 100 (divRound n (16 * m.natAbs))
    if 2000 < g then ({ t with next := 2000, atLimit := true }, !t.atLimit)
    else if g < -2000 then ({ t with next := -2000, atLimit := true }, !t.atLimit)
    else ({ t with next := g, atLimit := t.atLimit && g.natAbs == 2000 }, false)

/-- The quantities of a slot, each when its input qualifies; a leg has no bias current (`bias`). The list names those newly at
their limit. -/
def trimSlot (v : Conv) (x : CalIn) (bias : Bool) : Conv × List Nat :=
  let (a, la) := if 2500000 ≤ x.mI.natAbs then trimUpdate v.tI x.mI x.cI else (v.tI, false)
  let (b, lb) := if 500000 ≤ x.mV then trimUpdate v.tV x.mV x.cV else (v.tV, false)
  let (c, lc) := if bias then trimUpdate v.tB x.mB x.cB else (v.tB, false)
  ({ v with tI := a, tV := b, tB := c }, (if la then [0] else []) ++ (if lb then [1] else []) ++ (if lc then [2] else []))

/-- A channel carries a tone. -/
def carriesTone (s : State) (f l : Nat) : Bool := carries (flask s f) l

/-- Serve channel `l` of flask `f` in a slot. -/
def serveChan (s : State) (f l : Nat) (x : CalIn) : State :=
  let s := setF s (CC_STATUS_LAST_CH f) l
  if flag s (CC_STATUS_TRIM_SUSP f) then s
  else
    let c := 16 * f + l
    let (v, lim) := trimSlot (chan s c).cv x true
    let s := modChan s c (fun y => { y with cv := v })
    let s := setBitF s (CC_LIMITS_AT_LIMIT f) l (v.tI.atLimit || v.tV.atLimit || v.tB.atLimit)
    let st := (chan s c).state
    if st = .hold ∨ st = .run then
      forEach lim (fun q s => fault s 0x07 1 (srcChan c 0) (BitVec.ofNat 32 q)) s
    else s

/-- The channel a slot of flask `f` serves: one skipped whose tone has ended, else the next of the round-robin unless it
carries a tone (R27). When the tones of two skipped channels have ended, the one skipped first is served first: the spec gives no
order between them (DESIGN CHOICE, log 87). -/
def calSlotFlask (s : State) (f : Nat) (x : CalIn) : State :=
  let k := calConv s f
  let k := { k with slots := k.slots + 1 }
  match k.skipped.find? (fun l => !carriesTone s f l) with
  | some l => serveChan (setCalConv s f { k with skipped := k.skipped.filter (· != l) }) f l x
  | none =>
    let s' := setCalConv s f { k with pos := (k.pos + 1) % 16 }
    if carriesTone s f k.pos then
      incSat (setCalConv s f { k with pos := (k.pos + 1) % 16, skipped := k.skipped.filter (· != k.pos) ++ [k.pos] }) (CC_LIMITS_SKIPS f)
    else serveChan s' f k.pos x

/-- A slot displaced by a request of the host for the channels `l`: the displaced channel keeps its place, and the tones of the
pairs of `l` stop (R28, R138). The slot counts as one of the 16 after which the round ends: the spec says only that the place is
kept (DESIGN CHOICE, log 87). -/
def calSlotHost (s : State) (f : Nat) (l : List Nat) : State :=
  let k := calConv s f
  let s := setCalConv s f { k with slots := k.slots + 1, host := none }
  modFlask s f (fun y => { y with pairs := y.pairs.map (fun p => if l.contains p.a || l.contains p.b then { p with clipped := true } else p) })

/-- The power-path block's own slot (R195). A trim at its limit is reported with the leg's own level-3 source, as the message of
R198 is; the spec names no source for it (DESIGN CHOICE, log 41). -/
def calSlotLegs (s : State) (x : CalIn) : State :=
  let k := calConv s 64
  let s := setCalConv s 64 { k with slots := k.slots + 1, pos := (k.pos + 1) % 13 }
  if k.susp then s
  else
    let (v, lim) := trimSlot (leg s k.pos) x false
    forEach lim (fun q s => fault s 0x07 1 (legSrc k.pos) (BitVec.ofNat 32 q)) (setLeg s k.pos v)

/-- The number of the module-time millisecond that unit `u`'s next slot is: the present one, but never that of the slot before nor
the one in which the unit started (R27). -/
def slotMs (s : State) (u : Nat) : Nat := max (s.now / 1000000) ((calConv s u).lastMs + 1)

/-- Module time is at the slot of unit `u`: one slot in each millisecond. -/
def slotStart (s : State) (u : Nat) : State :=
  let m := slotMs s u
  setCalConv (advance s (1000000 * m)) u { calConv s u with lastMs := m }

/-- The channels of flask `u` for which the host displaces the slot of this moment (R28): that of a running analogue test, and those
of a calibration request accepted in the millisecond before. -/
def slotHost (s : State) (u : Nat) : Option (List Nat) :=
  match s.atst.cur.filter (fun m => m.flask == u), (calConv s u).host.filter (fun h => h.1 == (calConv s u).lastMs) with
  | some m, some h => some (m.lch :: h.2)
  | some m, none => some [m.lch]
  | none, some h => some h.2
  | none, none => none

/-- CAL_SLOT (R27, R28, R192): a slot of unit `u`, a flask or 64 for the power-path block, with its results. -/
def execCalSlot (u : Nat) (x : CalIn) (s : State) : Host.Outcome State Fault Refusal :=
  .next (
    if u = 64 then (if on s dPPATH then calSlotLegs (slotStart s u) x else s)
    else if flaskOn s u && (flask s u).running then
      let s := slotStart s u
      match slotHost s u with
      | some l => calSlotHost s u l
      | none => calSlotFlask s u x
    else s)

/-- The references differ by more than 0.05 %: trimming is suspended and the disagreement reported once (R194). That of the
power-path block goes out with its level-3 source 0x001, which the spec does not name for it (DESIGN CHOICE, log 41). -/
def calRound (s : State) (u : Nat) (ppm : Int) : State :=
  let k := calConv s u
  let bad := decide (500 < ppm.natAbs)
  let susp := if u = 64 then k.susp else flag s (CC_STATUS_TRIM_SUSP u)
  let agree := if bad then 0 else satTo 16 (k.agree + 1)
  let susp' := bad || (susp && decide (agree < 16))
  let s := setCalConv s u { k with slots := 0, agree, susp := if u = 64 then susp' else false }
  let s := if u = 64 then s
    else incWrap (setFlag (setFlag s (CC_STATUS_REF_OK u) (!bad)) (CC_STATUS_TRIM_SUSP u) susp') (CC_STATUS_ROUNDS u)
  if bad && !susp then fault s 0x14 2 (if u = 64 then srcBlock 0x001 else srcFlask u 1) (BitVec.ofInt 32 ppm) else s

/-- The calibration converter's input of flask `u` is joined to a test bus, so that its results are discarded (R638). -/
def calJoined (s : State) (u : Nat) : Bool := match s.atst.cur with | some m => m.flask == u && m.node == 3 | none => false

/-- CAL_ROUND_END (R194, R195): a round of unit `u` ends with its references `ppm` apart. The power-path block too compares them once
per 16 slots, though its legs are 13: R195 has it follow R194, whose round takes 16 ms (DESIGN CHOICE, log 87). -/
def execCalRoundEnd (u : Nat) (ppm : Int) (s : State) : Host.Outcome State Fault Refusal :=
  .next (
    if (if u = 64 then on s dPPATH else flaskOn s u && (flask s u).running) && decide (16 ≤ (calConv s u).slots) then
      if calJoined s u then setCalConv s u { calConv s u with slots := 0 } else calRound s u ppm
    else s)

/-! ## CHAN_CAL (R196) -/

/-- A calibration request of the host displaces the next slot of a channel's flask (R28). -/
def displaceSlot (s : State) (c : Nat) : State :=
  let f := chFlask c
  let n := s.now / 1000000 + 1
  let l := match (calConv s f).host with | some h => if h.1 = n then h.2 else [] | none => []
  setCalConv s f { calConv s f with host := some (n, l ++ [c % 16]) }

/-- CHAN_CAL (R196): checked and accepted whole; at the next millisecond boundary it is in force and the command completes. It is the host's
calibration request, so it displaces one slot of each flask it names (R28; DEDUCED, log 87). -/
def execChanCal (t : Nat) (s : State) : Host.Outcome State Fault Refusal :=
  .next (applyCmd s t 0x17 (fun x s =>
    let w := (List.range 4).map x.param
    let l := selRange (x.word 1)
    firstFail s t stCHECK_FAILED l (fun c => calCheck s c w) (fun s =>
      forEach l (fun c s => displaceSlot s c) (waitCal (pendTag s t) l w t))))

end Sys2Proof.Machine
end

