-- ==== Sys2Proof/Machine/Brick.lean ====
section
/-! DEFINITION. The brick model of chapter 6: model slots, impedance tables, interpolation, the exponential, and the
prediction step that the filter and the forward simulation share. -/

namespace Sys2Proof.Machine

/-! ## Model slots and impedance tables -/

/-- A 16-bit element of an array held in words from `base`. -/
def half (s : State) (base i : Nat) : Nat := bits (rd s (base + 4 * (i / 2))) (16 * (i % 2)) 16

/-- The model slot a channel uses (R206). -/
def modelOf (s : State) (c : Nat) : Nat := MODEL (getF s (CH_CFG_PROFILE c))
def mCAP_NOM (s : State) (c : Nat) : Nat := bits (rd s (modelOf s c + 0x004)) 16 16
def mVEOD (s : State) (c : Nat) : Nat := bits (rd s (modelOf s c + 0x004)) 0 16
def mETA (s : State) (c : Nat) : Nat := bits (rd s (modelOf s c + 0x008)) 16 16
def mGAMMA (s : State) (c : Nat) : Nat := bits (rd s (modelOf s c + 0x008)) 0 16
def mSIGMA_V (s : State) (c : Nat) : Nat := bits (rd s (modelOf s c + 0x00C)) 16 16
def mQ_POL (s : State) (c : Nat) : Nat := bits (rd s (modelOf s c + 0x00C)) 0 16
def mTEMP_BP (s : State) (c j : Nat) : Int := sext 16 (half s (modelOf s c + 0x010) j)
def mOCV (s : State) (c j i : Nat) : Nat := half s (modelOf s c + 0x020) (33 * j + i)

/-- Impedance table in force of a channel (R249), and its words. -/
def IZ (c : Nat) : Nat := bar2 + 0x50000 + 0x200 * c
def izWords (s : State) (c : Nat) : List Word := (List.range 128).map (fun i => rd s (IZ c + 4 * i))
def izFitValid (s : State) (c : Nat) : Bool := (rd s (IZ c + 0x0C8)).getLsbD 31

/-- C_ref in 0.1 Ah: the learned capacity, or `CAP_NOM` (R221, R286). -/
def cref (s : State) (c : Nat) : Nat := if (est s c).cap = 0 then mCAP_NOM s c else (est s c).cap

/-- The words of an image pass the check of a model slot (R206). -/
def modelOk (w : List Word) : Bool :=
  let g (ofs lo n : Nat) : Nat := bits (w.getD (ofs / 4) 0) lo n
  let h (ofs i : Nat) : Nat := bits (w.getD ((ofs + 2 * i) / 4) 0) (16 * (i % 2)) 16
  let bp (j : Nat) : Int := sext 16 (h 0x010 j)
  g 0x000 24 8 == 1 && g 0x000 8 16 == 0 && crc32cWords (w.take 255) == w.getD 255 0 &&
  decide (1 ≤ g 0x004 16 16) && decide (0xF000 ≤ g 0x008 16 16) && decide (1 ≤ g 0x00C 16 16) &&
  (List.range 7).all (fun j => decide (bp j < bp (j + 1))) && decide (-500 ≤ bp 0) && decide (bp 7 ≤ 1500) &&
  (List.range 8).all (fun j =>
    (List.range 32).all (fun i => decide (h 0x020 (33 * j + i) ≤ h 0x020 (33 * j + i + 1))) &&
    decide (h 0x020 (33 * j) < h 0x020 (33 * j + 32)) &&
    decide (1 ≤ h 0x2F0 j) && decide (h 0x2F0 j < h 0x310 j) && decide (h 0x310 j ≤ 6000) &&
    h 0x2E0 j != 0 && h 0x300 j != 0) &&
  ((w.drop 204).take 51).all (· == 0)

/-! ## Rounding and the exponential (R212) -/

/-- Nearest integer, ties away from zero. -/
def roundRat (x : Rat) : Int := divRound x.num x.den

/-- Square root of a natural number, rounded down, by bits from 2^`f` - 1 down. -/
def isqrtFrom : Nat → Nat → Nat → Nat
  | 0, _, r => r
  | f + 1, n, r => isqrtFrom f n (if (r + 2 ^ f) * (r + 2 ^ f) ≤ n then r + 2 ^ f else r)

/-- Nearest integer to the square root of a non-negative rational. -/
def roundSqrt (x : Rat) : Nat := (isqrtFrom 64 (4 * x.num.toNat / x.den) 0 + 1) / 2

/-- Terms of exp(-x), x and terms scaled by 2^80. -/
def expSum (x : Int) : Nat → Nat → Int → Int
  | 0, _, _ => 0
  | f + 1, n, t => t + expSum x f (n + 1) (-(t * x / 2 ^ 80) / (n : Int))

/-- Repeated squaring of a number scaled by 2^80. -/
def squares : Nat → Int → Int
  | 0, e => e
  | f + 1, e => squares f (e * e / 2 ^ 80)

/-- exp(-x) in units of 2⁻³², x ≥ 0, below 1 (R212). -/
def expNeg (x : Rat) : Nat :=
  if 64 < x then 0
  else
    let y : Int := x.num * 2 ^ 72 / (x.den : Int)
    (clampI 0 (2 ^ 32 - 1) (divRound (squares 8 (expSum y 18 1 (2 ^ 80))) (2 ^ 48))).toNat

/-- exp(-x) to 2⁻⁷⁰, for the filter in exact arithmetic (R213). -/
def expFine (x : Rat) : Rat :=
  if 64 < x then 0 else (squares 8 (expSum (x.num * 2 ^ 72 / (x.den : Int)) 18 1 (2 ^ 80)) : Rat) / ((2 ^ 80 : Nat) : Rat)

/-- Limit to the range of a signed 32-bit number. -/
def lim32 (x : Int) : Int := clampI (-2147483648) 2147483647 x

/-- A quantity of the filter rounded to its scale, in 32 bits (R212). -/
def fRound (n : Nat) (x : Rat) : Rat := (lim32 (roundRat (x * ((2 ^ Config.fScale n : Nat) : Rat))) : Rat) / ((2 ^ Config.fScale n : Nat) : Rat)

/-- An element of P as a number of units of its scale, in 32 bits (R212). -/
def pQuant (i j : Nat) (v : Rat) : Int := lim32 (roundRat (v * ((2 ^ Config.pScale (min i j) (max i j) : Nat) : Rat)))

/-- How the filter rounds: elements of P by their place, other quantities by their number (R212). -/
structure Arith where
  p : Nat → Nat → Rat → Rat
  w : Nat → Rat → Rat

/-- The filter's fixed point, and exact arithmetic. -/
def fixedPoint : Arith := ⟨fun i j v => (pQuant i j v : Rat) / ((2 ^ Config.pScale (min i j) (max i j) : Nat) : Rat), fRound⟩
def exactArith : Arith := ⟨fun _ _ v => v, fun _ v => v⟩

/-! ## Interpolation (R207) -/

/-- The temperature cell of `t` clamped to the breakpoints, and the fraction of it. -/
def tempCell (r : Arith) (bp : Nat → Int) (t : Int) : Nat × Rat :=
  let t := clampI (bp 0) (bp 7) t
  let j := ((List.range 7).filter (fun j => decide (bp j ≤ t))).length - 1
  (j, r.w 6 (((t - bp j : Int) : Rat) / ((bp (j + 1) - bp j : Int) : Rat)))

def lerp (r : Arith) (a b f : Rat) : Rat := a + r.w 7 ((b - a) * f)

/-- A temperature-indexed value at a temperature cell. -/
def atTemp (r : Arith) (x : Nat × Rat) (v : Nat → Rat) : Rat := lerp r (v x.1) (v (x.1 + 1)) x.2

/-- The cell of `s` in [0, 1] among `n` cells; the cell above at a point, the last at 1. -/
def cellOf (n : Nat) (x : Rat) : Nat := min (n - 1) (x * (n : Rat)).floor.toNat

def clamp01 (x : Rat) : Rat := if x < 0 then 0 else if 1 < x then 1 else x

/-- Linear interpolation in a list of `n + 1` points at i/n. -/
def evalPoints (r : Arith) (l : List Rat) (n : Nat) (x : Rat) : Rat :=
  let x := clamp01 x
  let i := cellOf n x
  lerp r (l.getD i 0) (l.getD (i + 1) 0) (x * (n : Rat) - (i : Rat))

/-- The temperature cell of a channel's model. -/
def chanCell (r : Arith) (s : State) (c : Nat) (t : Int) : Nat × Rat := tempCell r (mTEMP_BP s c) t

/-- A polarisation parameter: the model's default in t, scaled by the fit while one is valid (R208). -/
def polParam (r : Arith) (s : State) (c ofs fitOfs lo : Nat) (t : Int) : Rat :=
  let d (t : Int) : Rat := atTemp r (chanCell r s c t) (fun j => (half s (modelOf s c + ofs) j : Rat))
  if izFitValid s c then
    r.w 8 (r.w 8 ((bits (rd s (IZ c + fitOfs)) lo 16 : Rat) * d t) / d (sext 16 (bits (rd s (IZ c + 0x0BC)) 16 16)))
  else d t

/-- The brick model of a channel at a temperature (R205-R208), evaluated exactly or as the filter rounds it (R212). -/
def brickWith (r : Arith) (s : State) (c : Nat) (t : Int) : Brick :=
  let x := chanCell r s c t
  { ocv := (List.range 33).map (fun i => atTemp r x (fun j => (mOCV s c j i : Rat)))
    zser := (List.range 11).map (fun i => atTemp r x (fun j => (half s (IZ c) (11 * j + i) : Rat)))
    zpa := polParam r s c 0x2E0 0x0B4 16 t
    taua := polParam r s c 0x2F0 0x0B4 0 t
    zpb := polParam r s c 0x300 0x0B8 16 t
    taub := polParam r s c 0x310 0x0B8 0 t
    hys := atTemp r x (fun j => (half s (modelOf s c + 0x320) j : Rat))
    gamma := mGAMMA s c
    eta := mETA s c
    cref := cref s c }
def brickAt (s : State) (c : Nat) (t : Int) : Brick := brickWith exactArith s c t

/-- OCV in mV and its slope in mV per unit of s; ZSER in 10 µΩ (R207). -/
def Brick.ocvWith (r : Arith) (b : Brick) (x : Rat) : Rat := evalPoints r b.ocv 32 x
def Brick.ocvAt (b : Brick) (x : Rat) : Rat := b.ocvWith exactArith x
def Brick.slope (b : Brick) (x : Rat) : Rat :=
  let i := cellOf 32 (clamp01 x)
  (b.ocv.getD (i + 1) 0 - b.ocv.getD i 0) * 32
def Brick.zserWith (r : Arith) (b : Brick) (x : Rat) : Rat := evalPoints r b.zser 10 x
def Brick.zserAt (b : Brick) (x : Rat) : Rat := b.zserWith exactArith x

/-- C_ref in coulombs. -/
def Brick.crefC (b : Brick) : Rat := 360 * (b.cref : Rat)

/-- Interpolation bound of the cell `i` at breakpoint `j`, mV (R214). -/
def eInt (s : State) (c j i : Nat) : Rat :=
  let v (i : Nat) : Int := mOCV s c j i
  let d (i : Nat) : Nat := if i = 0 ∨ 32 ≤ i then 0 else (v (i + 1) - 2 * v i + v (i - 1)).natAbs
  (max (d i) (d (i + 1)) : Nat) / 8

/-! ## Prediction (R209) -/

/-- s as a fraction. -/
def sFrac (x : Int) : Rat := (x : Rat) / 1073741824

/-- Add an increment to s with the remainder carried (R212): new s and remainder. -/
def addCarry (s rem : Int) (inc : Rat) : Int × Int :=
  let t := roundRat (inc * 4611686018427387904) + rem
  let n := divRound t 4294967296
  (lim32 (s + n), t - 4294967296 * n)

/-- A number in units of 2⁻³² times a voltage in µV, to the nearest µV (R212). -/
def mulQ (a v : Int) : Int := divRound (a * v) 4294967296

/-- The relaxation of a polarisation voltage (µV) over Δt (ns) with current i (A), every product rounded (R212). -/
def relax (v : Int) (z tau i : Rat) (dt : Nat) : Int :=
  let a : Int := expNeg (fRound 9 ((dt : Rat) / (10000000 * tau)))
  lim32 (mulQ a v + mulQ (4294967296 - a) (lim32 (roundRat (10 * fRound 10 (z * i)))))

/-- 1 - κ in units of 2⁻³²; whole when ΔQ = 0. -/
def keepH (b : Brick) (dq : Rat) : Nat :=
  if dq = 0 then 4294967296 else expNeg (fRound 11 (fRound 11 ((b.gamma : Rat) / 10 * (if dq < 0 then -dq else dq)) / b.crefC))

/-- The four states after prediction: s with its remainder, va, vb, h. -/
def predict (b : Brick) (s rem va vb h : Int) (dq : Rat) (dt : Nat) : Int × Int × Int × Int × Int :=
  let i := if dt = 0 then 0 else fRound 0 (dq * 1000000000 / (dt : Rat))
  let eta : Rat := if 0 < dq then (b.eta : Rat) / 65536 else 1
  let (s, rem) := addCarry s rem (eta * dq / b.crefC)
  let k : Int := keepH b dq
  let hm : Int := roundRat (if dq < 0 then -(1000 * b.hys) else 1000 * b.hys)
  let h := if dq = 0 then h else lim32 (mulQ k h + mulQ (4294967296 - k) hm)
  (s, rem, relax va b.zpa b.taua i dt, relax vb b.zpb b.taub i dt, h)

end Sys2Proof.Machine
end

