-- ==== Sys2Proof/Machine/Estimate.lean ====
section
/-! DEFINITION. The crucible's estimation (chapter 6): the filter, the estimate mirror, capacity learning, cycle count,
channel events and channel records. -/

namespace Sys2Proof.Machine

/-! ## Covariance (R209-R212): elements in units of capacity and volts -/

/-- Place of element (i, j), i ≤ j, in the list of ten. -/
def pIndex (i j : Nat) : Nat := 4 * i + j - i * (i + 1) / 2

/-- An element as a number, in its scale (R212). -/
def pGet (p : List Int) (i j : Nat) : Rat :=
  let (a, b) := (min i j, max i j)
  (p.getD (pIndex a b) 0 : Rat) / ((2 ^ Config.pScale a b : Nat) : Rat)

/-- The ten elements as numbers. -/
def pList (p : List Int) : List Rat :=
  (List.range 4).flatMap (fun i => ((List.range 4).filter (fun j => decide (i ≤ j))).map (fun j => pGet p i j))

/-- The ten elements of a symmetric matrix. -/
def pPack (m : Nat → Nat → Rat) : List Int :=
  (List.range 4).flatMap (fun i => ((List.range 4).filter (fun j => decide (i ≤ j))).map (fun j => pQuant i j (m i j)))

def sum4 (f : Nat → Rat) : Rat := f 0 + f 1 + f 2 + f 3

/-- P⁻ = F·P·Fᵀ + Q (R209), every product rounded. -/
def predP (r : Arith) (f q : Nat → Rat) (p : Nat → Nat → Rat) (i j : Nat) : Rat :=
  r.p i j (f i * r.p i j (f j * p i j)) + (if i = j then r.p i i (q i) else 0)

/-- The Joseph form (R210), every product rounded. -/
def joseph (r : Arith) (k h : Nat → Rat) (m : Nat → Nat → Rat) (rv : Rat) (i j : Nat) : Rat :=
  let a (x y : Nat) : Rat := (if x = y then 1 else 0) - r.w 5 (k x * h y)
  sum4 (fun y => r.p i j (sum4 (fun x => r.p i y (a i x * m x y)) * a j y)) + r.p i j (r.w 5 (k i * rv) * k j)

/-- The row H in volts. -/
def hRow (r : Arith) (slope : Rat) (j : Nat) : Rat := if j = 0 then r.w 1 (slope / 1000) else 1

/-- What a correction is made of: the row H, P⁻·Hᵀ, S and K (R210). -/
def gain (r : Arith) (h : Nat → Rat) (m : Nat → Nat → Rat) (rv : Rat) : Rat × (Nat → Rat) :=
  let ph (j : Nat) : Rat := sum4 (fun k => if k = 0 then r.w 2 (m j 0 * h 0) else m j k)
  let sv := sum4 (fun j => r.w 3 (h j * ph j)) + rv
  (sv, fun j => if sv = 0 then 0 else r.w 4 (ph j / sv))

/-- Rv (R211, R218): the two squares, at the cell of `sf`. -/
def noiseV (r : Arith) (s : State) (c : Nat) (sf : Rat) : Rat :=
  let x := chan s c
  let ei := atTemp r (chanCell r s c x.th.temp) (fun j => eInt s c j (cellOf 32 (clamp01 sf))) / 1000
  let sg : Rat := (mSIGMA_V s c : Rat) / 100000
  (r.w 3 (sg * sg) + r.w 3 (ei * ei)) * (if x.th.invalid then 4 else 1)

/-- The diagonal of Q (R211): I_off is the quotient of 2.0 µV and the shunt; products and quotients are rounded, the squares as
elements of P. -/
def noiseQ (r : Arith) (s : State) (c dt : Nat) (b : Brick) (j : Nat) : Rat :=
  let qp : Rat := (mQ_POL s c : Rat) / 1000000
  let qs := r.w 14 (r.w 13 (r.w 12 (200 / (getF s (MC_SHUNT_SHUNT c) : Rat)) * ((dt : Rat) / 1000000000)) / b.crefC)
  r.p j j (if j = 0 then qs * qs else qp * qp)

/-! ## Initialisation (R215) -/

/-- First and last point of s at which OCV meets `v`: the middle of the flat interval, or the crossing. -/
def ocvInverse (b : Brick) (v : Rat) : Rat :=
  let lo := ((List.range 33).filter (fun i => decide (b.ocv.getD i 0 < v))).length
  let hi := ((List.range 33).filter (fun i => decide (b.ocv.getD i 0 ≤ v))).length
  if hi = 0 then 0
  else if 33 ≤ lo then 1
  else if lo + 1 ≤ hi then ((lo : Rat) + (hi - 1 : Nat)) / 64
  else
    let a := b.ocv.getD (lo - 1) 0
    let c := b.ocv.getD lo 0
    clamp01 (((lo - 1 : Nat) + (v - a) / (c - a)) / 32)

/-- A channel's total charge now, C, whatever the filter last used (R182, R197). -/
def totalCharge (s : State) (c : Nat) : Rat :=
  let e := est s c
  e.q + e.qPrev + accCharge (accDiff (chan s c).cv.acc e.acc) (getF s (MC_SHUNT_SHUNT c))

/-- The filter of a channel is initialised from its latest snapshot; every event is armed (R215, R228). -/
def initFilter (s : State) (c : Nat) : State :=
  let x := chan s c
  let b := brickAt s c x.th.temp
  let hm := b.hys / 1000
  let d (i : Nat) : Rat := if i = 0 then 1 / 100 else if i = 3 then hm * hm else hm * hm / 4
  let s0 := roundRat (ocvInverse b x.cv.vb * 1073741824)
  let p0 := pPack (fun i j => if i = j then d i else 0)
  modEst s c (fun e => { e with
    live := true, initDue := false, s := s0, va := 0, vb := 0, h := 0
    remQ := 0, remK := 0, p := p0, exact_ := { s := sFrac s0, p := pList p0 }
    q := if e.start = x.cv.start then totalCharge s c else e.q
    hist := if e.start = x.cv.start then e.hist else []
    acc := x.cv.acc, start := x.cv.start, at_ := s.snap, qPrev := 0, exceed := 0, init := true
    evArm := [true, true, true, true] })

/-! ## The update (R209-R213, R216, R218) -/

/-- One update of the filter in exact arithmetic (R213). -/
def Filt.update (x : Filt) (s : State) (c : Nat) (b : Brick) (dq : Rat) (dt : Nat) : Filt :=
  let i : Rat := if dt = 0 then 0 else dq * 1000000000 / (dt : Rat)
  let k := if dq = 0 then 1 else expFine ((b.gamma : Rat) / 10 * (if dq < 0 then -dq else dq) / b.crefC)
  let f (j : Nat) : Rat := match j with
    | 0 => 1
    | 1 => expFine ((dt : Rat) / (10000000 * b.taua))
    | 2 => expFine ((dt : Rat) / (10000000 * b.taub))
    | _ => k
  let sf := x.s + (if 0 < dq then (b.eta : Rat) / 65536 else 1) * dq / b.crefC
  let va := f 1 * x.va + (1 - f 1) * (10 * b.zpa * i)
  let vb := f 2 * x.vb + (1 - f 2) * (10 * b.zpb * i)
  let hm := 1000 * b.hys
  let h := k * x.h + (1 - k) * (if dq < 0 then -hm else hm)
  let m := predP exactArith f (noiseQ exactArith s c dt b) (fun i j => x.p.getD (pIndex (min i j) (max i j)) 0)
  let rv := noiseV exactArith s c sf
  let y := 1000 * ((chan s c).cv.vb : Rat) - (1000 * b.ocvAt sf + 10 * b.zserAt sf * i + h + va + vb)
  let hr := hRow exactArith (b.slope sf)
  let (_, g) := gain exactArith hr m rv
  let p := joseph exactArith g hr m rv
  let h' := h + g 3 * y
  { s := sf + g 0 * y / 1000000, va := va + g 1 * y, vb := vb + g 2 * y, h := if hm < h' then hm else if h' < -hm then -hm else h'
    p := (List.range 4).flatMap (fun i => ((List.range 4).filter (fun j => decide (i ≤ j))).map (fun j => p i j)) }

/-- The state of charge of the fixed-point filter stays within 0.002 % of capacity of the exact one (R213). The scales that R212
leaves open are such that it does; here it holds because a state beyond the bound is held at it (DESIGN CHOICE, log 53). -/
def holdBound (x : Rat) (v : Int) : Int :=
  clampI ((x - 1 / 50000) * 1073741824).ceil ((x + 1 / 50000) * 1073741824).floor v

/-- What an update answers beside the new filter state: ΔQ and the innovation's size against its bound. -/
def updateFilter (s : State) (c : Nat) : State :=
  let x := chan s c
  let e := est s c
  let b := brickWith fixedPoint s c x.th.temp
  let dq := totalCharge s c - e.q
  let dt := s.snap - e.at_
  let i : Rat := if dt = 0 then 0 else fRound 0 (dq * 1000000000 / (dt : Rat))
  let (s1, remQ, va, vb, h) := predict b e.s e.remQ e.va e.vb e.h dq dt
  let alpha (tau : Rat) : Rat := (expNeg (fRound 9 ((dt : Rat) / (10000000 * tau))) : Rat) / 4294967296
  let f (j : Nat) : Rat :=
    match j with
    | 0 => 1
    | 1 => alpha b.taua
    | 2 => alpha b.taub
    | _ => (keepH b dq : Rat) / 4294967296
  let m := predP fixedPoint f (noiseQ fixedPoint s c dt b) (pGet e.p)
  let sf := sFrac s1
  let rv := noiseV fixedPoint s c sf
  let yhat := lim32 (roundRat (1000 * b.ocvWith fixedPoint sf) + roundRat (10 * fRound 10 (b.zserWith fixedPoint sf * i)) + h + va + vb)
  let y := lim32 (1000 * (x.cv.vb : Int) - yhat)
  let hr := hRow fixedPoint (b.slope sf)
  let (sv, k) := gain fixedPoint hr m rv
  let yv : Rat := (y : Rat) / 1000000
  let (s2, remK) := addCarry s1 e.remK (k 0 * yv)
  let up (v : Int) (j : Nat) : Int := lim32 (v + roundRat (k j * y))
  let hm := roundRat (1000 * b.hys)
  let ex := e.exact_.update s c (brickAt s c x.th.temp) dq dt
  setEst s c { e with
    s := holdBound ex.s s2, va := up va 1, vb := up vb 2, h := clampI (-hm) hm (up h 3), remQ, remK, exact_ := ex
    p := pPack (joseph fixedPoint k hr m rv)
    acc := x.cv.acc, start := x.cv.start, at_ := s.snap, qPrev := 0, q := e.q + dq
    exceed := if 36 * sv < fRound 3 (yv * yv) then satTo 100 (e.exceed + 1) else 0, innov := y }

/-- ΔQ of the update that is to come. -/
def nextCharge (s : State) (c : Nat) : Rat := totalCharge s c - (est s c).q

/-! ## Reported quantities (R221) -/

def socOf (e : Est) : Int := divRound (10000 * e.s) 1073741824
def sigmaOf (e : Est) : Nat := satTo 10000 (roundSqrt (pGet e.p 0 0 * 100000000))

/-- The estimate mirror of a channel is written (R222), under the number of the snapshot its filter last used. `LRN_Q` holds the low 16
bits of the net discharge, which the table neither signs nor saturates, and `LRN_POS` reads 0 while learning is not ARMED, when
there is no full point to count from (DESIGN CHOICE, log 55). -/
def publish (s : State) (c : Nat) : State :=
  let x := chan s c
  let e := est s c
  let b := brickAt s c x.th.temp
  let cr := cref s c
  let soc := clampI 0 10000 (socOf e)
  let bit (v : Bool) (i : Nat) : Nat := if v then 2 ^ i else 0
  let nom := mCAP_NOM s c
  let lq : Rat := if e.armed then (e.mark - e.q) / 360 else 0
  let lp : Rat := if e.armed then e.pos * 10000 / (360 * (cr : Rat)) else 0
  wrList s (ES_SOC c) [
    pair16 soc.toNat (sigmaOf e),
    pair16 cr (divRound (1000 * cr) nom).toNat,
    BitVec.ofNat 32 (e.cycles * 256 + bit (e.cap != 0) 7 + bit e.armed 6 + bit (x.state == .disconnected) 5 + bit e.init 4 +
      bit (decide (e.at_ + 2000000 < s.snap)) 3 + bit (socOf e != soc) 2 + bit e.tzDefault 1 + bit x.th.invalid 0),
    pair16 (toBits 16 (divRound (e.va + e.vb) 1000)) (toBits 16 (divRound e.h 1000)),
    pair16 (toBits 16 (roundRat (b.ocvAt (sFrac e.s)))) (toBits 16 (roundRat (b.zserAt (sFrac e.s)))),
    pair16 (toBits 16 (roundRat lq)) (satTo 65535 (roundRat lp).toNat),
    BitVec.ofNat 32 (e.at_ / 1000000 % 32768 * 65536 + e.lastLrn * 256)]

/-- `STALE` of a channel's entry: its snapshot is more than 2 ms older than `SNAP_MS_LO` (R222). -/
def refreshStale (s : State) (c : Nat) : State :=
  if (est s c).live then setFlag s (ES_CYC_STALE c) (decide ((est s c).at_ + 2000000 < s.snap)) else s

/-! ## Capacity learning (R223-R225) -/

/-- The sample of R225, in 0.1 Ah. -/
def learnSample (e : Est) : Rat := (e.mark - e.q) / 360

/-- A capacity sample is evaluated (R225). -/
def evalSample (s : State) (c : Nat) : State :=
  let e := est s c
  let v := learnSample e
  let nom : Rat := mCAP_NOM s c
  if v < nom / 2 ∨ nom * 12 / 10 < v then
    raise (incSat (endLearn s c 2) CR_COUNTS_LEARN_REJ) CR_EVENT 2
  else
    let cap := if e.cap = 0 then (roundRat v).toNat else (roundRat ((e.cap : Rat) + (v - (e.cap : Rat)) / 4)).toNat
    let s := modEst (endLearn s c 1) c (fun e => { e with cap, recDue := true })
    raise (incSat s CR_COUNTS_LEARN_OK) CR_EVENT 1

/-- Net charge over the 10 s before the snapshot, none while less has passed (R223). -/
def charge10 (s : State) (e : Est) : Option Rat :=
  match e.hist.find? (fun h => decide (h.1 + 10000000000 ≤ s.snap)) with
  | some h => some (e.q - h.2)
  | none => none

/-- The snapshot is an empty point (R223). -/
def emptyPoint (s : State) (c : Nat) : Bool :=
  let e := est s c
  decide ((chan s c).cv.vb ≤ 10 * mVEOD s c) &&
  (match charge10 s e with
   | some q => decide (q < 0) && decide (-q / 10 ≤ (2 * (cref s c : Rat)) / 100)
   | none => false)

/-- Keep the entries of the last 10 s and the one before them. -/
def histKeep (t : Nat) : List (Nat × Rat) → List (Nat × Rat)
  | [] => []
  | h :: l => if h.1 + 10000000000 ≤ t then [h] else h :: histKeep t l

/-- The 10 s history advances to this snapshot, whatever learning does (R223). -/
def advanceHist (s : State) (c : Nat) : State :=
  modEst s c (fun e => { e with hist := histKeep s.snap ((s.snap, e.q) :: e.hist) })

/-- The positive-charge measure advances to this snapshot (R223). -/
def advanceLearn (s : State) (c : Nat) (before : Nat) : State :=
  modEst s c (fun e =>
    if e.armed then
      let whole := decide (before / 1000000000 < s.snap / 1000000000)
      { e with
        pos := match e.secQ with
          | some q0 => if whole && decide (q0 < e.q) then e.pos + (e.q - q0) else e.pos
          | none => e.pos
        secQ := if whole then some e.q else e.secQ }
    else e)

/-- One evaluation of the learning machine (R224); `gap` says that the accumulator restarted or more than 1 s passed. -/
def learn (s : State) (c : Nat) (gap : Bool) : State :=
  let e := est s c
  let x := chan s c
  if !e.armed then s
  else if e.left.isSome then endLearn s c 8
  else if (cref s c : Rat) * 36 / 10 < e.pos then endLearn s c 3
  else if x.cv.ovr then endLearn s c 4
  else if flag s (CH_STATE_DROOP c) then endLearn s c 5
  else if x.th.invalid then endLearn s c 6
  else if gap then endLearn s c 7
  else if e.prof ≠ getF s (CH_CFG_PROFILE c) ∨ e.modelNew then endLearn s c 9
  else if emptyPoint s c then (if flag s CR_CTRL_LEARN_EN then evalSample s c else endLearn s c 10)
  else s

/-! ## Cycles and events (R227-R229) -/

/-- Discharge is added to the discharge sum, and whole sixteenths of a cycle are counted (R227). -/
def countCycles (s : State) (c : Nat) (dq : Rat) : State :=
  if 0 ≤ dq then s
  else
    let unit : Rat := 225 * (cref s c : Rat) / 10
    modEst s c (fun e =>
      let t := e.dsum - dq
      let n := if unit = 0 then 0 else (t / unit).floor.toNat
      { e with dsum := t - (n : Rat) * unit, cycles := satTo 0xFFFFFF (e.cycles + n), recDirty := e.recDirty || n != 0 })

/-- An event of R228: raised when armed and its condition holds, armed again when the re-arm condition holds. -/
def testEvent (s : State) (c i : Nat) (on_ rearm : Bool) : State :=
  let a := (est s c).evArm.getD i true
  if a && on_ then chanEvent (modEst s c (fun e => { e with evArm := e.evArm.set i false })) c i false
  else if !a && rearm then modEst s c (fun e => { e with evArm := e.evArm.set i true })
  else s

/-- The four conditions tested at every update. -/
def testEvents (s : State) (c : Nat) (dq : Rat) : State :=
  let soc := getF s (ES_SOC_SOC c)
  let hys := getF s (EP_SOCH_HYS c)
  let lw := getF s (EP_SOCL_LOW_WARN c)
  let la := getF s (EP_SOCL_LOW_ALARM c)
  let hw := getF s (EP_SOCH_HIGH_WARN c)
  let vb := (chan s c).cv.vb
  let ve := 10 * mVEOD s c
  let s := testEvent s c 0 (decide (soc ≤ lw)) (decide (lw + hys ≤ soc))
  let s := testEvent s c 1 (decide (soc ≤ la)) (decide (la + hys ≤ soc))
  let s := testEvent s c 2 (decide (vb ≤ ve) && decide (dq < 0)) (decide (ve + 500 ≤ vb))
  testEvent s c 3 (decide (hw ≤ soc)) (decide (soc + hys ≤ hw))

/-! ## The rows -/

/-- An initialisation is due, and its snapshot has come (R215). -/
def initNow (s : State) (c : Nat) : Bool := (est s c).initDue && decide ((est s c).initAfter < s.snap)

/-- `SUSPENDED` of a channel whose filter makes no update (R217). -/
def markSuspended (s : State) (c : Nat) : State := setFlag s (ES_CYC_SUSPENDED c) ((chan s c).state == .disconnected)

/-- At a snapshot the learning of a channel that has left service ends, and its mirror shows it, though its filter makes no
update (R224). -/
def leaveLearn (s : State) (c : Nat) : State :=
  match (est s c).left with
  | some t =>
    if t < s.snap then
      wr (setF (setFlag (endLearn s c 8) (ES_CYC_LEARNING c) false) (ES_SEQ_LAST_LRN c) 8) (ES_LRN c) 0
    else s
  | none => s

/-- The channel's filter may be updated: crucible and region run, the channel is present, and the snapshot is new. -/
def filterDue (s : State) (c : Nat) : Bool :=
  on s dCRUCIBLE && online s (chRegion c) && flaskOn s (chFlask c) && (chan s c).state != .absent &&
  (initNow s c || (est s c).live) && decide ((est s c).at_ < s.snap)

/-- An update joins the sums of a sweep that a channel is in (R240). -/
def FlaskSweep.sample (w : FlaskSweep) (l : Nat) (t soc : Int) : FlaskSweep :=
  if w.pairs.any (fun p => p.1 == l || p.2 == l) then
    let v := tabGet (fun _ => (0, 0, 0)) w.sums l
    { w with sums := tabSet (fun _ => (0, 0, 0)) w.sums l (v.1 + t, v.2.1 + soc, v.2.2 + 1) }
  else w

/-- Sums of temperature and state of charge of every sweep on the channel's flask, also one that waits under a host's (R240), and the
end of `INIT` (R215). -/
def afterUpdate (s : State) (c : Nat) : State :=
  let s := modEst s c (fun e => { e with init := e.init && decide (200 ≤ sigmaOf e) })
  let f := chFlask c
  let l := tabGet (fun _ => []) s.sweeps.flasks f
  if l.isEmpty then s
  else
    let g (w : FlaskSweep) : FlaskSweep := w.sample (c % 16) (chan s c).th.temp (clampI 0 10000 (socOf (est s c)))
    { s with sweeps := { s.sweeps with flasks := tabSet (fun _ => []) s.sweeps.flasks f (l.map g) } }

/-- A step of a live filter with what follows it: learning, cycles, mirror, events. -/
def filterStep (s : State) (c : Nat) : State :=
  let e := est s c
  let gap := decide (e.start ≠ (chan s c).cv.start) || decide (e.at_ + 1000000000 < s.snap)
  if initNow s c || decide (e.start ≠ (chan s c).cv.start) then
    let dq := if e.live && decide (e.start = (chan s c).cv.start) then nextCharge s c else 0
    let s := countCycles (learn s c gap) c dq
    testEvents (publish (afterUpdate (advanceHist (initFilter s c) c) c) c) c dq
  else
    let dq := nextCharge s c
    let s := updateFilter s c
    let s := learn (advanceHist (advanceLearn s c e.at_) c) c gap
    let s := countCycles s c dq
    testEvents (publish (afterUpdate s c) c) c dq

/-- FILTER_UPDATE (R209, R210, R215-R217, R221): from the latest snapshot; a disconnected channel's filter is suspended, and
`SUSPENDED` reads 1 although it never held a state. The crucible fetches state and snapshot from region SRAM (R46): `ecc` gives
the errors it meets there, and a state word with a double-bit error is not used, so that this snapshot makes no update (R47). -/
def execFilterUpdate (c : Nat) (ecc : List EccErr) (s : State) : Host.Outcome State Fault Refusal :=
  .next (
    if filterDue s c then
      let s := xfer (eccReports s ecc) hubFabric 2 rqCrucible 256
      if eccBad ecc c then s else
      if (chan s c).state = .disconnected then markSuspended (leaveLearn s c) c else filterStep s c
    else if on s dCRUCIBLE && online s (chRegion c) && (!(est s c).live || (chan s c).state == .absent) then
      markSuspended (leaveLearn s c) c
    else s)

/-- FILTER_LATE (R243): the update was not completed in time; R216 covers the gap. -/
def execFilterLate (c : Nat) (s : State) : Host.Outcome State Fault Refusal :=
  .next (if filterDue s c then incSat s CR_LATE_FILTER_LATE else s)

/-- FILTER_REINIT (R219): the innovation has exceeded its bound for 100 updates. -/
def execFilterReinit (c : Nat) (s : State) : Host.Outcome State Fault Refusal :=
  .next (
    let e := est s c
    if on s dCRUCIBLE && e.live && decide (100 ≤ e.exceed) then
      let s := incSat (publish (initFilter s c) c) CR_LATE_REINITS
      fault (raise s CR_EVENT 0x20) 0x08 1 (srcChan c 0) (BitVec.ofInt 32 e.innov)
    else s)

/-! ## Frame temperature (R244, R661) -/

/-- The frame temperature, 0.1 °C: the higher of the two sensors, beneath the hub die and between regions 1 and 2 (R661). -/
def frameTemp (hub mid : Int) : Int := max hub mid

/-- The next of the frame temperature's conversions, one every 100 ms (R661). -/
def frameTime (s : State) : Nat := (s.now / 100000000 + 1) * 100000000

/-- FRAME_HOT (R244): the frame temperature, in 0.1 °C, exceeds 110.0 °C. -/
def execFrameHot (hub mid : Int) (s : State) : Host.Outcome State Fault Refusal :=
  .next (
    let s := advance s (frameTime s)
    if on s dCRUCIBLE && decide (1100 < frameTemp hub mid) && !flag s CR_STATUS_HOT then
      raise (setFlag s CR_STATUS_HOT true) CR_EVENT 0x10
    else s)

/-- FRAME_COOL (R244): the frame temperature falls below 105.0 °C. -/
def execFrameCool (hub mid : Int) (s : State) : Host.Outcome State Fault Refusal :=
  .next (
    let s := advance s (frameTime s)
    if on s dCRUCIBLE && decide (frameTemp hub mid < 1050) && flag s CR_STATUS_HOT then
      raise (setFlag s CR_STATUS_HOT false) CR_EVENT 0x10
    else s)

/-! ## Defaults (R247, R248) -/

/-- `TZ_DEFAULT` of a channel, which its mirror shows at once (R247). -/
def setTz (s : State) (c : Nat) (b : Bool) : State := setFlag (modEst s c (fun e => { e with tzDefault := b })) (ES_CYC_TZ_DEFAULT c) b

/-- The impedance table of a channel takes its model's defaults with no fit (R247, R248). -/
def defaultIz (s : State) (c : Nat) : State :=
  let z := (List.range 44).map (fun i => rd s (modelOf s c + 0x230 + 4 * i))
  let ep := rd s (IZ c + 0x0B0)
  setTz (modEst (wrList s (IZ c) (z ++ (ep + 1) :: List.replicate 83 0)) c (fun e => { e with spare := none })) c true

/-! ## Commands -/

/-- The check of R250 on the words `EP_CFG`, `EP_SOCL`, `EP_SOCH`. -/
def estParamOk (w : List Word) : Bool :=
  let g (i lo n : Nat) : Nat := bits (w.getD i 0) lo n
  decide (g 1 0 16 < g 1 16 16) && decide (g 1 16 16 + g 2 0 16 < g 2 16 16) && decide (g 2 16 16 ≤ 10000) &&
  decide (g 2 0 16 ≤ 1000) && (g 0 16 8 == 0 || (decide (5 ≤ g 0 16 8) && decide (g 0 16 8 ≤ 50))) &&
  g 0 24 8 == 0 && g 0 5 11 == 0

/-- EST_PARAM (R250): checked whole; an accepted command takes effect, and completes, at the next snapshot. -/
def execEstParam (t : Nat) (s : State) : Host.Outcome State Fault Refusal :=
  .next (applyCmd s t 0x18 (fun x s =>
    let w := (List.range 3).map x.param
    if estParamOk w then
      forEach (selRange (x.word 1)) (fun c s => modEst s c (fun e => { e with next := e.next ++ [(w, t)] })) (pendTag s t)
    else endTag s t stCHECK_FAILED (BitVec.ofNat 32 (selFirst (x.word 1))) 0))

/-- The estimation parameters accepted for a channel take effect at a snapshot. -/
def takeEstParams (s : State) (c : Nat) : State :=
  let l := (est s c).next
  if l.isEmpty then s
  else noteCfg s (forEach l (fun (p : List Word × Nat) s => wrList s (EP_CFG c) p.1) (modEst s c (fun e => { e with next := [] })))

/-- Tags of EST_PARAM commands that wait for the snapshot, each once. -/
def estParamTags (s : State) : List Nat := (s.ests.flatMap (fun e => e.2.next.map (·.2))).eraseDups

/-- EST_RESET (R248): the command completes when the record is written. -/
def execEstReset (t : Nat) (s : State) : Host.Outcome State Fault Refusal :=
  .next (applyCmd s t 0x19 (fun x s =>
    let c := selFirst (x.word 1)
    let s := modEst (defaultIz s c) c (fun e => { e with
      cap := 0, cycles := 0, dsum := 0, armed := false, left := none, pos := 0, secQ := none, modelNew := false
      initDue := true, initAfter := s.now, recDue := true, resetTag := some t })
    pendTag s t))

end Sys2Proof.Machine
end

