-- ==== Sys2Proof/Machine/Spectro.lean ====
section
/-! DEFINITION. Spectroscopy (chapter 6): pairing, tones and dwells, demodulation, the impedance fit and its table, and
the SPECTRO command. -/

namespace Sys2Proof.Machine

/-! ## Eligibility, pairing and amplitude (R232, R233) -/

/-- A channel is eligible for a sweep (R232). -/
def sweepOk (s : State) (c : Nat) : Bool :=
  eligible s c && !flaskHeld s (chFlask c)

/-- Two eligible channels of a flask may be paired: voltages within 5 % of the higher and equal loop gains. -/
def pairOk (s : State) (f a b : Nat) : Bool :=
  let (x, y) := (16 * f + a, 16 * f + b)
  let (v, w) := ((chan s x).cv.vb, (chan s y).cv.vb)
  a != b && sweepOk s x && sweepOk s y && decide (100 * (max v w - min v w) ≤ 5 * max v w) &&
  rd s (CH_IGAIN x) == rd s (CH_IGAIN y)

/-- First pass of sweep `n`: each channel is offered to l XOR m. -/
def firstPass (s : State) (f n : Nat) : List (Nat × Nat) :=
  let m := 2 * (n % 8) + 1
  ((List.range 16).filter (fun l => decide (l < l ^^^ m) && pairOk s f l (l ^^^ m))).map (fun l => (l, l ^^^ m))

/-- A local channel is in a list of pairs. -/
def inPairs (l : Nat) (ps : List (Nat × Nat)) : Bool := ps.any (fun p => p.1 == l || p.2 == l)

/-- Second pass: in increasing order, each with the lowest unpaired partner that meets the conditions. -/
def secondPass (s : State) (f : Nat) (ps : List (Nat × Nat)) : List (Nat × Nat) :=
  (List.range 16).foldl (fun ps l =>
    if inPairs l ps then ps
    else match (List.range 16).find? (fun k => !inPairs k ps && pairOk s f l k) with
      | some k => ps ++ [(l, k)]
      | none => ps) ps

def sweepPairs (s : State) (f n : Nat) : List (Nat × Nat) := secondPass s f (firstPass s f n)

/-- At a snapshot the amplitudes computed at the one before come into force, and the next are computed (R233). -/
def refreshAmps (s : State) (f : Nat) : State :=
  modFlask s f (fun x => { x with pairs := x.pairs.map (fun p =>
    let (na, nb) := toneAmps s f p.a p.b
    { p with ampA := p.nextA, ampB := p.nextB, nextA := na, nextB := nb }) })

/-! ## Sweeps -/

def flaskSweeps (s : State) (f : Nat) : List FlaskSweep := tabGet (fun _ => []) s.sweeps.flasks f
def setFlaskSweeps (s : State) (f : Nat) (l : List FlaskSweep) : State :=
  { s with sweeps := { s.sweeps with flasks := tabSet (fun _ => []) s.sweeps.flasks f l } }

/-- Dwell of tone k, ns (R231): four periods for k ≤ 8, else 2 s. -/
def dwell (k : Nat) : Nat :=
  [80000000000, 50466178811, 31835440048, 20082662625, 12668690538, 7991755025, 5041416726, 3180262975, 2006196499].getD k 2000000000

/-- The lowest tone of a mask at or above k. -/
def nextTone (mask k : Nat) : Option Nat := (List.range 24).find? (fun j => decide (k ≤ j) && mask.testBit j)

/-- Mask of the tones some pair still misses. -/
def missMask (l : List (Nat × Nat)) : Nat := l.foldl (fun m e => m ||| 2 ^ e.2) 0

/-- The generator starts a tone from phase 0 (R231). -/
def startTone (s : State) (f k : Nat) : State :=
  modFlask s f (fun x => { x with tone := k, toneAcc := 0, toneTicks := 0, asked := [], pairs := [], lostPairs := [], stopTones := false, paused := false })

/-- The running sweep of a flask is replaced. -/
def setTop (s : State) (f : Nat) (w : FlaskSweep) : State := setFlaskSweeps s f (w :: (flaskSweeps s f).tail)

/-- The running sweep starts the dwell of tone k now. -/
def startDwell (s : State) (f : Nat) (w : FlaskSweep) (k : Nat) : State :=
  startTone (setTop s f { w with k, dwellEnd := s.now + dwell k }) f k

/-- `SWEEPING`: a sweep runs on some flask. -/
def updSweeping (s : State) : State := setFlag s CR_STATUS_SWEEPING (s.sweeps.flasks.any (fun e => !e.2.isEmpty))

/-- A sweep begins on a flask; a flask with no pair skips it. A sweep the host starts has no number of R238: its first pass too takes
`SWEEP_NO` for n (DESIGN CHOICE, log 93). -/
def beginSweep (s : State) (f : Nat) (host : Option Nat) (mask : Nat) : State :=
  let ps := sweepPairs s f (getF s CR_STATUS_SWEEP_NO)
  match nextTone mask 0 with
  | some k =>
    if ps.isEmpty then s
    else
      let w : FlaskSweep := { host, pairs := ps, mask, k, dwellEnd := 0 }
      startDwell (setFlaskSweeps s f (w :: flaskSweeps s f)) f w k
  | none => s

/-- Flasks on which sweeps run: powered, sequencer running, region online. -/
def sweepFlasks (s : State) : List Nat :=
  (List.range s.part.flasks).filter (fun f => flaskOn s f && (flask s f).running && online s (f / 16))

/-- The last flask of a scheduled sweep has ended (R238). -/
def sweepDone (s : State) : State :=
  if s.sweeps.scheduled && !s.sweeps.flasks.any (fun e => e.2.any (fun w => w.host.isNone)) then
    let s := { s with sweeps := { s.sweeps with scheduled := false, lastEnd := s.now } }
    raise (incWrap s CR_STATUS_SWEEP_NO) CR_EVENT 4
  else s

/-- Time the next scheduled sweep is due: the next multiple of `SWEEP_INT` minutes after the last one ended (R238). A first sweep, and
one whose minute has passed while `SWEEP_EN` was 0 or under another `SWEEP_INT`, is due at once (DESIGN CHOICE, log 93). -/
def sweepDue (s : State) : Nat :=
  let m := min 1440 (getF s CR_SWEEP_SWEEP_INT) * 60000000000
  if m = 0 then s.now else (s.sweeps.lastEnd / m + 1) * m

/-- SWEEP_START (R238): not while a host sweep runs, nor while the droop response stops tones. -/
def execSweepStart (s : State) : Host.Outcome State Fault Refusal :=
  .next (
    if on s dCRUCIBLE && flag s CR_CTRL_SWEEP_EN && !s.sweeps.scheduled && s.sweeps.hosts.isEmpty then
      let s := advance s (sweepDue s)
      let s := { s with sweeps := { s.sweeps with scheduled := true } }
      updSweeping (sweepDone (forEach (sweepFlasks s) (fun f s => beginSweep s f none 0xFFFFFF) s))
    else s)

/-- The pairs that carry, or are to carry, the present tone: in the retry pass those that miss it (R239). -/
def activePairs (w : FlaskSweep) : List (Nat × Nat) :=
  if w.retry then (w.pairs.zipIdx.filter (fun p => w.missing.contains (p.2, w.k))).map (·.1) else w.pairs

/-- TONE_PAIR_REQUEST (R135): the crucible offers a pair of the running sweep for the tone in force, never while the droop response
acts (R137), nor a channel in ARMED (R226); after a pause the interrupted tone starts anew (R239). The sequencer decides at the next
tick, after every hold entry and host request of the same tick (R139), and there returns a refused pair. -/
def execTonePairRequest (f a b : Nat) (s : State) : Host.Outcome State Fault Refusal :=
  .next (
    match flaskSweeps s f with
    | w :: _ =>
      if on s dCRUCIBLE && flaskOn s f && !flag s PP_STATUS_DROOP && !w.finished && (activePairs w).contains (a, b) &&
         !(est s (16 * f + a)).armed && !(est s (16 * f + b)).armed then
        let s := if (flask s f).paused then startDwell s f w w.k else s
        modFlask s f (fun x => { x with asked := x.asked ++ [(a, b)] })
      else s
    | [] => s)

/-! ## Demodulation (R236) -/

/-- A point in 0.1 µΩ from a channel's sums, when the current amplitude lies within 50 % to 150 % of `amp` (mA). -/
def tonePoint (p : IqSum) (amp : Nat) : Option (Int × Int) :=
  let d := p.iI * p.iI + p.iQ * p.iQ
  let a : Int := 500 * amp * p.n * 1000000000000000000
  if 4 * d < a * a ∨ 9 * a * a < 4 * d ∨ d = 0 then none
  else some (divRound (10000000 * (p.vI * p.iI + p.vQ * p.iQ)) d.toNat, divRound (10000000 * (p.vQ * p.iI - p.vI * p.iQ)) d.toNat)

/-- The pair was carried from the dwell's start to its end. -/
def dwellWhole (x : Flask) (p : Nat × Nat) : Bool :=
  x.pairs.any (fun q => q.a == p.1 && q.b == p.2 && !q.clipped) && !x.lostPairs.contains p

/-- The points of a pair's two channels: local channel, tone, real and imaginary part. Of the amplitudes that R233 commands during the
dwell, the one in force at its end is compared (DESIGN CHOICE, log 93). -/
def pairPoints (k : Nat) (q : TonePair) : List (Nat × Nat × Int × Int) :=
  ((tonePoint q.sumA q.ampA).map (fun z => (q.a, k, z.1, z.2))).toList ++ ((tonePoint q.sumB q.ampB).map (fun z => (q.b, k, z.1, z.2))).toList

/-- Points of the whole dwells, and the dwells discarded, of the tone that ends. -/
def takePoints (x : Flask) (w : FlaskSweep) : FlaskSweep :=
  let good := (activePairs w).filter (dwellWhole x)
  let new := (x.pairs.filter (fun q => good.contains (q.a, q.b))).flatMap (pairPoints w.k)
  let bad := (w.pairs.zipIdx.filter (fun p => !dwellWhole x p.1)).map (fun p => (p.2, w.k))
  { w with points := w.points ++ new, missing := if w.retry then w.missing.filter (fun m => m.2 != w.k) else w.missing ++ bad }

/-- The generator moves to the next tone, then through the retry pass, then the sweep is finished (R239). -/
def nextDwell (s : State) (f : Nat) (w : FlaskSweep) : State :=
  match nextTone (if w.retry then missMask w.missing else w.mask) (w.k + 1) with
  | some k => startDwell s f w k
  | none =>
    match (if w.retry then none else nextTone (missMask w.missing) 0) with
    | some k => startDwell s f { w with retry := true } k
    | none => startTone (setTop s f { w with finished := true }) f w.k

/-- TONE_DWELL_END (R231, R236, R239): a dwell the droop response has paused does not end. -/
def execToneDwellEnd (f : Nat) (s : State) : Host.Outcome State Fault Refusal :=
  .next (
    match flaskSweeps s f with
    | w :: _ =>
      if on s dCRUCIBLE && !w.finished && !(flask s f).paused && !flag s PP_STATUS_DROOP then
        let s := advance s w.dwellEnd
        nextDwell s f (takePoints (flask s f) w)
      else s
    | [] => s)

/-! ## The fit (R237) -/

/-- The frequency of tone k, f_k = 0.05 Hz × 40 000^(k/23), in 10⁻¹² Hz (R230). -/
def toneFreq (k : Nat) : Nat := [50000000000, 79261003987, 125646135062, 199176776242, 315739025118, 500515842576, 793427763883, 1257757623135, 1993822639648, 3160647683822, 5010322173397, 7942463315266, 12590552330005, 19958796368618, 31639084771095, 50154912483928, 79506574367428, 126035418159068, 199793875624944, 316717263450945, 502066565624656, 795886001197339, 1261654470286805, 2000000000000000].getD k 0

/-- 2π × the frequency of tone k. -/
def toneOmega (k : Nat) : Rat := 628318530717959 / 100000000000000 * ((toneFreq k : Nat) : Rat) / 1000000000000

/-- Real and imaginary part of 1/(1 + jωτ), τ in 10 ms. -/
def polBasis (k : Nat) (tau : Rat) : Rat × Rat :=
  let x := toneOmega k * tau / 100
  (1 / (1 + x * x), -x / (1 + x * x))

/-- Weighted normal equations of the model's three linear parameters for two time constants: matrix and right side. -/
def fitBasis (ta tb : Rat) (j k : Nat) : Rat × Rat := if j = 0 then (1, 0) else if j = 1 then polBasis k ta else polBasis k tb
def fitA (pts : List (Nat × Rat × Rat)) (ta tb : Rat) (i j : Nat) : Rat :=
  (pts.map (fun p => (((fitBasis ta tb i p.1).1 * (fitBasis ta tb j p.1).1 + (fitBasis ta tb i p.1).2 * (fitBasis ta tb j p.1).2) /
    (p.2.1 * p.2.1 + p.2.2 * p.2.2) : Rat))).sum
def fitB (pts : List (Nat × Rat × Rat)) (ta tb : Rat) (i : Nat) : Rat :=
  (pts.map (fun p => ((p.2.1 * (fitBasis ta tb i p.1).1 + p.2.2 * (fitBasis ta tb i p.1).2) /
    (p.2.1 * p.2.1 + p.2.2 * p.2.2) : Rat))).sum

/-- Solution of the normal equations over one, two or three of the parameters, the others 0. -/
def solve1 (a : Nat → Nat → Rat) (b : Nat → Rat) (i : Nat) : Nat → Rat :=
  fun j => if j = i ∧ a i i ≠ 0 then b i / a i i else 0
def solve2 (a : Nat → Nat → Rat) (b : Nat → Rat) (i k : Nat) : Nat → Rat :=
  let d := a i i * a k k - a i k * a i k
  fun j => if d = 0 then 0 else if j = i then (b i * a k k - b k * a i k) / d else if j = k then (b k * a i i - b i * a i k) / d else 0
def det3 (m : Nat → Nat → Rat) : Rat :=
  m 0 0 * (m 1 1 * m 2 2 - m 1 2 * m 2 1) - m 0 1 * (m 1 0 * m 2 2 - m 1 2 * m 2 0) + m 0 2 * (m 1 0 * m 2 1 - m 1 1 * m 2 0)
def solve3 (a : Nat → Nat → Rat) (b : Nat → Rat) : Nat → Rat :=
  let d := det3 a
  fun j => if d = 0 then 0 else det3 (fun r c => if c = j then b r else a r c) / d

/-- A fit: ZSER, ZPA, ZPB in 0.1 µΩ, TAUA, TAUB in 10 ms, and Σ|Z - Z(f)|²/|Z|². -/
structure Fit where
  z0 : Rat
  za : Rat
  zb : Rat
  ta : Rat
  tb : Rat
  err : Rat
  deriving DecidableEq, Repr

/-- The least residual for two time constants over the non-negative solutions (R237). -/
def fitAt (pts : List (Nat × Rat × Rat)) (ta tb : Rat) : Fit :=
  let a := fitA pts ta tb
  let b := fitB pts ta tb
  let n : Rat := (pts.length : Rat)
  let err (z : Nat → Rat) : Rat :=
    n - 2 * (b 0 * z 0 + b 1 * z 1 + b 2 * z 2) + z 0 * (a 0 0 * z 0 + a 0 1 * z 1 + a 0 2 * z 2) +
      z 1 * (a 1 0 * z 0 + a 1 1 * z 1 + a 1 2 * z 2) + z 2 * (a 2 0 * z 0 + a 2 1 * z 1 + a 2 2 * z 2)
  let c := [solve3 a b, solve2 a b 0 1, solve2 a b 0 2, solve2 a b 1 2, solve1 a b 0, solve1 a b 1, solve1 a b 2]
  (c.filter (fun z => decide (0 ≤ z 0) && decide (0 ≤ z 1) && decide (0 ≤ z 2))).foldl
    (fun m z => if err z < m.err then ⟨z 0, z 1, z 2, ta, tb, err z⟩ else m) ⟨0, 0, 0, ta, tb, n⟩

/-- The better of a fit and another. -/
def Fit.better (m x : Fit) : Fit := if x.err < m.err then x else m

/-- The least residual over 10 ms ≤ TAUA ≤ 1.00 s ≤ TAUB ≤ 60.0 s in steps of 10 ms, the resolution of the table. -/
def gridFit (pts : List (Nat × Rat × Rat)) : Fit :=
  (List.range 100).foldl (fun m i => (List.range 5901).foldl (fun m j => m.better (fitAt pts ((i + 1 : Nat) : Rat) ((j + 100 : Nat) : Rat))) m)
    (fitAt pts 1 100)

/-- A value held within bounds. -/
def boxed (lo hi x : Rat) : Rat := if x < lo then lo else if hi < x then hi else x

/-- A fit moved to the best of its eight neighbours at step `h` within the bounds, if one is better. -/
def Fit.step (m : Fit) (pts : List (Nat × Rat × Rat)) (h : Rat) : Fit :=
  [-h, 0, h].foldl (fun n a => [-h, 0, h].foldl (fun n b => n.better (fitAt pts (boxed 1 100 (m.ta + a)) (boxed 100 6000 (m.tb + b)))) n) m

/-- The search between the grid's points: twice at each of 20 steps, each half of the one before. -/
def refine (pts : List (Nat × Rat × Rat)) : Nat → Rat → Fit → Fit
  | 0, _, m => m
  | n + 1, h, m => refine pts n (h / 2) ((m.step pts h).step pts h)

/-- The fit with the least residual (R237). The least point of the continuous residual has no closed form: the model searches a grid,
refines it to 10⁻⁸ s, and starts a second search at time constants that are free within the bounds; the better of the two is
the fit (DESIGN CHOICE, log 93). -/
def bestFit (pts : List (Nat × Rat × Rat)) : Fit :=
  let (a, b) := Config.fitTaus pts
  (refine pts 20 (1 / 2) (gridFit pts)).better (refine pts 20 (1 / 2) (fitAt pts (boxed 1 100 a) (boxed 100 6000 b)))

/-- Points of a local channel by tone. -/
def chanPoints (w : FlaskSweep) (l : Nat) : List (Nat × Rat × Rat) :=
  (w.points.filter (fun p => p.1 == l)).map (fun p => (p.2.1, (p.2.2.1 : Rat), (p.2.2.2 : Rat)))

/-- The accepted fit of a channel at the end of a sweep, if all 24 points are valid and the root-mean-square relative
residual is at most 5.0 %: fit and residual in 0.1 %. -/
def chanFit (w : FlaskSweep) (l : Nat) : Option (Option (Fit × Nat)) :=
  let pts := chanPoints w l
  if (List.range 24).all (fun k => pts.any (fun p => p.1 == k && (p.2.1 != 0 || p.2.2 != 0))) then
    let f := bestFit pts
    if f.err / 24 ≤ 25 / 10000 then some (some (f, roundSqrt (f.err / 24 * 1000000))) else some none
  else none

/-! ## The impedance table (R240, R241) -/

/-- Grid words with element (j, i) raised by `d`, rounded and held in 16 bits. -/
def bumpGrid (w : List Word) (n : Nat) (d : Rat) : List Word :=
  let v := bits (w.getD (n / 2) 0) (16 * (n % 2)) 16
  w.set (n / 2) (setBits (w.getD (n / 2) 0) (16 * (n % 2)) 16 (clampI 0 65535 (roundRat ((v : Rat) + d))).toNat)

/-- The table of a channel with an accepted fit (R240). A sweep in which the channel's filter made no update has no mean: the present
temperature and 0 % state of charge stand for it (DESIGN CHOICE, log 52). -/
def fitTable (s : State) (c : Nat) (w : FlaskSweep) (f : Fit) (rms : Nat) : List Word :=
  let v := tabGet (fun _ => (0, 0, 0)) w.sums (c % 16)
  let t := if v.2.2 = 0 then (chan s c).th.temp else divRound v.1 v.2.2
  let soc := if v.2.2 = 0 then 0 else (divRound v.2.1 v.2.2).toNat
  let x := chanCell exactArith s c t
  let sf : Rat := (soc : Rat) / 10000
  let i := cellOf 10 (clamp01 sf)
  let fs := clamp01 sf * 10 - (i : Rat)
  let d := f.z0 / 100 - (brickAt s c t).zserAt sf
  let g := izWords s c
  let g := bumpGrid g (11 * x.1 + i) ((1 - x.2) * (1 - fs) * d)
  let g := bumpGrid g (11 * x.1 + i + 1) ((1 - x.2) * fs * d)
  let g := bumpGrid g (11 * (x.1 + 1) + i) (x.2 * (1 - fs) * d)
  let g := bumpGrid g (11 * (x.1 + 1) + i + 1) (x.2 * fs * d)
  let z (v : Rat) : Nat := (clampI 0 65535 (roundRat (v / 100))).toNat
  let pts := (List.range 24).flatMap (fun k =>
    match w.points.find? (fun p => p.1 == c % 16 && p.2.1 == k) with
    | some p => [BitVec.ofInt 32 p.2.2.1, BitVec.ofInt 32 p.2.2.2]
    | none => [0, 0])
  g.take 45 ++ [pair16 (z f.za) (roundRat f.ta).toNat, pair16 (z f.zb) (roundRat f.tb).toNat, pair16 (toBits 16 t) soc, lo32 (stamp s), hi32 (stamp s),
    BitVec.ofNat 32 (2 ^ 31 + rms), 0] ++ pts ++ List.replicate 28 0

/-- A channel's fit at the end of a sweep: stored in the copy not in force, or counted as failed (R237, R241). -/
def storeFit (s : State) (c : Nat) (w : FlaskSweep) : Bool × State :=
  match chanFit w (c % 16) with
  | some (some (f, rms)) => (true, modEst s c (fun e => { e with spare := some (fitTable s c w f rms) }))
  | some none => (false, raise s CR_EVENT 8)
  | none => (false, s)

/-- A new copy comes into force at a snapshot, by the epoch, unless a running pour still reads the other (R241). -/
def swapIz (s : State) (c : Nat) : State :=
  let e := est s c
  let busy := match s.lad.pour with | some p => e.swapPour == some p.order | none => false
  match (if busy then none else e.spare) with
  | some w =>
    let ep := rd s (IZ c + 0x0B0)
    let s := wrList s (IZ c) (w.set 44 (ep + 1))
    setTz (modEst s c (fun e => { e with spare := none, swapPour := s.lad.pour.map (·.order), recDirty := true })) c false
  | none => s

/-! ## End of a sweep and the command -/

/-- A flask's part of a host sweep has ended: at its last flask the command completes with its counts (R415). -/
def hostFlaskEnd (s : State) (tag f fits noFit : Nat) (aborted : Bool) : State :=
  match s.sweeps.hosts.find? (fun h => h.tag == tag) with
  | none => s
  | some h =>
    let h := { h with left := h.left.filter (· != f), fits := h.fits + fits, noFit := h.noFit + noFit, aborted := h.aborted || aborted }
    let rest := s.sweeps.hosts.filter (fun x => x.tag != tag)
    if h.left.isEmpty then
      endTag { s with sweeps := { s.sweeps with hosts := rest } } tag (if h.aborted then stABORTED else stSUCCESS)
        (BitVec.ofNat 32 h.fits) (BitVec.ofNat 32 h.noFit)
    else { s with sweeps := { s.sweeps with hosts := rest ++ [h] } }

/-- The running sweep of a flask is taken away; one that waited beneath it resumes its tone from the start (R238). -/
def popSweep (s : State) (f : Nat) : State :=
  let s := setFlaskSweeps s f (flaskSweeps s f).tail
  match flaskSweeps s f with
  | w :: _ => if w.finished then startTone s f w.k else startDwell s f w w.k
  | [] => startTone s f 0

/-- Channels of a sweep's pairs. -/
def sweepChans (f : Nat) (w : FlaskSweep) : List Nat := w.pairs.flatMap (fun p => [16 * f + p.1, 16 * f + p.2])

/-- SWEEP_END (R237, R238): the fits of a finished sweep. -/
def execSweepEnd (f : Nat) (s : State) : Host.Outcome State Fault Refusal :=
  .next (
    match flaskSweeps s f with
    | w :: _ =>
      if on s dCRUCIBLE && w.finished then
        let r := (sweepChans f w).foldl (fun (a : Nat × State) c =>
          let x := storeFit a.2 c w
          (if x.1 then a.1 + 1 else a.1, x.2)) (0, s)
        let s := popSweep r.2 f
        updSweeping (match w.host with
          | some t => hostFlaskEnd s t f r.1 (2 * w.pairs.length - r.1) false
          | none => sweepDone s)
      else s
    | [] => s)

/-- A host sweep runs on a flask. -/
def hostSweeping (s : State) (f : Nat) : Bool := (flaskSweeps s f).any (fun w => w.host.isSome)

/-- Abort the host sweep of a flask: its channels are left without a fit. -/
def abortHost (s : State) (f : Nat) : State :=
  match flaskSweeps s f with
  | w :: _ => match w.host with
    | some t => hostFlaskEnd (popSweep s f) t f 0 (2 * w.pairs.length) true
    | none => s
  | [] => s

/-- Start a host sweep on the flasks that have a pair. -/
def startHost (s : State) (t mask : Nat) (l : List Nat) : State :=
  let s := forEach l (fun f s => beginSweep s f (some t) mask) s
  let left := l.filter (fun f => hostSweeping s f)
  let s := updSweeping { s with sweeps := { s.sweeps with hosts := s.sweeps.hosts ++ [{ tag := t, left }] } }
  if left.isEmpty then hostFlaskEnd s t 0 0 0 false else runTag s t

/-- SPECTRO (R238, R415, R422). -/
def execSpectro (t : Nat) (s : State) : Host.Outcome State Fault Refusal :=
  .next (applyCmd s t 0x2B (fun x s =>
    let l := selRange (x.word 1)
    if bits (x.param 0) 0 2 = 2 then endSt (updSweeping (forEach l (fun f s => abortHost s f) s)) t stSUCCESS
    else if l.any (fun f => hostSweeping s f) then endSt s t stBUSY
    else startHost s t (if bits (x.param 1) 0 24 = 0 then 0xFFFFFF else bits (x.param 1) 0 24) l))

end Sys2Proof.Machine
end

