-- ==== Sys2Proof/Machine/Simulate.lean ====
section
/-! DEFINITION. What a pour reads (chapter 7), the riser set, the candidate allocations, and their forward simulation by
the crucible (R242-R245, R256-R268). -/

namespace Sys2Proof.Machine

/-! ## Inputs (R256) -/

/-- Charging bound of the limits, the phase and the temperature window (R160, R242), 10 mA. -/
def winBound (s : State) (c : Nat) : Nat :=
  let m := min (getF s (CH_ILIM_ICHG_MAX c)) (phaseChg s c)
  match (chan s c).win.cwin with
  | 0 => 0
  | 1 => m * getF s (CH_TRED_COLD_PCT c) / 100
  | 2 => m
  | 3 => m * getF s (CH_TRED_HOT_PCT c) / 100
  | _ => 0

/-- What a pour reads of a channel. -/
def pourChan (s : State) (c : Nat) : PourChan :=
  let x := chan s c
  let e := est s c
  { c, run := x.state == .run, held := flaskHeld s (chFlask c), phase := x.ph.phase, ref := phaseRef s c
    chg := phaseChg s c, dis := phaseDis s c false, chgEn := flag s (CH_CFG_CHG_EN c) && !quarantine s, disEn := flag s (CH_CFG_DISCH_EN c)
    phFault := x.ph.fault, maint := pMAINT s c == 1, cwin := x.win.cwin, dwin := x.win.dwin, winChg := winBound s c
    ichg := getF s (CH_ILIM_ICHG_MAX c), idis := getF s (CH_ILIM_IDIS_MAX c), vmax := 10 * getF s (CH_VLIM_VMAX c)
    vmin := 10 * getF s (CH_VLIM_VMIN c), vtgt := vTarget s c, veod := 10 * mVEOD s c, vb := x.cv.vb, temp := x.th.temp
    soc := getF s (ES_SOC_SOC c), ocv := getF s (ES_Z_OCV c), hyst := getI s (ES_V_HYST c), vpol := getI s (ES_V_VPOL c)
    zser := getF s (ES_Z_ZSER_NOW c), cap := getF s (ES_CAP_CAP c), cycles := e.cycles, armed := e.armed
    s := e.s, va := e.va, vbp := e.vb, h := e.h, brick := brickAt s c x.th.temp
    hold8 := x.state == .hold && x.reason == 8 }

/-- The present channels, and those a pour reads: their region online, their flask powered. -/
def presentChans (s : State) : List Nat := (s.chans.map (·.1)).filter (fun c => (chan s c).state != .absent)
def inView (s : State) (c : Nat) : Bool := online s (chRegion c) && flaskOn s (chFlask c)
def pourChans (s : State) : List PourChan := ((presentChans s).filter (inView s)).map (pourChan s)

/-- The profile and model images accepted before an input read, in their slots: what that pour plans with (R169, R206). They come
into force for the flasks and the filters only at its swap. -/
def withLoads (s : State) : State :=
  forEach s.lad.loads (fun l s => wrList s (if l.1 = 0x20 then PROF l.2.1 else MODEL l.2.1) l.2.2.1) s

/-- The channel is simulated: in RUN, its flask not held (R242). -/
def PourChan.live (x : PourChan) : Bool := x.run && !x.held

/-- A field of an objectives image. -/
def objF (o : List Word) (i lo n : Nat) : Nat := bits (o.getD i 0) lo n
def oRES_WH (o : List Word) : Nat := objF o 1 16 16
def oRES_S (o : List Word) : Nat := objF o 1 0 16
def oRES_MARGIN (o : List Word) : Nat := objF o 2 24 8
def oRES_FLOOR (o : List Word) : Nat := objF o 2 0 16
def oS_TGT (o : List Word) : Nat := objF o 3 16 16
def oW_FILL (o : List Word) : Nat := objF o 3 0 16
def oW_WEAR (o : List Word) : Nat := objF o 4 24 8
def oW_THERM (o : List Word) : Nat := objF o 4 16 8
def oT_PREF (o : List Word) : Int := sext 16 (objF o 4 0 16)
def oCAL_MAX (o : List Word) : Nat := objF o 5 24 8
def oCAL_C (o : List Word) : Nat := objF o 5 16 8
def oCAL_TMO (o : List Word) : Nat := objF o 5 0 16
def oETA (o : List Word) : Rat := (objF o 6 16 16 : Rat) / 65536

/-- Power in W of a current in 10 mA at a voltage in mV. -/
def watts (i : Rat) (mv : Nat) : Rat := i * (mv : Rat) / 100000

/-- CBUS power drawn by a charging current, and given by a discharging one, per 10 mA (R257). -/
def drawW (o : List Word) (x : PourChan) : Rat := watts 1 x.vb / oETA o
def giveW (o : List Word) (x : PourChan) : Rat := watts 1 x.vb * oETA o

/-- A current in 10 mA from a voltage difference in mV over `ZSER_NOW`, truncated; `top` when there is no resistance. -/
def ohmI (dv : Int) (z top : Nat) : Nat := if dv ≤ 0 then 0 else if z = 0 then top else dv.toNat * 10000 / z

/-! ## The riser set (R259-R263) -/

/-- Riser-eligible (R259). -/
def riserOk (o : List Word) (excl : List Nat) (x : PourChan) : Bool :=
  x.live && x.disEn && x.dwin == 0 && (x.dis || x.phase == phREST) && decide (oRES_FLOOR o < x.soc) && !excl.contains x.c

/-- Discharge capability D_c (R260). -/
def dCap (x : PourChan) : Nat := min x.idis (ohmI ((x.ocv : Int) + x.hyst + x.vpol - x.vmin) x.zser x.idis)

/-- Calibration discharge current (R286). -/
def iCal (o : List Word) (x : PourChan) : Nat := min x.idis (oCAL_C o * x.cap / 10)

/-- Riser allocation at φ = m/256; `drain` names the channels in calibration DRAIN (R262). -/
def riserAt (o : List Word) (drain : List Nat) (m : Nat) (x : PourChan) : Nat :=
  let r := m * dCap x / 256
  if drain.contains x.c then min (dCap x) (max r (iCal o x)) else r

/-- Energy above the floor, Wh, at a state of charge `soc` (R262). -/
def uCap (o : List Word) (x : PourChan) (soc : Rat) : Rat :=
  let d := soc - (oRES_FLOOR o : Rat) / 10000
  if d ≤ 0 then 0 else d * ((x.cap : Rat) / 10) * ((x.ocv : Rat) / 1000) * oETA o

def minR (a b : Rat) : Rat := if a ≤ b then a else b
def maxR (a b : Rat) : Rat := if a ≤ b then b else a

/-- E_avail of riser allocations (R262); `soc` gives each channel's state of charge, `zero` a channel whose U_c is 0. -/
def eAvail (o : List Word) (r : List (PourChan × Nat)) (soc : PourChan → Rat) (zero : Option Nat) : Rat :=
  (r.map (fun e => minR ((e.2 : Rat) * giveW o e.1 * (oRES_S o : Rat) / 3600)
    (if zero = some e.1.c then 0 else uCap o e.1 (soc e.1)))).sum

/-- Riser power of allocations. -/
def riserW (o : List Word) (r : List (PourChan × Nat)) : Rat := (r.map (fun e => (e.2 : Rat) * giveW o e.1)).sum

def socNow (x : PourChan) : Rat := (x.soc : Rat) / 10000

/-- A fraction m meets the power and the energy condition (R261, R262). -/
def riserMeets (o : List Word) (el : List PourChan) (drain : List Nat) (zero : Option Nat) (pr er : Rat) (m : Nat) : Bool × Bool :=
  let r := el.map (fun x => (x, riserAt o drain m x))
  (decide (pr ≤ riserW o r), decide (er ≤ eAvail o r socNow zero))

/-- The smallest φ that meets both conditions, if one does (R262). -/
def riserChoice (o : List Word) (el : List PourChan) (drain : List Nat) (zero : Option Nat) (pr er : Rat) : Option Nat :=
  (List.range 257).find? (fun m => let b := riserMeets o el drain zero pr er m; b.1 && b.2)

/-! ## Candidates (R264-R268) -/

/-- The channel is phase-set: its phase sets its own reference (R146). -/
def PourChan.phaseSet (x : PourChan) : Bool := x.ref.isSome

/-- Chargeable (R264); `cal` is the channel's `CAL_STATE`. -/
def chargeable (o : List Word) (cal : Nat) (x : PourChan) : Bool :=
  x.live && x.chgEn && x.cwin != 0 && x.cwin != 4 && x.cwin != 5 && x.phFault == 0 &&
  (x.phase == phCC || x.phase == phCV || (x.phase == phMAINTAIN && x.maint)) && decide (x.soc < oS_TGT o) && decide (cal ≤ 2)

/-- Headroom h_c (R264). -/
def headroom (x : PourChan) : Nat :=
  min (min x.ichg (min x.chg x.winChg)) (ohmI ((x.vtgt : Int) - x.ocv - x.hyst - x.vpol) x.zser x.ichg)

/-- One round of the fill procedure: with the channels of `sat` at their caps, the factor for the others. -/
def fillLambda (l : List (Nat × Nat × Rat × Rat)) (sat : List Nat) (budget : Rat) : Option Rat :=
  let used := ((l.filter (fun e => sat.contains e.1)).map (fun e => (e.2.1 : Rat) * e.2.2.2)).sum
  let den := ((l.filter (fun e => !sat.contains e.1)).map (fun e => e.2.2.1 * e.2.2.2)).sum
  if den = 0 then none else some ((budget - used) / den)

/-- Channels whose cap binds, found by rounds (R266): entries are (channel, cap, weight, W per 10 mA). -/
def fillSat (l : List (Nat × Nat × Rat × Rat)) (budget : Rat) : Nat → List Nat → List Nat
  | 0, sat => sat
  | f + 1, sat =>
    match fillLambda l sat budget with
    | none => sat
    | some lam =>
      let new := (l.filter (fun e => !sat.contains e.1 && decide ((e.2.1 : Rat) < lam * e.2.2.1))).map (·.1)
      if new.isEmpty then sat else fillSat l budget f (sat ++ new)

/-- "Fill" of R266: i_c = min(cap, λ·w_c), truncated to 10 mA. -/
def fill (l : List (Nat × Nat × Rat × Rat)) (budget : Rat) : List (Nat × Nat) :=
  let sat := fillSat l budget (l.length + 1) []
  let lam := match fillLambda l sat budget with | some x => maxR 0 x | none => 0
  l.map (fun e => (e.1, if sat.contains e.1 then e.2.1 else min e.2.1 (lam * e.2.2.1).floor.toNat))

/-- 2^(-x), x ≥ 0, to 2⁻⁷⁰ of its value, so that no weight vanishes (DESIGN CHOICE, log 57: R266 gives no precision). -/
def pow2Neg (x : Rat) : Rat :=
  let n := x.floor.toNat
  let y := (x - (n : Rat)) * 6931471805599453094172 / 10000000000000000000000
  (squares 8 (expSum (y.num * 2 ^ 72 / (y.den : Int)) 18 1 (2 ^ 80)) : Rat) / ((2 ^ (80 + n) : Nat) : Rat)

/-- Lower median. -/
def lowerMedian (l : List Nat) : Nat := (l.mergeSort (fun a b => decide (a ≤ b))).getD ((l.length - 1) / 2) 0

/-- Wear and thermal penalties ω_c and θ_c per Wh (R268). -/
def wearOf (o : List Word) (zmed ymed : Nat) (x : PourChan) : Rat :=
  let z : Rat := if zmed = 0 then 1 else (x.zser : Rat) / (zmed : Rat)
  let y : Rat := if ymed = 0 then 1 else (x.cycles : Rat) / (ymed : Rat)
  (oW_WEAR o : Rat) / 256 * (maxR 0 (z - 1) + maxR 0 (y - 1))
def thermOf (o : List Word) (x : PourChan) : Rat :=
  (oW_THERM o : Rat) / 256 * maxR 0 (((x.temp - oT_PREF o : Int) : Rat)) / 100

/-- `CAL_STATE` of a channel in a pour. -/
def Pour.cal (p : Pour) (c : Nat) : Nat := match p.roles.find? (fun e => e.1 == c) with | some e => e.2 | none => 0

/-- Riser allocation of a channel in a pour. -/
def Pour.riserOf (p : Pour) (c : Nat) : Nat := match p.riser.find? (fun e => e.1 == c) with | some e => e.2 | none => 0

def Pour.penalty (p : Pour) (x : PourChan) : Rat := wearOf p.obj p.zmed p.ymed x + thermOf p.obj x

def Pour.chargeable (p : Pour) (x : PourChan) : Bool := Sys2Proof.Machine.chargeable p.obj (p.cal x.c) x
def Pour.riserOk (p : Pour) (x : PourChan) : Bool := Sys2Proof.Machine.riserOk p.obj p.exclOld x
/-- Support-eligible (R265): riser-eligible, neither phase-set nor in a calibration run. -/
def Pour.supportOk (p : Pour) (x : PourChan) : Bool := p.riserOk x && !x.phaseSet && decide (p.cal x.c ≤ 1)
/-- A donor (R271). -/
def Pour.donorOk (p : Pour) (x : PourChan) : Bool := p.supportOk x && decide (oS_TGT p.obj + 100 < x.soc)

/-- Fill weights of a slot: σ_c, tilted by 2^(-j·q_c) relative to the least q_c, which λ absorbs (R266). -/
def tiltList (p : Pour) (l : List PourChan) (j : Nat) (base : PourChan → Rat) (cap : PourChan → Nat) (w : PourChan → Rat) :
    List (Nat × Nat × Rat × Rat) :=
  let q0 := l.foldl (fun m x => match m with | none => some (p.penalty x) | some v => some (minR v (p.penalty x))) none
  l.map (fun x => (x.c, cap x, base x * (if j = 0 then 1 else pow2Neg ((j : Rat) * (p.penalty x - q0.getD 0))), w x))

/-- Entries of a slot for P_B ≥ 0: donors' powers raise the budget of even tilt slots (R266). -/
def chargeEntries (p : Pour) (prev : List (Nat × Int)) (k : Nat) : List (Nat × Int) :=
  let l := p.chans.filter p.chargeable
  let w := drawW p.obj
  if k = 1 then
    let old := l.map (fun x => (x, min (headroom x) (match prev.find? (fun e => e.1 == x.c) with | some e => e.2.toNat | none => 0)))
    let tot := (old.map (fun e => (e.2 : Rat) * w e.1)).sum
    let f : Rat := if tot ≤ p.pb then 1 else p.pb / tot
    old.map (fun e => (e.1.c, ((e.2 : Rat) * f).floor))
  else
    let j := k - 2
    let don := if p.xfer && decide (4 ≤ k) && k % 2 == 0 then (p.chans.filter p.donorOk).map (fun x => (x, j * dCap x / 61)) else []
    let budget := p.pb + (don.map (fun e => (e.2 : Rat) * giveW p.obj e.1)).sum
    let sg (x : PourChan) : Rat := ((oS_TGT p.obj : Rat) - (x.soc : Rat)) / 10000
    (don.map (fun e => (e.1.c, -(e.2 : Int)))) ++
    (fill (tiltList p (l.filter (fun x => !(don.map (·.1.c)).contains x.c)) j sg headroom w) budget).map (fun e => (e.1, (e.2 : Int)))

/-- Entries of a slot for P_B < 0: support discharge (R258, R266). -/
def supportEntries (p : Pour) (prevSup : List (Nat × Nat)) (k : Nat) : List (Nat × Int) :=
  let l := p.chans.filter p.supportOk
  let w := giveW p.obj
  let u (x : PourChan) : Rat := uCap p.obj x (socNow x)
  let old := l.filterMap (fun x => (prevSup.find? (fun e => e.1 == x.c && e.2 != 0)).map (fun e => (x, e.2)))
  if k = 1 && !old.isEmpty then
    let tot := (old.map (fun e => (e.2 : Rat) * w e.1)).sum
    old.map (fun e => (e.1.c, -((min (dCap e.1) ((e.2 : Rat) * (-p.pb) / tot).floor.toNat : Nat) : Int)))
  else (fill (tiltList p l (k - 2) u dCap w) (-p.pb)).map (fun e => (e.1, -(e.2 : Int)))

/-- The fixed parts of every candidate (R265, R288): a calibration run from WAIT_REST onwards, never positive, and a phase-set
channel's reference. -/
def fixedEntry (p : Pour) (x : PourChan) : Option Int :=
  if !x.live then some 0
  else if p.cal x.c = 4 then some (-(iCal p.obj x : Int))
  else if 3 ≤ p.cal x.c then some 0
  else x.ref.map (fun v => (v : Int))

/-- Candidate slot k ≥ 1: an entry for every channel read. -/
def candidate (p : Pour) (prev : List (Nat × Int)) (prevSup : List (Nat × Nat)) (k : Nat) : List (Nat × Int) :=
  let e := if p.pb < 0 then supportEntries p prevSup k else chargeEntries p prev k
  p.chans.map (fun x => (x.c, match fixedEntry p x with
    | some v => v
    | none => match e.find? (fun y => y.1 == x.c) with | some y => y.2 | none => 0))

/-! ## Forward simulation (R242-R245) -/

/-- The state of a simulated brick. -/
structure Sim where
  s : Int
  rem : Int := 0
  va : Int
  vb : Int
  h : Int
  vLo : Rat := 0
  vHi : Rat := 0
  step : Nat := 0
  energy : Rat := 0
  loss : Rat := 0
  i1 : Rat := 0
  deriving DecidableEq, Repr

/-- One step of 0.5 s (R242): the current, in 10 mA, is reduced to the flask's bounds and to the current at which the
terminal voltage, linear in the current, meets its limit; `rest` permits a riser discharge in REST. -/
def simStep (x : PourChan) (want : Int) (rest : Bool) (n : Nat) (m : Sim) : Sim :=
  let b := x.brick
  let sf := sFrac m.s
  let al (tau : Rat) : Rat := (expNeg (1 / 2 / (tau / 100)) : Rat) / 4294967296
  let (aa, ab) := (al b.taua, al b.taub)
  let v0 := b.ocvAt sf + ((m.h : Rat) + aa * (m.va : Rat) + ab * (m.vb : Rat)) / 1000
  let z := b.zserAt sf + (1 - aa) * b.zpa + (1 - ab) * b.zpb
  let hi : Rat := min x.winChg x.ichg
  let lo : Rat := if x.dwin == 0 && (x.dis || (rest && x.phase == phREST)) then (x.idis : Rat) else 0
  let vi (dv : Rat) : Rat := if z = 0 then (if dv ≤ 0 then 0 else 1000000) else maxR 0 (10000 * dv / z)
  let w : Rat := want
  let i := if 0 < want then minR w (minR hi (vi ((min x.vtgt x.vmax : Nat) - v0)))
    else if want < 0 then -minR (-w) (minR lo (vi (v0 - (x.vmin : Rat))))
    else 0
  let v := v0 + z * i / 10000
  let (s, rem, va, vb, h) := predict b m.s m.rem m.va m.vb m.h (i / 200) 500000000
  let pol (u : Int) (zp : Rat) : Rat := if zp = 0 then 0 else ((u : Rat) / 1000000) * ((u : Rat) / 1000000) * 100000 / zp
  { s, rem, va, vb, h
    vLo := if n = 1 then v else minR m.vLo v
    vHi := if n = 1 then v else maxR m.vHi v
    step := if m.step = 0 ∧ i ≠ w then n else m.step
    energy := m.energy + v * i / 200000
    loss := m.loss + (b.zserAt sf / 100000 * (i / 100) * (i / 100) + pol va b.zpa + pol vb b.zpb) / 2
    i1 := if n = 1 then i else m.i1 }

/-- The 120 steps of the horizon. -/
def simBrick (x : PourChan) (want : Int) (rest : Bool) : SimOut :=
  let m := (List.range 120).foldl (fun m n => simStep x want rest (n + 1) m) { s := x.s, va := x.va, vb := x.vbp, h := x.h }
  ⟨x.c, m.s, m.vLo, m.vHi, m.step, m.energy, m.loss, m.i1⟩

/-- Results of slot 0, the riser check (R263). -/
def simRiser (p : Pour) : List SimOut :=
  (p.chans.filter p.riserOk).map (fun x => simBrick x (-(p.riserOf x.c : Int)) true)

/-- Results of a candidate: a phase-set channel at its own reference, whatever the candidate says (R242). -/
def simSlot (p : Pour) (e : List (Nat × Int)) : List SimOut :=
  (p.chans.filter (·.live)).map (fun x =>
    let i : Int := match x.ref, e.find? (fun y => y.1 == x.c) with
      | some v, _ => v
      | none, some y => y.2
      | none, none => 0
    simBrick x i false)

end Sys2Proof.Machine
end

