-- ==== Sys2Proof/Machine/Ladle.lean ====
section
/-! DEFINITION. The ladle (chapter 7): objectives, the pour pipeline, the table and its swap, the stale shave, calibration
runs, and the profile and model loads that take effect at a swap. -/

namespace Sys2Proof.Machine

/-! ## Objectives (R252-R255) -/

/-- The image of 40 words passes the check of R253. -/
def objectivesOk (o : List Word) : Bool :=
  objF o 0 24 8 == 1 && objF o 0 16 8 == 0 && decide (1 ≤ oRES_S o) && decide (oRES_MARGIN o ≤ 200) && objF o 2 16 8 == 0 &&
  decide (oRES_FLOOR o < oS_TGT o) && decide (oS_TGT o ≤ 10000) && decide (oCAL_MAX o ≤ 16) && decide (1 ≤ oCAL_C o) &&
  decide (oCAL_C o ≤ 20) && decide (1 ≤ oCAL_TMO o) && decide (0xE000 ≤ objF o 6 16 16) && objF o 6 0 16 == 0 && objF o 7 0 32 == 0 &&
  (List.range 8).all (fun w => (objF o (11 + 4 * w) 30 2 == 0 || objF o (10 + 4 * w) 0 32 != 0) &&
    objF o (11 + 4 * w) 28 2 == 0 && objF o (11 + 4 * w) 16 8 == 0)

/-- The objectives in force. -/
def objInForce (s : State) : List Word := (List.range 40).map (fun i => rd s (OBJ i))

/-- OBJECTIVES (R253): an accepted image waits for the input read of the first pour period that begins after it. -/
def execObjectives (t : Nat) (s : State) : Host.Outcome State Fault Refusal :=
  .next (applyCmd s t 0x28 (fun x s =>
    let o := bytesWords x.src
    if objectivesOk o then
      let s := pendTag s t
      { s with lad := { s.lad with obj := s.lad.obj ++ [(o, t)] } }
    else endSt s t stCHECK_FAILED))

/-- Accepted images take effect at an input read, in order, and their commands complete with the pour's epoch. -/
def takeObjectives (s : State) : State :=
  if s.lad.obj.isEmpty then s
  else
    let l := s.lad.obj
    let s := { s with lad := { s.lad with obj := [] } }
    let ep := rd s LD_EPOCH + 1
    let s := noteCfg s (forEach l (fun (e : List Word × Nat) s => endTag (wrList s (OBJ 0) e.1) e.2 stSUCCESS ep 0) s)
    raise s LD_EVENT 0x200

/-- The window in force at a module time: the lowest index, (mode, index) (R255). -/
def windowAt (o : List Word) (t : Nat) : Nat × Nat :=
  match (List.range 8).find? (fun w =>
    let start := objF o (8 + 4 * w) 0 32 + 2 ^ 32 * objF o (9 + 4 * w) 0 32
    objF o (11 + 4 * w) 30 2 != 0 && decide (start ≤ t) && decide (t < start + 1000000000 * objF o (10 + 4 * w) 0 32)) with
  | some w => (objF o (11 + 4 * w) 30 2, w)
  | none => (0, 0)

/-! ## Pour boundaries (R273) -/

/-- `POUR_MS` in force: values outside 1 to 100 are treated as 10. -/
def pourMs (s : State) : Nat := let m := getF s LD_CTRL_POUR_MS; if 1 ≤ m ∧ m ≤ 100 then m else 10

/-- The first multiple of `m` ms not before `t`. -/
def boundaryFrom (m t : Nat) : Nat := let d := 1000000 * m; (t + d - 1) / d * d

/-- The boundary after the one at `b`, under the `POUR_MS` in force then. -/
def nextBoundary (s : State) (b : Nat) : Nat := boundaryFrom (pourMs s) (b + 1)

/-- Pours are computed (R101, R289), from the end of step 12 on (R489). -/
def pouring (s : State) : Bool := on s dLADLE && on s dCRUCIBLE && on s dPPATH && s.pw.transport == .run && s.pw.done.testBit 12

/-! ## Calibration runs (R285-R288) -/

/-- A run returns to QUEUED. -/
def suspendRun (s : State) (c : Nat) : State := raise (updCalActive (setCalRun s c { calRun s c with state := 1 })) LD_EVENT 0x100

def moveRun (s : State) (c st : Nat) : State := updCalActive (setCalRun s c { calRun s c with state := st })

/-- What the guards of the runs need of the pour: the riser check with the energy of a channel left out (R287). -/
structure CalEnv where
  obj : List Word
  chans : List PourChan
  excl : List Nat
  pr : Rat
  er : Rat

def calDrains (s : State) : List Nat := (s.lad.cal.filter (fun e => e.2.state == 4)).map (·.1)

/-- R262 is met with U_c of channel `c` taken as 0. -/
def CalEnv.met (v : CalEnv) (s : State) (c : Nat) : Bool :=
  (riserChoice v.obj (v.chans.filter (riserOk v.obj v.excl)) (calDrains s) (some c) v.pr v.er).isSome

/-- A queued run may start (R285, R287). -/
def calMayStart (v : CalEnv) (s : State) (x : PourChan) : Bool :=
  !quarantine s && flag s LD_CTRL_CAL_EN && flag s LD_CTRL_XFER_EN && flag s CR_CTRL_LEARN_EN &&
  decide ((calRunning s).length < oCAL_MAX v.obj) && !(calRunning s).any (fun c => c / 16 == x.c / 16) &&
  x.run && !droopOn s && decide (x.vmin + 200 ≤ x.veod) && v.met s x.c

/-- The conditions that take a draining run to PAUSE. -/
def calMustPause (v : CalEnv) (s : State) (x : PourChan) : Bool := !v.met s x.c || x.dwin != 0 || !x.run || x.held

/-- Learning of a run from WAIT_REST onwards: its end, or its suspension, by `LAST_LRN`. -/
def calLearned (s : State) (c : Nat) : Option (State → State) :=
  let e := est s c
  let r := calRun s c
  if e.armed then none
  else if (e.lastLrn = 1 ∨ e.lastLrn = 2) ∧ 4 ≤ r.state then
    some (fun s => endCalRun (incSat s LD_CAL_CAL_DONE) c e.lastLrn)
  else if 3 ≤ e.lastLrn then some (fun s => suspendRun s c)
  else none

/-- One run at an input read (R287); in settings quarantine runs in progress return to QUEUED (R584). A channel the pour does not
read has its flask held; one that enters DISCONNECTED or ABSENT ends its run there (`setChState`). -/
def stepRun (v : CalEnv) (s : State) (c : Nat) : State :=
  let r := calRun s c
  if quarantine s ∧ 2 ≤ r.state then suspendRun s c
  else
    let x := (v.chans.find? (fun x => x.c == c)).getD { pourChan s c with held := true }
    match r.state with
    | 1 =>
      if calMayStart v s x then
        let s := setCalRun s c { r with state := if x.armed then 3 else 2, start := s.now }
        raise (updCalActive s) LD_EVENT 0x40
      else s
    | 2 => if x.armed then moveRun s c 3 else s
    | 3 =>
      match calLearned s c with
      | some k => k s
      | none => if x.phase = phMAINTAIN then moveRun s c 4 else s
    | 4 =>
      match calLearned s c with
      | some k => k s
      | none => if calMustPause v s x then moveRun s c 5 else s
    | 5 =>
      match calLearned s c with
      | some k => k s
      | none => if calMustPause v s x then s else moveRun s c 4
    | _ => s

/-- Every run, in the order of its request (R285). -/
def stepRuns (v : CalEnv) (s : State) : State :=
  let l := (s.lad.cal.filter (fun e => e.2.state != 0)).mergeSort (fun a b => decide (a.2.order < b.2.order ∨ (a.2.order = b.2.order ∧ a.1 ≤ b.1)))
  forEach (l.map (·.1)) (fun c s => stepRun v s c) s

/-- CAL_RUN (R285, R415): requests or cancels a run on each channel; `RESULT0` counts the runs queued or cancelled. -/
def execCalRun (t : Nat) (s : State) : Host.Outcome State Fault Refusal :=
  .next (applyCmd s t 0x2A (fun x s =>
    let l := selRange (x.word 1)
    if bits (x.param 0) 0 1 = 1 then
      let q := l.filter (fun c => (chan s c).state != .absent && (calRun s c).state == 0)
      let o := s.lad.calOrder + 1
      let s := { s with lad := { s.lad with calOrder := o } }
      endTag (forEach q (fun c s => setCalRun s c { calRun s c with req := true, state := 1, order := o }) s) t stSUCCESS
        (BitVec.ofNat 32 q.length) 0
    else
      let q := l.filter (fun c => (calRun s c).state != 0)
      endTag (forEach q (fun c s => endCalRun s c 4) s) t stSUCCESS (BitVec.ofNat 32 q.length) 0))

/-- CAL_RUN_TIMEOUT (R287): `CAL_HOURS` reaches `CAL_TMO`. -/
def execCalRunTimeout (c : Nat) (s : State) : Host.Outcome State Fault Refusal :=
  .next (
    let r := calRun s c
    if 2 ≤ r.state then endCalRun (advance s (r.start + 3600000000000 * oCAL_TMO (objInForce s))) c 3 else s)

/-! ## The input read (R255-R262) -/

/-- Largest millisecond CBUS load power, W (R256). -/
def loadPower (s : State) (ms : Nat) : Rat :=
  match (s.lad.load.take (max 10 ms)).foldl (fun (m : Option Int) v => match m with | none => some v | some w => some (max v w)) none with
  | some v => (v : Rat) / 1000
  | none => 0

/-- Sum of the exporting legs' largest millisecond powers, W (R256). -/
def exportPower (s : State) : Rat :=
  (((List.range 8).filter (fun n => getF s (PP_TLSTAT_DIR n) == 2)).map (fun n => ((tabGet (fun _ => 0) s.lad.exports n : Int) : Rat) / 1000)).sum

/-- Power of the importing legs, W. -/
def importPower (s : State) : Rat :=
  (((List.range 8).filter (fun n => getF s (PP_TLSTAT_DIR n) == 1)).map (fun n => watts (getF s (PP_TLSTAT_ILIM n) : Rat) (leg s (4 + n)).vb)).sum

/-- The importing legs with their `ILIM`. -/
def importing (s : State) : List (Nat × Nat) :=
  ((List.range 8).filter (fun n => getF s (PP_TLSTAT_DIR n) == 1)).map (fun n => (n, getF s (PP_TLSTAT_ILIM n)))

/-- Presented capability and latest millisecond voltage of the active sprue; 0 with none (R256). -/
def supplyOf (s : State) : Nat × Nat :=
  match activeSprue s with
  | some n => (s.pp.capability, (leg s n).vb)
  | none => (0, 0)

/-- Candidates evaluated for a pour of `ms` with `n` simulated channels (R243, R244, R267). -/
def candCount (ms n : Nat) (hot : Bool) : Nat :=
  max 3 (if n = 0 then 64 else min 64 (4 * ms * (if hot then 491520 else 983040) / (5 * 120 * n)))

/-- Read a pour's inputs (R256), with the objectives and window of the read. -/
def readPour (s : State) (period : Nat) : State :=
  let o := objInForce s
  let (wm, wi) := windowAt o s.now
  let wm := if wm = 3 ∧ !flag s LD_STATUS_RES_OK then 0 else wm
  let xs := pourChans (withLoads s)
  let pres := presentChans s
  let (csp, vsp) := supplyOf s
  let csp := if wm = 3 then min csp (objF o (11 + 4 * wi) 0 16) else csp
  let pp := watts (csp : Rat) vsp + importPower s
  let pl := loadPower s period
  let pexp := exportPower s
  let px := if flag s PP_CTRL_EXPORT_SHED then 0 else pexp
  let er : Rat := 10 * (oRES_WH o : Rat)
  let pr := maxR (er * 3600 / (oRES_S o : Rat)) ((100 + (oRES_MARGIN o : Rat)) / 100 * pl + px)
  let s := stepRuns ⟨o, xs, s.lad.excl, pr, er⟩ s
  let el := xs.filter (riserOk o s.lad.excl)
  let drains := calDrains s
  let m := riserChoice o el drains none pr er
  let phi := m.getD 256
  let riser := el.map (fun x => (x, riserAt o drains phi x))
  let av := eAvail o riser socNow none
  let ok := riserMeets o el drains none pr er phi
  let pfix := ((xs.filter (fun x => x.live && x.phaseSet)).map (fun x => (min (x.ref.getD 0) x.winChg : Nat) * drawW o x)).sum
  let pcal := ((xs.filter (fun x => x.live && drains.contains x.c)).map (fun x => (iCal o x : Rat) * giveW o x)).sum
  let pb := 98 * pp / 100 - pl - pexp - pfix + pcal
  let short := maxR 0 (er - av)
  let barred := wm == 2 && (match activeSprue s with
    | some n => !(objF o (11 + 4 * wi) 24 4).testBit (getF s (SP_CFG_KIND n))
    | none => true)
  let pb := if barred then minR pb (60 * short) else pb
  let n := (xs.filter (·.live)).length
  let p : Pour := { order := s.lad.pours + 1, readAt := s.now, swapAt := nextBoundary s s.now, chans := xs, pp, pl, px := pexp, pb, er
                    eAvail := av, phi, xfer := flag s LD_CTRL_XFER_EN, imports := importing s
                    zmed := lowerMedian (pres.map (fun c => getF s (ES_Z_ZSER_NOW c))), ymed := lowerMedian (pres.map (fun c => (est s c).cycles))
                    runOut := pres.filter (fun c => !inView s c && (chan s c).state == .run), shortP := !ok.1, shortE := !ok.2, riser := riser.map (fun e => (e.1.c, e.2)), obj := o
                    winMode := wm, winIdx := wi, exclOld := s.lad.excl, loads := s.lad.loads
                    cands := candCount ((nextBoundary s s.now - s.now) / 1000000) n (flag s CR_STATUS_HOT)
                    roles := (s.lad.cal.filter (fun e => e.2.state != 0)).map (fun e => (e.1, e.2.state)) }
  let was := flag s LD_STATUS_SHORT_P || flag s LD_STATUS_SHORT_E
  let s := setFlag (setFlag (setFlag s LD_STATUS_RES_OK m.isSome) LD_STATUS_SHORT_P (!ok.1)) LD_STATUS_SHORT_E (!ok.2)
  let s := if m.isNone then raise s LD_EVENT 4 else if was then raise s LD_EVENT 8 else s
  { s with lad := { s.lad with pour := some p, pours := p.order, next := p.swapAt, period := (p.swapAt - p.readAt) / 1000000
                               exports := [] } }

/-- POUR_INPUT_READ (R256, R273): at the pour boundary; not while a pour still waits for its swap or its miss. -/
def execPourInputRead (s : State) : Host.Outcome State Fault Refusal :=
  .next (
    if pouring s && s.lad.pour.isNone then
      let b := if s.now ≤ s.lad.next then s.lad.next else boundaryFrom (pourMs s) s.now
      let s := { s with now := b }
      readPour (takeObjectives s) s.lad.period
    else s)

/-! ## Simulation and selection (R243-R245, R263-R270) -/

/-- Entries of every slot formed, from slot 1. -/
def pourSlots (s : State) (p : Pour) : List (List (Nat × Int)) :=
  (List.range (p.cands - 1)).map (fun i => candidate p s.lad.prev s.lad.prevSup (i + 1))

/-- Channels the riser check excludes from the next pour (R263): a bound acts before min(T_R, 60 s). -/
def riserExcluded (p : Pour) (r : List SimOut) : List Nat :=
  (r.filter (fun y => y.step != 0 && decide (y.step ≤ 2 * min (oRES_S p.obj) 60))).map (·.c)

/-- SIMULATION_DONE (R245, R263): the crucible returns the results of slot 0 and of the candidates formed. Slot 0 names the bricks
the next pour leaves out of its riser set, and `CANDS` shows the candidates evaluated, whether or not the pour is missed (DESIGN
CHOICE, log 58: R243 does not say when it is written). -/
def execSimulationDone (s : State) : Host.Outcome State Fault Refusal :=
  .next (
    match s.lad.pour with
    | some p =>
      if p.results.isNone && pouring s then
        let r := simRiser p
        let s := modPour s (fun p => { p with results := some (r :: (pourSlots s p).map (simSlot p)) })
        setF { s with lad := { s.lad with excl := riserExcluded p r } } CR_STATUS_CANDS p.cands
      else s
    | none => s)

/-- Bus power of a candidate's first-step currents, beside the fixed parts that the budget already holds (R268). -/
def busPower (p : Pour) (r : List SimOut) : Rat :=
  ((p.chans.filter (fun x => (fixedEntry p x).isNone)).map (fun x =>
    match r.find? (fun y => y.c == x.c) with
    | some y => if 0 ≤ y.i1 then y.i1 * drawW p.obj x else y.i1 * giveW p.obj x
    | none => 0)).sum

/-- E_avail at the end of a candidate's horizon. -/
def endAvail (p : Pour) (r : List SimOut) : Rat :=
  eAvail p.obj ((p.chans.filter p.riserOk).map (fun x => (x, p.riserOf x.c)))
    (fun x => match r.find? (fun y => y.c == x.c) with | some y => clamp01 (sFrac y.sEnd) | none => socNow x) none

/-- A candidate is rejected (R268). -/
def rejected (p : Pour) (r : List SimOut) : Bool :=
  r.any (fun y => y.step == 1) || decide (p.pb + p.pp / 100 < busPower p r) || decide (endAvail p r < minR p.er p.eAvail)

/-- The four terms of a candidate's cost, each in whole µWh (R268). -/
def costOf (p : Pour) (r : List SimOut) : Int :=
  let tgt : Rat := (oS_TGT p.obj : Rat) / 10000
  let wf : Rat := (oW_FILL p.obj : Rat) / 256 * (if p.winMode = 1 then 2 else 1)
  let micro (v : Rat) : Int := roundRat (v * 1000000)
  let pairs := p.chans.filterMap (fun x => (r.find? (fun y => y.c == x.c)).map (fun y => (x, y)))
  let absR (v : Rat) : Rat := if v < 0 then -v else v
  let e (y : SimOut) : Rat := absR y.energy / 3600
  let fillc := (pairs.map (fun q => (if p.cal q.1.c = 2 then 4 else 1) * ((q.1.cap : Rat) / 10) * ((q.1.ocv : Rat) / 1000) *
    (minR (sFrac q.2.sEnd) tgt - minR (sFrac q.1.s) tgt))).sum
  let loss := (pairs.map (fun q => q.2.loss / 3600 + e q.2 * (1 - oETA p.obj) / oETA p.obj)).sum
  let wear := (pairs.map (fun q => e q.2 * wearOf p.obj p.zmed p.ymed q.1)).sum
  let therm := (pairs.map (fun q => e q.2 * thermOf p.obj q.1)).sum
  micro (-(wf * fillc)) + micro loss + micro wear + micro therm

/-- The selected slot and whether every candidate was rejected (R269). -/
def selectSlot (p : Pour) (res : List (List SimOut)) : Nat × Bool :=
  let c := (res.drop 1).zipIdx.map (fun e => (e.2 + 1, e.1))
  match c.foldl (fun (m : Option (Nat × Int)) e =>
      if rejected p e.2 then m
      else match m with
        | none => some (e.1, costOf p e.2)
        | some b => if costOf p e.2 < b.2 then some (e.1, costOf p e.2) else m) none with
  | some b => (b.1, false)
  | none => ((c.foldl (fun (m : Nat × Rat) e => if m.2 < endAvail p e.2 then (e.1, endAvail p e.2) else m) (1, -1)).1, true)

/-- CANDIDATE_SELECTION (R269, R270, R274): the selected entries and riser allocations make the pour table, which is
delivered. Within 400 µs of the next period it comes too late: the pour is missed (R278). -/
def execCandidateSelection (s : State) : Host.Outcome State Fault Refusal :=
  .next (
    match s.lad.pour with
    | some p =>
      match p.results with
      | some res =>
        if p.sel.isNone && pouring s && decide (s.now + 400000 ≤ p.swapAt) then
          let (k, all) := selectSlot p res
          let e := (pourSlots s p).getD (k - 1) []
          let pchg := ((p.chans.filterMap (fun x => (e.find? (fun y => y.1 == x.c && decide (0 < y.2))).map (fun y => (y.2 : Rat) * drawW p.obj x)))).sum
          let s := modPour s (fun p => { p with sel := some (k, all), pchg, table := e.map (fun y => (y.1, y.2, p.riserOf y.1)) })
          let s := { s with lad := { s.lad with
            prev := e
            prevSup := if p.pb < 0 then (e.filter (fun y => decide (y.2 < 0) && (p.chans.any (fun x => x.c == y.1 && p.supportOk x)))).map (fun y => (y.1, y.2.natAbs)) else [] } }
          let s := setF s LD_STATUS_SEL k
          issueSwap (forEach (onlineRegions s) (fun _ s => xfer s hubFabric 0 rqLadle 1024) s)
        else s
      | none => s
    | none => s)

/-! ## Delivery and swap (R274-R279) -/

/-- The entry word of a channel in a table (R274). -/
def entryWord (t : List (Nat × Int × Nat)) (c : Nat) : Word :=
  match t.find? (fun e => e.1 == c) with
  | some e => pair16 (toBits 16 e.2.1) e.2.2
  | none => 0

/-- Pour epoch the table being delivered carries (R276). -/
def newEpoch (s : State) : Nat := (rd s LD_EPOCH + 1).toNat

/-- SHADOW_TABLE_RECEIVED (R275): flask `f` receives its 16 entries; a frame that fails its CRC is not stored. -/
def execShadowTableReceived (f : Nat) (good : Bool) (s : State) : Host.Outcome State Fault Refusal :=
  .next (
    match s.lad.pour with
    | some p =>
      if p.sel.isSome && good && flaskOn s f && online s (f / 16) then
        modFlask s f (fun x => { x with shadow := some (newEpoch s, (flaskChans f).map (entryWord p.table)) })
      else s
    | none => s)

/-- A flask holds a shadow of the table's epoch. -/
def shadowReady (s : State) (f : Nat) : Bool := match (flask s f).shadow with | some x => x.1 == newEpoch s | none => false

/-- REGION_ACK (R51, R52, R275): a region whose flasks not in flask hold all hold the table acknowledges; an acknowledgement
later than 100 µs before the next period is late. At the last one the hub names the target tick. -/
def execRegionAck (k : Nat) (s : State) : Host.Outcome State Fault Refusal :=
  .next (
    match s.lad.pour with
    | some p =>
      if p.sel.isSome && p.target.isNone && online s k && decide (k < s.part.regions) && !p.acks.contains k &&
          decide (s.now + 100000 ≤ p.swapAt) &&
          ((regionFlasks k).filter (fun f => flaskOn s f && !flaskHeld s f)).all (shadowReady s) then
        issueSwap (modPour s (fun p => { p with acks := p.acks ++ [k] }))
      else s
    | none => s)

/-- Check of a load (R170, R206, R422): an all-zero image empties a slot that no present channel names. -/
def loadCheck (s : State) (slot : Nat) (w : List Word) (ok : Bool) : Nat :=
  if w.all (· == 0) then
    (if (List.range s.part.channels).any (fun c => flag s (CH_CFG_PRESENT c) && getF s (CH_CFG_PROFILE c) == slot) then stSTATE else stSUCCESS)
  else if ok then stSUCCESS else stCHECK_FAILED

/-- A profile or model image of a swapped table comes into force and its command completes (R169, R206). -/
def takeLoad (s : State) (l : Nat × Nat × List Word × Nat) (epoch : Nat) : State :=
  let s := noteCfg s (wrList s (if l.1 = 0x20 then PROF l.2.1 else MODEL l.2.1) l.2.2.1)
  let s := if l.1 = 0x21 then
      { s with ests := s.ests.map (fun e => if e.2.armed && getF s (CH_CFG_PROFILE e.1) == l.2.1 then (e.1, { e.2 with modelNew := true }) else e) }
    else s
  endTag s l.2.2.2 stSUCCESS (BitVec.ofNat 32 epoch) 0

/-- A load at its swap: an emptying image is judged once more, against the channels now present (R416). -/
def swapLoad (s : State) (l : Nat × Nat × List Word × Nat) (epoch : Nat) : State :=
  if loadCheck s l.2.1 l.2.2.1 true = stSUCCESS then takeLoad s l epoch else endSt s l.2.2.2 stSTATE

/-- Flasks that a swap command naming `tick` reaches too late: those named, and those of a region whose latest tick is a later one by
its own copy of module time (R45, R277). -/
def swapLate (s : State) (tick : Nat) (late : List Nat) (f : Nat) : Bool := late.contains f || decide (tick < 1000 * (region s (f / 16)).tick)

/-- A flask at the target tick: it changes to the shadow of the swap's epoch, or reports the mismatch (R277). -/
def swapFlask (s : State) (epoch : Nat) (late : Nat → Bool) (f : Nat) : State :=
  let x := flask s f
  match x.shadow with
  | some (e, t) =>
    if e = epoch ∧ !late f then setFlask s f { x with tab := t, tabEpoch := epoch, shadow := none }
    else raise (fault s 0x15 2 (srcFlask f 0) (BitVec.ofNat 32 e)) LD_EVENT 0x400
  | none => raise (fault s 0x15 2 (srcFlask f 0) (BitVec.ofNat 32 x.tabEpoch)) LD_EVENT 0x400

/-- `ROLE` and `EXCL` of a channel of the swapped table (R281). -/
def roleOf (p : Pour) (x : PourChan) (i : Int) : Nat × Nat :=
  let excl := if !x.run then 1 else if x.held then 2 else if p.exclOld.contains x.c then 5
    else if decide (oS_TGT p.obj ≤ x.soc) then 4 else if p.chargeable x then 0 else 3
  let role := if !x.live then 0 else if 2 ≤ p.cal x.c then 6 else if x.phaseSet then 5 else if 0 < i then 1
    else if i < 0 then (if p.pb < 0 then 4 else 3)
    else if p.chargeable x || p.supportOk x then 2 else 0
  (role, if role = 0 ∨ excl = 5 then excl else 0)

/-- `LS_CAL` of a channel. -/
def lsCal (s : State) (c : Nat) : Word :=
  let r := calRun s c
  BitVec.ofNat 32 ((if r.req then 2 ^ 31 else 0) + r.state * 2 ^ 28 + r.end_ * 2 ^ 24 +
    (if 2 ≤ r.state then satTo 65535 ((s.now - r.start) / 3600000000000) else 0))

/-- The channel ladle status is refreshed (R281). A channel in RUN that the pour did not read has its flask held. -/
def refreshStatus (s : State) (p : Pour) : State :=
  forEach (List.range s.part.channels) (fun c s =>
    match p.chans.find? (fun x => x.c == c) with
    | some x =>
      let (r, e) := roleOf p x (match p.table.find? (fun y => y.1 == c) with | some y => y.2.1 | none => 0)
      wrList s (LS_ROLE c) [BitVec.ofNat 32 (r * 2 ^ 28 + e * 2 ^ 24), lsCal s c]
    | none => wrList s (LS_ROLE c) [BitVec.ofNat 32 ((if p.runOut.contains c then 2 else 1) * 2 ^ 24), lsCal s c]) s

/-- Tens of W, truncated, rounded up, and signed. -/
def tenW (v : Rat) : Nat := (v / 10).floor.toNat
def tenWUp (v : Rat) : Nat := (-((-(v / 10)).floor)).toNat
def tenWSigned (v : Rat) : Int := if v < 0 then -(((-v) / 10).floor) else (v / 10).floor

/-- Header and table of the swapped pour are written (R281). -/
def writeTable (s : State) (p : Pour) (epoch : Nat) : State :=
  let sel := match p.sel with | some x => x | none => (0, false)
  let b (v : Bool) (i : Nat) : Nat := if v then 2 ^ i else 0
  let rw := ((p.chans.filter p.riserOk).map (fun x => (p.riserOf x.c : Rat) * giveW p.obj x)).sum
  let ep := BitVec.ofNat 32 epoch
  let s := wrList s PT_EPOCH [ep,
    BitVec.ofNat 32 (sel.1 * 2 ^ 24 + p.cands * 2 ^ 16 + p.winMode * 2 ^ 14 + (if p.winMode = 0 then 0 else p.winIdx * 2 ^ 11) + b sel.2 10 + b p.shortE 9 + b p.shortP 8),
    lo32 (stampAt s p.readAt), hi32 (stampAt s p.readAt), lo32 (stamp s), hi32 (stamp s),
    pair16 (tenW p.pp) (tenWUp p.pchg), pair16 (tenW rw) (tenW p.eAvail), BitVec.ofNat 32 p.phi,
    pair16 (tenW p.pl) (toBits 16 (tenWSigned p.pb))]
  let s := wrList { s with lad := { s.lad with pb := p.pb } } (SETPT 0) ((List.range 1024).map (entryWord p.table))
  refreshStatus (wr s PT_EPOCH2 ep) p

/-- The shave at a swap (R284): ended when the inputs were read after its last trigger, else recomputed at once. -/
def swapShave (s : State) (p : Pour) : State :=
  let g := if s.lad.trigger < p.readAt then 256 else s.lad.g
  let s := setShave s (capF (getF s PT_PWR_BASIS) (getF s PT_PWR_P_CHG) s.lad.pcap) g s.lad.pcap
  { s with lad := { s.lad with f := s.lad.fNext } }

/-- Channels in HOLD with reason 8 that the pour had in view start at its swap (R126). -/
def startChannels (s : State) (p : Pour) : State :=
  forEach (p.chans.filter (·.hold8)) (fun x s =>
    if (chan s x.c).state = .hold ∧ (chan s x.c).reason = 8 then setChState s x.c .run 0 else s) s

/-- The import current of each leg is allotted afresh: that which the swapped pour counts on from it. The ladle chapter gives no other
allotment per leg (R91, R257; DEDUCED, log 73). -/
def swapImports (s : State) (p : Pour) : State :=
  forEach (List.range 8) (fun n s =>
    let i := match p.imports.find? (fun e => e.1 == n) with | some e => e.2 | none => 0
    setTleg s n { tleg s n with allot := if getF s (PP_TLSTAT_DIR n) = 1 then i else 0 }) s

/-- Regions a swap reaches: the stale shave ends and its count starts anew (R279, R280). -/
def swapRegions (s : State) : State :=
  forEach (onlineRegions s) (fun k s =>
    setBitF (modRegion s k (fun r => { r with stale := false, lastSwap := some s.now, ackMiss := 0 })) LD_STATUS_STALE k false) s

/-- POUR_SWAP (R51, R76, R277, R281, R284): at the target tick; `late` names the flasks the command reached after it. -/
def execPourSwap (late : List Nat) (s : State) : Host.Outcome State Fault Refusal :=
  .next (
    match s.lad.pour with
    | some p =>
      match p.target with
      | some tick =>
        let s := xfer (advance s tick) hubFabric 0 rqLadle 8
        let epoch := newEpoch s
        let s := { s with lad := { s.lad with pour := none, loads := s.lad.loads.filter (fun l => !p.loads.contains l) } }
        let s := forEach ((onlineRegions s).flatMap regionFlasks |>.filter (flaskOn s)) (fun f s => swapFlask s epoch (swapLate s tick late) f) s
        let s := setF (setF s LD_EPOCH_POUR_EPOCH epoch) LD_STATUS_MISS_RUN 0
        let s := forEach p.loads (fun l s => swapLoad s l epoch) s
        let s := writeTable s p epoch
        let s := swapImports (swapShave (swapRegions s) p) p
        let s := if s.pp.droopAt < p.readAt ∧ getF s PP_CBUS_UV < s.pp.cbusV then endDroop s else s
        let s := startChannels s p
        offer s 0x10 (getF s LD_STATUS_SEL) (BitVec.ofNat 32 epoch)
      | none => s
    | none => s)

/-- POUR_MISSED (R52, R278, R279): no selection 400 µs, or no acknowledgement 100 µs, before the next period. -/
def execPourMissed (s : State) : Host.Outcome State Fault Refusal :=
  .next (
    match s.lad.pour with
    | some p =>
      if p.target.isSome then s
      else
        let s := advance s (if p.sel.isNone then p.swapAt - 400000 else p.swapAt - 100000)
        let s := { s with lad := { s.lad with pour := none } }
        let s := if p.sel.isNone then s
          else forEach (onlineRegions s) (fun k s =>
            if p.acks.contains k then modRegion s k (fun r => { r with ackMiss := 0 })
            else
              let s := modRegion s k (fun r => { r with ackMiss := satTo 4 (r.ackMiss + 1) })
              if (region s k).ackMiss = 3 then fault s 0x22 2 (srcRegion k 0) (BitVec.ofNat 32 (newEpoch s)) else s) s
        let s := raise (incSat (incSat s LD_COUNTS_MISSED) LD_STATUS_MISS_RUN) LD_EVENT 1
        offer s 0x11 (getF s LD_STATUS_MISS_RUN) (rd s LD_EPOCH)
    | none => s)

/-- `STALE_MS` in force: values outside 10 to 10 000 are taken at the nearest end (R280). -/
def staleMs (s : State) : Nat := max (min 10000 (max 10 (getF s LD_STALE_STALE_MS))) (3 * pourMs s)

/-- STALE_SHAVE (R280): region k has seen no swap, since its latest one or since it came online, for longer than
max(`STALE_MS`, 3 × `POUR_MS`). Its comparator counts on in a region hold and without a link. -/
def execStaleShave (k : Nat) (s : State) : Host.Outcome State Fault Refusal :=
  .next (
    match (region s k).lastSwap with
    | some t =>
      if on s (dCTL k) && decide (k < s.part.regions) && !(region s k).stale then
        let s := advance s (t + 1000000 * staleMs s)
        let s := modRegion s k (fun r => { r with stale := true })
        let s := raise (setBitF s LD_STATUS_STALE k true) LD_EVENT 2
        fault s 0x23 2 (srcRegion k 1) (BitVec.ofNat 32 ((s.now - t) / 1000000))
      else s
    | none => s)

/-! ## Loads and ALLOC_READ -/

/-- A checked load waits for the table of the first pour whose input read follows it (R169). -/
def acceptLoad (s : State) (t op slot : Nat) (w : List Word) (ok : Bool) : State :=
  if loadCheck s slot w ok = stSUCCESS then
    let s := pendTag s t
    { s with lad := { s.lad with loads := s.lad.loads ++ [(op, slot, w, t)] } }
  else endSt s t (loadCheck s slot w ok)

/-- PROFILE_LOAD (R169, R170). -/
def execProfileLoad (t : Nat) (s : State) : Host.Outcome State Fault Refusal :=
  .next (applyCmd s t 0x20 (fun x s =>
    let w := bytesWords x.src
    acceptLoad s t 0x20 (selSlot (x.word 1)) w (profileOk w)))

/-- MODEL_LOAD (R206). -/
def execModelLoad (t : Nat) (s : State) : Host.Outcome State Fault Refusal :=
  .next (applyCmd s t 0x21 (fun x s =>
    let w := bytesWords x.src
    acceptLoad s t 0x21 (selSlot (x.word 1)) w (modelOk w)))

/-- ALLOC_READ (R427): the header, the table and the channel status in force, in four reserved capture pages; it waits,
holding its tag, while fewer are free (R404). -/
def execAllocRead (t : Nat) (s : State) : Host.Outcome State Fault Refusal :=
  .next (applyCmd s t 0x29 (fun _ s =>
    if s.hi.capFree < 4 then raiseHi s eCAP_WAIT
    else
      let w := (List.range 16).map (fun i => rd s (PT_EPOCH + 4 * i)) ++ (List.range 1024).map (fun c => rd s (SETPT c)) ++
        (List.range 2048).map (fun i => rd s (LS_ROLE 0 + 4 * i))
      let s := modTag s t (fun x => { x with pages := 4 })
      giveResult { s with hi := { s.hi with capFree := s.hi.capFree - 4 } } t (rd s PT_EPOCH) 0 w))

end Sys2Proof.Machine
end

