-- ==== Sys2Proof/Machine/Domains.lean ====
section
/-! DEFINITION. Power domains: what a domain requires, what is lost when it goes off, switching by request (R39-R41,
R478-R482, R501), and the reference clock (R490, R491). -/

namespace Sys2Proof.Machine

/-! ## The domain tree (R39, R40, R484) -/

/-- Domains a start-up step switches on, in order (R484, R488). -/
def stepDomains (p : Part) : Nat → List Nat
  | 3 => [dBBOX]
  | 4 => [dPPATH]
  | 5 => [dHOSTIF, dTRACE]
  | 6 => [dKEEPA, dKEEPB]
  | 9 => [dTLPHY]
  | 10 => (List.range p.regions).map dCTL
  | 11 => (List.range 4).flatMap (fun b => (List.range p.regions).map (fun k => dBANK k b))
  | 12 => [dCRUCIBLE, dLADLE]
  | _ => []

/-- The switchable domains of a part in start-up order; `ATEST` stands before its first user. -/
def startOrder (p : Part) : List Nat :=
  stepDomains p 3 ++ stepDomains p 4 ++ stepDomains p 5 ++ [dATEST] ++ stepDomains p 6 ++ stepDomains p 9 ++
  stepDomains p 10 ++ stepDomains p 11 ++ stepDomains p 12

/-- The revival set (R41). -/
def inRevival (d : Nat) : Bool := d == dPPATH || d == dBBOX || d == dKEEPA || d == dKEEPB || d == dTLPHY

/-- The domain a domain requires; none for those that require AON alone (R39). -/
def requires (d : Nat) : Option Nat :=
  if d = dLADLE then some dCRUCIBLE
  else if d = dBBOX ∨ d = dPPATH then none
  else if d < 10 ∨ (d - 10) % 5 = 0 then some dPPATH
  else some (d - (d - 10) % 5)

/-- `e` depends on `d`, at once or through another (R40). -/
def dependsOn (e d : Nat) : Bool :=
  match requires e with
  | none => false
  | some r => r == d || requires r == some d

/-- The domain a domain requires is powered. -/
def requiredOn (s : State) (d : Nat) : Bool := match requires d with | none => s.pw.aon | some r => on s r

/-- A bit of a set of domains. -/
def dBit (d : Nat) : BitVec 32 := BitVec.ofNat 32 (2 ^ d)

/-! ## Where a word is kept (R476, R641, R642) -/

/-- Words kept in AON. -/
def keptAon (a : Nat) : Bool :=
  [CK_CAUSE, CK_COUNTS, CK_TIME_LO, CK_TIME_HI, CK_TSTART_LO, CK_TSTART_HI, TM_TAMPCFG, TM_TAMPLAT, TM_TTIME_LO,
   TM_TTIME_HI].contains a

/-- The domain that holds a BAR2 word, by its offset. -/
def bar2Domain (o : Nat) : Nat :=
  if o < 0x10000 then dCTL (o / 0x4000)
  else if o < 0x11000 then dCTL ((o - 0x10000) / 0x400)
  else if o < 0x12000 then dPPATH
  else if o < 0x1A000 then dFlask ((o - 0x12000) / 0x200)
  else if o < 0x1E000 then dCTL ((o - 0x1A000) / 0x1000)
  else if o < 0x1E400 then dFlask ((o - 0x1E000) / 0x10)
  else if o < 0x30000 then dPPATH
  else if o < 0x38000 then dCTL ((o - 0x30000) / 0x2000)
  else if o < 0x3C000 then dCTL ((o - 0x38000) / 0x1000)
  else if o < 0x50000 then dPPATH
  else if o < 0xD0000 then dCTL ((o - 0x50000) / 0x20000)
  else dPPATH

/-- The domain whose reset returns a word to its reset value; none for a word kept in AON. -/
def wordDomain (a : Nat) : Option Nat :=
  if keptAon a then none
  else if bar4 ≤ a then some dHOSTIF
  else if bar2 ≤ a then some (bar2Domain (a - bar2))
  else if a = HI_STATUS ∨ a = HI_EVLOST ∨ a = TRC_HWR then some dPPATH
  else some (blockDomain a)

/-- The words of a domain return to their reset values. `HRST_COUNT` is kept in AON (R512), `WR_IDX` and `WRAPPED` in
`PPATH` (R634). -/
def clearWords (s : State) (d : Nat) : State :=
  let n := getF s WD_COUNTS_HRST_COUNT
  let i := getF s TRC_STATUS_WR_IDX
  let w := flag s TRC_STATUS_WRAPPED
  let s := resetWords s (fun a => wordDomain a == some d)
  let s := setF s WD_COUNTS_HRST_COUNT n
  if d = dTRACE then setFlag (setF s TRC_STATUS_WR_IDX i) TRC_STATUS_WRAPPED w
  else if d = dPPATH then setFlag (setF s TRC_STATUS_WR_IDX 0) TRC_STATUS_WRAPPED false
  else s

/-! ## `CK_STATUS` and `CK_PDON` (R501) -/

/-- `STEP`: the last start-up step finished. -/
def lastStep (s : State) : Nat := (List.range 13).foldl (fun m n => if s.pw.done.testBit n then n else m) 0

/-- The two registers show supplies, clocks, start-up and domains. -/
def updCk (s : State) : State :=
  if on s dPPATH then
    let p := s.pw
    let b (v : Bool) (i : Nat) : Nat := if v then 2 ^ i else 0
    let src := match p.timeSrc with | .reference => 0 | .crystal => 1 | .rc => 2
    let s := wr s CK_STATUS (BitVec.ofNat 32 (b p.refOk 31 + b p.xtalOk 30 + b p.hubLock 29 + b p.holdupOk 28 + src * 2 ^ 26 +
      b p.revival 25 + p.runnerLock * 2 ^ 20 + p.rpllLock * 2 ^ 16 + lastStep s))
    wr s CK_PDON p.dom
  else s

/-! ## What a domain takes with it -/

/-- End the commands issued to a block and not yet answered. -/
def endWhere (s : State) (p : Tag → Bool) (st : Nat) : State :=
  forEach (allTags s) (fun (e : Nat × Tag) s =>
    if (e.2.state == .started || e.2.state == .running) && e.2.result.isEmpty && p e.2 then endSt s e.1 st else s) s

/-- A command works on channels or flasks of a region. -/
def worksOn (k : Nat) (x : Tag) : Bool := (selRegions (x.word 1)).contains k && decide (x.opcode < 0x20)

/-- What waited under commands that have ended is dropped: a command that fails has no effect (R412). -/
def dropWaits (s : State) : State :=
  { s with
    calWaits := s.calWaits.filter (fun x => stillWaits s x.tag)
    ests := s.ests.map (fun (e : Nat × Est) => (e.1, { e.2 with next := e.2.next.filter (fun y => stillWaits s y.2) }))
    tel := s.tel.map (fun (e : Nat × Telemetry) => (e.1, { e.2 with next := e.2.next.filter (fun y => stillWaits s y.2.2) })) }

/-- Drop every entry of a table whose key satisfies `p`. -/
def tabDrop {α : Type} (p : Nat → Bool) (t : Tab α) : Tab α := t.filter (fun e => !p e.1)

/-- The sweeps of a flask end without a fit; the last flask of a scheduled sweep ends it (R238). -/
def endSweeps (s : State) (f : Nat) : State :=
  updSweeping <| sweepDone <| forEach (flaskSweeps s f) (fun w s =>
    match w.host with
    | some t => hostFlaskEnd (setFlaskSweeps s f (flaskSweeps s f).tail) t f 0 (2 * w.pairs.length) true
    | none => setFlaskSweeps s f (flaskSweeps s f).tail) s

/-- A flask bank is off (R131, R482): its sequencers stop and its converters hold nothing; the channels' parameters stay in
the region's tables, and telemetry goes on with the charge counted so far (R441). -/
def bankOff (s : State) (d : Nat) : State :=
  let fs := (List.range s.part.flasks).filter (fun f => dFlask f == d)
  forEach fs (fun f s =>
    let s := stopSequencer (endSweeps (telStop s f) f) f false
    let s := modFlask s f (fun x => { x with tab := [], tabEpoch := 0, shadow := none, tone := 0, toneAcc := 0, lostPairs := [] })
    let s := forEach (flaskChans f) (fun c s => modChan (foldTele (endRamp s c) c (chan s c).cv.acc 0 (getF s (MC_SHUNT_SHUNT c))) c (fun x => { x with cv := {}, th := {}, win := {}, vbHist := [] })) s
    let s := { s with fq := tabDrop (· == f) s.fq }
    let rem := (s.site.rem.map (fun (e : Nat × Removal) => if chFlask e.1 = f then (e.1, { removed := e.2.removed }) else e)).filter (fun (e : Nat × Removal) => e.2 != {})
    { s with site := { s.site with rem }, calConvs := tabDrop (· == f) s.calConvs }) s

/-- A flask bank has stopped without an order (R131): its flasks hold reason 4 until its sequencers have restarted. -/
def lostBank (s : State) (d : Nat) : State :=
  forEach ((List.range s.part.flasks).filter (fun f => dFlask f == d))
    (fun f s => flaskHold (modFlask s f (fun x => { x with failed := true })) f 4) s

/-- A region controller is off: its link, tables and estimates are gone (R46). -/
def ctlOff (s : State) (k : Nat) : State :=
  let s := setBitF (goOffline (fabricOff s k) k) LD_STATUS_STALE k false
  let s := forEach (regionFlasks k) (fun f s => endSweeps s f) s
  let s := dropWaits (endWhere s (worksOn k) stREGION_OFFLINE)
  let s := forEach (List.range s.part.channels) (fun c s => if chRegion c = k ∧ (calRun s c).state ≠ 0 then endCalRun s c 5 else s) s
  let inK (c : Nat) : Bool := chRegion c == k
  { s with
    regs := tabSet (fun _ => {}) s.regs k { held := (region s k).held }
    fq := tabDrop (fun i => i == 64 + k || (decide (i < 64) && i / 16 == k)) s.fq
    chans := tabDrop inK s.chans
    flasks := tabDrop (fun f => f / 16 == k) s.flasks
    ests := tabDrop inK s.ests
    calWaits := (s.calWaits.map (fun x => { x with chans := x.chans.filter (fun c => !inK c) })).filter (fun x => !x.chans.isEmpty)
    pw := { s.pw with runnerLock := s.pw.runnerLock &&& (15 - 2 ^ k), rpllLock := s.pw.rpllLock &&& (15 - 2 ^ k) } }

/-- The crucible is off: sweeps end. Filter states stay in the regions' memories (R220). -/
def crucibleOff (s : State) : State :=
  let s := forEach (List.range s.part.flasks) (fun f s => endSweeps s f) s
  let s := endWhere s (fun x => x.opcode == 0x2B || x.opcode == 0x18 || x.opcode == 0x19) stABORTED
  { s with sweeps := {}, ests := s.ests.map (fun (e : Nat × Est) => (e.1, { e.2 with next := [], spare := none, resetTag := none })) }

/-- The ladle is off: the pour in progress, accepted objectives and loads and calibration runs are gone (R263). The comparators
stand in the regions, and keep the shave (R282). -/
def ladleOff (s : State) : State :=
  let s := endWhere s (fun x => x.opcode == 0x20 || x.opcode == 0x21 || x.opcode == 0x28 || x.opcode == 0x29 || x.opcode == 0x2A) stABORTED
  { s with lad := { f := s.lad.f, fNext := s.lad.fNext, g := s.lad.g, capPrev := s.lad.capPrev, trigger := s.lad.trigger
                    shaving := s.lad.shaving, pcap := s.lad.pcap, period := s.lad.period, pours := s.lad.pours } }

/-- The host interface is off: what a link-down reset does (R405), if its memory stays, and the loss of the host. -/
def hostifOff (s : State) : State :=
  loseHost { wdOff (hostReset s .linkDown) with hi := { (hostReset s .linkDown).hi with linkUp := false } }

/-- The collector and the black-box controller are off; the MRAM keeps its slots. The hold-up bank charges afresh from the next time
`BBOX` is on (R469, R474). -/
def bboxOff (s : State) : State :=
  { s with pw := { s.pw with holdupOk := false }, fc := {}, bb := { slots := s.bb.slots }, regs := s.regs.map (fun (e : Nat × Region) => (e.1, { e.2 with held := false })) }

/-- `PPATH` is off: hub SRAM is lost with the power path, the tags and the orphan log (R39, R633); `MP_` state of the
port falls back to its fixed half (R461). -/
def ppathOff (s : State) : State :=
  let s := { s with
    pp := { sprues := s.pp.sprues.map (fun (e : Nat × Sprue) => (e.1, { vs := e.2.vs, i := e.2.i, gate := e.2.gate })), cbusV := s.pp.cbusV }
    hi := { linkUp := false }
    mp := { s.mp with state := if s.mp.state = .recovery then .recovery else .startup, pagedOk := false, latch := none, staged := []
                      err := if s.mp.staged.isEmpty then s.mp.err else s.mp.err ||| 0x40 }
    trc := { aonq := s.trc.aonq, aonOvf := s.trc.aonOvf, sleep := s.trc.sleep }
    sv := { halted := s.sv.halted }
    fw := { s.fw with held := [], applied := false, restarting := false, parts := [] }
    site := { tamp := s.site.tamp, raw := s.site.raw, runs := s.site.runs, first := s.site.first, reports := s.site.reports }
    lad := {}, legs := [], legCal := [], tel := [], fabrics := []
    calConvs := tabDrop (· == 64) s.calConvs
    pw := { s.pw with hubLock := false } }
  updGates s

/-- What goes with each domain beside its registers. -/
def blockOff (s : State) (d : Nat) : State :=
  if d = dKEEPA then (if getF s SV_STATUS_A_STATE = 5 then s else setF s SV_STATUS_A_STATE 0)
  else if d = dKEEPB then (if getF s SV_STATUS_B_STATE = 5 then s else setF s SV_STATUS_B_STATE 0)
  else if d = dHOSTIF then hostifOff s
  else if d = dCRUCIBLE then crucibleOff s
  else if d = dLADLE then ladleOff s
  else if d = dTLPHY then tlphyStop s
  else if d = dBBOX then bboxOff s
  else if d = dPPATH then ppathOff s
  else if d = dTRACE then traceStop s
  else if d = dATEST then (match s.atst.cur with
    | some m => endSt { s with atst := { s.atst with cur := none } } m.tag stABORTED
    | none => s)
  else if (d - 10) % 5 = 0 then ctlOff s ((d - 10) / 5)
  else bankOff s d

/-- A domain's transfers that still wait on a fabric are discarded as its port closes (R479 step 1). -/
def dropTransfers (s : State) (d : Nat) : State :=
  if d = dKEEPA then dropXfers s hubFabric (rqSupervisor 0)
  else if d = dKEEPB then dropXfers s hubFabric (rqSupervisor 1)
  else if d = dHOSTIF then dropXfers s hubFabric rqHost
  else if d = dCRUCIBLE then dropXfers s hubFabric rqCrucible
  else if d = dLADLE then dropXfers s hubFabric rqLadle
  else if d = dTRACE then dropXfers s hubFabric rqTrace
  else if d = dATEST then dropXfers s hubFabric rqAtest
  else if d < 10 then s
  else if (d - 10) % 5 = 0 then dropXfers s hubFabric ((d - 10) / 5)
  else forEach ((List.range s.part.flasks).filter (fun f => dFlask f == d)) (fun f s => dropXfers s (f / 16) (f % 16)) s

/-- A domain goes off (R479): its transfers end, the block stops, its bit of `CK_PDON` becomes 0 and its words are reset. -/
def dropDomain (s : State) (d : Nat) : State :=
  if on s d then
    let s := blockOff (dropTransfers s d) d
    let s := { s with pw := { s.pw with
      dom := s.pw.dom &&& ~~~dBit d, switchingOff := tabSet (fun _ => 0) s.pw.switchingOff d 0 } }
    let s := noteCfg s (clearWords s d)
    updConditions (updCk (if d = dPPATH then updGates s else s))
  else { s with pw := { s.pw with switchingOn := s.pw.switchingOn &&& ~~~dBit d } }

/-- A domain and those that depend on it go off, dependants first (R40), each with its sleep marker (R630). -/
def switchOff (s : State) (d reason : Nat) : State :=
  forEach ((startOrder s.part).reverse.filter (fun e => e == d || dependsOn e d)) (fun e s =>
    dropDomain (if on s e then sleepMarker s e reason else s) e) s

/-- Every domain that satisfies `p` goes off in power-down order; reason 0 for a reset that writes no marker. -/
def switchOffAll (s : State) (p : Nat → Bool) (reason : Nat) : State :=
  forEach ((startOrder s.part).reverse.filter p) (fun e s =>
    dropDomain (if reason ≠ 0 ∧ on s e then sleepMarker s e reason else s) e) s

/-! ## Requests (R482) -/

/-- A domain the host switches by `CK_PDREQ`. -/
def onRequest (p : Part) (d : Nat) : Bool := d == dTRACE || d == dATEST || (stepDomains p 11).contains d

/-- A request to switch a domain off: a bank's flasks are held first; a domain that is still switching on goes off when it
has finished (R481). -/
def requestOff (s : State) (d : Nat) : State :=
  let s := { s with pw := { s.pw with offByRequest := s.pw.offByRequest ||| dBit d } }
  let s := forEach ((List.range s.part.flasks).filter (fun f => dFlask f == d && on s d)) (fun f s => flaskHold s f 17) s
  if on s d || (s.pw.switchingOn &&& dBit d) ≠ 0 then
    { s with pw := { s.pw with switchingOff := tabSet (fun _ => 0) s.pw.switchingOff d 1 } }
  else s

/-- The start-up step that switches the domain on has been taken (R484): before it a request only stands in `CK_PDREQ`. -/
def requestable (s : State) (d : Nat) : Bool :=
  if d = dTRACE then s.pw.done.testBit 5 else if d = dATEST then s.pw.done.testBit 4 else s.pw.done.testBit 11

/-- A request to switch a domain on. -/
def requestOn (s : State) (d : Nat) : State :=
  let s := { s with pw := { s.pw with offByRequest := s.pw.offByRequest &&& ~~~dBit d
                                      switchingOff := tabSet (fun _ => 0) s.pw.switchingOff d 0 } }
  if on s d then
    forEach ((List.range s.part.flasks).filter (fun f => dFlask f == d)) (fun f s => setHolds s f ((flask s f).holds.filter (· ≠ 17))) s
  else if requiredOn s d && !onBoot s && requestable s d && !s.pw.switchingOn.getLsbD d then beginOn s d
  else s

/-- A write to `CK_PDREQ`: RWL bits of `TRACE`, `ATEST` and the present banks. A 1 switches on a domain that has gone off since, too
(R482). -/
def pdreqWrite (s : State) (v : Word) : State :=
  if on s dPPATH && !flag s CK_CTRL_LOCK then
    let l := (startOrder s.part).filter (onRequest s.part)
    forEach l (fun d s =>
      let f : Fld := ⟨CK_PDREQ, d, 1⟩
      let was := flag s f
      let s := setFlag s f (v.getLsbD d)
      if v.getLsbD d then (if was && (on s d || s.pw.switchingOn.getLsbD d) then s else requestOn s d)
      else if was then requestOff s d else s) s
  else s

/-- CK_PDREQ_WRITE (R482). -/
def execCkPdreqWrite (v : Word) (s : State) : Host.Outcome State Fault Refusal := .next (noteCfg s (updConditions (pdreqWrite s v)))

/-- DOMAIN_SWITCH_OFF (R479): a requested switch-off completes; a measurement of `ATEST` is waited for (R638), and commands
that came to wait meanwhile switch it on again (R482). -/
def execDomainSwitchOff (d : Nat) (s : State) : Host.Outcome State Fault Refusal :=
  .next (
    let r := tabGet (fun _ => 0) s.pw.switchingOff d
    if r = 0 ∨ !on s d ∨ (d = dATEST ∧ s.atst.cur.isSome) then s
    else
      let s := switchOff s d r
      if d = dATEST ∧ !s.atst.waiting.isEmpty then beginOn (setBitF s ⟨CK_PDREQ, 0, 32⟩ dATEST true) dATEST else s)

/-! ## The reference (R490, R491, R494, R495) -/

/-- Code of a source of module time (R501). -/
def timeSrcCode : TimeSrc → Nat
  | .reference => 0
  | .crystal => 1
  | .rc => 2

/-- Module time changes its source (R494) at a step of the old one, whose value the new one goes on from (R495; DESIGN CHOICE, log 79).
An AON trace record says so (R623). -/
def setTimeSrc (s : State) (x : TimeSrc) : State :=
  if s.pw.timeSrc = x then s
  else
    let t := s.pw.timeFrom + stepFrom s.pw.timeSrc (s.now - s.pw.timeFrom)
    offer { s with now := t, pw := { s.pw with timeSrc := x, timeFrom := t } } 0x60 3 (BitVec.ofNat 32 (timeSrcCode x))

/-- A 1 ms count of the reference against AON RC lies within `n` half per cents of its nominal 25 000 (R490, R491). -/
def countWithin (n count : Nat) : Bool := decide (25000 - 125 * n ≤ count) && decide (count ≤ 25000 + 125 * n)

/-- REFERENCE_QUALIFIED, with the last four 1 ms counts of the reference: with all within ±0.5 %, it is qualified, and module time
takes it as its source, without a step. -/
def execReferenceQualified (counts : List Nat) (s : State) : Host.Outcome State Fault Refusal :=
  .next (
    if s.pw.aon && s.pw.transport != .transport && s.pw.transport != .wake && s.pw.supply != .none &&
        counts.length == 4 && counts.all (countWithin 1) then
      updCk (setTimeSrc { s with pw := { s.pw with refOk := true } } .reference)
    else s)

/-- REFERENCE_LOSS, with the last 1 ms count of the reference and the time since its last edge in ns: a count outside ±2 %, or no
edge for 10 µs. -/
def execReferenceLoss (count : Word) (quiet : Nat) (s : State) : Host.Outcome State Fault Refusal :=
  .next (
    if s.pw.aon && s.pw.refOk && (!countWithin 4 count.toNat || decide (10000 ≤ quiet)) then
      let s := updCk (setTimeSrc { s with pw := { s.pw with refOk := false } } .rc)
      fault s 0x37 3 (srcBlock 0x00D) count
    else s)

/-- CK_TIME_READ (R497): a read of `CK_TIME_LO` latches the upper half of module time. -/
def execCkTimeRead (s : State) : Host.Outcome State Fault Refusal :=
  .next (
    if on s dPPATH then
      let t := stamp s
      let s := { s with pw := { s.pw with latchedTimeHi := hi32 t } }
      wr (wr s CK_TIME_LO (lo32 t)) CK_TIME_HI (hi32 t)
    else s)

end Sys2Proof.Machine
end

