-- ==== Sys2Proof/Machine/Supervisor.lean ====
section
/-! DEFINITION. The supervisor pair: failures, checkpoints, takeover and planned switchover (R516-R528). -/

namespace Sys2Proof.Machine

/-! ## States (R528) -/

def svOff : Nat := 0
def svSTARTING : Nat := 1
def svACTIVE : Nat := 2
def svWAIT : Nat := 3
def svREADY : Nat := 4
def svLOST : Nat := 5

/-- `A_STATE` or `B_STATE`. -/
def svState (s : State) (n : Nat) : Nat := if n = 0 then getF s SV_STATUS_A_STATE else getF s SV_STATUS_B_STATE
def setSvState (s : State) (n v : Nat) : State := if n = 0 then setF s SV_STATUS_A_STATE v else setF s SV_STATUS_B_STATE v

/-- A supervisor's domain. -/
def svDomain (n : Nat) : Nat := if n = 0 then dKEEPA else dKEEPB

def sup (s : State) (n : Nat) : Supervisor := if n = 0 then s.sv.a else s.sv.b
def setSup (s : State) (n : Nat) (x : Supervisor) : State :=
  if n = 0 then { s with sv := { s.sv with a := x } } else { s with sv := { s.sv with b := x } }

/-- The active supervisor. -/
def activeSv (s : State) : Option Nat := [0, 1].find? (fun n => svState s n == svACTIVE && on s (svDomain n) && svRuns s n)

/-- The supervisor that is a standby, in state 3 or 4. -/
def isStandby (s : State) (n : Nat) : Bool := (svState s n == svWAIT || svState s n == svREADY) && on s (svDomain n)
def standbySv (s : State) : Option Nat := [0, 1].find? (isStandby s)

/-- Debug access holds a supervisor halted (R517). -/
def svHalted (s : State) (n : Nat) : Bool := s.sv.halted.testBit n

/-- `STANDBY_OK` (R521): the standby is ready and its latest checked epoch began at most 2 ms ago. -/
def standbyOk (s : State) : Bool :=
  match standbySv s with
  | some n => svState s n == svREADY &&
      (match (sup s n).checked with | some (_, t) => decide (s.now ≤ t + 2000000) | none => false)
  | none => false

/-- `CKPT_AGE`: time since the latest checked epoch began, in 10 µs; at its maximum while there is none. -/
def ckptAge (s : State) : Nat :=
  match (standbySv s).bind (fun n => (sup s n).checked) with
  | some (_, t) => satTo 255 ((s.now - t) / 10000)
  | none => 255

/-- `SV_STATUS` as it reads (R528): its last two fields follow the standby. -/
def svStatus (s : State) : Word := setBits (setBits (rd s SV_STATUS) 30 1 (if standbyOk s then 1 else 0)) 16 8 (ckptAge s)

/-! ## Failure and loss (R518, R524) -/

/-- Failures of a supervisor within the last 60 minutes. -/
def recentFails (s : State) (n : Nat) : List Nat := (sup s n).fails.filter (fun t => decide (s.now < t + 3600000000000))

/-- The supervisor that fails or is lost is the standby, if `b`: a takeover still to come has none to make it (R526). One that has stopped for a
planned switchover runs on. -/
def dropTakeover (s : State) (b : Bool) : State :=
  match s.sv.takeover with
  | some (_, cause) =>
    if b then { s with sv := { s.sv with takeover := none, noneSince := if cause = 4 then none else s.sv.noneSince } } else s
  | none => s

/-- A supervisor in state `st` fails: it is counted and reported; a failed active one is to be taken over. -/
def svFail (s : State) (n cause st : Nat) : State :=
  if st = svOff ∨ st = svLOST then s
  else
    let s := setSup s n { fails := s.now :: recentFails s n }
    let s := incSat s (if n = 0 then SV_COUNTS_FAILS_A else SV_COUNTS_FAILS_B)
    let s := fault s 0x35 2 (srcBlock (2 + n)) (BitVec.ofNat 32 cause)
    if st = svACTIVE then
      { s with sv := { s.sv with
        takeover := if (standbySv s).isSome then some (n, cause) else none, planned := false, noneSince := some s.now } }
    else
      dropTakeover { s with sv := { s.sv with cur := none, last := none, toCheck := false, planned := false } } (st = svWAIT ∨ st = svREADY)

/-- The failed supervisor's domain is switched off and on again, unless this was its third failure in 60 minutes. -/
def svRestart (s : State) (n : Nat) : State :=
  let s := switchOff s (svDomain n) 6
  if (recentFails s n).length < 3 then beginOn s (svDomain n) else s

/-- A running supervisor fails by itself. -/
def svFailNow (s : State) (n cause : Nat) : State :=
  let st := svState s n
  if on s (svDomain n) && st != svOff && st != svLOST then svRestart (svFail s n cause st) n else s

/-- SV_INTERNAL_WDT_EXPIRE (R517): stopped while debug access holds the supervisor halted. -/
def execSvInternalWdtExpire (n : Nat) (s : State) : Host.Outcome State Fault Refusal :=
  .next (if decide (n < 2) && !svHalted s n then svFailNow s n 1 else s)

/-- SUPERVISOR_FAILURE (R518): an uncorrectable error in its instruction or data memory. -/
def execSupervisorFailure (n : Nat) (s : State) : Host.Outcome State Fault Refusal :=
  .next (if n < 2 then svFailNow s n 3 else s)

/-- A supervisor is lost (R524), until the next module reset or AON power-on reset. -/
def svLose (s : State) (n : Nat) : State :=
  if svState s n = svLOST then s
  else
    let s := dropTakeover s (isStandby s n)
    let s := setSup (setSvState s n svLOST) n { sup s n with restartDue := none }
    let s := { s with pw := { s.pw with svLost := s.pw.svLost ||| 2 ^ n } }
    setCause (fault (raise s SV_EVENT 2) 0x36 2 (srcBlock (2 + n)) (BitVec.ofNat 32 n)) 0

/-- SV_LOST: a third failure within 60 minutes, a restart that has not reached state 4 within 5 s, or (`selfTest`) a failed
start-up self-test. -/
def execSvLost (n : Nat) (selfTest : Bool) (s : State) : Host.Outcome State Fault Refusal :=
  .next (
    if on s dPPATH && decide (n < 2) then
      if selfTest && svState s n == svSTARTING then svLose s n
      else if 3 ≤ (recentFails s n).length then svLose s n
      else match (sup s n).restartDue with
        | some t => svLose (advance s t) n
        | none => s
    else s)

/-- A failed supervisor's domain is on again: it starts, with 5 s to reach state 4. -/
def svStarted (s : State) (n : Nat) : State :=
  let s := setSup (setSvState s n svSTARTING) n { sup s n with restartDue := some (s.now + 5000000000) }
  raise s SV_EVENT 4

/-- It has checked the running image: it enters state 3, or becomes active when no supervisor is. -/
def svChecked (s : State) (n : Nat) : State :=
  if (activeSv s).isNone && s.sv.takeover.isNone then
    let s := setSup (setSvState s n svACTIVE) n { sup s n with restartDue := none }
    setF { s with sv := { s.sv with noneSince := none, cur := none, last := none } } SV_STATUS_ACTIVE_SV n
  else setSvState s n svWAIT

/-! ## Checkpoints (R519-R521) -/

/-- The word that commits an epoch. -/
def commitWord (e : Word) : Word := e ^^^ 0xFFFFFFFF

/-- A slot may be taken over from: committed, and its CRC good (R522). -/
def slotGood (x : CkSlot) : Bool := x.commit == commitWord x.epoch && crc32cWords x.body == x.crc

/-- The millisecond the next epoch begins at: this moment when it is one that has had none, else the next. -/
def epochTime (s : State) : Nat := if s.now % 1000000 = 0 ∧ s.sv.began < s.now then s.now else (s.now / 1000000 + 1) * 1000000

/-- CHECKPOINT_EPOCH (R519, R520): at the next millisecond the active supervisor writes an epoch into the standby's half,
header and body; `commit` says whether it is committed before the millisecond ends. A planned switchover follows a
committed epoch (R525). -/
def execCheckpointEpoch (body : List Word) (crc : Word) (commit : Bool) (s : State) : Host.Outcome State Fault Refusal :=
  .next (
    match activeSv s, standbySv s with
    | some a, some b =>
      if svHalted s a || s.sv.cur.isSome || decide (Config.sramScratch / 16 - 17 < body.length) then s
      else
        let s := advance s (epochTime s)
        let i := if s.sv.last = some 0 then 1 else 0
        let e := BitVec.ofNat 32 s.sv.next
        let old := (sup s b).slots.getD i {}
        let x : CkSlot := { epoch := e, body, crc, image := (getF s GL_FWSTAT_RUN_SLOT, rd s (if getF s GL_FWSTAT_RUN_SLOT = 0 then GL_FWVER_A else GL_FWVER_B)),
                            commit := if commit then commitWord e else old.commit, began := s.now }
        let s := xfer (setSup s b { sup s b with slots := (sup s b).slots.set i x }) hubFabric 1 (rqSupervisor a) (4 * body.length)
        let s := { s with sv := { s.sv with next := (s.sv.next + 1) % 2 ^ 32, began := s.now } }
        if commit then
          let s := wr { s with sv := { s.sv with last := some i, toCheck := true } } SV_CKPT e
          if s.sv.planned then
            { s with sv := { s.sv with planned := false, takeover := some (a, 4), noneSince := some s.now } }
          else s
        else { s with sv := { s.sv with cur := some i } }
    | _, _ => s)

/-- CKPT_LATE (R520): the next millisecond begins with the epoch uncommitted. -/
def execCkptLate (s : State) : Host.Outcome State Fault Refusal :=
  .next (
    match (if on s dPPATH then s.sv.cur else none) with
    | some _ =>
      let s := advance s (s.sv.began + 1000000)
      raise (incSat { s with sv := { s.sv with cur := none } } SV_CKERR_CKPT_LATE) SV_EVENT 8
    | none => s)

/-- CHECKPOINT_CHECK (R521): the standby checks the CRC of the latest committed epoch. -/
def execCheckpointCheck (s : State) : Host.Outcome State Fault Refusal :=
  .next (
    match standbySv s, s.sv.last with
    | some b, some i =>
      if s.sv.toCheck then
        let x := (sup s b).slots.getD i {}
        let s := { s with sv := { s.sv with toCheck := false } }
        if crc32cWords x.body = x.crc then setSup s b { sup s b with checked := some (x.epoch, x.began) }
        else incSat s SV_CKERR_CKPT_BAD
      else s
    | _, _ => s)

/-- STANDBY_READY (R524): the first epoch of a supervisor in state 3 has passed its check. -/
def execStandbyReady (s : State) : Host.Outcome State Fault Refusal :=
  .next (
    match standbySv s with
    | some b =>
      if svState s b = svWAIT ∧ (sup s b).checked.isSome then
        raise (setSup (setSvState s b svREADY) b { sup s b with restartDue := none }) SV_EVENT 16
      else s
    | none => s)

/-! ## Takeover (R522, R525) -/

/-- `a` is later than `b` under serial-number arithmetic. -/
def epochLater (a b : Word) : Bool := let d := (a - b).toNat; decide (0 < d) && decide (d < 2 ^ 31)

/-- The slot a takeover loads: the later good one. -/
def takeoverSlot (l : List CkSlot) : Option CkSlot :=
  (l.filter slotGood).foldl (fun (m : Option CkSlot) x => match m with
    | some y => if epochLater x.epoch y.epoch then some x else some y
    | none => some x) none

/-- SUPERVISOR_TAKEOVER: the standby becomes active. After a planned switchover the former active enters state 3. -/
def execSupervisorTakeover (s : State) : Host.Outcome State Fault Refusal :=
  .next (
    match s.sv.takeover, standbySv s with
    | some (n, cause), some b =>
      if b = n ∨ svHalted s n then s
      else
        let e := match takeoverSlot (sup s b).slots with | some x => x.epoch | none => 0
        let s := if cause = 4 then setSup (setSvState s n svWAIT) n { sup s n with slots := [{}, {}], checked := none } else s
        let s := setSup (setSvState s b svACTIVE) b { sup s b with checked := none, restartDue := none }
        let s := setF s SV_STATUS_ACTIVE_SV b
        let s := { s with sv := { s.sv with takeover := none, noneSince := none, planned := false, cur := none, last := none, toCheck := false } }
        let s := raise (incSat s SV_COUNTS_SWITCHES) SV_EVENT 1
        let s := wr (wr s SV_SWTIME_LO (lo32 (stamp s))) SV_SWTIME_HI (hi32 (stamp s))
        let s := wr s SV_CAUSE (BitVec.ofNat 32 (cause * 2 ^ 28 + n * 2 ^ 27))
        let s := logOther s 0x06 [rd s SV_CAUSE, svStatus s, e]
        offer s 0x70 (if cause = 4 then 1 else 0) (rd s SV_CAUSE)
    | _, _ => s)

/-- A write to `SV_CTRL` (R525): `LOCK`, `SWAP_EN` while unlocked, and the request of a planned switchover. -/
def svCtrlWrite (s : State) (v : Word) : State :=
  if on s dPPATH then
    let ok := flag s SV_CTRL_SWAP_EN && standbyOk s && bits v 0 16 == 0xC3A5
    let s := if flag s SV_CTRL_LOCK then s else setFlag s SV_CTRL_SWAP_EN (v.getLsbD 16)
    let s := if v.getLsbD 31 then setFlag s SV_CTRL_LOCK true else s
    if ok then { s with sv := { s.sv with planned := true } } else s
  else s

/-- PLANNED_SWITCHOVER: a write to `SV_CTRL` with 0xC3A5 in `SWAP`. -/
def execPlannedSwitchover (v : Word) (s : State) : Host.Outcome State Fault Refusal :=
  .next (noteCfg s (svCtrlWrite s (setBits v 0 16 0xC3A5)))

/-! ## Loss of a domain (R480, R518) -/

/-- The source of a message from the domain that `d` requires. -/
def requiredSrc (d : Nat) : Nat :=
  match requires d with
  | none => srcBlock 0x00D
  | some r => if r = dPPATH then srcBlock 0x00F else if r = dCRUCIBLE then srcBlock 0x004 else srcRegion ((r - 10) / 5) 0

/-- DOMAIN_LOSS (R480): a domain is off without an order; the domain it requires reports it. A supervisor's is a failure of
that supervisor. -/
def execDomainLoss (d : Nat) (s : State) : Host.Outcome State Fault Refusal :=
  .next (
    if on s d then
      let n := if d = dKEEPA then 0 else 1
      let st := svState s n
      let s := lostBank (switchOff s d 5) d
      let s := fault s 0x26 2 (requiredSrc d) (BitVec.ofNat 32 d)
      if d = dKEEPA ∨ d = dKEEPB then svRestart (svFail s n 2 st) n else s
    else s)

end Sys2Proof.Machine
end

