-- ==== Sys2Proof/Machine/Commands.lean ====
section
/-! DEFINITION. Commands of the hub itself: IDENTIFY, EVENT_ROUTE and CHAN_READ (R415, R426, R430), captures (R404, R424,
R425), and the heartbeat (R401, R432). -/

namespace Sys2Proof.Machine

/-- IDENTIFY (R415). -/
def execIdentify (t : Nat) (s : State) : Host.Outcome State Fault Refusal :=
  .next (applyCmd s t 0x02 (fun _ s => endTag s t stSUCCESS (rd s GL_IDENT) (rd s GL_TOPOLOGY)))

/-- EVENT_ROUTE (R430): the result is the routing word before. -/
def execEventRoute (t : Nat) (s : State) : Host.Outcome State Fault Refusal :=
  .next (applyCmd s t 0x03 (fun x s =>
    let h := s.hi
    let w := x.param 0
    endTag { s with hi := { h with routeBlock := bits w 0 2, routeChan := bits w 2 2, routeTl := bits w 4 2 } } t stSUCCESS
      (BitVec.ofNat 32 (h.routeBlock + 4 * h.routeChan + 16 * h.routeTl)) 0))

/-- The content of a heartbeat record (R432) for second `sec`. -/
def heartbeatRecord (s : State) (sec : Nat) : Record :=
  let b (v : Bool) (i : Nat) : Nat := if v then 2 ^ i else 0
  { rtype := 2, time := sec * 1000000000
    hdr := getF s GL_TOPOLOGY_REGIONS_ONLINE * 2 ^ 16 + getF s SV_STATUS_ACTIVE_SV * 2 ^ 15 + b (standbyOk s) 14 +
      b (flag s FC_STATUS_REPLACE) 13 + b (flag s PP_STATUS_SAFE) 12 + b (quarantine s) 11 + b s.fw.probEnd.isSome 10
    content := [BitVec.ofNat 32 sec, rd s LD_EPOCH, pair16 (getF s WD_COUNTS_HRST_COUNT) (allTags s).length] }

/-- The whole second a heartbeat is for: this moment's if it has had none, else the next. -/
def heartbeatSecond (s : State) : Nat :=
  if s.now % 1000000000 = 0 ∧ s.hi.hbSecond < s.now / 1000000000 then s.now / 1000000000 else s.now / 1000000000 + 1

/-- HEARTBEAT (R401): at a whole second while `HB_EN` is 1. -/
def execHeartbeat (s : State) : Host.Outcome State Fault Refusal :=
  .next (
    if on s dHOSTIF && flag s HI_CTRL_HB_EN then
      let sec := heartbeatSecond s
      let s := advance s (sec * 1000000000)
      stage { s with hi := { s.hi with hbSecond := sec } } (getF s HI_CTRL_HB_RING) (heartbeatRecord s sec)
    else s)

/-! ## CHAN_READ (R426) -/

/-- CHAN_READ waits for the first snapshot after its start. -/
def execChanRead (t : Nat) (s : State) : Host.Outcome State Fault Refusal :=
  .next (applyCmd s t 0x13 (fun _ s => pendTag { s with hi := { s.hi with chanReads := s.hi.chanReads ++ [t] } } t))

/-- The 128 bytes of a channel. -/
def chanBlock (s : State) (c : Nat) : List Word :=
  (List.range 16).map (fun i => rd s (CH_CFG c + 4 * i)) ++ (List.range 8).map (fun i => rd s (MS_ACC_LO c + 4 * i)) ++
    (List.range 8).map (fun i => rd s (ES_SOC c + 4 * i))

/-- A waiting CHAN_READ is served at a snapshot. -/
def chanReadServe (s : State) (t : Nat) : State :=
  match getTag s t with
  | some x =>
    if x.state = .running ∧ x.opcode = 0x13 then
      if targetsOnline s x then
        giveResult s t (lo32 (s.snap / 1000000)) (BitVec.ofNat 32 (selCount (x.word 1))) ((selRange (x.word 1)).flatMap (chanBlock s))
      else endSt s t stREGION_OFFLINE
    else s
  | none => s
def chanReads (s : State) : State :=
  forEach s.hi.chanReads (fun t s => chanReadServe s t) { s with hi := { s.hi with chanReads := [] } }

/-! ## Captures (R404, R424, R425) -/

/-- Pages of a capture's result. -/
def capturePages (n : Nat) : Nat := (64 + 16 * n + 4095) / 4096

/-- Replace a capture by its tag. -/
def setCapture (s : State) (x : Capture) : State :=
  { s with hi := { s.hi with captures := s.hi.captures.map (fun y => if y.tag = x.tag then x else y) } }

/-- Sampling begins: sample 0 is taken at the next tick. A trigger that is an edge counts as one during the capture. -/
def captureStart (s : State) (x : Capture) : State :=
  setCapture s { x with
    state := .sampling, skip := 0, taken := 0, deadline := none
    wasRun := x.trig == 2 || (chan s x.chan).state == .run
    wasDroop := x.trig != 3 && droopOn s }

/-- A capture that has its pages awaits its trigger; one at once, or at a time already past, begins (R425). -/
def captureArm (s : State) (x : Capture) (timeout : Nat) : State :=
  let y := { x with state := .armed, deadline := if timeout = 0 then none else some (s.now + timeout * 1000000000) }
  let y := { y with edge := captureEdgeSeen s y }
  let s := setCapture s y
  if y.trig = 0 ∨ (y.trig = 1 ∧ y.trigTime < s.now) then captureStart s y else s

/-- Reserve a capture's pages and arm it. -/
def captureReserve (s : State) (x : Capture) : State :=
  let n := capturePages x.nsamp
  let w : Nat := match getTag s x.tag with | some y => bits (y.param 5) 0 16 | none => 0
  let s := modTag { s with hi := { s.hi with capFree := s.hi.capFree - n } } x.tag (fun y => { y with pages := n })
  captureArm s x w

/-- The capture a descriptor asks for. -/
def captureOf (t : Nat) (x : Tag) : Capture :=
  { tag := t, chan := selFirst (x.word 1), nsamp := (x.param 0).toNat, dec := bits (x.param 1) 0 8, trig := low2 (x.param 2)
    trigTime := (x.param 3).toNat + 2 ^ 32 * (x.param 4).toNat, deadline := none }

/-- CAPTURE (R404, R422, R424): one at a time on a channel; it waits while its pages are not free or others wait. -/
def execCapture (t : Nat) (s : State) : Host.Outcome State Fault Refusal :=
  .next (applyCmd s t 0x1A (fun x s =>
    let l := s.hi.captures.filter (fun y => captureLive s y)
    let c := captureOf t x
    if l.any (fun y => y.chan == c.chan && !y.full) then endSt s t stBUSY
    else
      let s := pendTag { s with hi := { s.hi with captures := l ++ [c] } } t
      if l.any (fun y => y.state == .waiting) || decide (s.hi.capFree < capturePages c.nsamp) then raiseHi s eCAP_WAIT
      else captureReserve s c))

/-- Fetch order of a capture's command. -/
def captureOrder (s : State) (x : Capture) : Nat := match getTag s x.tag with | some y => y.order | none => 0

/-- The waiting capture that was fetched first. -/
def firstWaiting (s : State) : Option Capture :=
  (s.hi.captures.filter (fun y => captureLive s y && y.state == .waiting)).foldl (fun (m : Option Capture) y => match m with
    | some z => if captureOrder s y < captureOrder s z then some y else some z
    | none => some y) none

/-- CAPTURE_PAGES_RESERVED (R404): the waiting capture fetched first has its pages. -/
def execCapturePagesReserved (s : State) : Host.Outcome State Fault Refusal :=
  .next (
    match firstWaiting s with
    | some x => if capturePages x.nsamp ≤ s.hi.capFree then captureReserve s x else s
    | none => s)

/-- The armed capture of a command. -/
def armedCapture (s : State) (t : Nat) : Option Capture :=
  s.hi.captures.find? (fun x => x.tag == t && captureLive s x && x.state == .armed)

/-- CAPTURE_TRIGGER (R424): a module time moves to the tick before the first at or after it; the other kinds are edges of
the channel's state and of the droop response. -/
def execCaptureTrigger (t : Nat) (s : State) : Host.Outcome State Fault Refusal :=
  .next (
    match armedCapture s t with
    | some x =>
      match x.trig with
      | 1 => captureStart (advance s ((x.trigTime + 999) / 1000 * 1000 - 1000)) x
      | 2 => if x.edge && (chan s x.chan).state != .run then captureStart s x else s
      | _ => if x.edge && droopOn s then captureStart s x else s
    | none => s)

/-- CAPTURE_TRIGGER_TIMEOUT (R425): status 0x0F with no data, the pages released. -/
def execCaptureTriggerTimeout (t : Nat) (s : State) : Host.Outcome State Fault Refusal :=
  .next (
    match armedCapture s t with
    | some x =>
      match x.deadline with
      | some d =>
        let s := advance s d
        let n : Nat := match getTag s t with | some y => y.pages | none => 0
        let s := modTag s t (fun y => { y with pages := 0 })
        let s := { s with hi := { s.hi with capFree := s.hi.capFree + n, captures := s.hi.captures.filter (fun y => y.tag != t) } }
        endSt s t stTIMEOUT
      | none => s
    | none => s)

/-- A capture that samples has seen its channel beyond the converter's range in the millisecond that ends (R424); one that has taken its
last sample is over. -/
def captureOvr (s : State) : State :=
  let s := forEach s.hi.captures (fun (x : Capture) s =>
    if x.state = .sampling ∧ (chan s x.chan).cv.ovr then
      let (y, s) := captureFlags s x 2
      setCapture s y
    else s) s
  { s with hi := { s.hi with captures := s.hi.captures.filter (fun y => y.state != .sampling || !y.full) } }

end Sys2Proof.Machine
end

