-- ==== Sys2Proof/Machine/Site.lean ====
section
/-! DEFINITION. Site protection: tamper inputs, brick removal, shunt integrity, CBUS insulation, energy counters and status
lamps (R594-R620). -/

namespace Sys2Proof.Machine

/-! ## Tamper inputs (R594-R598) -/

/-- `TAMP_IN` and `TFIRST` follow the AON block. -/
def updTamp (s : State) : State :=
  if on s dPPATH then setF (setF s TM_STATUS_TAMP_IN s.site.tamp) TM_STATUS_TFIRST s.site.first else s

/-- One input at a sample: armed at its active level, it latches and is to be reported. -/
def tampInput (s : State) (n : Nat) : State :=
  let level := s.site.tamp.testBit n
  if bitF s TM_TAMPCFG_ARMED n && bitF s TM_TAMPCFG_LEVEL n == level && !bitF s TM_TAMPLAT_LATCHED n then
    let s := if getF s TM_TAMPLAT_LATCHED = 0 then
        { wr (wr s TM_TTIME_LO (lo32 (stamp s))) TM_TTIME_HI (hi32 (stamp s)) with site := { s.site with first := n } }
      else s
    let s := setBitF s TM_TAMPLAT_LATCHED n true
    let r : TamperReport := ⟨n, level, !on s dPPATH, stamp s⟩
    offer { s with site := { s.site with reports := s.site.reports ++ [r] } } 0x60 1 (rd s TM_TAMPLAT)
  else s

/-- A sample of all eight inputs. -/
def tampSample (s : State) : State := updTamp (forEach (List.range 8) (fun n s => tampInput s n) s)

/-- The next of the 1 024 samples a second (R594). -/
def tampTime (s : State) : Nat := ((s.now * 1024 / 1000000000 + 1) * 1000000000 + 1023) / 1024

/-- For how many samples input `n` has had its level, with a sample of levels `pins`; its debounced level after 10. -/
def tampRun (x : Site) (pins n : Nat) : Nat := if pins.testBit n = x.raw.testBit n then min 10 (x.runs.getD n 0 + 1) else 1
def debounced (x : Site) (pins n : Nat) : Bool := if tampRun x pins n = 10 then pins.testBit n else x.tamp.testBit n

/-- A sample of the pins is debounced (R594). -/
def debounce (x : Site) (pins : Nat) : Site :=
  { x with tamp := (List.range 8).foldl (fun v n => if debounced x pins n then v + 2 ^ n else v) 0, raw := pins % 256
           runs := (List.range 8).map (tampRun x pins) }

/-- TAMPER_LATCH (R594, R595): the next sample, with the levels of `TAMP7` to `TAMP0` at it. -/
def execTamperLatch (pins : Nat) (s : State) : Host.Outcome State Fault Refusal :=
  .next (
    if s.pw.aon then
      let s := advance s (tampTime s)
      tampSample { s with site := debounce s.site pins }
    else s)

/-- TAMPER_REPORT (R598): every latch not yet reported, once `BBOX` and `PPATH` are on. -/
def execTamperReport (s : State) : Host.Outcome State Fault Refusal :=
  .next (
    if on s dBBOX && on s dPPATH then
      forEach s.site.reports (fun (r : TamperReport) s =>
        let ctx := r.input + (if r.level then 8 else 0) + (if r.off then 16 else 0)
        let s := fault s 0x3C 2 (srcBlock 0x00C) (BitVec.ofNat 32 ctx)
        let s := logPush s { itype := 0x0C, time := r.time, content :=
          [BitVec.ofNat 32 (getF s TM_TAMPLAT_LATCHED + r.input * 256), rd s CK_CAUSE] }
        raise s TM_EVENT 1) { s with site := { s.site with reports := [] } }
    else s)

/-- TAMPER_CLEAR (R596): a write to `TM_TAMPLAT`. -/
def tampClear (s : State) (v : Word) : State :=
  if on s dPPATH then setF s TM_TAMPLAT_LATCHED (getF s TM_TAMPLAT_LATCHED &&& (255 - bits v 0 8)) else s
def execTamperClear (v : Word) (s : State) : Host.Outcome State Fault Refusal := .next (tampClear s v)

/-- An input is armed and at its active level. -/
def tampActive (s : State) (n : Nat) : Bool := bitF s TM_TAMPCFG_ARMED n && bitF s TM_TAMPCFG_LEVEL n == s.site.tamp.testBit n

/-- A write to `TM_TAMPCFG` (R597); an input that it arms at its active level latches at once (R595), any other at its next sample. -/
def tampCfgWrite (s : State) (v : Word) : State :=
  if on s dPPATH then
    let u := if flag s TM_TAMPCFG_TLOCK then s
      else setF (setF s TM_TAMPCFG_LEVEL (bits v 8 8)) TM_TAMPCFG_ARMED (bits v 0 8)
    let u := if v.getLsbD 31 then setFlag u TM_TAMPCFG_TLOCK true else u
    updTamp (forEach ((List.range 8).filter (fun n => !tampActive s n)) (fun n u => tampInput u n) u)
  else s

/-- TAMPER_ARM (R597, R418). -/
def execTamperArm (t : Nat) (s : State) : Host.Outcome State Fault Refusal :=
  .next (
    match startedAs s t 0x51 with
    | some x =>
      if flag s TM_TAMPCFG_TLOCK then endSt s t stLOCKED
      else endSt (noteCfg s (tampCfgWrite s ((x.param 0) &&& 0xFFFF))) t stSUCCESS
    | none => s)

/-! ## Brick removal (R599-R601) -/

def removal (s : State) (c : Nat) : Removal := tabGet (fun _ => {}) s.site.rem c
def setRemoval (s : State) (c : Nat) (x : Removal) : State :=
  { s with site := { s.site with rem := tabSet (fun _ => {}) s.site.rem c x } }

/-- Removal detection at a snapshot. -/
def removalStep (s : State) (c : Nat) : State :=
  let x := chan s c
  let r := removal s c
  let v := x.cv.vb
  let small := decide (x.cv.im.natAbs < 50)
  let above := decide (10 * getF s (CH_VTRIP_VTRIP_LO c) < v)
  let r := { r with upSince := if r.removed && above then r.upSince <|> some s.now else none }
  if flag s TM_CTRL_REM_EN && (x.state == .run || x.state == .hold) then
    let step := r.step.filter (fun _ => decide (v < 2000) && small)
    let step := match step, r.prev with
      | none, some (pv, big) => if decide (5 * v < 4 * pv) && small then some (s.now, pv / 10, big) else none
      | st, _ => st
    setRemoval s c { r with step, prev := some (v, !small) }
  else setRemoval s c { r with step := none, prev := none }

/-- REMOVAL_DECLARED (R600): every snapshot of the 100 ms after the step has kept the conditions. -/
def execRemovalDeclared (c : Nat) (s : State) : Host.Outcome State Fault Refusal :=
  .next (
    match (if flaskOn s (chFlask c) && on s dPPATH then (removal s c).step else none) with
    | some (t, v, big) =>
      if t + 100000000 ≤ s.snap then
        let s := setRemoval s c { removal s c with step := none, removed := true, upSince := none }
        let s := fault s 0x0B 2 (srcChan c 0) (BitVec.ofNat 32 (v + (if big then 65536 else 0)))
        raise (incSat s TM_COUNTS_REMOVALS) TM_EVENT 2
      else s
    | none => s)

/-- REFIT (R601). -/
def execRefit (c : Nat) (s : State) : Host.Outcome State Fault Refusal :=
  .next (
    match (if on s dPPATH then (removal s c).upSince else none) with
    | some t =>
      if t + 1000000000 ≤ s.snap then
        raise (setRemoval s c { removal s c with removed := false, upSince := none }) TM_EVENT 4
      else s
    | none => s)

/-! ## Shunt integrity (R602, R603) -/

/-- A millisecond of a window: the mean of u in mV and the charge of the millisecond join it. -/
def shuntMs (s : State) (c : Nat) (dq : Rat) : State :=
  if getF s TM_SHCHK_R_STAGE = 0 then s
  else
    let y := shc s c
    if y.ticks = 0 then (if y.ok then setShc s c { y with ok := false } else s)
    else
      let n : Rat := (periodSteps s (chFlask c) * y.ticks : Nat)
      let u := (y.sumA : Rat) / n * (10 * s.pp.cbusMs : Nat) - (y.sumB : Rat) / n * ((chan s c).cv.vb : Nat)
      setShc s c { y with sumA := 0, sumB := 0, ticks := 0, u := y.u + u, ms := y.ms + 1, q := y.q + dq }

/-- The window of a channel ends; one that a change of `R_STAGE` or of the channel's bank has begun late is no window of 1 s. -/
def shuntWindow (s : State) (c : Nat) : State :=
  let y := shc s c
  let fresh (run : Nat) : ShuntCheck := { ok := (chan s c).state == .run, run }
  let pred := y.u / (y.ms : Nat) * 100 / (getF s TM_SHCHK_R_STAGE : Nat)
  let mag := if pred < 0 then -pred else pred
  if y.ok && decide (y.ms = 1000) && decide ((10 : Rat) ≤ mag) then
    let diff := y.q - pred
    let diff := if diff < 0 then -diff else diff
    let allow := (getF s TM_SHCHK_SC_ABS : Rat) / 10 + (getF s TM_SHCHK_SC_PCT : Rat) / 100 * mag
    if allow < diff then
      let s := setShc s c (fresh (satTo 11 (y.run + 1)))
      if y.run + 1 = 10 then
        let ten (v : Rat) : Nat := toBits 16 (clampI (-32768) 32767 (roundRat (100 * v)))
        let s := fault s 0x0C 2 (srcChan c 1) (BitVec.ofNat 32 (ten pred * 65536 + ten y.q))
        raise (incSat s TM_COUNTS_SC_MISMATCH) TM_EVENT 8
      else s
    else setShc s c (fresh 0)
  else setShc s c (fresh y.run)

/-- The snapshot just taken is that of a whole module-time second, whose windows have not been ended yet. -/
def windowDue (s : State) : Bool := s.snap % 1000000000 == 0 && s.site.shcAt != s.snap / 1000000000

/-- SHUNT_CHECK_WINDOW (R602, R603): a module-time second ends the window of every channel. -/
def execShuntCheckWindow (s : State) : Host.Outcome State Fault Refusal :=
  .next (
    if on s dPPATH && getF s TM_SHCHK_R_STAGE != 0 && windowDue s then
      forEach (liveChans s) (fun c s => shuntWindow s c) { s with site := { s.site with shcAt := s.snap / 1000000000 } }
    else s)

/-! ## CBUS insulation (R605-R610) -/

/-- `INS_MODE`, 3 treated as 0. -/
def insMode (s : State) : Nat := let m := getF s TM_INSCFG_INS_MODE; if m = 3 then 0 else m
/-- `INS_HALF` and `INS_RC` within their ranges. -/
def insHalf (s : State) : Nat := max 1 (min 30 (getF s TM_INSCFG_INS_HALF))
def insRc (s : State) : Nat := max 100 (min 2000 (getF s TM_INSCFG_INS_RC))

/-- The monitor starts from its first half-period, with no results (R610). -/
def insRestart (s : State) : State :=
  let s := setFlag (setFlag s TM_STATUS_INS_ALARM false) TM_STATUS_INS_WARN false
  wr (setFlag (setFlag { s with site := { s.site with ins := { start := s.now } } } TM_STATUS_UNDER false) TM_STATUS_OVER false) TM_INS 0

/-- What `INSM_INJ` drives, mV: ±10 V in alternate half-periods while the monitor injects, beginning with +10 V; else it is
high-impedance (R606). -/
def insDrive (s : State) : Option Int :=
  if on s dPPATH && insMode s == 1 then some (if s.site.ins.neg then -10000 else 10000) else none

/-- A write to `TM_INSCFG`: it restarts the monitor when it changes `INS_HALF` or `INS_RC` or takes the mode from or to off (R610). -/
def insCfgWrite (s : State) (v : Word) : State :=
  if on s dPPATH && !flag s TM_CTRL_LOCK then
    let t := wr s TM_INSCFG (v &&& 0xC0FFFFFF)
    if bits (rd t TM_INSCFG) 0 24 = bits (rd s TM_INSCFG) 0 24 ∧ (insMode t = 0 ↔ insMode s = 0) then t else insRestart t
  else s

/-- The insulation resistance in kΩ, rounded: a conductance of 0 or below lies beyond every limit. -/
def insResult (s : State) (d dj : Int) : Nat × State :=
  if d = 0 ∧ dj = 0 then let (n, s) := draw s; (Config.insOpen n, s)
  else if d = 0 then (0, s)
  else
    let g : Rat := ((dj - d : Int) : Rat) / ((insRc s : Nat) * (d : Rat)) - 1 / 10000
    (if g ≤ 0 then 10001 else (roundRat (1 / g)).toNat, s)

/-- The median of three results. -/
def median3 (a b c : Nat) : Nat := max (min a b) (min (max a b) c)

/-- A threshold's begin and end (R609): `INS_KOHM` at or below it, and at 125 % of it. -/
def insThreshold (s : State) (k thr : Nat) (f : Fld) (ev : Nat) (act : State → State) : State :=
  if flag s f then (if 5 * thr ≤ 4 * k then raise (setFlag s f false) TM_EVENT 0x40 else s)
  else if k ≤ thr then act (raise (setFlag s f true) TM_EVENT ev)
  else s

/-- A result is taken: the median of the latest three is reported and judged. -/
def insReport (s : State) (r : Nat) : State :=
  let l := (r :: s.site.ins.results).take 3
  let s := { s with site := { s.site with ins := { s.site.ins with results := l } } }
  match l with
  | [a, b, c] =>
    let m := median3 a b c
    let k := max 10 (min 10000 m)
    let s := setFlag (setFlag (setF s TM_INS_INS_KOHM k) TM_STATUS_UNDER (decide (m < 10))) TM_STATUS_OVER (decide (10000 < m))
    let s := insThreshold s k (getF s TM_INSTH_INS_WARN) TM_STATUS_INS_WARN 0x10 id
    insThreshold s k (getF s TM_INSTH_INS_ALARM) TM_STATUS_INS_ALARM 0x20
      (fun s => fault s 0x3D 2 (srcBlock 0x00C) (BitVec.ofNat 32 (k + (if m < 10 then 65536 else 0))))
  | _ => s

/-- INSULATION_HALF_PERIOD (R607), with the means of the third quarter and the last quarter and the drive, in 0.1 mV. -/
def execInsulationHalfPeriod (a v j : Int) (s : State) : Host.Outcome State Fault Refusal :=
  .next (
    if on s dPPATH && insMode s != 0 then
      let x := s.site.ins
      let s := advance s (x.start + insHalf s * 1000000000)
      let s := { s with site := { s.site with ins := { x with start := s.now, neg := !x.neg, prev := some (v, j), lo := none, hi := 0, droop := droopOn s } } }
      match x.prev with
      | none => s
      | some (vp, jp) =>
        let d : Int := (v - vp).natAbs
        let s := setI s TM_INS_INS_VMEAN (divRound (v + vp) 200)
        if insMode s = 1 then
          let span := x.hi - x.lo.getD x.hi
          if d < 50 * (v - a).natAbs ∨ 100 < span ∨ x.droop then raise s TM_EVENT 0x80
          else
            let (r, s) := insResult s d ((j - jp).natAbs)
            insReport s r
        else s
    else s)

/-- A millisecond of the half-period. -/
def insMs (s : State) : State :=
  if insMode s = 0 then s
  else
    let x := s.site.ins
    { s with site := { s.site with ins := { x with
      lo := some (min (x.lo.getD s.pp.cbusMs) s.pp.cbusMs), hi := max x.hi s.pp.cbusMs, droop := x.droop || droopOn s } } }

/-! ## Energy counters (R612-R615) -/

/-- Add an energy in mWh to a counter: leg `l`, positive to IN, negative to OUT; the remainder is carried. -/
def addEnergy (s : State) (l : Nat) (e : Rat) : State :=
  let k := if 0 ≤ e then 2 * l else 2 * l + 1
  let x := s.site.en
  let v := tabGet (fun _ => 0) x.rem k + (if 0 ≤ e then e else -e)
  let n := v.floor.toNat
  { s with site := { s.site with en := { x with
    cnt := tabSet (fun _ => 0) x.cnt k ((tabGet (fun _ => 0) x.cnt k + n) % 2 ^ 64)
    rem := tabSet (fun _ => 0) x.rem k (v - (n : Nat)) } } }

/-- The counters in order, low word first. -/
def energyWords (s : State) : List Word :=
  (List.range 28).flatMap (fun k => let n := tabGet (fun _ => 0) s.site.en.cnt k; [lo32 n, hi32 n])

/-- Content of an energy ingot of a cause. -/
def energyContent (s : State) (cause : Nat) : List Word := BitVec.ofNat 32 (2 ^ 24 + cause) :: 0 :: energyWords s

/-- ENERGY_INGOT (R613): every `EN_INT` minutes of module time. -/
def execEnergyIngot (s : State) : Host.Outcome State Fault Refusal :=
  .next (
    if on s dPPATH then
      let n := getF s TM_ENCFG_EN_INT
      let p := (if n = 0 then 15 else n) * 60000000000
      let s := advance s ((s.now / p + 1) * p)
      logOther s 0x08 (energyContent s 0)
    else s)

/-- The counters are restored when `PPATH` starts (R614). -/
def energyRestore (s : State) : State :=
  let last := (s.bb.slots.filterMap (fun e => match readPair e.2.a e.2.b with
    | .copy c _ => if iType c = 0x08 then some c else none
    | _ => none)).foldl (fun (m : Option (List Word)) c => match m with
      | some d => if iSeq d < iSeq c then some c else some d
      | none => some c) none
  match last with
  | none => setF { s with site := { s.site with en := {} } } TM_ENCFG_RESTORE 0
  | some c =>
    let v (k : Nat) : Nat := (iWord c (2 + 2 * k)).toNat + 2 ^ 32 * (iWord c (3 + 2 * k)).toNat
    let cnt := (List.range 28).foldl (fun (t : Tab Nat) k => tabSet (fun _ => 0) t k (v k)) []
    let cause := bits (iWord c 0) 0 2
    setF { s with site := { s.site with en := { cnt, restored := BitVec.ofNat 32 (iSeq c) } } } TM_ENCFG_RESTORE
      (if cause = 0 ∨ cause = 3 then 1 else 2)

/-- ENERGY_READ (R615): the command waits for the next snapshot. -/
def execEnergyRead (t : Nat) (s : State) : Host.Outcome State Fault Refusal :=
  .next (
    match startedAs s t 0x50 with
    | some _ => pendTag { s with site := { s.site with en := { s.site.en with reads := s.site.en.reads ++ [t] } } } t
    | none => s)

/-- A waiting ENERGY_READ at a snapshot: the ingot of cause 3 and the 512 bytes. -/
def energyReply (s : State) (t : Nat) : State :=
  let s := writeNow s 0x08 (energyContent s 3)
  let head := [BitVec.ofNat 32 (2 ^ 24 + 14), BitVec.ofNat 32 (getF s TM_ENCFG_RESTORE), lo32 s.snap, hi32 s.snap,
    rd s FC_BBSEQ, s.site.en.restored, 0, 0]
  giveResult s t 0 0 (head ++ energyWords s ++ List.replicate 64 0)
def energyReplies (s : State) : State :=
  forEach s.site.en.reads (fun t s => energyReply s t) { s with site := { s.site with en := { s.site.en with reads := [] } } }

/-! ## Status lamps (R616-R619) -/

/-- The active sprue's current lies within one search step of its present limit. -/
def nearLimit (s : State) : Bool :=
  match activeSprue s with
  | some n => decide (((sprue s n).i - getF s (SP_LIMIT_LIMIT n)).natAbs ≤ spStep s n)
  | none => false

/-- A lamp condition holds now. -/
def lampTrue (s : State) (c : Nat) : Bool :=
  let runs := (liveChans s).filter (fun c => (chan s c).state == .run)
  match c with
  | 0 => runs.any (fun c => decide (50 ≤ (chan s c).cv.im))
  | 1 => !runs.isEmpty && runs.all (fun c => (chan s c).ph.full && ((chan s c).ph.phase == 5 || (chan s c).ph.phase == 6))
  | 2 => flag s FC_STATUS_FF_VALID || ppSafe s
  | 3 => (liveChans s).any (fun c =>
      let x := chan s c
      x.state != .absent && (x.win.cwin == 0 || x.win.cwin == 4 || x.win.cwin == 5 || x.win.dwin != 0))
  | 4 => s.lad.shaving || nearLimit s
  | 5 => s.pw.transport == .drain || s.pw.transport == .shutdown
  | 6 => flag s FC_STATUS_REPLACE
  | 7 => s.pw.revival
  | 8 => armed s && (activeSprue s).isNone
  | 9 => getF s TM_TAMPLAT_LATCHED != 0
  | 10 => flag s TM_STATUS_INS_ALARM
  | 11 => flag s GL_FWSTAT_QUARANTINE
  | 12 => getF s GL_FWSTAT_FW_STATE == 4
  | 13 => s.tlHost.lost
  | 14 => true
  | _ => false

/-- The conditions in force at the latest evaluation; ALWAYS is without one. -/
def lampInForce (s : State) (c : Nat) : Bool := c == 14 || (decide (c < 14) && decide (0 < tabGet (fun _ => 0) s.site.lamp.seen c))

/-- A condition at an evaluation: true, it comes into force or stays so; false, it ends 2 s after it came into force or later (R616). -/
def lampSeen (s : State) (t : Tab Nat) (c : Nat) : Tab Nat :=
  let t0 := tabGet (fun _ => 0) t c
  if lampTrue s c then (if t0 = 0 then tabSet (fun _ => 0) t c (s.now + 1) else t)
  else if s.now < t0 - 1 + 2000000000 then t
  else tabSet (fun _ => 0) t c 0

/-- The entry that drives a lamp: the enabled entry of lowest index that names it and a condition in force; 15 for none. -/
def lampChoose (s : State) (l : Nat) : Nat :=
  ((List.range 12).find? (fun i => flag s (LP_MAP_EN i) && getF s (LP_MAP_LAMP i) == l && lampInForce s (getF s (LP_MAP_COND i)))).getD 15

/-- Length of the 125 ms grid. -/
def lampGrid : Nat := 125000000

/-- Entry driving each lamp at a time, with the boundary at which it took the lamp: a choice takes effect at the next
boundary after it was made. -/
def lampDrive (x : Lamps) (t l : Nat) : Nat × Nat :=
  if x.at_ / lampGrid < t / lampGrid ∧ x.chosen.getD l 15 ≠ x.drive.getD l 15 then (x.chosen.getD l 15, (x.at_ / lampGrid + 1) * lampGrid)
  else (x.drive.getD l 15, x.from_.getD l 0)

/-- A pattern sinks current at `t`, its entry having taken the lamp at `t0` (R618). -/
def patternOn (pattern n t t0 : Nat) : Bool :=
  match pattern with
  | 0 => true
  | 1 => decide (t % 1000000000 < 500000000)
  | 2 => decide (t % 250000000 < lampGrid)
  | _ =>
    let n := if n = 0 then 1 else n
    let p := (t - t0) % (n * 250000000 + 2000000000)
    decide (p < n * 250000000) && decide (p % 250000000 < lampGrid)

/-- A lamp is on: its pin sinks; every one is off while `PPATH` is (R619). -/
def lampOn (s : State) (l : Nat) : Bool :=
  if !on s dPPATH then false
  else if (match s.site.lamp.testEnd with | some t => decide (s.now < t) | none => false) then true
  else
    let (e, t0) := lampDrive s.site.lamp s.now l
    e != 15 && (bitF s LP_CTRL_LAMP_EN l || (l == 1 && lampInForce s 6)) &&
      patternOn (getF s (LP_MAP_PATTERN e)) (getF s (LP_MAP_BURST e)) s.now t0

/-- `LP_STATUS` at this moment. -/
def lampStatus (s : State) : Word :=
  (List.range 4).foldl (fun w l =>
    let e := (lampDrive s.site.lamp s.now l).1
    w ||| BitVec.ofNat 32 (e * 2 ^ (16 + 4 * l) + (if lampOn s l then 2 ^ l else 0))) 0

/-- Show the lamps in their registers. -/
def updLamps (s : State) : State :=
  if on s dPPATH then
    let c := (List.range 15).foldl (fun n c => if lampInForce s c then n + 2 ^ c else n) 0
    wr (setF s LP_COND_COND c) LP_STATUS (lampStatus s)
  else s

/-- LAMP_EVALUATION (R616, R617): at the next multiple of 10 ms. -/
def execLampEvaluation (s : State) : Host.Outcome State Fault Refusal :=
  .next (
    if on s dPPATH then
      let s := advance s ((s.now / 10000000 + 1) * 10000000)
      let x := s.site.lamp
      let d := (List.range 4).map (fun l => lampDrive x s.now l)
      let seen := (List.range 15).foldl (lampSeen s) x.seen
      let s := { s with site := { s.site with lamp := { x with seen, drive := d.map (fun (e : Nat × Nat) => e.1), from_ := d.map (fun (e : Nat × Nat) => e.2), at_ := s.now } } }
      let s := { s with site := { s.site with lamp := { s.site.lamp with chosen := (List.range 4).map (lampChoose s) } } }
      updLamps s
    else s)

/-- A write to `LP_CTRL`. -/
def lpCtrlWrite (s : State) (v : Word) : State :=
  if on s dPPATH then
    let s := if flag s LP_CTRL_LOCK then s else setF s LP_CTRL_LAMP_EN (bits v 0 4)
    let s := if v.getLsbD 31 then setFlag s LP_CTRL_LOCK true else s
    updLamps (if v.getLsbD 8 then { s with site := { s.site with lamp := { s.site.lamp with testEnd := some (s.now + 2000000000) } } } else s)
  else s

/-- LAMP_TEST (R619): a write to `LP_CTRL` with `TEST` = 1. -/
def execLampTest (v : Word) (s : State) : Host.Outcome State Fault Refusal := .next (noteCfg s (lpCtrlWrite s (setBits v 8 1 1)))

/-- LAMP_TEST_END. -/
def execLampTestEnd (s : State) : Host.Outcome State Fault Refusal :=
  .next (
    match (if on s dPPATH then s.site.lamp.testEnd else none) with
    | some t =>
      let s := advance s t
      updLamps { s with site := { s.site with lamp := { s.site.lamp with testEnd := none } } }
    | none => s)

end Sys2Proof.Machine
end

