-- ==== Sys2Proof/Machine/RegWrite.lean ====
section
/-! DEFINITION. Register writes (R17-R22, R370, R641-R646): access types and locks, and the operations that writes of
particular registers are. -/

namespace Sys2Proof.Machine

/-- The state of an answer, or the state before it. -/
def nextOr (s : State) (o : Host.Outcome State Fault Refusal) : State :=
  match o with
  | .next t => t
  | _ => s

/-! ## Locks (R643) -/

/-- The bit that locks the RWL fields of a register's block. -/
def lockFld (a : Nat) : Fld :=
  if a < 0x1000 then GL_MPCFG_LOCK
  else if a < 0x10000 then CK_CTRL_LOCK
  else if a < 0x20000 then HI_CTRL_LOCK
  else if a < 0x21000 then PP_CTRL_LOCK
  else if a < 0x30000 then SP_LOCK_LOCK
  else if a < 0x40000 then TL_CFG_LOCK ((a - 0x30000) / 0x400)
  else if a < 0x41000 then WD_CTRL_LOCK
  else if a < 0x50000 then FC_CTRL_LOCK
  else if a < 0x51000 then TRC_CTRL_LOCK
  else if a < 0x52000 then TM_CTRL_LOCK
  else if a < 0x60000 then LP_CTRL_LOCK
  else if a < 0x70000 then AT_CTRL_LOCK
  else if a < 0x80000 then SV_CTRL_LOCK
  else if a < 0x90000 then LD_CTRL_LOCK
  else CR_CTRL_LOCK

/-! ## A write by access types (R17-R20, R645) -/

/-- The word a write leaves: RW and unlocked RWL fields take their bits, W1C and W1S bits are cleared and set. -/
def accessWord (r : RegRow) (locked : Bool) (old v : Word) : Word :=
  let m := BitVec.ofNat 32 (r.rw ||| (if locked then 0 else r.rwl))
  (((old &&& ~~~m) ||| (v &&& m)) &&& ~~~(v &&& BitVec.ofNat 32 r.w1c)) ||| (v &&& BitVec.ofNat 32 r.w1s)

/-- A write to a register with no effect beside its fields. -/
def plainWrite (s : State) (a : Nat) (v : Word) : State :=
  match regRow a with
  | some r => if on s (blockDomain a) then wr s a (accessWord r (flag s (lockFld a)) (rd s a) v) else s
  | none => s

/-! ## Writes that act -/

/-- `CK_RESET` (R477): the two keys within 1 ms, with no other write between. -/
def ckResetWrite (s : State) (v : Word) : State :=
  if on s dPPATH then
    let k := bits v 0 16
    if k = 0xD0A5 then { s with pw := { s.pw with resetKey := some s.now } }
    else match s.pw.resetKey with
      | some t =>
        let s := { s with pw := { s.pw with resetKey := none } }
        if k = 0x5A0D ∧ s.now ≤ t + 1000000 then { s with pw := { s.pw with resetDue := some (s.now + 10000) } } else s
      | none => s
  else s

/-- `HI_TAGS`: `PEAK_CLR`. -/
def hiTagsWrite (s : State) (v : Word) : State :=
  if on s dHOSTIF && v.getLsbD 31 then setF s HI_TAGS_TAG_PEAK (allTags s).length else s

/-- `HI_ORPHAN`: `ACK` (R407). -/
def hiOrphanWrite (s : State) (v : Word) : State :=
  if on s dHOSTIF && v.getLsbD 0 then setFlag s HI_STATUS_ORPH_PEND false else s

/-- A register of the rings, by kind, number and offset (R384): bases take writes while the ring is off. -/
def ringWrite (s : State) (k : RingKind) (i ofs a : Nat) (v : Word) : State :=
  if a = ringCfg k i then ringCfgWrite s k i v
  else if ofs < 8 then (if cfgWritable s k i then plainWrite s a v else s)
  else plainWrite s a v

/-- `PP_CTRL`, with `SAFE_EXIT`. -/
def ppCtrlWrite (s : State) (v : Word) : State :=
  let s := plainWrite s PP_CTRL v
  if on s dPPATH && v.getLsbD 3 then safeExit s else s

/-- `PP_ARM`. -/
def ppArmWrite (s : State) (v : Word) : State :=
  if bits v 0 2 = 1 then ppArm s else if bits v 0 2 = 2 then ppDisarm s else s

/-- A register of the `SP_` block. -/
def spWrite (s : State) (a : Nat) (v : Word) : State :=
  let n := (a - 0x21000) / 0x40
  let o := a % 0x40
  if o < 0x10 then spConfigWrite s n (o / 4) v
  else if o = 0x1C ∧ on s dPPATH then
    if v.getLsbD 0 then searchRestart s n else if v.getLsbD 1 then reprobe s n else s
  else plainWrite s a v

/-- `PP_TLCFG` of a port, while unlocked. -/
def tlLegWrite (s : State) (n : Nat) (v : Word) : State :=
  match regRow (PP_TLCFG n) with
  | some r =>
    if on s dPPATH && !flag s PP_CTRL_LOCK then ppTlcfgWrite s n (accessWord r false (rd s (PP_TLCFG n)) v) else s
  | none => s

/-- A register of a tie-link port. -/
def tlWrite (s : State) (a : Nat) (v : Word) : State :=
  let n := (a - 0x30000) / 0x400
  let o := a % 0x400
  if o = 0 then tlCfgWrite s n v
  else if o = 0x18 then tlCctrlWrite s n v
  else if o = 0x28 then tlRevreqWrite s n v
  else plainWrite s a v

/-- A register of the watchdog. -/
def wdWrite (s : State) (a : Nat) (v : Word) : State :=
  if a = WD_CTRL then wdCtrlWrite s v
  else if a = WD_ANSWER then wdAnswer s v
  else if a = WD_PERIOD then wdPeriodWrite s v
  else if a = WD_KEY then wdKeyWrite s v
  else plainWrite s a v

/-- A register of the collector. -/
def fcWrite (s : State) (a : Nat) (v : Word) : State :=
  if a = FC_EVENT then fcEventWrite s v
  else if a = FC_REPLACE then (if on s dBBOX then replaceWrite s v else s)
  else if a = FC_RHOLD then updConditions (rholdWrite s v)
  else if a = FC_UNPIN then unpin s v.toNat
  else if a = FC_INJKEY then (if on s dBBOX && !flag s FC_CTRL_LOCK then { s with fc := { s.fc with key := v } } else s)
  else updConditions (plainWrite s a v)

/-- A register of the trace unit; those of the host buffer's place take no write while records are copied (R627). -/
def trcWrite (s : State) (a : Nat) (v : Word) : State :=
  if a = TRC_CTRL then trcCtrlWrite s v
  else if flag s TRC_CTRL_HOST_EN && (a == TRC_HBASE_LO || a == TRC_HBASE_HI || a == TRC_HCFG) then s
  else updStall (plainWrite s a v)

/-- A register of site protection; a change of `R_STAGE` starts the windows afresh. -/
def tmWrite (s : State) (a : Nat) (v : Word) : State :=
  if a = TM_TAMPCFG then tampCfgWrite s v
  else if a = TM_TAMPLAT then tampClear s v
  else if a = TM_INSCFG then insCfgWrite s v
  else if a = TM_SHCHK then
    let t := plainWrite s a v
    if getF t TM_SHCHK_R_STAGE = getF s TM_SHCHK_R_STAGE then t
    else { t with site := { t.site with shc := (t.site.shc.map (fun (e : Nat × ShuntCheck) => (e.1, { run := e.2.run }))).filter (fun (e : Nat × ShuntCheck) => e.2 != {}) } }
  else plainWrite s a v

/-- `GL_CFGGEN` (R589): the generation takes effect in every part at one loop tick, four ticks ahead, as R417 names it. A change voids the
passes of every part (R590). -/
def cfgGenWrite (s : State) (v : Word) : State :=
  if on s dPPATH then
    let u := plainWrite (advance s ((s.now / 1000 + 4) * 1000)) GL_CFGGEN v
    if rd u GL_CFGGEN = rd s GL_CFGGEN then u
    else forEach (List.range (s.part.regions + 1)) (fun p u => setDigPart u p { digPart u p with hit := true }) u
  else s

/-- A write to the register at a BAR0 offset. -/
def regWriteAt (s : State) (a : Nat) (v : Word) : State :=
  if a = CK_PDREQ then updConditions (pdreqWrite s v)
  else if a = GL_CFGGEN then cfgGenWrite s v
  else if a = CK_RESET then ckResetWrite s v
  else if a = HI_CTRL then hiCtrlWrite s v
  else if a = HI_TAGS then hiTagsWrite s v
  else if a = HI_ORPHAN then hiOrphanWrite s v
  else if 0x11000 ≤ a ∧ a < 0x11200 then ringWrite s .sq ((a - 0x11000) / 0x20) (a % 0x20) a v
  else if 0x11200 ≤ a ∧ a < 0x11400 then ringWrite s .cq ((a - 0x11200) / 0x20) (a % 0x20) a v
  else if 0x11400 ≤ a ∧ a < 0x11480 then ringWrite s .ev ((a - 0x11400) / 0x20) (a % 0x20) a v
  else if a = PP_CTRL then ppCtrlWrite s v
  else if a = PP_ARM then ppArmWrite s v
  else if a = PP_PRIORITY then ppPriorityWrite s v
  else if 0x20100 ≤ a ∧ a < 0x20140 ∧ a % 8 = 0 then tlLegWrite s ((a - 0x20100) / 8) v
  else if 0x21000 ≤ a ∧ a < 0x21100 then spWrite s a v
  else if 0x30000 ≤ a ∧ a < 0x32000 then tlWrite s a v
  else if 0x40000 ≤ a ∧ a < 0x41000 then wdWrite s a v
  else if 0x41000 ≤ a ∧ a < 0x42000 then fcWrite s a v
  else if 0x50000 ≤ a ∧ a < 0x51000 then trcWrite s a v
  else if 0x51000 ≤ a ∧ a < 0x52000 then tmWrite s a v
  else if a = LP_CTRL then lpCtrlWrite s v
  else if a = SV_CTRL then svCtrlWrite s v
  else plainWrite s a v

/-- A write to a BAR0 offset, with the configuration it changes (R590). -/
def regWrite (s : State) (a : Nat) (v : Word) : State := noteCfg s (regWriteAt s a v)

/-! ## BAR4 (R382) -/

/-- A word of the MSI-X table; a vector unmasked with its message pending sends it. -/
def msixTableWrite (s : State) (o : Nat) (v : Word) : State :=
  if on s dHOSTIF then
    let j := o % 16 / 4
    let n := (o - 0x8000) / 16
    let m : Word := if j = 0 then 0xFFFFFFFC else if j = 3 then 1 else 0xFFFFFFFF
    let s := wr s (bar4 + o) (v &&& m)
    let p : Fld := ⟨bar4 + 0xC000 + 4 * (n / 32), n % 32, 1⟩
    if j = 3 ∧ !v.getLsbD 0 ∧ flag s p then msix (setFlag s p false) n else s
  else s

/-- A write to a BAR4 offset. -/
def bar4Write (s : State) (o : Nat) (v : Word) : State :=
  if o < 0x4000 then
    if o % 0x400 = 0 then dbSqTail s (o / 0x400) v.toNat
    else if o % 0x400 = 4 then nextOr s (execDbCqHead (o / 0x400) v.toNat s)
    else s
  else if o < 0x4040 then (if o % 0x10 = 0 then nextOr s (execDbEvHead ((o - 0x4000) / 0x10) v.toNat s) else s)
  else if 0x8000 ≤ o ∧ o < 0x8400 then msixTableWrite s o v
  else s

/-- The written word without the W1C bits that a hardware event sets in the clock cycle of the write, as `same` marks them:
such a bit remains 1 (R21). -/
def notSame (a : Nat) (v same : Word) : Word :=
  match regRow a with
  | some r => v &&& ~~~(same &&& BitVec.ofNat 32 r.w1c)
  | none => v

/-- The mask of the byte enables `be`. -/
def byteMask (be : Nat) : Word :=
  BitVec.ofNat 32 (((List.range 4).map (fun i => if be.testBit i then 0xFF * 2 ^ (8 * i) else 0)).sum)

/-- A write to a dword of configuration space (R367): PMCSR moves the function between D0 and D3hot (R373), Initiate Function Level Reset
resets it (R405), and messages that wait are sent once MSI-X is enabled and its function unmasked (R399). -/
def cfgWrite (s : State) (ofs : Nat) (v : Word) (be : Nat) : State :=
  let b := byteMask be
  if ofs = 0x44 then
    if !b.getLsbD 0 then s
    else if bits v 0 2 = 3 ∧ s.hi.linkUp then { s with hi := { s.hi with d3hot := true } }
    else if bits v 0 2 = 0 ∧ s.hi.d3hot then hostReset s .d3ToD0
    else s
  else if ofs = 0x58 ∧ b.getLsbD 15 ∧ v.getLsbD 15 then hostReset s .flr
  else
    match cfgRows.find? (fun r => r.1 == ofs) with
    | some (_, m, d) =>
      let mw := BitVec.ofNat 32 m &&& b
      let w := (cfgWord s ofs &&& ~~~mw) ||| (v &&& mw)
      let was := msixEnabled s && !msixMasked s
      let s := { s with hi := { s.hi with cfg := tabSet (fun _ => BitVec.ofNat 32 d) s.hi.cfg ofs w } }
      if !was && msixEnabled s && !msixMasked s then
        forEach (List.range 64) (fun n s =>
          let p : Fld := ⟨bar4 + 0xC000 + 4 * (n / 32), n % 32, 1⟩
          if flag s p && !(rd s (bar4 + 0x8000 + 16 * n + 12)).getLsbD 0 then msix (setFlag s p false) n else s) s
      else s
    | none => s

/-- REGISTER_WRITE (R17, R370): a write of one aligned word, all four bytes enabled, through BAR 0 or 4; every other write
is ignored. `bar` 6 stands for configuration space, whose dwords take the enabled bytes. -/
def execRegisterWrite (bar ofs : Nat) (v : Word) (be : Nat) (same : Word) (s : State) : Host.Outcome State Fault Refusal :=
  .next (
    if on s dHOSTIF && bar == 6 && ofs % 4 == 0 then cfgWrite s ofs v be
    else if on s dHOSTIF && be == 15 && ofs % 4 == 0 then
      if bar = 0 then regWrite s ofs (notSame ofs v same)
      else if bar = 4 then bar4Write s ofs v
      else s
    else s)

/-- CFG_GEN_WRITE (R589): the generation changes in every part at one loop tick. -/
def execCfgGenWrite (v : Word) (s : State) : Host.Outcome State Fault Refusal := .next (cfgGenWrite s v)

end Sys2Proof.Machine
end

