-- ==== Sys2Proof/Machine/Sign.lean ====
section
/-! DEFINITION. What makes a firmware image's signature valid (R567): SHA-512 and the verification of Ed25519 as RFC 8032
states it, without pre-hashing or context. -/

namespace Sys2Proof.Machine

/-! ## SHA-512 -/

/-- The greatest number below 2^68 whose power `k` is at most `n`. -/
def rootFloor (k n : Nat) : Nat :=
  ((List.range 68).reverse).foldl (fun r i => if (r + 2 ^ i) ^ k ≤ n then r + 2 ^ i else r) 0

/-- The primes below 410: the first 80. -/
def primes80 : List Nat :=
  (List.range 410).filter (fun n => decide (2 ≤ n) && (List.range n).all (fun d => decide (d < 2) || n % d != 0))

/-- The first 64 bits of the fractional parts of the cube roots of the first 80 primes, and of the square roots of the first 8. -/
def shaK : List (BitVec 64) := primes80.map (fun p => BitVec.ofNat 64 (rootFloor 3 (p * 2 ^ 192)))
def shaInit : List (BitVec 64) := (primes80.take 8).map (fun p => BitVec.ofNat 64 (rootFloor 2 (p * 2 ^ 128)))

/-- A number of `n` bytes, most significant first. -/
def beBytes (n v : Nat) : List Byte := ((List.range n).reverse).map (fun i => BitVec.ofNat 8 (v / 256 ^ i))

/-- The number that bytes spell, most significant first, and least significant first. -/
def beNat (l : List Byte) : Nat := l.foldl (fun n (b : Byte) => 256 * n + b.toNat) 0
def leNat (l : List Byte) : Nat := beNat l.reverse

/-- The message with its padding: a 1 bit, zeros, and its length in bits. -/
def shaPad (m : List Byte) : List Byte :=
  m ++ 0x80#8 :: (List.replicate ((239 - m.length % 128) % 128) 0#8 ++ beBytes 16 (8 * m.length))

/-- The 80 words of a block's schedule. -/
def shaSchedule (b : List Byte) : List (BitVec 64) :=
  let w := (List.range 16).map (fun i => BitVec.ofNat 64 (beNat ((b.drop (8 * i)).take 8)))
  (List.range 64).foldl (fun (l : List (BitVec 64)) t =>
    let g (i : Nat) : BitVec 64 := l.getD (t + 16 - i) 0
    let x := g 15
    let y := g 2
    l ++ [(y.rotateRight 19 ^^^ y.rotateRight 61 ^^^ (y >>> 6)) + g 7 + (x.rotateRight 1 ^^^ x.rotateRight 8 ^^^ (x >>> 7)) + g 16]) w

/-- One round on the eight working words. -/
def shaRound (v : List (BitVec 64)) (kw : BitVec 64) : List (BitVec 64) :=
  match v with
  | [a, b, c, d, e, f, g, h] =>
    let t1 := h + (e.rotateRight 14 ^^^ e.rotateRight 18 ^^^ e.rotateRight 41) + ((e &&& f) ^^^ (~~~e &&& g)) + kw
    let t2 := (a.rotateRight 28 ^^^ a.rotateRight 34 ^^^ a.rotateRight 39) + ((a &&& b) ^^^ (a &&& c) ^^^ (b &&& c))
    [t1 + t2, a, b, c, d + t1, e, f, g]
  | _ => v

/-- The hash value after a block. -/
def shaBlock (h : List (BitVec 64)) (b : List Byte) : List (BitVec 64) :=
  List.zipWith (· + ·) h ((List.zipWith (· + ·) shaK (shaSchedule b)).foldl shaRound h)

/-- SHA-512. -/
def sha512 (m : List Byte) : List Byte :=
  let p := shaPad m
  ((List.range (p.length / 128)).foldl (fun h i => shaBlock h ((p.drop (128 * i)).take 128)) shaInit).flatMap (fun w => beBytes 8 w.toNat)

/-! ## Ed25519 -/

/-- The field's prime and the order of the base point. -/
def edP : Nat := 2 ^ 255 - 19
def edL : Nat := 2 ^ 252 + 27742317777372353535851937790883648493

/-- Subtraction, powers and the inverse in the field. -/
def edSub (a b : Nat) : Nat := (a + edP - b % edP) % edP
def edPow (b e : Nat) : Nat :=
  ((List.range 256).reverse).foldl (fun r i => if e.testBit i then r * r % edP * b % edP else r * r % edP) 1
def edInv (a : Nat) : Nat := edPow a (edP - 2)

/-- The constant d of the curve, and a square root of -1. -/
def edD : Nat := edSub 0 (121665 * edInv 121666)
def edI : Nat := edPow 2 ((edP - 1) / 4)

/-- A point of the curve in extended coordinates. -/
structure EdPoint where
  x : Nat
  y : Nat
  z : Nat
  t : Nat
  deriving DecidableEq, Repr

/-- The sum of two points. -/
def edAdd (p q : EdPoint) : EdPoint :=
  let a := edSub p.y p.x * edSub q.y q.x % edP
  let b := (p.y + p.x) * (q.y + q.x) % edP
  let c := p.t * 2 * edD * q.t % edP
  let d := p.z * 2 * q.z % edP
  let e := edSub b a
  let f := edSub d c
  let g := (d + c) % edP
  let h := (b + a) % edP
  { x := e * f % edP, y := g * h % edP, t := e * h % edP, z := f * g % edP }

/-- A multiple of a point. -/
def edMul (n : Nat) (p : EdPoint) : EdPoint :=
  ((List.range 260).reverse).foldl (fun (r : EdPoint) i => if n.testBit i then edAdd (edAdd r r) p else edAdd r r) ⟨0, 1, 1, 0⟩

/-- Two points are the same. -/
def edSame (p q : EdPoint) : Bool := p.x * q.z % edP == q.x * p.z % edP && p.y * q.z % edP == q.y * p.z % edP

/-- The point of coordinate y and the low bit of x; none where there is none. -/
def edPoint (y sign : Nat) : Option EdPoint :=
  let u := edSub (y * y) 1
  let v := (edD * (y * y % edP) + 1) % edP
  let x := u * edPow v 3 % edP * edPow (u * edPow v 7) ((edP - 5) / 8) % edP
  let w := v * (x * x % edP) % edP
  let x := if w = u then some x else if w = edSub 0 u then some (x * edI % edP) else none
  match x with
  | some x =>
    if edP ≤ y ∨ (x = 0 ∧ sign = 1) then none
    else
      let x := if x % 2 = sign then x else edSub 0 x
      some ⟨x, y, 1, x * y % edP⟩
  | none => none

/-- A point from its 32 bytes. -/
def edDecode (l : List Byte) : Option EdPoint := edPoint (leNat l % 2 ^ 255) (leNat l / 2 ^ 255 % 2)

/-- The signature `sig` of message `m` is valid under the public key `key` (RFC 8032, 5.1.7, with the cofactor). -/
def edVerify (key sig m : List Byte) : Bool :=
  let n := leNat (sig.drop 32)
  match edDecode key, edDecode (sig.take 32), edPoint (4 * edInv 5 % edP) 0 with
  | some a, some r, some b =>
    key.length == 32 && sig.length == 64 && decide (n < edL) &&
    edSame (edMul (8 * n) b) (edAdd (edMul 8 r) (edMul 8 (edMul (leNat (sha512 (sig.take 32 ++ key ++ m)) % edL) a)))
  | _, _, _ => false

/-- `SIG` of an image of these bytes is valid under a key: it signs the SHA-512 digest of the image without it (R567). -/
def imageSigned (key b : List Byte) : Bool := edVerify key ((b.drop 0xC0).take 64) (sha512 (b.take 0xC0 ++ b.drop 0x100))

end Sys2Proof.Machine
end

