-- ==== Sys2Proof/Machine/Firmware.lean ====
section
/-! DEFINITION. Firmware slots, staging, commit and probation (R566-R576), settings and quarantine (R577-R586), and the
configuration digests (R587-R592). -/

namespace Sys2Proof.Machine

/-! ## Images (R566, R567) -/

/-- The little-endian word at a byte offset. -/
def wordAt (b : List Byte) (i : Nat) : Word := bytesWord ((b.drop i).take 4)

/-- Bit of a part in `PARTS`. -/
def partBit : Part → Nat
  | .zrc1024 => 0
  | .zrc512 => 1
  | .zrc256 => 2

/-- The header meets the format, part and length rules. -/
def headerOk (p : Part) (b : List Byte) : Bool :=
  let n := (wordAt b 4).toNat
  decide (16 ≤ b.length) && bits (wordAt b 0) 24 8 == 1 && (wordAt b 0).getLsbD (partBit p) &&
  decide (65536 ≤ n) && decide (n ≤ 25165824) && n % 4096 == 0

/-- `SCHEMA_MIN` and `SCHEMA_MAX` of an image. -/
def imageSchemas : Image → Nat × Nat
  | .factory => (Config.factorySchemaMin.toNat, Config.factorySchemaMax.toNat)
  | .bytes b => (bits (wordAt b 12) 16 16, bits (wordAt b 12) 0 16)

/-- `VERSION` of an image. -/
def imageVersion : Image → Word
  | .factory => Config.factoryVersion
  | .bytes b => wordAt b 8

/-- An image is valid, judged from the bytes in NOR. The image of production is. -/
def imageValid (p : Part) : Image → Bool
  | .factory => true
  | .bytes b =>
    headerOk p b && decide ((wordAt b 4).toNat ≤ b.length) && decide (bits (wordAt b 12) 16 16 ≤ bits (wordAt b 12) 0 16) &&
    imageSigned Config.imageKey (b.take (wordAt b 4).toNat)

/-! ## Slots -/

def slotImage (s : State) (n : Nat) : Image := if n = 0 then s.fw.slotA else s.fw.slotB
def setSlotImage (s : State) (n : Nat) (x : Image) : State :=
  if n = 0 then { s with fw := { s.fw with slotA := x } } else { s with fw := { s.fw with slotB := x } }
def slotValid (s : State) (n : Nat) : Bool := imageValid s.part (slotImage s n)
def slotVersion (s : State) (n : Nat) : Word := if slotValid s n then imageVersion (slotImage s n) else 0

/-- The slot the supervisors run and the other. -/
def runSlot (s : State) : Nat := getF s GL_FWSTAT_RUN_SLOT
def inactiveSlot (s : State) : Nat := 1 - runSlot s

/-- The registers that show the slots. -/
def updSlots (s : State) : State :=
  let s := setFlag (setFlag s GL_FWSTAT_A_VALID (slotValid s 0)) GL_FWSTAT_B_VALID (slotValid s 1)
  setFlag (wr (wr s GL_FWVER_A (slotVersion s 0)) GL_FWVER_B (slotVersion s 1)) GL_FWSTAT_NOAUTOFB s.fuses.noAutoFb

/-! ## Boot records (R568, R569) -/

/-- The words of the boot record; with none, the good slot is A where it is valid and B otherwise. -/
def bootRecord (s : State) : List Word :=
  match lastFirmware s with
  | some c => (c.drop 4).take 6
  | none => let g := if slotValid s 0 then 0 else 1
            [BitVec.ofNat 32 (16 * g), slotVersion s g, 0, 0, 0, 0]
def bootBOOT (r : List Word) : Nat := bits (r.getD 0 0) 8 2
def bootGood (r : List Word) : Nat := bits (r.getD 0 0) 4 1
def bootTry (r : List Word) : Nat := bits (r.getD 0 0) 0 1

/-- Probation lasts 600 s of module time (R570). -/
def probNs : Nat := 600000000000
/-- The probation state, and seconds of it elapsed. -/
def inProbation (s : State) : Bool := getF s GL_FWSTAT_FW_STATE == 4
def probSeconds (s : State) : Nat :=
  match s.fw.probEnd with
  | some t => (s.now + probNs - t) / 1000000000
  | none => if inProbation s then 600 else 0

/-- Write a firmware ingot: `FWEV`, `BOOT`, `GOOD_SLOT`, `TRY_SLOT` and the version tried. -/
def fwIngot (s : State) (ev boot good try_ : Nat) (tv : Word) : State :=
  writeNow s 0x0A [BitVec.ofNat 32 (ev * 2 ^ 24 + boot * 256 + good * 16 + try_), slotVersion s good, tv,
    BitVec.ofNat 32 (getF s GL_SETSTAT_SCHEMA), rd s GL_SETSEQ, BitVec.ofNat 32 (probSeconds s)]

/-- A firmware ingot that keeps the boot decision in force. -/
def fwNote (s : State) (ev : Nat) : State :=
  let r := bootRecord s
  fwIngot s ev (bootBOOT r) (bootGood r) (bootTry r) (r.getD 2 0)

/-- A FIRMWARE fault with its cause and argument (R574), from the active supervisor. -/
def fwFault (s : State) (cause arg : Nat) : State :=
  fault s 0x3E 2 (srcBlock (2 + (activeSv s).getD 0)) (BitVec.ofNat 32 (cause * 2 ^ 24 + arg))

def setFwState (s : State) (v : Nat) : State := setF s GL_FWSTAT_FW_STATE v

/-! ## Supervisor restart (R475) -/

/-- Both supervisors are switched off and on together; start-up runs its steps 6 to 8 again for them. A lost one stays off. -/
def supervisorRestart (s : State) : State :=
  let live (n : Nat) (s : State) : Bool := svState s n != svLOST
  let a := live 0 s
  let b := live 1 s
  let s := switchOff (switchOff s dKEEPB 6) dKEEPA 6
  let s := when b (fun s => beginOn s dKEEPB) (when a (fun s => beginOn s dKEEPA) s)
  let s := { s with fw := { s.fw with restarting := true }
                    pw := { s.pw with done := s.pw.done &&& 0x1E3F } }
  { s with sv := { s.sv with cur := none, last := none, toCheck := false, takeover := none, planned := false, noneSince := some s.now } }

/-! ## Staging, commit and probation (R570-R573) -/

/-- Fall-back: the boot record returns to the good slot (R572). -/
def fallBack (s : State) : State :=
  let r := bootRecord s
  let s := raise (fwIngot s 5 0 (bootGood r) (bootTry r) (r.getD 2 0)) GL_FWEVENT 0x10
  setFwState { s with fw := { s.fw with probEnd := none } } 0

/-- FW_STAGE: a chunk of the image at an offset; `bad`: its programming failed verification (R411 status 0x14). -/
def fwStage (s : State) (t : Nat) (x : Tag) (bad : Bool) : State :=
  let st := getF s GL_FWSTAT_FW_STATE
  let ofs := (x.param 0).toNat
  let n := inactiveSlot s
  let have_ := match slotImage s n with | .bytes b => b | .factory => []
  let start := ofs == 0 && st ≤ 2
  if start && !(headerOk s.part x.src && wordAt x.src 4 == x.param 1 && decide (x.src.length ≤ (x.param 1).toNat)) then
    endSt s t (if st = 1 then stSTATE else stAUTH)
  else if !start && !(st == 1 && decide (ofs = have_.length) && decide ((x.param 1).toNat = s.fw.total) &&
      decide (ofs + x.src.length ≤ s.fw.total)) then endSt s t stSTATE
  else
    let b := if start then [] else have_
    let s := { s with fw := { s.fw with total := (x.param 1).toNat } }
    let b := if bad then b else b ++ x.src
    let s := setF (updSlots (setSlotImage s n (.bytes b))) GL_FWSTAT_STAGED_4K (b.length / 4096)
    let r := BitVec.ofNat 32 b.length
    if bad then endTag (setFwState s 1) t stMEDIA r 0
    else if b.length < s.fw.total then endTag (setFwState s 1) t stSUCCESS r 0
    else if slotValid s n then
      let s := raise (fwNote (setFwState s 2) 1) GL_FWEVENT 1
      endTag s t stSUCCESS r 0
    else endTag (setF (raise (setFwState s 0) GL_FWEVENT 2) GL_FWSTAT_STAGED_4K 0) t stAUTH r 0

def execFwStage (t : Nat) (bad : Bool) (s : State) : Host.Outcome State Fault Refusal :=
  .next (applyCmd s t 0x48 (fun x s => fwStage (xfer s hubFabric 3 (rqSupervisor ((activeSv s).getD 0)) x.src.length) t x bad))

/-- FW_COMMIT: the inactive image is committed and the supervisors restart; in probation it falls back. -/
def execFwCommit (t : Nat) (s : State) : Host.Outcome State Fault Refusal :=
  .next (applyCmd s t 0x49 (fun _ s =>
    let st := getF s GL_FWSTAT_FW_STATE
    let n := inactiveSlot s
    if st = 4 then
      let g := bootGood (bootRecord s)
      supervisorRestart (endTag (fallBack s) t stSUCCESS (BitVec.ofNat 32 g) 0)
    else if st = 0 ∨ st = 2 then
      if slotValid s n then
        let s := setFwState (fwIngot s 2 1 (runSlot s) n (slotVersion s n)) 3
        supervisorRestart (endTag s t stSUCCESS (BitVec.ofNat 32 n) 0)
      else endSt (raise s GL_FWEVENT 2) t stAUTH
    else endSt s t stSTATE))

/-- FW_CONFIRM: the image in probation becomes the good image. -/
def execFwConfirm (t : Nat) (s : State) : Host.Outcome State Fault Refusal :=
  .next (applyCmd s t 0x4A (fun _ s =>
    if inProbation s && !quarantine s then
      let r := bootRecord s
      let n := bootTry r
      let s := raise (fwIngot s 4 0 n n (r.getD 2 0)) GL_FWEVENT 8
      let s := setFwState { s with fw := { s.fw with probEnd := none } } 0
      endTag s t stSUCCESS (BitVec.ofNat 32 n) 0
    else endSt s t stSTATE))

/-- PROBATION_EXPIRE: fall-back and supervisor restart, or with `NOAUTOFB` a report. -/
def execProbationExpire (s : State) : Host.Outcome State Fault Refusal :=
  .next (
    match (if on s dPPATH && inProbation s then s.fw.probEnd else none) with
    | some t =>
      let s := advance s t
      if s.fuses.noAutoFb then
        let s := raise (fwNote s 8) GL_FWEVENT 0x80
        fwFault { s with fw := { s.fw with probEnd := none, probDone := true } } 8 0
      else supervisorRestart (fallBack s)
    | none => s)

/-- PROBATION_NO_SUPERVISOR: 100 ms without an active supervisor in probation. -/
def execProbationNoSupervisor (s : State) : Host.Outcome State Fault Refusal :=
  .next (
    match (if on s dPPATH && inProbation s && (activeSv s).isNone then s.sv.noneSince else none) with
    | some t => supervisorRestart (advance s (t + 100000000))
    | none => s)

/-! ## Step 7 of start-up (R573) -/

/-- The image of a slot is started: supervisor A is active, or B when A is lost; the other becomes standby (R483). -/
def startSlot (s : State) (n : Nat) : State :=
  let s := setF s GL_FWSTAT_RUN_SLOT n
  let a := if svState s 0 = svLOST then 1 else 0
  let s := if svState s a = svLOST then s else setF (setSvState s a svACTIVE) SV_STATUS_ACTIVE_SV a
  let s := if svState s (1 - a) = svLOST then s else setSvState s (1 - a) svWAIT
  { s with sv := { s.sv with noneSince := if svState s a = svLOST then s.sv.noneSince else none } }

/-- Start the good slot, or the other where it alone is valid, which then is recorded as good. -/
def startGood (s : State) : Bool × State :=
  let r := bootRecord s
  let g := bootGood r
  let keep := s.fw.restarting && (getF s GL_FWSTAT_FW_STATE == 1 || getF s GL_FWSTAT_FW_STATE == 2)
  let s := if keep then s else setFwState s 0
  if slotValid s g then (true, startSlot s g)
  else if slotValid s (1 - g) then (true, startSlot (fwIngot s 9 0 (1 - g) (bootTry r) (r.getD 2 0)) (1 - g))
  else (false, fwFault s 9 0)

/-- The boot loader judges the slot of the boot record and starts its image; false when neither slot is valid. Under `NOAUTOFB` a
probation goes on with the timer AON kept, or 600 s where AON lost it (R570). -/
def bootImage (s : State) : Bool × State :=
  let s := updSlots s
  let r := bootRecord s
  let n := bootTry r
  if bootBOOT r = 0 then startGood s
  else if bootBOOT r = 2 ∧ !s.fuses.noAutoFb then startGood (fallBack s)
  else if !slotValid s n then
    startGood (setFwState (let u := fwIngot s 9 0 (bootGood r) n (r.getD 2 0); { u with fw := { u.fw with probEnd := none, probDone := false } }) 0)
  else if bootBOOT r = 2 then
    let keep := s.fw.probEnd.isSome || s.fw.probDone
    (true, startSlot (setFwState (if keep then s else { s with fw := { s.fw with probEnd := some (s.now + probNs) } }) 4) n)
  else
    let s := setFwState { s with fw := { s.fw with probEnd := some (s.now + probNs), probDone := false } } 4
    let s := raise (fwIngot s 3 2 (bootGood r) n (slotVersion s n)) GL_FWEVENT 4
    (true, startSlot s n)

/-! ## Settings images (R577-R580) -/

/-- Words of a record of a type: its two first words, and 32 parameter bytes or zeros with the source buffer. -/
def recWords : Nat → Option Nat
  | 0x10 => some 10
  | 0x11 => some 10
  | 0x14 => some 10
  | 0x17 => some 10
  | 0x18 => some 10
  | 0x28 => some 50
  | 0x30 => some 26
  | 0x38 => some 10
  | 0x20 => some 74
  | 0x21 => some 266
  | 0xF0 => some 3
  | _ => none

/-- The records of a body, if it holds exactly `n` valid ones. -/
def splitRecs : Nat → List Word → Option (List (List Word))
  | 0, [] => some []
  | 0, _ :: _ => none
  | _ + 1, [] => none
  | n + 1, w :: t =>
    match recWords (bits w 24 8) with
    | some k =>
      if bits w 0 16 = 4 * k ∧ k ≤ t.length + 1 then (splitRecs n (t.drop (k - 1))).map (fun l => (w :: t.take (k - 1)) :: l)
      else none
    | none => none

/-- The records of an image; none where its format or structure is wrong. -/
def setRecords (w : List Word) : Option (List (List Word)) :=
  if bits (w.getD 0 0) 24 8 = 1 ∧ (w.getD 4 0).toNat ≤ w.length then splitRecs (w.getD 4 0).toNat (w.drop 16) else none

def setSchema (w : List Word) : Nat := bits (w.getD 0 0) 0 16
def setSeqOf (w : List Word) : Nat := (w.getD 2 0).toNat

/-- `BODY_CRC` and `HDR_CRC` match. -/
def bodyCrcOk (w : List Word) : Bool := crc32cWords (w.drop 16) == w.getD 3 0
def hdrCrcOk (w : List Word) : Bool := crc32cWords (w.take 13) == w.getD 13 0

/-- A host's image passes the first check of R579: its length is the buffer's. -/
def setImageOk (w : List Word) : Bool :=
  decide (2048 ≤ w.length) && decide (w.length ≤ 1048576) && (w.getD 1 0).toNat == 4 * w.length && bodyCrcOk w && (setRecords w).isSome

/-- A stored copy, commit word included. -/
def setCopy (w : List Word) (seq time : Nat) : List Word :=
  let w := (((w.set 2 (BitVec.ofNat 32 seq)).set 6 (lo32 time)).set 7 (hi32 time))
  (w.set 13 (crc32cWords (w.take 13))).set 15 (BitVec.ofNat 32 seq ^^^ 0xFFFFFFFF)

/-- A copy's commit word matches; it is good (R580); its data. -/
def setDone (w : List Word) : Bool := decide (16 ≤ w.length) && w.getD 15 0 == (w.getD 2 0 ^^^ 0xFFFFFFFF)
def setGood (w : List Word) : Bool := setDone w && hdrCrcOk w && bodyCrcOk w
def setData (w : List Word) : List Word := w.set 15 0

/-- Reading the pair of copies (R553, R554). -/
def readSetPair (a b : List Word) : PairRead :=
  if setGood a && setGood b then
    if setData a = setData b then .copy a 0
    else if setSeqOf a ≠ setSeqOf b then .copy (if setSeqOf b < setSeqOf a then a else b) 1
    else .unreadable
  else if setGood a || setGood b then
    let g := if setGood a then a else b
    let x := if setGood a then b else a
    .copy g (if !setDone x then 1 else if setData x = setData g then 2 else 3)
  else if !setDone a && !setDone b then .empty
  else .unreadable

/-- The settings held: the accepted copy. -/
def heldSettings (s : State) : Option (List Word) :=
  match readSetPair s.fw.set0 s.fw.set1 with
  | .copy c _ => some c
  | _ => none

/-- Read the copies, repair them and show what was found. -/
def readSettings (s : State) : Option (List Word) × State :=
  let s := setFlag (setFlag s GL_SETSTAT_COPY0_OK (setGood s.fw.set0)) GL_SETSTAT_COPY1_OK (setGood s.fw.set1)
  match readSetPair s.fw.set0 s.fw.set1 with
  | .empty => (none, s)
  | .unreadable => (none, mirrorUnreadable s 0)
  | .copy c k => (some c, mirrorRead (if k = 0 then s else { s with fw := { s.fw with set0 := c, set1 := c } }) k (c.getD 2 0))

/-! ## Applying records (R581) -/

/-- A record as a command of its opcode. -/
def recTag (r : List Word) : Tag :=
  { words := BitVec.ofNat 32 (bits (r.getD 0 0) 24 8) :: (r.drop 1).take 9, sq := 0, slot := 0, order := 0, bell := 0
    src := wordsBytes (r.drop 10) }

/-- The record's target lies in powered domains: its register's, its port's, or its regions', which come online. -/
def recReady (s : State) (r : List Word) : Bool :=
  let op := bits (r.getD 0 0) 24 8
  let w := r.getD 1 0
  if op = 0xF0 then on s (blockDomain w.toNat)
  else if op = 0x38 then on s dTLPHY
  else if op = 0x10 ∨ op = 0x11 ∨ op = 0x14 ∨ op = 0x17 ∨ op = 0x18 then
    !selInPart s.part w || (selRegions w).all (fun k => on s (dCTL k) && (online s k || s.pw.done.testBit 10))
  else true

/-- The effect of a record; none where it fails its opcode's check. -/
def applyRec (s : State) (r : List Word) : Option State :=
  let x := recTag r
  let w := r.getD 1 0
  let l := selRange w
  if x.opcode = 0xF0 then some (regWrite s w.toNat (r.getD 2 0))
  else match opInfo x.opcode with
    | none => none
    | some i =>
      if selCheck s i.sel w ≠ 0 ∨ !paramsOk i x ∨ !rangeOk x then none
      else
        let ps (n : Nat) : List Word := (List.range n).map x.param
        match x.opcode with
        | 0x10 => if l.all (fun c => chanCheck s c (ps 8) (winWords s c)) then some (forEach l (fun c s => applyChanParam s noTag c (ps 8)) s) else none
        | 0x11 => if l.all (fun c => chanCheck s c (cfgWords s c) (ps 4)) then some (forEach l (fun c s => wrList s (CH_TCHG1 c) (ps 4)) s) else none
        | 0x14 =>
          if flaskCheck x && l.all (fun f => flaskHeld s f || !(flask s f).running || getF s (FL_CFG_FSW f) == bits (x.param 0) 24 8) then
            some (forEach l (fun f s => wr (wr s (FL_CFG f) (x.param 0)) (FL_MODE f) (x.param 1)) s)
          else none
        | 0x17 => if l.all (fun c => calCheck s c (ps 4)) then some (waitCal s l (ps 4) noTag) else none
        | 0x18 => if estParamOk (ps 3) then some (forEach l (fun c s => wrList s (EP_CFG c) (ps 3)) s) else none
        | 0x20 => let v := bytesWords x.src
                  if loadCheck s (selSlot w) v (profileOk v) = stSUCCESS then some (takeLoad s (0x20, selSlot w, v, noTag) 0) else none
        | 0x21 => let v := bytesWords x.src
                  if loadCheck s (selSlot w) v (modelOk v) = stSUCCESS then some (takeLoad s (0x21, selSlot w, v, noTag) 0) else none
        | 0x28 => let o := bytesWords x.src
                  if objectivesOk o then some { s with lad := { s.lad with obj := s.lad.obj ++ [(o, noTag)] } } else none
        | 0x30 => if ppSetLocked s x then none else some (ppSet s x)
        | 0x38 => if flag s (TL_CFG_LOCK (selPort w)) then none else some (advertise s (selPort w) x)
        | _ => none

/-- A record is skipped (R581). -/
def recFail (s : State) (idx : Nat) : State := fwFault (raise (incSat s GL_SETSTAT_REC_FAIL) GL_FWEVENT 0x200) 1 idx

/-- A record is applied, or held until its domain is powered. -/
def takeRec (s : State) (h : HeldRec) : State :=
  if recReady s h.words then (applyRec s h.words).getD (recFail s h.idx)
  else { s with fw := { s.fw with held := s.fw.held ++ [h] } }

/-- Records held are looked at again. -/
def applyHeld (s : State) : State :=
  let l := s.fw.held
  noteCfg s (forEach l (fun h s => takeRec s h) { s with fw := { s.fw with held := [] } })

/-- The settings held are applied in record order, and the power path is armed where they call for it. -/
def applySettings (s : State) (w : List Word) : State :=
  let before := s
  let l := (setRecords w).getD []
  let s := setF { s with fw := { s.fw with held := [], applied := true } } GL_SETSTAT_REC_FAIL 0
  let s := forEach ((List.range l.length).zip l) (fun (e : Nat × List Word) s => takeRec s ⟨e.1, e.2⟩) s
  let s := noteCfg before (setF s GL_SETSTAT_SET_STATE 1)
  if (w.getD 5 0).getLsbD 0 then ppArm s else s

/-! ## Quarantine and step 8 (R582, R584-R586) -/

/-- Why the running image cannot read settings: 0 it can; otherwise `Q_CAUSE`. -/
def judge (s : State) (w : Option (List Word)) : Nat :=
  match w with
  | none => 2
  | some w =>
    let m := imageSchemas (slotImage s (runSlot s))
    if (setRecords w).isNone then 3
    else if m.1 ≤ setSchema w ∧ setSchema w ≤ m.2 then 0 else 1

def enterQuarantine (s : State) (cause : Nat) : State :=
  if quarantine s then setF s GL_FWSTAT_Q_CAUSE cause
  else raise (fwNote (setF (setFlag s GL_FWSTAT_QUARANTINE true) GL_FWSTAT_Q_CAUSE cause) 6) GL_FWEVENT 0x20

def leaveQuarantine (s : State) : State :=
  if quarantine s then raise (fwNote (setF (setFlag s GL_FWSTAT_QUARANTINE false) GL_FWSTAT_Q_CAUSE 0) 7) GL_FWEVENT 0x40 else s

/-- Step 8: settings are read and applied, or quarantine is entered. After a supervisor restart they are only judged. -/
def settingsStep (s : State) : State :=
  let (w, s) := readSettings s
  let s := match w with
    | some w => wr (setF s GL_SETSTAT_SCHEMA (setSchema w)) GL_SETSEQ (w.getD 2 0)
    | none => setF s GL_SETSTAT_SET_STATE 0
  let q := judge s w
  if q ≠ 0 then enterQuarantine (if w.isSome then setF s GL_SETSTAT_SET_STATE 2 else s) q
  else if s.fw.restarting then leaveQuarantine (setF s GL_SETSTAT_SET_STATE (if s.fw.applied then 1 else 3))
  else match w with
    | some w => applySettings s w
    | none => s

/-- SETTINGS_LOAD (R579, R585): `bad` says which copy failed its verification: 0 none, 1 copy 0, 2 copy 1. -/
def execSettingsLoad (t bad : Nat) (s : State) : Host.Outcome State Fault Refusal :=
  .next (applyCmd s t 0x4B (fun x s =>
    let w := bytesWords x.src
    let m := imageSchemas (slotImage s (runSlot s))
    if x.src.length % 4 ≠ 0 ∨ !setImageOk w then endSt s t stCHECK_FAILED
    else if !(decide (m.1 ≤ setSchema w) && decide (setSchema w ≤ m.2)) then endSt s t stSCHEMA
    else
      let seq := match heldSettings s with | some h => (setSeqOf h + 1) % 2 ^ 32 | none => 1
      let c := setCopy w seq (stamp s)
      let r := BitVec.ofNat 32 (setSchema w)
      let s := { s with fw := { s.fw with set0 := if bad = 1 then c.set 15 0 else c
                                          set1 := if bad = 1 then s.fw.set1 else if bad = 2 then c.set 15 0 else c } }
      let s := setFlag s GL_SETSTAT_COPY0_OK (bad != 1)
      let s := if bad = 1 then s else setFlag s GL_SETSTAT_COPY1_OK (bad != 2)
      if bad = 1 ∨ bad = 2 then endTag s t stMEDIA r 0
      else
        let s := wr (setF s GL_SETSTAT_SCHEMA (setSchema w)) GL_SETSEQ (BitVec.ofNat 32 seq)
        let s := setF { s with fw := { s.fw with applied := false } } GL_SETSTAT_SET_STATE 3
        let s := if quarantine s then
            let s := leaveQuarantine (applySettings s c)
            if inProbation s then { s with fw := { s.fw with probEnd := some (s.now + probNs), probDone := false } } else s
          else s
        endTag s t stSUCCESS r 0))

/-! ## Digests (R587-R592) -/

/-- A word as a read sees it: 0 while its domain is off (R480). -/
def readWord (s : State) (a : Nat) : Word :=
  match wordDomain a with
  | some d => if on s d then rd s a else 0
  | none => rd s a

/-- Registers of the blocks outside `HI_`, in increasing offset: (offset, mask). -/
def digestRegs : List (Nat × Nat) :=
  let rows := rowsGL ++ rowsCK ++ rowsPP ++ rowsSP ++ rowsTL ++ rowsWD ++ rowsFC ++ rowsTRC ++ rowsTM ++ rowsLP ++ rowsAT ++ rowsSV ++ rowsLD ++ rowsCR
  let l := rows.flatMap (fun r => if r.stride = 0 then [(r.base, digestMask r.base r)]
    else (List.range r.count).map (fun i => (r.base + r.stride * i, digestMask (r.base + r.stride * i) r)))
  (l.filter (fun e => e.2 != 0)).mergeSort (fun a b => decide (a.1 ≤ b.1))

/-- BAR2 words of the hub. -/
def hubWords : List Nat :=
  (List.range 1024).map (fun i => bar2 + 0x11000 + 4 * i) ++ (List.range 4096).map (fun i => bar2 + 0x40000 + 4 * i) ++
  (List.range 40).map OBJ

/-- BAR2 words of a region. -/
def regionWords (k : Nat) : List Nat :=
  let cs := (List.range 256).map (fun i => 256 * k + i)
  cs.flatMap (fun c => ((List.range 8).map (fun j => CH_CFG c + 4 * j)) ++ ((List.range 4).map (fun j => CH_TCHG1 c + 4 * j))) ++
  (regionFlasks k).flatMap (fun f => [FL_CFG f, FL_MODE f]) ++
  cs.flatMap (fun c => (List.range 4).map (fun j => MC_SHUNT c + 4 * j)) ++
  cs.flatMap (fun c => (List.range 3).map (fun j => EP_CFG c + 4 * j))

/-- A word's entry in a digest: its offset and its value. -/
def digestEntry (ofs : Nat) (v : Word) : List Byte := wordBytes (BitVec.ofNat 32 ofs) ++ wordBytes v

/-- The digest of a part: 0 the hub, 1 + k region k. -/
def partDigest (s : State) (p : Nat) : Nat :=
  if p = 0 then
    crc64 (digestRegs.flatMap (fun e => digestEntry e.1 (readWord s e.1 &&& BitVec.ofNat 32 e.2)) ++
      hubWords.flatMap (fun a => digestEntry (a - bar2) (readWord s a)))
  else
    crc64 ((regionWords (p - 1)).flatMap (fun a =>
      let v := readWord s a
      digestEntry (a - bar2) (if 0x1A000 ≤ a - bar2 ∧ a - bar2 < 0x1E000 ∧ a % 16 = 8 then setBits v 0 8 0 else v)))

/-- The parts present, and those whose scanner runs. -/
def digParts (s : State) : List Nat := List.range (s.part.regions + 1)
def partLive (s : State) (p : Nat) : Bool := if p = 0 then on s dPPATH else online s (p - 1)

/-- The module digest (R591). -/
def moduleDigest (s : State) : Nat :=
  crc64 ((digParts s).flatMap (fun p =>
    let x := if partLive s p then digPart s p else {}
    wordBytes (lo32 x.digest) ++ wordBytes (hi32 x.digest) ++ wordBytes x.gen))

/-- `STALE` (R590). -/
def staleParts (s : State) : Nat :=
  ((digParts s).map (fun p =>
    let x := digPart s p
    if partLive s p && (x.gen != rd s GL_CFGGEN || (x.passes != 0 && (x.moved || x.digest != partDigest s p))) then 2 ^ p else 0)).sum

/-- A pass of a part ends and the next begins: with nothing changed while it ran, it is published. -/
def scanPart (s : State) (p : Nat) : State :=
  if partLive s p then
    let x := digPart s p
    let now_ := (partDigest s p, rd s GL_CFGGEN)
    let s := setDigPart s p { x with run := some now_, hit := false }
    if x.run = some now_ ∧ !x.hit then
      let s := setDigPart s p { digest := now_.1, gen := now_.2, passes := (x.passes + 1) % 2 ^ 32, run := some now_, hit := false, moved := false }
      let d := moduleDigest s
      let s := incWrap s GL_DIGSTAT_PASSES
      if d = (rd s GL_DIGEST_LO).toNat + 2 ^ 32 * (rd s GL_DIGEST_HI).toNat then s
      else raise (wr (wr s GL_DIGEST_LO (lo32 d)) GL_DIGEST_HI (hi32 d)) GL_FWEVENT 0x100
    else s
  else setDigPart s p {}

/-- DIGEST_SCAN_PASS (R590): the passes of every part end at the next multiple of 100 ms. -/
def execDigestScanPass (s : State) : Host.Outcome State Fault Refusal :=
  .next (
    if on s dPPATH then
      let s := advance s ((s.now / 100000000 + 1) * 100000000)
      setF (forEach (digParts s) (fun p s => scanPart s p) s) GL_DIGSTAT_STALE (staleParts s)
    else s)

/-- The words of DIGEST_READ (R592). -/
def digestWords (s : State) : List Word :=
  let h := heldSettings s
  let c := match h with | some w => crc64 (wordsBytes (w.drop 16)) | none => 0
  let body := [rd s GL_DIGEST_LO, rd s GL_DIGEST_HI, rd s GL_CFGGEN, BitVec.ofNat 32 (staleParts s)] ++
    (List.range 5).flatMap (fun p =>
      let x := if (digParts s).contains p && partLive s p then digPart s p else {}
      [lo32 x.digest, hi32 x.digest, x.gen, BitVec.ofNat 32 x.passes]) ++
    [rd s GL_SETSEQ, BitVec.ofNat 32 (getF s GL_SETSTAT_SCHEMA), lo32 c, hi32 c, slotVersion s (runSlot s)]
  body ++ List.replicate (64 - body.length) 0

/-- DIGEST_READ. -/
def execDigestRead (t : Nat) (s : State) : Host.Outcome State Fault Refusal :=
  .next (applyCmd s t 0x4C (fun _ s => giveResult s t (rd s GL_DIGEST_LO) (rd s GL_DIGEST_HI) (digestWords s)))

end Sys2Proof.Machine
end

