-- ==== Sys2Proof/Machine/Records.lean ====
section
/-! DEFINITION. Channel records in NOR (R246, R247, R554): writing them, and reading them when the crucible or a channel starts. -/

namespace Sys2Proof.Machine

/-! ## Copies (R24, R246) -/

/-- NOR offset of a copy of a channel's record: 8 KiB a channel in the channel-table partition, 4 KiB a copy. -/
def recordOffset (c copy : Nat) : Nat := Config.norTables.1 + 0x2000 * c + 0x1000 * copy

def chanRec (s : State) (c : Nat) : ChanRec :=
  ⟨tabGet (fun _ => none) s.recs (recordOffset c 0), tabGet (fun _ => none) s.recs (recordOffset c 1)⟩
def setChanRec (s : State) (c : Nat) (r : ChanRec) : State :=
  { s with recs := tabSet (fun _ => none) (tabSet (fun _ => none) s.recs (recordOffset c 0) r.a) (recordOffset c 1) r.b }

/-- The data of a copy, without its sequence number, as words; the spec gives no layout (DESIGN CHOICE, log 54). -/
def RecCopy.data (x : RecCopy) : List Word :=
  x.iz ++ [BitVec.ofNat 32 x.cap, BitVec.ofNat 32 x.cycles, BitVec.ofInt 32 x.dsum.num, BitVec.ofNat 32 x.dsum.den]

/-- The CRC-32C of a copy (R35), and whether the stored one is right. -/
def RecCopy.check (x : RecCopy) : Word := crc32cWords (BitVec.ofNat 32 x.seq :: x.data)
def RecCopy.good (x : RecCopy) : Bool := x.crc == x.check

/-- A copy with its check. -/
def RecCopy.seal (x : RecCopy) : RecCopy := { x with crc := x.check }

/-- Newer of two copies, by the serial arithmetic of R565: the one whose number is ahead. -/
def seqAhead (a b : Nat) : Bool := decide (0 < (a + 2 ^ 32 - b) % 2 ^ 32) && decide ((a + 2 ^ 32 - b) % 2 ^ 32 < 2 ^ 31)

/-! ## Writing (R246) -/

/-- The record of a channel is to be written now: at once after a sample or a reset, else at most once an hour while the
impedance table or `CYCLES` has changed. -/
def recordDue (e : Est) : Bool := e.recDue || e.recDirty

/-- Write the older copy of a record with the next sequence number. -/
def ChanRec.write (r : ChanRec) (mk : Nat → RecCopy) : ChanRec :=
  match r.a, r.b with
  | none, none => { r with a := some (mk 1) }
  | some x, none => { r with b := some (mk ((x.seq + 1) % 2 ^ 32)) }
  | none, some y => { r with a := some (mk ((y.seq + 1) % 2 ^ 32)) }
  | some x, some y =>
    if seqAhead x.seq y.seq then { r with b := some (mk ((x.seq + 1) % 2 ^ 32)) }
    else { r with a := some (mk ((y.seq + 1) % 2 ^ 32)) }

/-- The copy that a write makes of a channel's tables. -/
def recordNow (s : State) (c n : Nat) : RecCopy :=
  let e := est s c
  RecCopy.seal ⟨n, izWords s c, e.cap, e.cycles, e.dsum, 0⟩

/-- CHANNEL_RECORD_WRITE (R246): an hourly write waits until 1 h after the previous one. -/
def execChannelRecordWrite (c : Nat) (s : State) : Host.Outcome State Fault Refusal :=
  .next (
    let e := est s c
    if on s dCRUCIBLE && recordDue e then
      let s := if e.recDue then s else advance s (e.recAt + 3600000000000)
      let s := setChanRec s c ((chanRec s c).write (recordNow s c))
      let s := setEst s c { e with recDue := false, recDirty := false, recAt := s.now, resetTag := none }
      match e.resetTag with
      | some t => endSt s t stSUCCESS
      | none => s
    else s)

/-! ## Reading (R247, R553, R554) -/

/-- What the reading of a pair finds: no record, none accepted, or the copy taken with how it is repaired (0 not at all, else as
in `mirrorRead`). -/
inductive RecRead where
  | empty
  | unreadable
  | copy (x : RecCopy) (k : Nat)
  deriving DecidableEq, Repr

/-- One good copy beside another that is not. -/
def besideGood (x : RecCopy) (y : Option RecCopy) : RecRead :=
  .copy x (match y with | none => 1 | some y => if y.data = x.data ∧ y.seq = x.seq then 2 else 3)

/-- R553 for a pair written alternately: of two good copies with different numbers the newer is taken, with nothing to repair. -/
def ChanRec.read (r : ChanRec) : RecRead :=
  match r.a, r.b with
  | none, none => .empty
  | some x, none => if x.good then besideGood x none else .unreadable
  | none, some y => if y.good then besideGood y none else .unreadable
  | some x, some y =>
    if x.good && y.good then
      if x.seq ≠ y.seq then .copy (if seqAhead x.seq y.seq then x else y) 0
      else if x.data = y.data then .copy x 0 else .unreadable
    else if x.good then besideGood x (some y)
    else if y.good then besideGood y (some x)
    else .unreadable

/-- The record of a channel is read and repaired: the copy accepted, if any. -/
def readRecord (s : State) (c : Nat) : Option RecCopy × State :=
  match (chanRec s c).read with
  | .empty => (none, s)
  | .unreadable => (none, mirrorUnreadable s c)
  | .copy x k => (some x, mirrorRead (if k = 0 then s else setChanRec s c ⟨some x, some x⟩) k (BitVec.ofNat 32 x.seq))

/-- A channel's estimator starts with the crucible or with the channel: from its record, else from the defaults with a
message (R247). -/
def startRecord (s : State) (c : Nat) : State :=
  let (r, s) := readRecord s c
  match r with
  | some r =>
    setTz (modEst (wrList s (IZ c) r.iz) c (fun e => { e with cap := r.cap, cycles := r.cycles, dsum := r.dsum })) c
      ((r.iz.getD 50 0).getLsbD 31 == false)
  | none =>
    let s := modEst (defaultIz s c) c (fun e => { e with cap := 0, cycles := 0, dsum := 0 })
    fault s 0x09 1 (srcChan c 0) 0

/-- Channels that have become present read their records at a snapshot while the crucible runs. -/
def startRecords (s : State) : State :=
  if on s dCRUCIBLE then
    forEach ((s.ests.filter (fun e => e.2.startDue)).map (·.1)) (fun c s => modEst (startRecord s c) c (fun e => { e with startDue := false })) s
  else s

end Sys2Proof.Machine
end

