-- ==== Sys2Proof/Machine/Startup.lean ====
section
/-! DEFINITION. Domains switching on, the order of start-up, resets of the module, supplies and the AON block (R469-R478,
R483-R489, R496, R498). -/

namespace Sys2Proof.Machine

/-! ## The next step (R484) -/

/-- Start-up runs a step: steps 5 and 10 to 12 need `AUX12`. -/
def stepAllowed (s : State) (n : Nat) : Bool := !(onBoot s && (n == 5 || decide (10 ≤ n)))

/-- The step start-up has still to finish next. -/
def nextStep (s : State) : Option Nat :=
  if s.pw.aon && !s.pw.stopped && s.pw.supply != .none then
    ((List.range 13).drop 1).find? (fun n => !s.pw.done.testBit n && stepAllowed s n)
  else none

/-- Domains of a step that are to be powered: those the host has not requested off, and no lost supervisor's. -/
def stepWants (s : State) (n : Nat) : List Nat :=
  (stepDomains s.part n).filter (fun d =>
    (!onRequest s.part d || (rd s CK_PDREQ).getLsbD d) && !(d == dKEEPA && svState s 0 == svLOST) && !(d == dKEEPB && svState s 1 == svLOST))

/-- The next step begins: its domains begin to be switched on. -/
def beginStep (s : State) : State :=
  match nextStep s with
  | some n => forEach ((stepWants s n).filter (fun d => !on s d)) (fun d s => beginOn s d) s
  | none => s

/-! ## A domain starts (R478) -/

/-- The hub starts: its PLL has locked, the power path is disarmed and its gates are high-impedance; registers that stand
for later steps of start-up show that these have not happened. -/
def ppathStart (s : State) : State :=
  let s := setCalConv { s with pw := { s.pw with hubLock := true } } 64 { lastMs := s.now / 1000000 }
  let s := wr s SV_STATUS 0
  let s := forEach ((List.range 2).filter s.pw.svLost.testBit) (fun n s => setSvState s n svLOST) s
  let s := setF (setF s GL_TOPOLOGY_REGIONS_ONLINE 0) PP_STATUS_SUPPLY (if onBoot s then 1 else 0)
  let s := updSlots (wr (setFlag s HI_STATUS_READY false) GL_FWSTAT 0)
  let s := insRestart (energyRestore { s with site := { s.site with lamp := {} } })
  updGates (updTamp s)

/-- The power-path block's converters start: factory constants, accumulators at 0, calibration from the registers (R191, R198). -/
def legsStart (s : State) (x : FactRec) : State :=
  forEach (List.range 13) (fun l s => takeLegCal (setLeg s l { fact := FactRec.at x l, start := s.now }) l) s

/-- A flask bank starts: sequencers and converters run afresh with the factory constants of its record, flask by flask and
channel by channel, and its present channels wait for a pour (R181, R191, R482). The flask hold of a bank that was off is
released, unless the host has asked for it off again while it was switching on (R481). -/
def bankStart (s : State) (d : Nat) (r : FactRec) : State :=
  let fs := (List.range s.part.flasks).filter (fun f => dFlask f == d)
  forEach fs (fun f s =>
    let s := modFlask s f (fun x => { x with running := true, failed := false, retry := .run, retryCount := 0, fltPin := false })
    let s := if (rd s CK_PDREQ).getLsbD d then setHolds s f ((flask s f).holds.filter (· ≠ 17)) else flaskHold s f 17
    let s := setCalConv s f { lastMs := s.now / 1000000 }
    let s := forEach (flaskChans f) (fun c s =>
      let s := modChan s c (fun x => { x with cv := { start := s.now, fact := FactRec.at r (c % 64) }, th := {}, win := {}, vbHist := [] })
      if flag s (CH_CFG_PRESENT c) then setChState s c .hold 8 else s) s
    traceFlask s f) s

/-- A supervisor's domain is on: at step 6 it waits for its image; alone, it restarts. -/
def keepStart (s : State) (n : Nat) : State :=
  if svState s n = svLOST then s
  else if s.pw.done.testBit 6 then svStarted s n
  else setSvState s n svSTARTING

/-- The ladle shows the comparators' shave and stale shaves as they stand (R280, R284). -/
def ladleStart (s : State) : State :=
  let s := setFlag (setF (setF s LD_SHAVE_SHAVE_F (min s.lad.capPrev s.lad.g)) LD_SHAVE_SHAVE_G s.lad.g) LD_STATUS_SHAVING s.lad.shaving
  forEach (List.range s.part.regions) (fun k s => setBitF s LD_STATUS_STALE k (region s k).stale) s

/-- What starts with a domain. -/
def domainStart (s : State) (d : Nat) (r : FactRec) : State :=
  if d = dKEEPA then keepStart s 0
  else if d = dKEEPB then keepStart s 1
  else if d = dHOSTIF then
    wdPower (setFlag { s with hi := { s.hi with resetting := true } } HI_STATUS_READY false)
  else if d = dBBOX then startScan s
  else if d = dTLPHY then tlphyStart s
  else if d = dPPATH then legsStart (ppathStart s) r
  else if d = dLADLE then ladleStart s
  else if d = dATEST ∨ d = dTRACE ∨ d = dCRUCIBLE ∨ (d - 10) % 5 = 0 then s
  else bankStart s d r

/-- A domain with converters, into which factory data is loaded (R191). -/
def hasConverters (d : Nat) : Bool := d == dPPATH || (decide (10 ≤ d) && (d - 10) % 5 != 0)

/-- Time between the switch-ons of two domains: 1 ms for flask banks in start-up, else 100 µs (R481, R488). -/
def onGap (s : State) (d : Nat) : Nat :=
  if 11 ≤ d ∧ (d - 10) % 5 ≠ 0 ∧ !s.pw.done.testBit 11 then 1000000 else 100000

/-- A domain is on: its bit of `CK_PDON` 1, settings held for it applied, factory data loaded from its record `r`, with the message
of a record that fails its check, and its wake marker written (R191, R478, R581, R632). -/
def domainOn (s : State) (d : Nat) (r : FactRec) : State :=
  let s := { s with pw := { s.pw with switchingOn := s.pw.switchingOn &&& ~~~dBit d, dom := s.pw.dom ||| dBit d } }
  let s := domainStart (if d = dPPATH then s else applyHeld s) d r
  let s := if hasConverters d && !FactRec.good r then
      fault s 0x27 2 (if d = dPPATH then srcBlock 0x001 else srcRegion ((d - 10) / 5) 0) (FactRec.norOffset r)
    else s
  updConditions (updCk (wakeMarker s d))

/-- DOMAIN_SWITCH_ON (R478, R481, R488): domains of a step come on in order. -/
def execDomainSwitchOn (d : Nat) (r : FactRec) (s : State) : Host.Outcome State Fault Refusal :=
  .next (
    let first := match nextStep s with
      | some n => ((stepWants s n).takeWhile (· ≠ d)).all (fun e => !s.pw.switchingOn.getLsbD e) || !(stepWants s n).contains d
      | none => true
    if s.pw.switchingOn.getLsbD d && requiredOn s d && s.pw.supply != .none && (!onBoot s || inRevival d) && first then
      let s := advance s (s.pw.lastSwitch + onGap s d)
      domainOn { s with pw := { s.pw with lastSwitch := s.now } } d r
    else s)

/-! ## Step actions -/

/-- Latest timestamp of any accepted ingot, in ns. -/
def latestTime (s : State) : Option Nat :=
  (s.bb.slots.filterMap (fun e => match readPair e.2.a e.2.b with
    | .copy c _ => some ((c.getD 2 0).toNat + 2 ^ 32 * (c.getD 3 0).toNat)
    | _ => none)).foldl (fun (m : Option Nat) t => some (max t (m.getD 0))) none

/-- Module time starts after an AON power-on reset (R496). -/
def startTime (s : State) : State :=
  if s.pw.timeRuns then s
  else
    let v := match latestTime s with
      | some t => (t + 1000000000 + 999999999) / 1000000000 * 1000000000
      | none => 0
    let s := { s with now := v, snap := v, bb := { s.bb with scanAt := v }, fc := { s.fc with refillAt := v }, pw := { s.pw with timeRuns := true, lastSwitch := v, timeFrom := v } }
    wr (wr s CK_TSTART_LO (lo32 v)) CK_TSTART_HI (hi32 v)

/-- Step 3: counts are restored, module time runs, and a start ingot is written (R512, R549, R556, R559). -/
def stepBbox (s : State) : State :=
  let s := startTime (restoreCounts s)
  logOther s 0x0B [rd s CK_CAUSE, BitVec.ofNat 32 (getF s WD_COUNTS_HRST_COUNT), BitVec.ofNat 32 (getF s FC_REPLACE_CAUSES)]

/-- Step 6 with both copies of the boot loader failing (R485): only `BBOX`, `PPATH` and `HOSTIF` stay powered beside AON, and the gates are
high-impedance. -/
def loaderFailed (s : State) : State :=
  let s := switchOffAll s (fun d => d != dBBOX && d != dPPATH && d != dHOSTIF) 2
  setCause (disarm { s with pw := { s.pw with stopped := true, switchingOn := 0 } }) 6

/-- Step 12: each present channel's estimator starts (R220, R247), the replace conditions are watched, and the interface
becomes ready. -/
def stepLast (s : State) : State :=
  let s := forEach ((s.chans.filter (fun e => e.2.state != .absent)).map (·.1)) (fun c s =>
    let x := chan s c
    let fresh := x.state = .hold ∧ x.reason = 8
    modEst s c (fun e => { e with
      startDue := true
      initDue := e.initDue || (decide (¬fresh) && !(e.live && decide (e.start = x.cv.start) && decide (s.now ≤ e.at_ + 86400000000000))) })) s
  let s := { s with fc := { s.fc with condOn := true }, lad := { s.lad with next := boundaryFrom (pourMs s) s.now } }
  updConditions (nextOr s (execHostIfReady s))

/-- A step is finished: its bit is set, its effect given, and the next one begins. -/
def finishStep (s : State) (n : Nat) : State :=
  let s := { s with pw := { s.pw with done := s.pw.done ||| 2 ^ n } }
  let s := match n with
    | 1 => { s with pw := { s.pw with xtalOk := true } }
    | 3 => stepBbox s
    | 8 => let s := settingsStep s; { s with fw := { s.fw with restarting := false } }
    | 10 =>
      let s := { s with pw := { s.pw with runnerLock := 2 ^ s.part.regions - 1, rpllLock := 2 ^ s.part.regions - 1 } }
      applyHeld (forEach (List.range s.part.regions) (fun k s => if on s (dCTL k) then linkTrained s k else s) s)
    | 12 => stepLast s
    | _ => s
  beginStep (updCk s)

/-- A boot-loader copy passes its check: its last word is the CRC-32C of what stands before it (R485). -/
def loaderGood (w : List Word) : Bool := match w.getLast? with | some c => c == crc32cWords w.dropLast | none => false

/-- STARTUP_STEP (R484): the next step of start-up finishes once its domains are on; `copy0` and `copy1` are the words that the
boot ROM reads of the two copies of the boot loader at step 6 (R485). `sv`: a supervisor that restarts alone has checked the
running image (R524, R575); with no good copy of the boot loader it does not start (DESIGN CHOICE, log 98). -/
def execStartupStep (sv : Option Nat) (copy0 copy1 : List Word) (s : State) : Host.Outcome State Fault Refusal :=
  .next (
    match sv with
    | some n =>
      if decide (n < 2) && on s (svDomain n) && svState s n == svSTARTING && s.pw.done.testBit 7 &&
          (loaderGood copy0 || loaderGood copy1) then svChecked s n else s
    | none =>
      match nextStep s with
      | none => s
      | some n =>
        if !(stepWants s n).all (on s) || (n == 2 && !s.pw.refOk) then s
        else if n = 6 ∧ !loaderGood copy0 ∧ !loaderGood copy1 then loaderFailed s
        else if n = 7 then
          let (good, s) := bootImage s
          if good then finishStep s 7 else { s with pw := { s.pw with stopped := true } }
        else finishStep s n)

/-! ## Starts -/

/-- `CK_CAUSE` of a start: its cause and whether it began on `BOOT`; the fields of the last wake stand. -/
def startCause (s : State) (cause : Nat) (boot : Bool) : State :=
  setFlag (setF s CK_CAUSE_CAUSE cause) CK_CAUSE_REVIVAL_START boot

/-- Start-up begins or resumes from a supply, the steps of `done` being finished. -/
def startFrom (s : State) (aux : Bool) (done : Nat) : State :=
  beginStep { s with pw := { s.pw with
    aux12 := s.pw.aux12 || aux, boot := s.pw.boot || !aux, supply := if aux then .aux12 else .boot, revival := !aux
    done, stopped := false, waking := false } }

/-- AON_POWER_UP (R451, R469, R484): AON powers up with the supply that has become valid, latches the straps and starts the
debounce of step 1. -/
def execAonPowerUp (aux : Bool) (straps : Nat) (s : State) : Host.Outcome State Fault Refusal :=
  .next (
    if s.pw.aon then s
    else
      let s := { s with pw := { s.pw with aon := true, straps := straps % 8 }
                        mp := { s.mp with state := .startup, pointer := 0, pagedOk := false } }
      startFrom (startCause s 0 (!aux)) aux 0)

/-! ## Resets of the module (R475, R477) -/

/-- Every switchable domain is reset and start-up resumes at step 3. -/
def moduleReset (s : State) (cause : Nat) : State :=
  let s := switchOffAll s (fun _ => true) 0
  let s := incSat (startCause s cause (onBoot s)) CK_COUNTS_MOD_RESETS
  let s := { s with pw := { s.pw with
    resetKey := none, resetDue := none, switchingOn := 0, switchingOff := [], offByRequest := 0, transport := .run, transportTag := none
    svLost := 0 } }
  startFrom s (!onBoot s) 6

/-- MODULE_RESET: 10 µs after the second key. -/
def execModuleReset (s : State) : Host.Outcome State Fault Refusal :=
  .next (match s.pw.resetDue with
    | some t => moduleReset (advance s t) 2
    | none => s)

/-- TEST_CONNECTOR_RESET. -/
def execTestConnectorReset (s : State) : Host.Outcome State Fault Refusal :=
  .next (if s.pw.aon && s.pw.supply != .none then moduleReset s 3 else s)

/-! ## Supplies (R96, R97, R470-R475, R498, R552) -/

/-- `CK_STATUS` [31:28], as AON trace records carry it. -/
def clockBits (s : State) : Nat :=
  (if s.pw.refOk then 8 else 0) + (if s.pw.xtalOk then 4 else 0) + (if s.pw.hubLock then 2 else 0) + (if s.pw.holdupOk then 1 else 0)

/-- Ports look at `LES` again after a change of supply; on `BOOT` a port that presents source unattached becomes a sink, as every
port then acts, while an attached one keeps its role; a port not attached takes its `PREF` again at its next state entry after the
return (R307, R310; DESIGN CHOICE, log 60). -/
def portsReview (s : State) : State :=
  if on s dTLPHY then
    forEach (List.range 8) (fun n s =>
      let s := lesReview (updLesIn s n) n
      let s := if onBoot s && !attached s n then modTl s n (fun x => { x with pref := 0, bootPref := true }) else s
      if onBoot s && presentsSrc (astate s n) && !attached s n then unattached s n else s) s
  else s

/-- The module has changed its supply between `AUX12` and `BOOT`: `SUPPLY_CHG`. -/
def supplyChanged (s : State) : State :=
  let s := setF s PP_STATUS_SUPPLY (if onBoot s then 1 else 0)
  let s := offer s 0x60 2 (BitVec.ofNat 32 (clockBits s))
  updCk (portsReview (raisePP s ppSUPPLY_CHG))

/-- AUX12_INVALID (R97, R473): the module changes to `BOOT`; everything outside the revival set goes off in power-down
order, and the active sprue stops being active without a fallback. -/
def execAux12Invalid (s : State) : Host.Outcome State Fault Refusal :=
  .next (
    let s := { s with pw := { s.pw with aux12 := false, boot := true } }
    if s.pw.aon && s.pw.supply == .aux12 then
      let s := { deactivate s with pp := { (deactivate s).pp with dead := none } }
      let s := switchOffAll s (fun d => !inRevival d) 4
      let s := { s with pw := { s.pw with
        supply := .boot, revival := true, done := s.pw.done &&& 0x3DF
        switchingOn := s.pw.switchingOn &&& BitVec.ofNat 32 (2 ^ dPPATH + 2 ^ dBBOX + 2 ^ dKEEPA + 2 ^ dKEEPB + 2 ^ dTLPHY) }
                        fc := { s.fc with condOn := false } }
      if on s dPPATH then supplyChanged (updGates (updCapability s)) else s
    else s)

/-- AUX12_VALID (R96, R473, R498, R499): `AUX12` has been valid for 10 ms: the module returns to it and start-up goes on, or
a module that waits for a supply after a wake starts. -/
def execAux12Valid (s : State) : Host.Outcome State Fault Refusal :=
  .next (
    let s := { s with pw := { s.pw with aux12 := true } }
    if s.pw.aon && s.pw.supply == .boot then
      let s := { s with pw := { s.pw with supply := .aux12, revival := false } }
      let s := if on s dPPATH then supplyChanged (chooseActive s) else s
      beginStep s
    else if s.pw.aon && s.pw.waking then startFrom (startCause s 4 false) true 2
    else s)

/-- BOOT_VALID (R498, R499): with no `AUX12`, a module that waits for a supply after a wake starts as a revival; an unpowered
one does so with AON_POWER_UP. -/
def execBootValid (s : State) : Host.Outcome State Fault Refusal :=
  .next (
    let s := { s with pw := { s.pw with boot := true } }
    if s.pw.aon && s.pw.waking && !s.pw.aux12 then startFrom (startCause s 4 true) false 2 else s)

/-- SUPPLY_FAILURE (R471, R552): every switchable domain but `BBOX` is isolated; the power-loss ingot, the energy ingot and
the Major and Critical messages remain to be written. In transport mode, and in a wake that waits for a supply, the two supplies are
then absent (R499). -/
def execSupplyFailure (s : State) : Host.Outcome State Fault Refusal :=
  .next (
    if s.pw.aon && s.pw.supply != .none then
      let loss := [BitVec.ofNat 32 (getF s WD_COUNTS_HRST_COUNT), BitVec.ofNat 32 (getF s FC_REPLACE_CAUSES),
        Config.powerLossWord (s.pw.supply == .aux12) s.pw.holdupOk]
      let items : List LogItem := { itype := 0x04, time := stamp s, content := loss } ::
        (if on s dPPATH then [{ itype := 0x08, time := stamp s, content := energyContent s 1 }] else [])
      let bits := BitVec.ofNat 32 (clockBits s)
      let s := offer (switchOffAll s (fun d => d != dBBOX) 0) 0x60 5 bits
      let s := { s with
        pw := { s.pw with aux12 := false, boot := false, supply := .none, switchingOn := 0, switchingOff := [], offByRequest := 0
                          done := s.pw.done &&& 0xE, transport := .run, transportTag := none, resetKey := none, resetDue := none }
        trc := { s.trc with sleep := [(dTRACE, some (4, 0))] } }
      let s := if on s dBBOX then
          updLogq { s with fc := { s.fc with logq := items ++ s.fc.logq.filter (fun x => decide (2 ≤ x.sev) && x.budgeted), condOn := false } }
        else s
      updGates s
    else { s with pw := { s.pw with aux12 := false, boot := false } })

/-- SUPPLY_FAIL_RESTART (R472): a supply returns before AON loses power, and start-up resumes at step 4. -/
def execSupplyFailRestart (aux : Bool) (s : State) : Host.Outcome State Fault Refusal :=
  .next (
    if s.pw.aon && s.pw.supply == .none && s.pw.transport == .run && !s.pw.waking then
      let s := incSat (startCause { s with pw := { s.pw with holdupOk := false } } 1 (!aux)) CK_COUNTS_SUPPLY_FAILS
      startFrom s aux s.pw.done
    else s)

/-- HOLDUP_CHARGED (R474). -/
def execHoldupCharged (s : State) : Host.Outcome State Fault Refusal :=
  .next (if on s dBBOX && s.pw.supply != .none then updCk { s with pw := { s.pw with holdupOk := true } } else s)

/-- What outlives the loss of AON: MRAM and NOR, fuses, the levels on the tie-link connectors. -/
def lastingPart (s : State) : State :=
  { part := s.part, fuses := s.fuses, bb := { slots := s.bb.slots }, recs := s.recs
    fw := { slotA := s.fw.slotA, slotB := s.fw.slotB, total := s.fw.total, set0 := s.fw.set0, set1 := s.fw.set1 }
    tls := (s.tls.map (fun (e : Nat × TlPort) => (e.1, { pinLes := e.2.pinLes, pinLcw := e.2.pinLcw }))).filter (fun (e : Nat × TlPort) => e.2 != {})
    free := s.free, out := s.out, pending := s.pending }

/-- AON_POWER_ON_RESET (R102, R471, R475): AON loses power; the next start is from step 1. -/
def execAonPowerOnReset (s : State) : Host.Outcome State Fault Refusal :=
  .next (if s.pw.aon && s.pw.supply == .none then lastingPart s else s)

/-! ## Transport mode (R100-R104, R421, R499) -/

/-- A contract other than the default is held on a port (R100). -/
def anyContract (s : State) : Bool := (List.range 8).any (fun n => rd s (TL_CONTRACT n) != 0)

/-- The entry is refused (R100); `boot` is the level of `BOOT` in 10 mV. -/
def transportRefused (s : State) (boot : Nat) : Bool :=
  (List.range 4).any (fun n => decide (2800 < (sprue s n).vs)) || decide (900 < boot) || anyContract s ||
  decide ((chan s 0).cv.vb < 24000)

/-- Commands with write effects that have been started and not yet applied find transport entry in DRAIN (R421). -/
def drainBusy (s : State) : State :=
  forEach ((allTags s).map (·.1)) (fun t s =>
    match getTag s t with
    | some x => if x.state == .started && writesState x then endSt s t stBUSY else s
    | none => s) s

/-- TRANSPORT: pours stop, every setpoint is 0 A, and the 20 ms drain starts. -/
def execTransport (t boot : Nat) (s : State) : Host.Outcome State Fault Refusal :=
  .next (applyCmd s t 0x32 (fun _ s =>
    if s.pw.transport ≠ .run then endSt s t stBUSY
    else if transportRefused s boot then endSt s t stREFUSED
    else
      let pw := { s.pw with
        transport := .drain, timer := s.now + 20000000, transportTag := some t, boot := decide (860 < boot), ch0vb := (chan s 0).cv.vb / 10 }
      drainBusy (runTag { s with pw, lad := { s.lad with pour := none } } t)))

/-- The command's completion is written while `HOSTIF` is on (R421). -/
def flushTag (s : State) (t : Nat) : State :=
  match getTag s t with
  | some x => forEach (List.range 1024) (fun _ s => if (getTag s t).isSome then nextOr s (execCompletionWrite (sqCq s x.sq) s) else s) s
  | none => s

/-- SHUTDOWN: gates and pins close, the transport and energy ingots are written, and the domains go off in order. -/
def shutdown (s : State) : State :=
  let s := match s.pw.transportTag with
    | some t => flushTag (endSt s t stSUCCESS) t
    | none => s
  let s := updGates { s with pw := { s.pw with transport := .shutdown, transportTag := none } }
  let s := if on s dTLPHY then forEach (List.range 8) (fun n s => lesOff (contractDefault s n) n) s else s
  let s := writeNow (writeNow s 0x09 [rd s PP_STATUS, BitVec.ofNat 32 s.pw.ch0vb]) 0x08 (energyContent s 2)
  switchOffAll s (fun _ => true) 3

/-- A channel current of 0.50 A or more in magnitude. -/
def conducting (s : State) (c : Nat) : Bool := flaskOn s (chFlask c) && decide (50 ≤ (chan s c).i.natAbs)

/-- TRANSPORT_DRAIN_DONE. -/
def execTransportDrainDone (s : State) : Host.Outcome State Fault Refusal :=
  .next (
    if s.pw.transport = .drain ∧ !(List.range s.part.channels).any (conducting s) then shutdown s else s)

/-- TRANSPORT_DRAIN_TIMEOUT: channels that still conduct are held with reason 7. -/
def execTransportDrainTimeout (s : State) : Host.Outcome State Fault Refusal :=
  .next (
    if s.pw.transport = .drain then
      let s := advance s s.pw.timer
      shutdown (forEach ((List.range s.part.channels).filter (conducting s)) (fun c s => holdChan s c 7) s)
    else s)

/-- TRANSPORT_ABORT: a sprue above 30 V or `BOOT` at 9.0 V ends the entry. -/
def execTransportAbort (s : State) : Host.Outcome State Fault Refusal :=
  .next (
    if s.pw.transport = .drain then
      let s := match s.pw.transportTag with | some t => endSt s t stABORTED | none => s
      raisePP { s with pw := { s.pw with transport := .run, transportTag := none } } ppTRANSPORT_ABORT
    else s)

/-- TRANSPORT_ENTER: the last domain is off; AON alone runs, module time from the crystal. -/
def execTransportEnter (s : State) : Host.Outcome State Fault Refusal :=
  .next (
    if s.pw.transport = .shutdown ∧ s.pw.dom = 0 then
      let s := { s with pw := { s.pw with
        transport := .transport, supply := .none, revival := false, refOk := false, done := 2, switchingOn := 0, switchingOff := [], offByRequest := 0
        resetKey := none, resetDue := none }
                        mp := { s.mp with txn := .idle, latch := none, failed := false } }
      updGates (setTimeSrc s .crystal)
    else s)

/-- TRANSPORT_WAKE_DETECT: sprues above 30 V (`sp`) or `BOOT` at 9.0 V start the 10 ms debounce. -/
def execTransportWakeDetect (sp : Nat) (boot : Bool) (s : State) : Host.Outcome State Fault Refusal :=
  .next (
    if s.pw.transport = .transport ∧ (sp % 16 ≠ 0 ∨ boot) then
      { s with pw := { s.pw with transport := .wake, timer := s.now + 10000000, wakeSp := sp % 16, wakeBoot := boot } }
    else s)

/-- TRANSPORT_WAKE_LAPSE. -/
def execTransportWakeLapse (s : State) : Host.Outcome State Fault Refusal :=
  .next (if s.pw.transport = .wake then { s with pw := { s.pw with transport := .transport } } else s)

/-- TRANSPORT_WAKE: gates are released, the reason is recorded, and start-up begins at step 2 once a supply is valid. -/
def execTransportWake (s : State) : Host.Outcome State Fault Refusal :=
  .next (
    if s.pw.transport = .wake then
      let s := advance s s.pw.timer
      let boot := s.pw.boot || s.pw.wakeBoot
      let s := { s with pw := { s.pw with transport := .run, boot, waking := true, timer := s.now + 5000000000 } }
      let s := startCause s 4 (boot && !s.pw.aux12)
      let s := setFlag (setF s CK_CAUSE_WAKE_SP s.pw.wakeSp) CK_CAUSE_WAKE_BOOT s.pw.wakeBoot
      let s := updGates (offer s 0x60 4 (rd s CK_CAUSE))
      if s.pw.aux12 then startFrom s true 2 else if boot then startFrom s false 2 else s
    else s)

/-- WAKE_SUPPLY_TIMEOUT: 5 s without a valid supply. -/
def execWakeSupplyTimeout (s : State) : Host.Outcome State Fault Refusal :=
  .next (
    if s.pw.waking then
      let s := advance s s.pw.timer
      let mp := { s.mp with txn := .idle, latch := none, failed := false }
      updGates (setF { s with mp, pw := { s.pw with waking := false, transport := .transport } } CK_CAUSE_CAUSE 5)
    else s)

end Sys2Proof.Machine
end

