-- ==== Sys2Proof/Machine/MgmtPort.lean ====
section
/-! DEFINITION. What a read of a register or table word returns (R370, R480), and the I2C management port (chapter 12). -/

namespace Sys2Proof.Machine

/-! ## Reads -/

/-- A word with a field replaced. -/
def setW (w : Word) (f : Fld) (v : Nat) : Word := setBits w f.lo f.wid v

/-- Commands that wait for capture pages (R404). -/
def capWaiters (s : State) : Nat :=
  (s.hi.captures.filter (fun x => x.state == .waiting)).length +
  ((allTags s).filter (fun e => e.2.state == .started && e.2.opcode == 0x29)).length

/-- Time left of the watchdog's running timer, ms. -/
def wdLeft (s : State) : Nat :=
  if wdState s = wdBOOT ∨ wdState s = wdRUN ∨ wdState s = wdPULSE then satTo 65535 ((s.wd.deadline - wdTime s) / 1000000) else 0

/-- Seconds of probation left (R571). -/
def probLeft (s : State) : Nat := match s.fw.probEnd with | some t => satTo 65535 ((t - s.now) / 1000000000) | none => 0

/-- Age in units of 10 ms of a time, 0 where there is none. -/
def age10 (s : State) (top : Nat) (t : Option Nat) : Nat := match t with | some t => satTo top ((s.now - t) / 10000000) | none => 0

/-- The register at a BAR0 offset as it stands, for the fields that follow the module's inner state. -/
def liveReg (s : State) (a : Nat) : Word :=
  let w := rd s a
  if a = GL_PROBATION then BitVec.ofNat 32 (probLeft s)
  else if a = GL_DIGSTAT then setW w GL_DIGSTAT_STALE (staleParts s)
  else if a = CK_TIME_LO then lo32 (stamp s)
  else if a = CK_TIME_HI then s.pw.latchedTimeHi
  else if a = HI_TAGS then setW w HI_TAGS_TAGS_USED (allTags s).length
  else if a = HI_CAPMEM then setW (setW w HI_CAPMEM_CAP_FREE s.hi.capFree) HI_CAPMEM_CAP_WAITERS (capWaiters s)
  else if 0x11000 ≤ a ∧ a < 0x11200 ∧ a % 0x20 = 0x10 then
    let l := sqTags s ((a - 0x11000) / 0x20)
    BitVec.ofNat 32 ((l.filter (fun e => e.2.state == .fetched && !startable s e.2)).length * 65536 + l.length)
  else if a = WD_STATUS then
    setW (setW w WD_STATUS_OPEN (if wdNotEarly s then 1 else 0)) WD_STATUS_TIME_LEFT (wdLeft s)
  else if a = SV_STATUS then svStatus s
  else if a = FC_INJ then
    (match s.fc.arm with | some x => setW w FC_INJ_ARM_LEFT ((x.deadline - s.now + 999999999) / 1000000000) | none => w)
  else if a = FC_ESCUSE then BitVec.ofNat 32 (min 2047 (s.fc.esc.filter (escUsed s)).length)
  else if a = TRC_AONQ then setW (setW w TRC_AONQ_AON_OVF (satTo 255 s.trc.aonOvf)) TRC_AONQ_AON_FILL s.trc.aonq.length
  else if a = LP_STATUS then lampStatus s
  else if 0x30000 ≤ a ∧ a < 0x32000 then
    let n := (a - 0x30000) / 0x400
    if a = TL_CSTATE n then setW w (TL_CSTATE_KA_AGE n) (age10 s 65535 (if (tl s n).kaAt = 0 then none else some (tl s n).kaAt))
    else if a = TL_FLEET n then setW w (TL_FLEET_F_AGE n) (age10 s 32767 (tl s n).budgetAt)
    else w
  else w

/-- The word at a BAR2 offset: the live words of channel and flask entries are those of the latest snapshot (R142). -/
def liveTable (s : State) (o : Nat) : Word := rd s (bar2 + o)

/-- What a read of an aligned word returns: 0 while its domain is off, and beyond the end of its space. -/
def viewReg (s : State) (a : Nat) : Word :=
  if a < 0x400000 then
    match wordDomain a with
    | some d => if on s d then liveReg s a else 0
    | none => if on s dPPATH then liveReg s a else 0
  else 0
def viewTable (s : State) (o : Nat) : Word :=
  if o < 0x4000000 then (if on s (bar2Domain o) then liveTable s o else 0) else 0

/-- A read of BAR0 or BAR4 returns the enabled bytes of the addressed word (R370): doorbells read as 0 (R383), the MSI-X table and the pending
bits as they stand, everything else of BAR4 as 0. -/
def viewBar4 (s : State) (o : Nat) : Word :=
  if (0x8000 ≤ o ∧ o < 0x8400) ∨ (0xC000 ≤ o ∧ o < 0xC008) then rd s (bar4 + o) else 0
def barRead (s : State) (bar o be : Nat) : Word :=
  if !on s dHOSTIF then 0 else (if bar = 0 then viewReg s (o / 4 * 4) else viewBar4 s (o / 4 * 4)) &&& byteMask be

/-- A read of up to 64 bytes of BAR2 (R370): each aligned word within it is read as one. -/
def bar2Read (s : State) (o n : Nat) : List Byte :=
  if on s dHOSTIF && decide (n ≤ 64) then
    ((wordsBytes ((List.range ((o % 4 + n + 3) / 4)).map (fun i => viewTable s (o / 4 * 4 + 4 * i)))).drop (o % 4)).take n
  else []

/-! ## The port's view (R451-R453, R466) -/

/-- A bit of `GL_MPCFG`, which is at its reset value while `PPATH` is off. -/
def mpCfg (s : State) (f : Fld) : Bool := !on s dPPATH || flag s f

/-- The port is in transport mode. -/
def portAsleep (s : State) : Bool := s.pw.transport == .transport || s.pw.transport == .wake

def portCode : PortState → Nat
  | .startup => 0
  | .run => 1
  | .test => 2
  | .recovery => 3

def setMp (s : State) (f : Port → Port) : State := { s with mp := f s.mp }
def portErr (s : State) (bit : Nat) : State := setMp s (fun p => { p with err := p.err ||| 2 ^ bit })

/-- Bits of `MP_ERR`. -/
def peFRAME : Nat := 7
def peDISCARD : Nat := 6
def peSTRETCH : Nat := 5
def peCLEAR : Nat := 4
def peWR_IGN : Nat := 3
def peNOT_READY : Nat := 2

/-- A counter of `GL_MPSTAT`, in `PPATH`. -/
def portCount (s : State) (f : Fld) : State := if on s dPPATH then incSat s f else s

/-- `MP_SUMMARY`. -/
def mpSummary (s : State) : Word :=
  let b (v : Bool) (i : Nat) : Nat := if v then 2 ^ i else 0
  BitVec.ofNat 32 (b (on s dPPATH && flag s SV_STATUS_ACTIVE_SV) 4 + b (on s dBBOX && flag s FC_STATUS_REPLACE) 3 +
    b (on s dPPATH && ppSafe s) 2 + b (on s dPPATH && quarantine s) 1 + b s.fw.probEnd.isSome 0)

/-- The fixed word at a window offset. -/
def fixedWord (s : State) (o : Nat) : Word :=
  if o = 0x80 then s.mp.page
  else if o = 0x84 then
    BitVec.ofNat 32 (portCode s.mp.state * 64 + (if s.mp.pagedOk then 32 else 0) + (if mpCfg s GL_MPCFG_WR_EN then 16 else 0) +
      (if mpCfg s GL_MPCFG_BAR2_EN then 8 else 0) + s.pw.straps + s.mp.err * 256)
  else if o = 0x88 then resetWord s.part GL_IDENT
  else if o = 0x8C then (if on s dPPATH then rd s GL_TOPOLOGY else resetWord s.part GL_TOPOLOGY)
  else if o = 0x90 then BitVec.ofNat 32 (stamp s / 1000000000)
  else if o = 0x94 then mpSummary s
  else 0

/-- Byte `i` of a word. -/
def byteOf (w : Word) (i : Nat) : Byte := BitVec.ofNat 8 (bits w (8 * i) 8)

/-- `SPACE` and `PAGE` of `MP_PAGE`, and the offset of a paged word. -/
def pageSpace (s : State) : Bool := s.mp.page.getLsbD 31
def pagedAddr (s : State) (o : Nat) : Nat := bits s.mp.page 0 20 * 0x80 + o / 4 * 4

/-- The pointer after a byte: it advances within its half (R454). -/
def nextPointer (p : Nat) : Nat := if p = 0x7F then 0x00 else if p = 0xFF then 0x80 else p + 1

/-! ## Transactions -/

/-- Nothing staged stays; with something staged, `DISCARD` and its counter (R462, R463). -/
def dropGroups (s : State) : State :=
  if s.mp.staged.isEmpty then s
  else portCount (portErr (setMp s (fun p => { p with staged := [] })) peDISCARD) GL_MPSTAT_DISCARDS

/-- The port answers (R452): AON is powered, the module is not in transport mode, and `EN` is 1. -/
def portAnswers (s : State) : Bool := s.pw.aon && !portAsleep s && mpCfg s GL_MPCFG_EN

/-- I2C_ADDRESS (R452): a START and an address byte; an address that is not acknowledged leaves the port idle. -/
def execI2cAddress (addr : Nat) (read : Bool) (s : State) : Host.Outcome State Fault Refusal :=
  .next (
    let ack := portAnswers s && addr == 0x30 + s.pw.straps
    let s := setMp s (fun p => { p with failed := false, latch := none, txn := if ack then (if read then .read else .pointer) else .idle })
    emit s (.i2c ack none))

/-- A written byte takes effect at the pointer, or is staged there (R456, R459). -/
def writeByte (s : State) (p : Nat) (b : Byte) : State :=
  if p < 0x84 then setMp s (fun m => { m with staged := tabSet (fun _ => none) m.staged p (some b) })
  else if p = 0x85 then setMp s (fun m => { m with err := m.err - (m.err &&& (b.toNat / 4 * 4)) })
  else s

/-- The port no longer answers in mid-transaction: it releases the lines and takes no further part (R452). -/
def portLeaves (s : State) : State := emit (setMp s (fun p => { p with latch := none, failed := false, txn := .idle })) (.i2c false none)

/-- I2C_BYTE_WRITE (R454): the first byte is the pointer. -/
def execI2cByteWrite (b : Byte) (s : State) : Host.Outcome State Fault Refusal :=
  .next (
    if s.mp.txn != .idle && !portAnswers s then portLeaves s
    else match s.mp.txn with
    | .pointer =>
      if s.mp.failed then emit s (.i2c false none)
      else emit (setMp s (fun p => { p with pointer := b.toNat, txn := .write })) (.i2c true none)
    | .write =>
      if s.mp.failed then emit s (.i2c false none)
      else
        let s := writeByte s s.mp.pointer b
        emit (setMp s (fun p => { p with pointer := nextPointer p.pointer })) (.i2c true none)
    | _ => s)

/-- A paged word is fetched and latched (R455); a fetch of `CK_TIME_LO` latches the upper half of module time (R497). -/
def fetchPaged (s : State) (o : Nat) : State :=
  let a := pagedAddr s o
  if !s.mp.pagedOk || (pageSpace s && !mpCfg s GL_MPCFG_BAR2_EN) then
    setMp (portErr s peNOT_READY) (fun p => { p with latch := some (o / 4, 0) })
  else
    let s := xfer s hubFabric 3 rqMgmt 4
    let s := if !pageSpace s && a == CK_TIME_LO then nextOr s (execCkTimeRead s) else s
    let w := if pageSpace s then viewTable s a else viewReg s a
    setMp s (fun p => { p with latch := some (o / 4, w) })

/-- A byte has been sent: the pointer advances, and after a not-acknowledge the port sends no more (R454, R463). -/
def byteSent (s : State) (nack : Bool) : State :=
  setMp s (fun p => { p with pointer := nextPointer p.pointer, txn := if nack then .idle else p.txn })

/-- I2C_BYTE_READ (R454, R455, R460, R463). -/
def execI2cByteRead (nack : Bool) (s : State) : Host.Outcome State Fault Refusal :=
  .next (
    match s.mp.txn with
    | .read =>
      let o := s.mp.pointer
      if !portAnswers s then portLeaves s
      else if s.mp.failed then emit (byteSent s nack) (.i2c true (some 0xFF))
      else
        let latched := match s.mp.latch with | some (k, _) => k == o / 4 && o % 4 != 0 | none => false
        let s := if o < 0x80 && !latched then fetchPaged s o else s
        let w := if o < 0x80 then (match s.mp.latch with | some (_, w) => w | none => 0) else fixedWord s (o / 4 * 4)
        emit (byteSent s nack) (.i2c true (some (byteOf w (o % 4))))
    | _ => s)

/-- A complete group commits as a BAR0 write over the hub fabric, or is ignored (R457, R458). -/
def commitGroup (s : State) (o : Nat) (v : Word) : State :=
  if o = 0x80 then setMp s (fun p => { p with page := v &&& 0x800FFFFF })
  else if !s.mp.pagedOk then s
  else
    let a := pagedAddr s o
    if !mpCfg s GL_MPCFG_WR_EN || pageSpace s || (decide (0x10000 ≤ a) && decide (a < 0x20000)) || a == GL_MPCFG then portErr s peWR_IGN
    else if a < 0x400000 then regWrite (xfer s hubFabric 3 rqMgmt 4) a v
    else s

/-- The groups of staged bytes, in increasing offset: (offset, word when whole). -/
def groups (l : Tab (Option Byte)) : List (Nat × Option Word) :=
  let b (i : Nat) : Option Byte := tabGet (fun _ => none) l i
  ((List.range 33).map (· * 4)).filterMap (fun o =>
    match b o, b (o + 1), b (o + 2), b (o + 3) with
    | some w, some x, some y, some z => some (o, some (bytesWord [w, x, y, z]))
    | none, none, none, none => none
    | _, _, _, _ => some (o, none))

/-- The transaction ends: whole groups commit, others are discarded (R456); a paged group with no paged half is discarded,
with `NOT_READY` (R461). -/
def endTransaction (s : State) : State :=
  let g := groups s.mp.staged
  let lost := g.any (fun e => e.2.isNone || (decide (e.1 < 0x80) && !s.mp.pagedOk))
  let s := setMp s (fun p => { p with staged := [], txn := .idle, latch := none, failed := false })
  let s := if lost then portCount (portErr s peDISCARD) GL_MPSTAT_DISCARDS else s
  let s := if g.any (fun e => decide (e.1 < 0x80) && !s.mp.pagedOk) then portErr s peNOT_READY else s
  forEach g (fun (e : Nat × Option Word) s => match e.2 with | some v => commitGroup s e.1 v | none => s) s

/-! ## States (R461) -/

/-- The hub fabric runs: step 4 of start-up has finished (R484). -/
def fabricRuns (s : State) : Bool := on s dPPATH && s.pw.done.testBit 4

/-- The state RECOVERY and TEST are left for. -/
def settlePort (s : State) : State :=
  if s.atst.boundary then setMp s (fun p => { p with state := .test, pagedOk := false })
  else if fabricRuns s then setMp s (fun p => { p with state := .run, pagedOk := true })
  else setMp s (fun p => { p with state := .startup, pagedOk := false })

def leaveRecovery (s : State) : State := if s.mp.state = .recovery then settlePort s else s

/-- I2C_STOP (R456, R461). -/
def execI2cStop (s : State) : Host.Outcome State Fault Refusal :=
  .next (if s.pw.aon then leaveRecovery (endTransaction s) else s)

/-- I2C_REPEATED_START (R456): the transaction goes on with an address byte; nothing commits. -/
def execI2cRepeatedStart (s : State) : Host.Outcome State Fault Refusal :=
  .next (setMp s (fun p => { p with txn := .idle, latch := none, failed := false }))

/-- I2C_FRAME_ERROR (R462): a START, or with `stop` a STOP, in mid-byte. -/
def execI2cFrameError (stop : Bool) (s : State) : Host.Outcome State Fault Refusal :=
  .next (
    if s.pw.aon then
      let s := portCount (portErr (dropGroups s) peFRAME) GL_MPSTAT_FRAME_ERRS
      let s := setMp s (fun p => { p with txn := .idle, latch := none, failed := false })
      if stop then leaveRecovery s else s
    else s)

/-- I2C_STRETCH_TIMEOUT (R460). -/
def execI2cStretchTimeout (s : State) : Host.Outcome State Fault Refusal :=
  .next (
    if s.mp.txn = .idle then s
    else portCount (portErr (setMp s (fun p => { p with failed := true })) peSTRETCH) GL_MPSTAT_STRETCH_TO)

/-- I2C_BUS_CLEAR (R463). -/
def execI2cBusClear (s : State) : Host.Outcome State Fault Refusal :=
  .next (
    if s.pw.aon then
      let s := portCount (portErr (dropGroups s) peCLEAR) GL_MPSTAT_BUS_CLEARS
      setMp s (fun p => { p with state := .recovery, txn := .idle, latch := none, failed := false })
    else s)

/-- I2C_RECOVERY_END: both lines have been high for 100 µs. -/
def execI2cRecoveryEnd (s : State) : Host.Outcome State Fault Refusal := .next (leaveRecovery s)

/-- MP_PORT_READY: the hub fabric runs. -/
def execMpPortReady (s : State) : Host.Outcome State Fault Refusal :=
  .next (
    if s.mp.state = .startup && fabricRuns s && !portAsleep s then
      setMp s (fun p => { p with state := .run, pagedOk := true })
    else s)

/-- BOUNDARY_ACCESS_START: boundary access is enabled on the test connector. -/
def execBoundaryAccessStart (s : State) : Host.Outcome State Fault Refusal :=
  .next (
    let s := { s with atst := { s.atst with boundary := true } }
    if s.mp.state = .run then setMp s (fun p => { p with state := .test, pagedOk := false }) else s)

/-- BOUNDARY_ACCESS_END. -/
def execBoundaryAccessEnd (s : State) : Host.Outcome State Fault Refusal :=
  .next (
    let s := { s with atst := { s.atst with boundary := false } }
    if s.mp.state = .test then settlePort s else s)

end Sys2Proof.Machine
end

