-- ==== Sys2Proof/Machine/Telemetry.lean ====
section
/-! DEFINITION. Telemetry: samples, reported values, frames and their coding (R438-R449). -/

namespace Sys2Proof.Machine

/-! ## Fields of `PARAM0` and `PARAM1` (R442) -/

def telEn (w : Word) : Bool := w.getLsbD 31
def telRing (w : Word) : Nat := bits w 28 2
def telK (w : Word) : Nat := bits w 24 4
def telMask (w : Word) : Nat := bits w 20 4
/-- Samples per frame, F. -/
def telF (w : Word) : Nat := bits w 16 4 + 1
/-- Sample period P, ms. -/
def telP (w : Word) : Nat := bits w 0 10
/-- Signals carried, in increasing order. -/
def telSigs (w : Word) : List Nat := (List.range 4).filter (fun i => (telMask w).testBit i)
/-- Key-frame interval. -/
def telKeyInt (w : Word) : Nat := let n := bits w 0 16; if n = 0 then 1000 else n

/-- The check of R442. -/
def telCheck (w : Word) : Bool :=
  !telEn w || (telMask w != 0 && decide (1 ≤ telP w) && decide (telP w ≤ 1000) && decide (telF w * (telSigs w).length ≤ 8))

/-- TELEMETRY (R442, R443): checked whole; each flask takes it at the next millisecond that is a multiple of P × F. -/
def execTelemetry (t : Nat) (s : State) : Host.Outcome State Fault Refusal :=
  .next (applyCmd s t 0x04 (fun x s =>
    if telCheck (x.param 0) then
      forEach (selRange (x.word 1)) (fun f s => setTele s f { tele s f with next := (tele s f).next ++ [(x.param 0, x.param 1, t)] })
        (pendTag s t)
    else endTag s t stCHECK_FAILED (BitVec.ofNat 32 (selFirst (x.word 1))) 0))

/-! ## Samples (R438, R439) -/

/-- Charge of a channel from the telemetry origin to this snapshot, C. -/
def telQ (s : State) (c : Nat) (x : TelCharge) : Rat :=
  x.q + accCharge (accDiff (chan s c).cv.acc x.acc) (getF s (MC_SHUNT_SHUNT c))

/-- The current signal of a sample at period `p` ms: the step of the rounded charge with the excess carried. The charge is folded at each
sample, so that no difference of accumulator values spans more than one sample. -/
def telCurrent (s : State) (c p : Nat) (x : TelCharge) : Int × TelCharge :=
  let n := roundRat (telQ s c x * 100000 / (p : Nat))
  let m := n - x.sent + x.excess
  let r := clampI (-32768) 32767 m
  (r, { x with q := telQ s c x, acc := (chan s c).cv.acc, sent := n, excess := m - r })

/-- The measured value of a signal other than the current. -/
def telValue (s : State) (c sig : Nat) : Int :=
  match sig with
  | 1 => (chan s c).cv.vb
  | 2 => (chan s c).th.temp
  | _ => getF s (ES_SOC_SOC c)

/-- The 16-bit range of a signal. -/
def telRange (sig : Nat) : Int × Int := if sig = 0 ∨ sig = 2 then (-32768, 32767) else (0, 65535)

/-! ## Reported values (R448) -/

/-- One step of a coder under bound `k`: the reported value and the new state. -/
def codeStep (k : Nat) (lo hi : Int) (x : Coder) (m : Int) : Int × Coder :=
  if x.have_ && decide ((m - x.prev).natAbs ≤ k) && decide ((m + x.err - x.prev).natAbs ≤ k) then
    (x.prev, { x with err := m + x.err - x.prev })
  else
    let r := clampI lo hi (m + x.err)
    (r, { have_ := true, prev := r, err := m + x.err - r })

/-- A channel and signal at a sample: its measured value is coded and joins the frame. -/
def telChanSig (s : State) (f l sig : Nat) : State :=
  let x := tele s f
  let c := 16 * f + l
  let (m, s) :=
    if sig = 0 then
      let (m, q) := telCurrent s c (telP x.cfg) (tabGet (fun _ => {}) x.charge l)
      (m, setTele s f { x with charge := tabIns l q (tabDel l x.charge) })
    else (telValue s c sig, s)
  let x := tele s f
  let k := tabGet (fun _ => {}) x.coders (16 * sig + l)
  let (lo, hi) := telRange sig
  let (r, k') := codeStep (telK x.cfg) lo hi k m
  setTele s f { x with
    coders := tabSet (fun _ => {}) x.coders (16 * sig + l) k'
    codes := x.codes ++ [⟨sig, l, k.prev, r⟩] }

/-! ## Frames (R440, R443-R447) -/

/-- Local channels of a frame: those present. -/
def telPresent (s : State) (f : Nat) : List Nat := (List.range 16).filter (fun l => flag s (CH_CFG_PRESENT (16 * f + l)))

/-- A set of local channels as bits. -/
def lMask (l : List Nat) : Nat := (l.map (fun i => 2 ^ i)).sum

/-- A channel joins the frame set: its coders are cleared and its origin is this sample (R439, R448). -/
def telJoin (s : State) (f l : Nat) : State :=
  let x := tele s f
  setTele s f { x with
    coders := x.coders.filter (fun e => e.1 % 16 != l)
    charge := tabIns l { acc := (chan s (16 * f + l)).cv.acc } (tabDel l x.charge) }

/-- A frame begins: its channels are those present, and a change of the set forces a key frame (R440). -/
def telBegin (s : State) (f : Nat) : State :=
  let x := tele s f
  let n := lMask (telPresent s f)
  let joined := (telPresent s f).filter (fun l => !x.chans.testBit l)
  let s := setTele s f { x with chans := n, force := x.force || n != x.chans, t0 := stamp s, taken := 0, codes := [] }
  forEach joined (fun l s => telJoin s f l) s

/-- The mapped difference of R447. -/
def mapDiff (d : Int) : Nat := if 0 ≤ d then 2 * d.natAbs else 2 * d.natAbs - 1

/-- The low `n` bits of a number, most significant first. -/
def msbBits (n v : Nat) : List Bool := (List.range n).map (fun i => v.testBit (n - 1 - i))

/-- The Rice code of a mapped difference under parameter `p` (R447). -/
def riceCode (p u : Nat) : List Bool :=
  let q := u / 2 ^ p
  if q < 24 then List.replicate q true ++ false :: msbBits p u else List.replicate 24 true ++ msbBits 17 u

/-- The parameter that makes a signal's codes shortest, the lowest on a tie. -/
def riceParam (us : List Nat) : Nat :=
  let len (p : Nat) : Nat := (us.map (fun u => (riceCode p u).length)).sum
  (List.range 16).foldl (fun b p => if len p < len b then p else b) 0

/-- A stream of bits as bytes, each filled from bit 7 down. -/
def bitBytes : Nat → List Bool → List Byte
  | 0, _ => []
  | n + 1, l => BitVec.ofNat 8 ((List.range 8).foldl (fun v i => 2 * v + (if l.getD i false then 1 else 0)) 0) :: bitBytes n (l.drop 8)

/-- The codes of a frame, each with the flag that it is written raw: sample 0 of a key frame (R446). -/
def telCodes (x : Telemetry) (key : Bool) : List (TelCode × Bool) :=
  let n := (telSigs x.cfg).length * ((List.range 16).filter (fun l => x.chans.testBit l)).length
  (x.codes.zip (List.range x.codes.length)).map (fun e => (e.1, key && decide (e.2 < n)))

/-- Rice parameter of each signal of a frame. -/
def telRice (l : List (TelCode × Bool)) (sig : Nat) : Nat :=
  riceParam ((l.filter (fun e => e.1.sig == sig && !e.2)).map (fun e => mapDiff (e.1.r - e.1.prev)))

/-- The bit stream of a frame (R446). -/
def telBits (l : List (TelCode × Bool)) : List Bool :=
  l.flatMap (fun e => if e.2 then msbBits 16 (toBits 16 e.1.r) else riceCode (telRice l e.1.sig) (mapDiff (e.1.r - e.1.prev)))

/-- The frame is a key frame (R444). -/
def telKeyFrame (x : Telemetry) : Bool := x.force || x.fseq % telKeyInt x.key == 0

/-- The record of a complete frame (R445). -/
def telRecord (x : Telemetry) (f : Nat) : Record :=
  let key := telKeyFrame x
  let l := telCodes x key
  let b := telBits l
  { rtype := 0x20, time := x.t0
    hdr := f * 2 ^ 18 + (if key then 2 ^ 17 else 0) + (if telK x.cfg = 0 then 0 else 2 ^ 16) + telK x.cfg * 2 ^ 12 +
      (telF x.cfg - 1) * 256 + telMask x.cfg * 16
    content := [BitVec.ofNat 32 x.fseq, pair16 x.chans b.length,
      BitVec.ofNat 32 (((List.range 4).map (fun i => telRice l i * 16 ^ i)).sum)] ++ bytesWords (bitBytes (4 * ((b.length + 31) / 32)) b) }

/-- A complete frame is coded and staged on its ring (R443); `FSEQ` counts it. -/
def telFrame (s : State) (f : Nat) : State :=
  let x := tele s f
  if telEn x.cfg && decide (telF x.cfg ≤ x.taken) then
    let s := setTele s f { x with fseq := (x.fseq + 1) % 2 ^ 32, force := false, taken := 0, codes := [] }
    stage s (telRing x.cfg) (telRecord x f)
  else s

/-- TELEMETRY_FRAME (R443): the frame of a flask whose last sample has been taken. -/
def execTelemetryFrame (f : Nat) (s : State) : Host.Outcome State Fault Refusal :=
  .next (telFrame (if flaskOn s f then xfer s (f / 16) 2 (f % 16) 256 else s) f)

/-! ## Telemetry at a snapshot -/

/-- A configuration takes effect: coders, origin and frame count start afresh (R443). -/
def telApply (s : State) (f : Nat) (w k : Word) (next : List (Word × Word × Nat)) : State := setTele s f { cfg := w, key := k, next }

/-- An accepted configuration is due at millisecond `m`. -/
def telDue (m : Nat) (e : Word × Word × Nat) : Bool := telP e.1 == 0 || m % (telP e.1 * telF e.1) == 0

/-- Bytes of region k's telemetry staging memory that its frames in progress take, at most 41 bits a code (R46, R447). -/
def telHeld (s : State) (k : Nat) : Nat := ((regionFlasks k).map (fun f => 6 * (tele s f).codes.length)).sum

/-- A flask's telemetry at the snapshot of millisecond `m`: a frame still to be staged, configurations that are due, and a
sample (R438, R441). A flask off or offline takes none, and its frame in progress is given up. -/
def telSnap (s : State) (m f : Nat) : State :=
  let s := telFrame s f
  let due := (tele s f).next.filter (telDue m)
  let s := forEach due (fun (e : Word × Word × Nat) s => telApply s f e.1 e.2.1 ((tele s f).next.filter (fun e => !telDue m e))) s
  let x := tele s f
  if !telEn x.cfg || m % telP x.cfg != 0 then s
  else if !flaskOn s f || !online s (f / 16) || decide (Config.sramTelemetry < telHeld s (f / 16)) then telStop s f
  else
    let s := if x.taken = 0 then telBegin s f else s
    let x := tele s f
    let s := forEach (telSigs x.cfg) (fun sig s =>
      forEach ((List.range 16).filter (fun l => x.chans.testBit l)) (fun l s => telChanSig s f l sig) s) s
    setTele s f { tele s f with taken := x.taken + 1 }

/-- Tags of TELEMETRY commands that wait, each once. -/
def telTags (s : State) : List Nat := (s.tel.flatMap (fun e => e.2.next.map (fun n => n.2.2))).eraseDups

/-- Every flask's telemetry at a snapshot; a command whose flasks have all taken it completes. -/
def telemetrySnap (s : State) : State :=
  let was := telTags s
  let s := forEach (s.tel.map (·.1)) (fun f s => telSnap s (s.snap / 1000000) f) s
  let now := telTags s
  forEach (was.filter (fun t => !now.contains t)) (fun t s => endSt s t stSUCCESS) s

end Sys2Proof.Machine
end

