-- ==== Sys2Proof/Machine/Snapshot.lean ====
section
/-! DEFINITION. The snapshot of each module-time millisecond (R175, R176): everything the rules tie to it, in order. -/

namespace Sys2Proof.Machine

/-! ## Legs -/

/-- Charge of a leg's millisecond, C, from its accumulator before. -/
def legCharge (s : State) (l before : Nat) : Rat :=
  accCharge (accDiff (leg s l).acc before) (max 2500 (bits ((legWords s l).getD 0 0) 16 16))

/-- Energy index of a leg's converter: the CBUS leg is index 13 (R612). -/
def energyIndex (l : Nat) : Nat := if l = 12 then 13 else l

/-- Millisecond power of a leg, mW. -/
def legPower (s : State) (l : Nat) : Int := (leg s l).im * (leg s l).vb / 1000

/-- One leg at a snapshot: conversion, energy, mirror entry, and what the ladle reads of it (R198, R203, R256, R612). -/
def snapLeg (s : State) (m : LegMs) : State :=
  if m.leg < 13 then
    let before := (leg s m.leg).acc
    let s := convLeg s m
    let s := addEnergy s (energyIndex m.leg) (((leg s m.leg).vb : Rat) * legCharge s m.leg before / 3600)
    let s := mirrorLeg s (s.snap / 1000000) m.leg
    if m.leg = 12 then
      { s with
        pp := { s.pp with cbusMs := ((leg s 12).vb + 5) / 10, cbusI := (leg s 12).im }
        lad := { s.lad with load := legPower s 12 :: s.lad.load.take 127 } }
    else if 4 ≤ m.leg ∧ getF s (PP_TLSTAT_DIR (m.leg - 4)) = 2 then
      let n := m.leg - 4
      let v := max (tabGet (fun _ => 0) s.lad.exports n) (-(legPower s m.leg))
      { s with lad := { s.lad with exports := tabSet (fun _ => 0) s.lad.exports n v } }
    else s
  else s

/-! ## Channels -/

/-- One channel at a snapshot: conversion, shunt check, energy, removal, mirror entry (R176, R203, R599, R602, R612). A
region SRAM word of the channel with a double-bit error is not used: its mirror entry stays as it is (R47). -/
def snapChan (s : State) (m : ChanMs) (bad : Bool) : State :=
  if flaskOn s (chFlask m.c) then
    let before := (chan s m.c).cv.acc
    let s := convChan s m
    let dq := accCharge (accDiff (chan s m.c).cv.acc before) (getF s (MC_SHUNT_SHUNT m.c))
    let s := shuntMs s m.c dq
    let s := removalStep (addEnergy s 12 (((chan s m.c).cv.vb : Rat) * dq / 3600)) m.c
    if online s (chRegion m.c) && !bad then mirrorChan s (s.snap / 1000000) m.c else s
  else s

/-- The tables' live words, which lie on the region die: they are refreshed whether or not a flask's bank has power (R142, R174). -/
def snapTables (s : State) : State :=
  let s := forEach ((List.range s.part.channels).filter (fun c => on s (dCTL (chRegion c)))) (fun c s => refreshChan s c) s
  forEach ((List.range s.part.flasks).filter (fun f => on s (dCTL (f / 16)))) (fun f s => refreshFlask s f) s

/-! ## Estimation, phases, boundaries -/

/-- What the crucible and its tables take at a snapshot: parameters, records, impedance copies, tone amplitudes, age
(R222, R233, R241, R247, R250). -/
def snapEst (s : State) : State :=
  let tags := estParamTags s
  let s := forEach (s.ests.map (·.1)) (fun c s => takeEstParams s c) s
  let s := forEach tags (fun t s => endSt s t stSUCCESS) s
  let s := startRecords s
  let s := if on s dCRUCIBLE then forEach (s.ests.map (·.1)) (fun c s => swapIz s c) s else s
  let s := forEach (s.flasks.map (·.1)) (fun f s => refreshAmps s f) s
  forEach (s.ests.map (·.1)) (fun c s => refreshStale s c) s

/-- The phase machines evaluate (R148); none does in DRAIN (R101). -/
def snapPhases (s : State) : State :=
  if s.pw.transport = .run then forEach (liveChans s) (fun c s => evalPhase s c) s else s

/-- The millisecond boundary: trims and accepted calibration take effect (R192, R196, R200). -/
def snapBoundary (s : State) : State :=
  let s := forEach (liveChans s) (fun c s => boundaryChan s c) s
  let s := boundaryCals s
  if on s dPPATH then forEach (List.range 13) (fun l s => boundaryLeg s l) s else s

/-! ## Tie-links -/

/-- A port's millisecond means (R294, R301, R331), the age of its LES faults (R300), its hold (R348) and budget (R363). -/
def snapTl (s : State) (m : TlMs) : State :=
  if tlOn s m.n then
    let s := lcwMs (modTl s m.n (fun x => { x with pinLes := m.les })) m.n m.lcw m.edge
    let s := setF s (TL_LES_LES_V m.n) (satTo 65535 ((m.les + 5) / 10))
    updLesIn (setF s (TL_LES_LES_I m.n) (if flag s (TL_ATTACH_LES_OUT m.n) then satTo 255 m.lesI else 0)) m.n
  else if m.n < 8 then modTl s m.n (fun x => { x with pinLes := m.les, pinLcw := m.lcw })
  else s

/-- What ages on a port. -/
def snapTlAge (s : State) (n : Nat) : State :=
  if tlOn s n then
    let l := (tl s n).lesFaults.filter (fun t => decide (s.now < t + 30000 * ms))
    let s := setF (modTl s n (fun x => { x with lesFaults := l })) (TL_LES_LES_FAULTS n) (satTo 15 l.length)
    let s := setF s (TL_HOLD_HOLD_S n) (match (tl s n).hostHold with | some d => (d - s.now + 999999999) / 1000000000 | none => 0)
    if (tl s n).budgetAt.isSome then updLeg s n else s
  else s

/-! ## The row -/

/-- A droop test follows the lowest millisecond `CBUS_VS` (R415). -/
def snapDroopTest (s : State) : State :=
  match s.pp.droopTest with
  | some (t, sum, low) => { s with pp := { s.pp with droopTest := some (t, sum, some (min (low.getD s.pp.cbusMs) s.pp.cbusMs)) } }
  | none => s

/-- What a snapshot does in the power-path block. -/
def snapPower (s : State) : State :=
  if on s dPPATH then
    let s := insMs (updDeadBatt (snapDroopTest s))
    wr (wr s SNAP_MS_LO (lo32 (s.snap / 1000000))) SNAP_MS_HI (hi32 (s.snap / 1000000))
  else s

/-- Time of the snapshot: this moment's when it is a millisecond that has had none, else the next. -/
def snapTime (s : State) : Nat :=
  if s.now % 1000000 = 0 ∧ s.snap < s.now then s.now else (s.now / 1000000 + 1) * 1000000

/-- SNAPSHOT (R176): every value refers to the millisecond that ends at its tick. -/
def execSnapshot (x : SnapIn) (s : State) : Host.Outcome State Fault Refusal :=
  .next (
    let t := snapTime s
    let s := { s with now := t, snap := t }
    let s := if on s dPPATH then forEach x.legs (fun m s => snapLeg s m) s else s
    let s := forEach x.tls (fun m s => snapTl s m) s
    let s := forEach (List.range 8) (fun n s => snapTlAge s n) s
    let s := eccReports s x.ecc
    let s := forEach x.chans (fun m s => snapChan s m (eccBad x.ecc m.c)) s
    let s := forEach (s.flasks.map (·.1)) (fun f s => if flaskOn s f then xfer s (f / 16) 2 (f % 16) 512 else s) s
    let s := snapPower s
    let s := snapEst (snapTables s)
    let s := snapPhases s
    let s := telemetrySnap (captureOvr s)
    let s := energyReplies (chanReads s)
    updConditions (snapBoundary s))

end Sys2Proof.Machine
end

