-- ==== Sys2Proof/Machine/Dispatch.lean ====
section
/-! DEFINITION. One arm per command: each calls its meaning. -/

namespace Sys2Proof.Machine

/-- The effect of a command on everything but the queue. -/
def exec (i : Instr) (s : State) : Host.Outcome State Fault Refusal :=
  match i with
  | .loopTick x => Sys2Proof.Machine.execLoopTick x s
  | .tickStrobeLost k => Sys2Proof.Machine.execTickStrobeLost k s
  | .timeRealign diff => Sys2Proof.Machine.execTimeRealign diff s
  | .snapshot x => Sys2Proof.Machine.execSnapshot x s
  | .tempInvalid c => Sys2Proof.Machine.execTempInvalid c s
  | .tempValidRestored c => Sys2Proof.Machine.execTempValidRestored c s
  | .runnerFrameRx k x => Sys2Proof.Machine.execRunnerFrameRx k x s
  | .runnerRetrain k ok => Sys2Proof.Machine.execRunnerRetrain k ok s
  | .flaskFaultPortForward f => Sys2Proof.Machine.execFlaskFaultPortForward f s
  | .aggregatorForward k => Sys2Proof.Machine.execAggregatorForward k s
  | .faultMessage => Sys2Proof.Machine.execFaultMessage s
  | .regionSelfHold k => Sys2Proof.Machine.execRegionSelfHold k s
  | .calSlot u x => Sys2Proof.Machine.execCalSlot u x s
  | .calRoundEnd u ppm => Sys2Proof.Machine.execCalRoundEnd u ppm s
  | .pourInputRead => Sys2Proof.Machine.execPourInputRead s
  | .simulationDone => Sys2Proof.Machine.execSimulationDone s
  | .candidateSelection => Sys2Proof.Machine.execCandidateSelection s
  | .shadowTableReceived f good => Sys2Proof.Machine.execShadowTableReceived f good s
  | .regionAck k => Sys2Proof.Machine.execRegionAck k s
  | .pourSwap late => Sys2Proof.Machine.execPourSwap late s
  | .pourMissed => Sys2Proof.Machine.execPourMissed s
  | .staleShave k => Sys2Proof.Machine.execStaleShave k s
  | .spConfigWrite n j v => Sys2Proof.Machine.execSpConfigWrite n j v s
  | .ppArm => Sys2Proof.Machine.execPpArm s
  | .ppDisarm => Sys2Proof.Machine.execPpDisarm s
  | .ppPriorityWrite v => Sys2Proof.Machine.execPpPriorityWrite v s
  | .ppSet t => Sys2Proof.Machine.execPpSet t s
  | .safeExit => Sys2Proof.Machine.execSafeExit s
  | .sprueReady n v => Sys2Proof.Machine.execSprueReady n v s
  | .sprueNotReady n v => Sys2Proof.Machine.execSprueNotReady n v s
  | .plannedReturn n => Sys2Proof.Machine.execPlannedReturn n s
  | .sprueCollapse n v => Sys2Proof.Machine.execSprueCollapse n v s
  | .sprueReverse n uv => Sys2Proof.Machine.execSprueReverse n uv s
  | .sprueOvervoltage n v => Sys2Proof.Machine.execSprueOvervoltage n v s
  | .deadTimeEnd => Sys2Proof.Machine.execDeadTimeEnd s
  | .cbusUndervoltage v => Sys2Proof.Machine.execCbusUndervoltage v s
  | .cbusOvervoltage v => Sys2Proof.Machine.execCbusOvervoltage v s
  | .cbusOvRelease v => Sys2Proof.Machine.execCbusOvRelease v s
  | .droopTest t => Sys2Proof.Machine.execDroopTest t s
  | .vnlTracked n mean => Sys2Proof.Machine.execVnlTracked n mean s
  | .searchEvaluation n v idx => Sys2Proof.Machine.execSearchEvaluation n v idx s
  | .searchReferenceDone n mean => Sys2Proof.Machine.execSearchReferenceDone n mean s
  | .searchHoldExpire n => Sys2Proof.Machine.execSearchHoldExpire n s
  | .reprobe n => Sys2Proof.Machine.execReprobe n s
  | .searchRestart n => Sys2Proof.Machine.execSearchRestart n s
  | .tlLegTrip n p => Sys2Proof.Machine.execTlLegTrip n p s
  | .aux12Invalid => Sys2Proof.Machine.execAux12Invalid s
  | .aux12Valid => Sys2Proof.Machine.execAux12Valid s
  | .bootValid => Sys2Proof.Machine.execBootValid s
  | .supplyFailure => Sys2Proof.Machine.execSupplyFailure s
  | .supplyFailRestart aux => Sys2Proof.Machine.execSupplyFailRestart aux s
  | .aonPowerOnReset => Sys2Proof.Machine.execAonPowerOnReset s
  | .holdupCharged => Sys2Proof.Machine.execHoldupCharged s
  | .transport t boot => Sys2Proof.Machine.execTransport t boot s
  | .transportDrainDone => Sys2Proof.Machine.execTransportDrainDone s
  | .transportDrainTimeout => Sys2Proof.Machine.execTransportDrainTimeout s
  | .transportAbort => Sys2Proof.Machine.execTransportAbort s
  | .transportEnter => Sys2Proof.Machine.execTransportEnter s
  | .transportWakeDetect sp boot => Sys2Proof.Machine.execTransportWakeDetect sp boot s
  | .transportWakeLapse => Sys2Proof.Machine.execTransportWakeLapse s
  | .transportWake => Sys2Proof.Machine.execTransportWake s
  | .wakeSupplyTimeout => Sys2Proof.Machine.execWakeSupplyTimeout s
  | .chanParam t => Sys2Proof.Machine.execChanParam t s
  | .chanWindows t => Sys2Proof.Machine.execChanWindows t s
  | .chanState t => Sys2Proof.Machine.execChanState t s
  | .holdRampEnd c => Sys2Proof.Machine.execHoldRampEnd c s
  | .channelTrip c => Sys2Proof.Machine.execChannelTrip c s
  | .flaskParam t => Sys2Proof.Machine.execFlaskParam t s
  | .flaskState t => Sys2Proof.Machine.execFlaskState t s
  | .sequencerSelfcheckFail f ctx => Sys2Proof.Machine.execSequencerSelfcheckFail f ctx s
  | .faultReturnAssert f => Sys2Proof.Machine.execFaultReturnAssert f s
  | .retryDelayExpire f => Sys2Proof.Machine.execRetryDelayExpire f s
  | .retryChannelRestart f => Sys2Proof.Machine.execRetryChannelRestart f s
  | .faultReturnStuck f => Sys2Proof.Machine.execFaultReturnStuck f s
  | .retryComplete f => Sys2Proof.Machine.execRetryComplete f s
  | .retryCountReset f => Sys2Proof.Machine.execRetryCountReset f s
  | .tonePairRequest f a b => Sys2Proof.Machine.execTonePairRequest f a b s
  | .phaseSustainMet c => Sys2Proof.Machine.execPhaseSustainMet c s
  | .pulseTrainDone c => Sys2Proof.Machine.execPulseTrainDone c s
  | .relaxTimerExpire c => Sys2Proof.Machine.execRelaxTimerExpire c s
  | .prechargeTimeout c => Sys2Proof.Machine.execPrechargeTimeout c s
  | .cvTimeout c => Sys2Proof.Machine.execCvTimeout c s
  | .topoffTimeout c => Sys2Proof.Machine.execTopoffTimeout c s
  | .restTimerExpire c => Sys2Proof.Machine.execRestTimerExpire c s
  | .phase t => Sys2Proof.Machine.execPhase t s
  | .profileLoad t => Sys2Proof.Machine.execProfileLoad t s
  | .chanCal t => Sys2Proof.Machine.execChanCal t s
  | .filterUpdate c ecc => Sys2Proof.Machine.execFilterUpdate c ecc s
  | .filterLate c => Sys2Proof.Machine.execFilterLate c s
  | .filterReinit c => Sys2Proof.Machine.execFilterReinit c s
  | .sweepStart => Sys2Proof.Machine.execSweepStart s
  | .toneDwellEnd f => Sys2Proof.Machine.execToneDwellEnd f s
  | .sweepEnd f => Sys2Proof.Machine.execSweepEnd f s
  | .spectro t => Sys2Proof.Machine.execSpectro t s
  | .frameHot hub mid => Sys2Proof.Machine.execFrameHot hub mid s
  | .frameCool hub mid => Sys2Proof.Machine.execFrameCool hub mid s
  | .channelRecordWrite c => Sys2Proof.Machine.execChannelRecordWrite c s
  | .estParam t => Sys2Proof.Machine.execEstParam t s
  | .estReset t => Sys2Proof.Machine.execEstReset t s
  | .modelLoad t => Sys2Proof.Machine.execModelLoad t s
  | .objectives t => Sys2Proof.Machine.execObjectives t s
  | .allocRead t => Sys2Proof.Machine.execAllocRead t s
  | .calRun t => Sys2Proof.Machine.execCalRun t s
  | .calRunTimeout c => Sys2Proof.Machine.execCalRunTimeout c s
  | .tlEnable n v => Sys2Proof.Machine.execTlEnable n v s
  | .tlDisable n v => Sys2Proof.Machine.execTlDisable n v s
  | .lcwPartnerSeen n mv => Sys2Proof.Machine.execLcwPartnerSeen n mv s
  | .drpToggle n => Sys2Proof.Machine.execDrpToggle n s
  | .attachDebounceDone n => Sys2Proof.Machine.execAttachDebounceDone n s
  | .attachwaitLost n => Sys2Proof.Machine.execAttachwaitLost n s
  | .tryPartnerSeen n => Sys2Proof.Machine.execTryPartnerSeen n s
  | .tryTimerExpire n => Sys2Proof.Machine.execTryTimerExpire n s
  | .trywaitTimerExpire n => Sys2Proof.Machine.execTrywaitTimerExpire n s
  | .detach n => Sys2Proof.Machine.execDetach n s
  | .reattachTimerExpire n => Sys2Proof.Machine.execReattachTimerExpire n s
  | .lesRetry n => Sys2Proof.Machine.execLesRetry n s
  | .lesOvercurrent n => Sys2Proof.Machine.execLesOvercurrent n s
  | .packetTxStart n => Sys2Proof.Machine.execPacketTxStart n s
  | .packetTxDone n => Sys2Proof.Machine.execPacketTxDone n s
  | .txCollision n line => Sys2Proof.Machine.execTxCollision n line s
  | .collisionBackoffEnd n => Sys2Proof.Machine.execCollisionBackoffEnd n s
  | .packetReceived n wave => Sys2Proof.Machine.execPacketReceived n wave s
  | .goodcrc n => Sys2Proof.Machine.execGoodcrc n s
  | .ackTimeout n => Sys2Proof.Machine.execAckTimeout n s
  | .softReset n => Sys2Proof.Machine.execSoftReset n s
  | .getCaps n => Sys2Proof.Machine.execGetCaps n s
  | .caps n => Sys2Proof.Machine.execCaps n s
  | .request n => Sys2Proof.Machine.execRequest n s
  | .accept n => Sys2Proof.Machine.execAccept n s
  | .reject n => Sys2Proof.Machine.execReject n s
  | .wait n => Sys2Proof.Machine.execWait n s
  | .notSupported n => Sys2Proof.Machine.execNotSupported n s
  | .psReady n => Sys2Proof.Machine.execPsReady n s
  | .ident n => Sys2Proof.Machine.execIdent n s
  | .lesSwap n => Sys2Proof.Machine.execLesSwap n s
  | .reattach n => Sys2Proof.Machine.execReattach n s
  | .vendor n => Sys2Proof.Machine.execVendor n s
  | .vdmTimeout n => Sys2Proof.Machine.execVdmTimeout n s
  | .digestSend n => Sys2Proof.Machine.execDigestSend n s
  | .syncSend n => Sys2Proof.Machine.execSyncSend n s
  | .budgetSend n => Sys2Proof.Machine.execBudgetSend n s
  | .tunnelFrameReceived n wave => Sys2Proof.Machine.execTunnelFrameReceived n wave s
  | .tunnelAckTimeout n => Sys2Proof.Machine.execTunnelAckTimeout n s
  | .responseTimerExpire n => Sys2Proof.Machine.execResponseTimerExpire n s
  | .sinkPsTimerExpire n => Sys2Proof.Machine.execSinkPsTimerExpire n s
  | .sourcePsTimerExpire n => Sys2Proof.Machine.execSourcePsTimerExpire n s
  | .transitionSettled n => Sys2Proof.Machine.execTransitionSettled n s
  | .holdoffExpire n => Sys2Proof.Machine.execHoldoffExpire n s
  | .sinkKeepaliveExpire n => Sys2Proof.Machine.execSinkKeepaliveExpire n s
  | .sourceKeepaliveExpire n => Sys2Proof.Machine.execSourceKeepaliveExpire n s
  | .tripRetryExpire n => Sys2Proof.Machine.execTripRetryExpire n s
  | .hostLostHoldExpire n => Sys2Proof.Machine.execHostLostHoldExpire n s
  | .lesSwapOffDone n => Sys2Proof.Machine.execLesSwapOffDone n s
  | .lesSwapOnDone n => Sys2Proof.Machine.execLesSwapOnDone n s
  | .lesSwapStepTimeout n => Sys2Proof.Machine.execLesSwapStepTimeout n s
  | .tlAdvertise t => Sys2Proof.Machine.execTlAdvertise t s
  | .tlRequest t => Sys2Proof.Machine.execTlRequest t s
  | .tlAccept t => Sys2Proof.Machine.execTlAccept t s
  | .tlVendor t => Sys2Proof.Machine.execTlVendor t s
  | .tlLesSwap t => Sys2Proof.Machine.execTlLesSwap t s
  | .tlReattach t => Sys2Proof.Machine.execTlReattach t s
  | .tunnelSend t => Sys2Proof.Machine.execTunnelSend t s
  | .tlRevreqWrite n v => Sys2Proof.Machine.execTlRevreqWrite n v s
  | .tlCctrlWrite n v => Sys2Proof.Machine.execTlCctrlWrite n v s
  | .dbSqTail idx v => Sys2Proof.Machine.execDbSqTail idx v s
  | .dbCqHead idx v => Sys2Proof.Machine.execDbCqHead idx v s
  | .dbEvHead idx v => Sys2Proof.Machine.execDbEvHead idx v s
  | .ringEnable k idx v => Sys2Proof.Machine.execRingEnable k idx v s
  | .ringDisable k idx v => Sys2Proof.Machine.execRingDisable k idx v s
  | .engineEnable v => Sys2Proof.Machine.execEngineEnable v s
  | .descriptorFetch idx ds => Sys2Proof.Machine.execDescriptorFetch idx ds s
  | .commandStart t src memErr => Sys2Proof.Machine.execCommandStart t src memErr s
  | .completionWrite c => Sys2Proof.Machine.execCompletionWrite c s
  | .eventRecordWrite e => Sys2Proof.Machine.execEventRecordWrite e s
  | .irqCoalesceTimeout k idx => Sys2Proof.Machine.execIrqCoalesceTimeout k idx s
  | .heartbeat => Sys2Proof.Machine.execHeartbeat s
  | .hostMemoryError a => Sys2Proof.Machine.execHostMemoryError a s
  | .hostIfReset k => Sys2Proof.Machine.execHostIfReset k s
  | .hostIfReady => Sys2Proof.Machine.execHostIfReady s
  | .orphanEntry t => Sys2Proof.Machine.execOrphanEntry t s
  | .orphanAck => Sys2Proof.Machine.execOrphanAck s
  | .peakClr => Sys2Proof.Machine.execPeakClr s
  | .d3hotEntry => Sys2Proof.Machine.execD3hotEntry s
  | .linkL1Entry => Sys2Proof.Machine.execLinkL1Entry s
  | .linkL1Exit => Sys2Proof.Machine.execLinkL1Exit s
  | .linkUp => Sys2Proof.Machine.execLinkUp s
  | .fence t => Sys2Proof.Machine.execFence t s
  | .continue_ idx d => Sys2Proof.Machine.execContinue idx d s
  | .identify t => Sys2Proof.Machine.execIdentify t s
  | .eventRoute t => Sys2Proof.Machine.execEventRoute t s
  | .telemetry t => Sys2Proof.Machine.execTelemetry t s
  | .telemetryFrame f => Sys2Proof.Machine.execTelemetryFrame f s
  | .chanRead t => Sys2Proof.Machine.execChanRead t s
  | .capture t => Sys2Proof.Machine.execCapture t s
  | .capturePagesReserved => Sys2Proof.Machine.execCapturePagesReserved s
  | .captureTrigger t => Sys2Proof.Machine.execCaptureTrigger t s
  | .captureTriggerTimeout t => Sys2Proof.Machine.execCaptureTriggerTimeout t s
  | .resultFragment t => Sys2Proof.Machine.execResultFragment t s
  | .i2cAddress addr read => Sys2Proof.Machine.execI2cAddress addr read s
  | .i2cByteWrite b => Sys2Proof.Machine.execI2cByteWrite b s
  | .i2cByteRead nack => Sys2Proof.Machine.execI2cByteRead nack s
  | .i2cStop => Sys2Proof.Machine.execI2cStop s
  | .i2cRepeatedStart => Sys2Proof.Machine.execI2cRepeatedStart s
  | .i2cFrameError stop => Sys2Proof.Machine.execI2cFrameError stop s
  | .i2cStretchTimeout => Sys2Proof.Machine.execI2cStretchTimeout s
  | .i2cBusClear => Sys2Proof.Machine.execI2cBusClear s
  | .i2cRecoveryEnd => Sys2Proof.Machine.execI2cRecoveryEnd s
  | .mpPortReady => Sys2Proof.Machine.execMpPortReady s
  | .boundaryAccessStart => Sys2Proof.Machine.execBoundaryAccessStart s
  | .boundaryAccessEnd => Sys2Proof.Machine.execBoundaryAccessEnd s
  | .moduleReset => Sys2Proof.Machine.execModuleReset s
  | .testConnectorReset => Sys2Proof.Machine.execTestConnectorReset s
  | .startupStep sv copy0 copy1 => Sys2Proof.Machine.execStartupStep sv copy0 copy1 s
  | .domainSwitchOn d x => Sys2Proof.Machine.execDomainSwitchOn d x s
  | .domainSwitchOff d => Sys2Proof.Machine.execDomainSwitchOff d s
  | .domainLoss d => Sys2Proof.Machine.execDomainLoss d s
  | .ckPdreqWrite v => Sys2Proof.Machine.execCkPdreqWrite v s
  | .referenceQualified counts => Sys2Proof.Machine.execReferenceQualified counts s
  | .referenceLoss count quiet => Sys2Proof.Machine.execReferenceLoss count quiet s
  | .ckTimeRead => Sys2Proof.Machine.execCkTimeRead s
  | .wdStart v => Sys2Proof.Machine.execWdStart v s
  | .wdAnswer v => Sys2Proof.Machine.execWdAnswer v s
  | .wdPeriodWrite v => Sys2Proof.Machine.execWdPeriodWrite v s
  | .wdKeyWrite v => Sys2Proof.Machine.execWdKeyWrite v s
  | .wdPeriodExpire => Sys2Proof.Machine.execWdPeriodExpire s
  | .wdBootExpire => Sys2Proof.Machine.execWdBootExpire s
  | .wdPulseEnd => Sys2Proof.Machine.execWdPulseEnd s
  | .debugHalt m => Sys2Proof.Machine.execDebugHalt m s
  | .svInternalWdtExpire n => Sys2Proof.Machine.execSvInternalWdtExpire n s
  | .supervisorFailure n => Sys2Proof.Machine.execSupervisorFailure n s
  | .checkpointEpoch body crc commit => Sys2Proof.Machine.execCheckpointEpoch body crc commit s
  | .ckptLate => Sys2Proof.Machine.execCkptLate s
  | .checkpointCheck => Sys2Proof.Machine.execCheckpointCheck s
  | .supervisorTakeover => Sys2Proof.Machine.execSupervisorTakeover s
  | .standbyReady => Sys2Proof.Machine.execStandbyReady s
  | .svLost n selfTest => Sys2Proof.Machine.execSvLost n selfTest s
  | .plannedSwitchover v => Sys2Proof.Machine.execPlannedSwitchover v s
  | .regionRelease v => Sys2Proof.Machine.execRegionRelease v s
  | .ppSafeClear v => Sys2Proof.Machine.execPpSafeClear v s
  | .unpin v => Sys2Proof.Machine.execUnpin v s
  | .replaceClear v => Sys2Proof.Machine.execReplaceClear v s
  | .faultInject t => Sys2Proof.Machine.execFaultInject t s
  | .injectArmExpire => Sys2Proof.Machine.execInjectArmExpire s
  | .faultClear t => Sys2Proof.Machine.execFaultClear t s
  | .bbRead t => Sys2Proof.Machine.execBbRead t s
  | .ingotWrite how => Sys2Proof.Machine.execIngotWrite how s
  | .logBudgetRefill => Sys2Proof.Machine.execLogBudgetRefill s
  | .summaryIngot => Sys2Proof.Machine.execSummaryIngot s
  | .blackboxScan bad => Sys2Proof.Machine.execBlackboxScan bad s
  | .ceRateBin => Sys2Proof.Machine.execCeRateBin s
  | .fwStage t bad => Sys2Proof.Machine.execFwStage t bad s
  | .fwCommit t => Sys2Proof.Machine.execFwCommit t s
  | .fwConfirm t => Sys2Proof.Machine.execFwConfirm t s
  | .probationExpire => Sys2Proof.Machine.execProbationExpire s
  | .probationNoSupervisor => Sys2Proof.Machine.execProbationNoSupervisor s
  | .settingsLoad t bad => Sys2Proof.Machine.execSettingsLoad t bad s
  | .digestRead t => Sys2Proof.Machine.execDigestRead t s
  | .digestScanPass => Sys2Proof.Machine.execDigestScanPass s
  | .cfgGenWrite v => Sys2Proof.Machine.execCfgGenWrite v s
  | .tamperLatch pins => Sys2Proof.Machine.execTamperLatch pins s
  | .tamperReport => Sys2Proof.Machine.execTamperReport s
  | .tamperClear v => Sys2Proof.Machine.execTamperClear v s
  | .tamperArm t => Sys2Proof.Machine.execTamperArm t s
  | .removalDeclared c => Sys2Proof.Machine.execRemovalDeclared c s
  | .refit c => Sys2Proof.Machine.execRefit c s
  | .shuntCheckWindow => Sys2Proof.Machine.execShuntCheckWindow s
  | .insulationHalfPeriod a v j => Sys2Proof.Machine.execInsulationHalfPeriod a v j s
  | .energyIngot => Sys2Proof.Machine.execEnergyIngot s
  | .energyRead t => Sys2Proof.Machine.execEnergyRead t s
  | .lampEvaluation => Sys2Proof.Machine.execLampEvaluation s
  | .lampTest v => Sys2Proof.Machine.execLampTest v s
  | .lampTestEnd => Sys2Proof.Machine.execLampTestEnd s
  | .traceRecord => Sys2Proof.Machine.execTraceRecord s
  | .traceHostCopy => Sys2Proof.Machine.execTraceHostCopy s
  | .tracePortFrame => Sys2Proof.Machine.execTracePortFrame s
  | .traceResume v => Sys2Proof.Machine.execTraceResume v s
  | .atest t => Sys2Proof.Machine.execAtest t s
  | .atestMeasureDone uv => Sys2Proof.Machine.execAtestMeasureDone uv s
  | .atestInterlockLoss => Sys2Proof.Machine.execAtestInterlockLoss s
  | .registerWrite bar ofs v be same => Sys2Proof.Machine.execRegisterWrite bar ofs v be same s
  | .aonPowerUp aux straps => Sys2Proof.Machine.execAonPowerUp aux straps s
  | .getCapsRetry n => Sys2Proof.Machine.execGetCapsRetry n s
  | .softResetRepeat n => Sys2Proof.Machine.execSoftResetRepeat n s
  | .tlRequestTimeout t => Sys2Proof.Machine.execTlRequestTimeout t s
  | .tlReattachTimeout t => Sys2Proof.Machine.execTlReattachTimeout t s

end Sys2Proof.Machine
end

