-- ==== Sys2Proof/WellFormed.lean ====
section
/-! DEFINITION. Well-formed commands: every operand names something the module has (R4-R11) and has the size its carrier
gives it. -/

namespace Sys2Proof

/-- Numbers of the module's parts: channels, flasks, regions (R8), sprues (R54), tie-link ports (R89), supervisors (R516),
domains (R501), tags (R386). -/
def isChan (c : Nat) : Bool := decide (c < 1024)
def isFlask (f : Nat) : Bool := decide (f < 64)
def isRegion (k : Nat) : Bool := decide (k < 4)
def isSprue (n : Nat) : Bool := decide (n < 4)
def isPort (n : Nat) : Bool := decide (n < 8)
def isSv (n : Nat) : Bool := decide (n < 2)
def isDomain (d : Nat) : Bool := decide (d < 30)
def isTag (t : Nat) : Bool := decide (t < 1024)

/-- Rings of each kind (R374). -/
def isRing : RingKind → Nat → Bool
  | .sq, i => decide (i < 16)
  | .cq, i => decide (i < 16)
  | .ev, i => decide (i < 4)

/-- A descriptor is sixteen words (R375). -/
def isDesc (d : Desc) : Bool := d.words.length == 16

/-- A failing access names a ring or a tag. -/
def isAccess : MemAccess → Bool
  | .ring k i => isRing k i
  | .buffer t => isTag t

/-- A runner frame: 8 bytes of header, at most 256 of payload and at most 64 in class 0 (R38). -/
def isFrame (x : RunFrame) : Bool :=
  x.hdr.length == 8 && decide (x.payload.length ≤ 256) && decide (x.cls < 4) && (x.cls != 0 || decide (x.payload.length ≤ 64))

/-- A SECDED error lies on a die that exists, and names a channel that exists. -/
def isEcc (e : EccErr) : Bool := decide (e.die < 5) && (match e.chan with | some c => isChan c | none => true)

/-- The readings of a tick and of a snapshot name channels, sprues, legs and ports that exist. -/
def isTick (x : TickIn) : Bool :=
  x.chans.all (fun m => isChan m.c) && x.legs.all (fun m => decide (m.leg < 13)) && x.fltLow.all isFlask &&
  x.noStrobe.all isRegion
def isSnap (x : SnapIn) : Bool :=
  x.chans.all (fun m => isChan m.c) && x.legs.all (fun m => decide (m.leg < 13)) && x.tls.all (fun m => isPort m.n) &&
  x.ecc.all isEcc

/-- The command is well formed. -/
def Instr.wf (i : Instr) : Bool :=
  match i with
  | .loopTick x => isTick x
  | .tickStrobeLost k => isRegion k
  | .timeRealign diff => diff.all (fun e => decide (e.1 < 5))
  | .snapshot x => isSnap x
  | .tempInvalid c => isChan c
  | .tempValidRestored c => isChan c
  | .runnerFrameRx k x => isRegion k && isFrame x
  | .runnerRetrain k _ => isRegion k
  | .flaskFaultPortForward f => isFlask f
  | .aggregatorForward k => isRegion k
  | .faultMessage => true
  | .regionSelfHold k => isRegion k
  | .calSlot u _ => (isFlask u || u == 64)
  | .calRoundEnd u _ => (isFlask u || u == 64)
  | .pourInputRead => true
  | .simulationDone => true
  | .candidateSelection => true
  | .shadowTableReceived f _ => isFlask f
  | .regionAck k => isRegion k
  | .pourSwap late => late.all isFlask
  | .pourMissed => true
  | .staleShave k => isRegion k
  | .spConfigWrite n j _ => isSprue n && decide (j < 4)
  | .ppArm => true
  | .ppDisarm => true
  | .ppPriorityWrite _ => true
  | .ppSet t => isTag t
  | .safeExit => true
  | .sprueReady n _ => isSprue n
  | .sprueNotReady n _ => isSprue n
  | .plannedReturn n => isSprue n
  | .sprueCollapse n _ => isSprue n
  | .sprueReverse n _ => isSprue n
  | .sprueOvervoltage n _ => isSprue n
  | .deadTimeEnd => true
  | .cbusUndervoltage _ => true
  | .cbusOvervoltage _ => true
  | .cbusOvRelease _ => true
  | .droopTest t => isTag t
  | .vnlTracked n _ => isSprue n
  | .searchEvaluation n _ _ => isSprue n
  | .searchReferenceDone n _ => isSprue n
  | .searchHoldExpire n => isSprue n
  | .reprobe n => isSprue n
  | .searchRestart n => isSprue n
  | .tlLegTrip n p => isPort n && decide (p < 3)
  | .aux12Invalid => true
  | .aux12Valid => true
  | .bootValid => true
  | .supplyFailure => true
  | .supplyFailRestart _ => true
  | .aonPowerOnReset => true
  | .holdupCharged => true
  | .transport t _ => isTag t
  | .transportDrainDone => true
  | .transportDrainTimeout => true
  | .transportAbort => true
  | .transportEnter => true
  | .transportWakeDetect sp _ => decide (sp < 16)
  | .transportWakeLapse => true
  | .transportWake => true
  | .wakeSupplyTimeout => true
  | .chanParam t => isTag t
  | .chanWindows t => isTag t
  | .chanState t => isTag t
  | .holdRampEnd c => isChan c
  | .channelTrip c => isChan c
  | .flaskParam t => isTag t
  | .flaskState t => isTag t
  | .sequencerSelfcheckFail f _ => isFlask f
  | .faultReturnAssert f => isFlask f
  | .retryDelayExpire f => isFlask f
  | .retryChannelRestart f => isFlask f
  | .faultReturnStuck f => isFlask f
  | .retryComplete f => isFlask f
  | .retryCountReset f => isFlask f
  | .tonePairRequest f a b => isFlask f && decide (a < 16) && decide (b < 16)
  | .phaseSustainMet c => isChan c
  | .pulseTrainDone c => isChan c
  | .relaxTimerExpire c => isChan c
  | .prechargeTimeout c => isChan c
  | .cvTimeout c => isChan c
  | .topoffTimeout c => isChan c
  | .restTimerExpire c => isChan c
  | .phase t => isTag t
  | .profileLoad t => isTag t
  | .chanCal t => isTag t
  | .filterUpdate c ecc => isChan c && ecc.all isEcc
  | .filterLate c => isChan c
  | .filterReinit c => isChan c
  | .sweepStart => true
  | .toneDwellEnd f => isFlask f
  | .sweepEnd f => isFlask f
  | .spectro t => isTag t
  | .frameHot _ _ => true
  | .frameCool _ _ => true
  | .channelRecordWrite c => isChan c
  | .estParam t => isTag t
  | .estReset t => isTag t
  | .modelLoad t => isTag t
  | .objectives t => isTag t
  | .allocRead t => isTag t
  | .calRun t => isTag t
  | .calRunTimeout c => isChan c
  | .tlEnable n _ => isPort n
  | .tlDisable n _ => isPort n
  | .lcwPartnerSeen n _ => isPort n
  | .drpToggle n => isPort n
  | .attachDebounceDone n => isPort n
  | .attachwaitLost n => isPort n
  | .tryPartnerSeen n => isPort n
  | .tryTimerExpire n => isPort n
  | .trywaitTimerExpire n => isPort n
  | .detach n => isPort n
  | .reattachTimerExpire n => isPort n
  | .lesRetry n => isPort n
  | .lesOvercurrent n => isPort n
  | .packetTxStart n => isPort n
  | .packetTxDone n => isPort n
  | .txCollision n _ => isPort n
  | .collisionBackoffEnd n => isPort n
  | .packetReceived n wave => isPort n && decide (wave.length ≤ 8192)
  | .goodcrc n => isPort n
  | .ackTimeout n => isPort n
  | .softReset n => isPort n
  | .getCaps n => isPort n
  | .caps n => isPort n
  | .request n => isPort n
  | .accept n => isPort n
  | .reject n => isPort n
  | .wait n => isPort n
  | .notSupported n => isPort n
  | .psReady n => isPort n
  | .ident n => isPort n
  | .lesSwap n => isPort n
  | .reattach n => isPort n
  | .vendor n => isPort n
  | .vdmTimeout n => isPort n
  | .digestSend n => isPort n
  | .syncSend n => isPort n
  | .budgetSend n => isPort n
  | .tunnelFrameReceived n wave => isPort n && decide (wave.length ≤ 8192)
  | .tunnelAckTimeout n => isPort n
  | .responseTimerExpire n => isPort n
  | .sinkPsTimerExpire n => isPort n
  | .sourcePsTimerExpire n => isPort n
  | .transitionSettled n => isPort n
  | .holdoffExpire n => isPort n
  | .sinkKeepaliveExpire n => isPort n
  | .sourceKeepaliveExpire n => isPort n
  | .tripRetryExpire n => isPort n
  | .hostLostHoldExpire n => isPort n
  | .lesSwapOffDone n => isPort n
  | .lesSwapOnDone n => isPort n
  | .lesSwapStepTimeout n => isPort n
  | .tlAdvertise t => isTag t
  | .tlRequest t => isTag t
  | .tlAccept t => isTag t
  | .tlVendor t => isTag t
  | .tlLesSwap t => isTag t
  | .tlReattach t => isTag t
  | .tunnelSend t => isTag t
  | .tlRevreqWrite n _ => isPort n
  | .tlCctrlWrite n _ => isPort n
  | .dbSqTail i _ => isRing .sq i
  | .dbCqHead i _ => isRing .cq i
  | .dbEvHead i _ => isRing .ev i
  | .ringEnable k i _ => isRing k i
  | .ringDisable k i _ => isRing k i
  | .engineEnable _ => true
  | .descriptorFetch i ds => isRing .sq i && ds.all isDesc
  | .commandStart t _ _ => isTag t
  | .completionWrite c => isRing .cq c
  | .eventRecordWrite e => isRing .ev e
  | .irqCoalesceTimeout k i => isRing k i
  | .heartbeat => true
  | .hostMemoryError a => isAccess a
  | .hostIfReset _ => true
  | .hostIfReady => true
  | .orphanEntry t => isTag t
  | .orphanAck => true
  | .peakClr => true
  | .d3hotEntry => true
  | .linkL1Entry => true
  | .linkL1Exit => true
  | .linkUp => true
  | .fence t => isTag t
  | .continue_ i d => isRing .sq i && isDesc d
  | .identify t => isTag t
  | .eventRoute t => isTag t
  | .telemetry t => isTag t
  | .telemetryFrame f => isFlask f
  | .chanRead t => isTag t
  | .capture t => isTag t
  | .capturePagesReserved => true
  | .captureTrigger t => isTag t
  | .captureTriggerTimeout t => isTag t
  | .resultFragment t => isTag t
  | .i2cAddress addr _ => decide (addr < 128)
  | .i2cByteWrite _ => true
  | .i2cByteRead _ => true
  | .i2cStop => true
  | .i2cRepeatedStart => true
  | .i2cFrameError _ => true
  | .i2cStretchTimeout => true
  | .i2cBusClear => true
  | .i2cRecoveryEnd => true
  | .mpPortReady => true
  | .boundaryAccessStart => true
  | .boundaryAccessEnd => true
  | .moduleReset => true
  | .testConnectorReset => true
  | .startupStep sv c0 c1 => sv.all isSv && decide (c0.length ≤ 262144) && decide (c1.length ≤ 262144)
  | .domainSwitchOn d _ => isDomain d
  | .domainSwitchOff d => isDomain d
  | .domainLoss d => isDomain d
  | .ckPdreqWrite _ => true
  | .referenceQualified counts => decide (counts.length = 4)
  | .referenceLoss _ _ => true
  | .ckTimeRead => true
  | .wdStart _ => true
  | .wdAnswer _ => true
  | .wdPeriodWrite _ => true
  | .wdKeyWrite _ => true
  | .wdPeriodExpire => true
  | .wdBootExpire => true
  | .wdPulseEnd => true
  | .debugHalt m => decide (m < 4)
  | .svInternalWdtExpire n => isSv n
  | .supervisorFailure n => isSv n
  | .checkpointEpoch _ _ _ => true
  | .ckptLate => true
  | .checkpointCheck => true
  | .supervisorTakeover => true
  | .standbyReady => true
  | .svLost n _ => isSv n
  | .plannedSwitchover _ => true
  | .regionRelease _ => true
  | .ppSafeClear _ => true
  | .unpin _ => true
  | .replaceClear _ => true
  | .faultInject t => isTag t
  | .injectArmExpire => true
  | .faultClear t => isTag t
  | .bbRead t => isTag t
  | .ingotWrite how => decide (how < 4)
  | .logBudgetRefill => true
  | .summaryIngot => true
  | .blackboxScan _ => true
  | .ceRateBin => true
  | .fwStage t _ => isTag t
  | .fwCommit t => isTag t
  | .fwConfirm t => isTag t
  | .probationExpire => true
  | .probationNoSupervisor => true
  | .settingsLoad t bad => isTag t && decide (bad < 3)
  | .digestRead t => isTag t
  | .digestScanPass => true
  | .cfgGenWrite _ => true
  | .tamperLatch pins => decide (pins < 256)
  | .tamperReport => true
  | .tamperClear _ => true
  | .tamperArm t => isTag t
  | .removalDeclared c => isChan c
  | .refit c => isChan c
  | .shuntCheckWindow => true
  | .insulationHalfPeriod _ _ _ => true
  | .energyIngot => true
  | .energyRead t => isTag t
  | .lampEvaluation => true
  | .lampTest _ => true
  | .lampTestEnd => true
  | .traceRecord => true
  | .traceHostCopy => true
  | .tracePortFrame => true
  | .traceResume _ => true
  | .atest t => isTag t
  | .atestMeasureDone _ => true
  | .atestInterlockLoss => true
  | .registerWrite bar _ _ be _ => (bar == 0 || bar == 2 || bar == 4 || bar == 6) && decide (be < 16)
  | .aonPowerUp _ straps => decide (straps < 8)
  | .getCapsRetry n => isPort n
  | .softResetRepeat n => isPort n
  | .tlRequestTimeout t => isTag t
  | .tlReattachTimeout t => isTag t

end Sys2Proof
end

