-- ==== Sys2Proof/Safety.lean ====
section
/-! DEFINITION. What claims are stated in: a command that completes, and the states a safe run stays in. -/

namespace Sys2Proof.Machine

/-- The command answers a next state, and the property holds of it. -/
def Completes (i : Instr) (s : State) (p : State → Prop) : Prop := ∃ t, exec i s = .next t ∧ p t

/-- The word store is in its canonical form: addresses rising, no listed word at its reset value. -/
def wordsOk (s : State) : Bool := tabWf (resetWord s.part) s.words

/-- The commands waiting are well formed. -/
def pendingOk (s : State) : Bool := s.pending.all Instr.wf

/-- At most one sprue feeds CBUS (R63): at most one gate is high. -/
def oneGate (s : State) : Bool := decide (((List.range 4).filter (fun n => (sprue s n).gate == .high)).length ≤ 1)

/-- Every word outside the list reads as before. -/
def WordsBut (l : List Nat) (s t : State) : Prop := ∀ a, a ∉ l → rd t a = rd s a

/-- A word in which the host interface reports events to the host: `HI_EVENT`, `HI_EVLOST`, the pending bits of MSI-X and `FULL` of the
event rings. -/
def ReportWord (a : Nat) : Prop :=
  a = HI_EVENT ∨ a = HI_EVLOST ∨ a = bar4 + 0xC000 ∨ a = bar4 + 0xC004 ∨ a = EV_STATUS 0 ∨ a = EV_STATUS 1 ∨ a = EV_STATUS 2 ∨ a = EV_STATUS 3

/-- `t` is `s` but for the words listed. -/
def OnlyWords (l : List Nat) (s t : State) : Prop := WordsBut l s t ∧ t = { s with words := t.words }

/-- The command of tag `t` has ended in `u` with a status and two results, its completion still to be written. -/
def Ended (t st : Nat) (r0 r1 : Word) (u : State) : Prop :=
  ∃ y, getTag u t = some y ∧ y.state = .done ∧ y.status = st ∧ y.r0 = r0 ∧ y.r1 = r1

/-- `u` is `s` but for the entry of tag `t`, which has ended. -/
def OnlyTagEnds (t : Nat) (s u : State) : Prop :=
  (∀ i, i ≠ t → getTag u i = getTag s i) ∧
  u = { s with hi := { s.hi with tags := u.hi.tags, nextEnd := s.hi.nextEnd + 1 } }

/-- The watchdog has failed in `u`, from `s`, for a reason (R510, R512). -/
def WdFailed (s : State) (reason : Nat) (u : State) : Prop :=
  wdState u = wdPULSE ∧ Out.hostReset ∈ u.out ∧ u.wd.hrstLow = true ∧ u.wd.deadline = s.now + 10000000 ∧ u.now = s.now ∧
  getF u WD_COUNTS_HRST_COUNT = satTo 65535 (getF s WD_COUNTS_HRST_COUNT + 1) ∧ getF u WD_COUNTS_LAST_FAIL = reason ∧
  getF u WD_STATUS_CONSEC = satTo 255 (getF s WD_STATUS_CONSEC + 1) ∧ question u = nextQuestion (question s) ∧
  (rd u WD_EVENT).getLsbD 0 = true

/-- Port `n` has entered an attached state in `u`, from `s`, with power role `r` (R305): 1 source, 0 sink. -/
def AttachedAs (n r : Nat) (s u : State) : Prop :=
  astate u n = (if r = 1 then aATT_SRC else aATT_SNK) ∧ (tl u n).since = u.now ∧ prole u n = r ∧ lrole u n = r ∧
  getF u (TL_ATTACH_ATT_COUNT n) = satTo 65535 (getF s (TL_ATTACH_ATT_COUNT n) + 1) ∧ (rd u (TL_EVENT n)).getLsbD 0 = true ∧
  rd u (TL_CONTRACT n) = 0 ∧ getF u (PP_TLSTAT_DIR n) = 0 ∧ pidValid u n = false ∧ rd u (TL_PLINKID n) = 0 ∧
  (∀ i < 32, rd u (PARTNER n + 4 * i) = 0) ∧ (tl u n).txSeq = 0 ∧ (tl u n).rxSeq = none ∧ (tl u n).heard = decide (r ≠ 1) ∧
  (r = 1 → (tl u n).cs = 1) ∧
  (r = 0 → flag u (TL_ATTACH_LES_OUT n) = false ∧ ((tl s n).own = none → (tl u n).cs = 2 ∧ (tl u n).own = some .getCaps ∧
    (tl u n).news = (tl s n).news ++ [{ typ := mGET_CAPS, objs := [], act := .none }]))

/-- Port `n` has left its attached state in `u`, from `s` (R306). -/
def LeftAttached (n : Nat) (s u : State) : Prop :=
  rd u (TL_CONTRACT n) = 0 ∧ getF u (PP_TLSTAT_DIR n) = 0 ∧ flag u (TL_ATTACH_LES_OUT n) = false ∧ prole u n = 0 ∧ lrole u n = 0 ∧
  (rd u (TL_EVENT n)).getLsbD 1 = true ∧ (tl u n).cs = 0 ∧ (tl u n).own = none ∧ (tl u n).cur = none ∧ (tl u n).answers = [] ∧
  (tl u n).news = [] ∧ (tl u n).inbox = [] ∧ (tl u n).swap = none ∧ getF u (TL_CSTATE_MODES n) = 0 ∧
  (rd s (TL_CONTRACT n) ≠ 0 → (rd u (TL_CEVENT n)).getLsbD 1 = true)

/-- Nothing of a tie-link row on port `n` reaches another port, the channels or the supplies. -/
def OnlyPort (n : Nat) (s u : State) : Prop :=
  (∀ m, m ≠ n → tl u m = tl s m) ∧ u.pw = s.pw ∧ u.chans = s.chans ∧ u.flasks = s.flasks ∧ u.ests = s.ests

/-- A LES_SWAP or a REATTACH may still be sent: the conditions of R349, R353 hold (the model's reading of when they are asked, log 94). -/
def maySwap (s : State) (n : Nat) (m : TlMsg) : Prop :=
  (m.typ = mLES_SWAP → swapOk s n = true) ∧ (m.typ = mREATTACH → pidValid s n = true ∧ bootSrc s n = false)

/-- Port `n` of `s`, which sends nothing and backs off from nothing, starts what it sends next, once LCW has shown no edge for 26 µs, or
nothing (R322, R328, R345, R356): its GOODCRC, the message in hand, the oldest answer, its oldest new message, a tunnel frame; a
source that has not heard the sink sends no message but SOFT_RESET. -/
def Starts (n : Nat) (s u : State) : Prop := ∀ (x : TlPort) (go : Nat → TlPort → Prop), x = tl s n →
  (∀ k y, go k y ↔ (u.now = max s.now (x.lineAt + 26000) ∧ u = setTl { s with now := u.now } n { y with sending := k, txAt := u.now })) →
  (∀ q, x.good = some q → go 1 x) ∧
  (x.good = none →
    (∀ c, x.cur = some c → c.ackDue = none → go 2 x) ∧
    (∀ c d, x.cur = some c → c.ackDue = some d → (tunnelReady s n = true → go 3 x) ∧ (tunnelReady s n = false → u = s)) ∧
    (∀ m l, x.cur = none → x.answers = m :: l → isSrc s n = false ∨ x.heard = true ∨ m.typ = mSOFT_RESET →
      go 2 { x with answers := l, cur := some { msg := m, seq := x.txSeq } }) ∧
    (∀ m l, x.cur = none → x.answers = [] → x.news = m :: l → isSrc s n = false ∨ x.heard = true ∨ m.typ = mSOFT_RESET →
      (maySwap s n m → go 2 { x with news := l, cur := some { msg := m, seq := x.txSeq } }) ∧
      (¬ maySwap s n m → (tl u n).cur = none ∧ (tl u n).sending ≠ 1 ∧ (tl u n).sending ≠ 2 ∧ u.out = s.out)) ∧
    (x.cur = none → (∀ m, (x.answers ++ x.news).head? = some m → isSrc s n = true ∧ x.heard = false ∧ m.typ ≠ mSOFT_RESET) →
      (tunnelReady s n = true → go 3 x) ∧ (tunnelReady s n = false → u = s)))

/-- Packet `r` is the oldest one of its type that port `n` has been delivered; `rest` are the others. -/
def Delivered (n typ : Nat) (r : TlRx) (rest : List TlRx) (s : State) : Prop :=
  tlOn s n = true ∧ attached s n = true ∧ hType r.hdr = typ ∧
  ∃ a b, (tl s n).inbox = a ++ r :: b ∧ rest = a ++ b ∧ ∀ y ∈ a, hType y.hdr ≠ typ

/-- Port `n` sends request object `w` and awaits its answer in `u` (R341). -/
def RequestOut (n : Nat) (w : Word) (u : State) : Prop :=
  (tl u n).own = some .request ∧ (tl u n).lastReq = w ∧ (tl u n).cs = 3 ∧
  (tl u n).news.getLast? = some { typ := mREQUEST, objs := [w], act := .none }

/-- Port `n` has formed its request for (v, i) in `u` and sent it, or found no object that fits (R340). -/
def FormedFor (n v i : Nat) (u : State) : Prop :=
  (i = 0 → RequestOut n 0 u) ∧
  (i ≠ 0 → flag u (TL_CSTATE_TRIP_LOCK n) = false → (∀ p, matchPos u n v i = some p → RequestOut n (reqObj p v i) u) ∧
    (matchPos u n v i = none → (tl u n).cs = 1 ∧ rd u (TL_CONTRACT n) = 0 ∧ (rd u (TL_CEVENT n)).getLsbD 3 = true))

/-- The same for the request in force. -/
def RequestFormed (n : Nat) (u : State) : Prop := FormedFor n (requestInForce u n).1 (requestInForce u n).2 u

/-- Port `n` of `u` is that of `s` with the packets `rest` left and one more answer. -/
def Answers (n typ : Nat) (objs : List Word) (rest : List TlRx) (s u : State) : Prop :=
  u = setTl s n { tl s n with inbox := rest, answers := (tl s n).answers ++ [{ typ, objs, act := .none }] }

/-- Port `n` of `u` has nothing of its own outstanding, or asks to enter the first mode of `l` (R358). -/
def NextEnter (n : Nat) (l : List Nat) (s u : State) : Prop :=
  (l = [] → (tl u n).own = none ∧ (tl u n).ownDue = none ∧ (tl u n).news = (tl s n).news) ∧
  (∀ k t, l = k :: t → (tl u n).own = some (.vdm 2 k) ∧ (tl u n).ownDue = none ∧ (tl u n).enters = t ∧
    (tl u n).news = (tl s n).news ++ [{ typ := mVENDOR, objs := [vdmHeader 0 k 2], act := .none }])

/-- A message on vector `v` can be sent: the function is in D0 and not in reset, and neither the vector nor the function is masked. -/
def vectorOpen (s : State) (v : Nat) : Bool :=
  !s.hi.d3hot && !s.hi.resetting && !msixMasked s && !(rd s (bar4 + 0x8000 + 16 * v + 12)).getLsbD 0

/-- Vector `v` is signalled between `s` and `u` (R373, R399): its message is sent, or it is held pending; nothing is while MSI-X is not
enabled. -/
def Signalled (v : Nat) (s u : State) : Prop :=
  (msixEnabled s = false → u.out = s.out ∧ u.words = s.words) ∧
  (msixEnabled s = true → vectorOpen s v = true → u.out = .msix v :: s.out ∧ u.words = s.words) ∧
  (msixEnabled s = true → vectorOpen s v = false → u.out = s.out ∧ (rd u (bar4 + 0xC000 + 4 * (v / 32))).getLsbD (v % 32) = true)

/-- Record `r` of `n` entries stands in event ring `e` from index `tail` on in `u`, with the phase given (R381). -/
def RecordAt (e tail phase n : Nat) (r : Record) (u : State) : Prop :=
  ∀ j < n, Out.event e (tail + j) (entryWords (recordWords r) phase n j) ∈ u.out

/-- The state in which the command of entry `x` is applied: that of `s` at its apply tick (R417), its parameter words on their way to the
targets' regions (R31). -/
def atTick (s : State) (x : Tag) : State := paramXfer { s with now := applyTime s x } x

/-- `w` is `s` after a write of `v` to offset `a` by the access types and locks (R17-R21): nothing changes at an offset without a
register or while its domain is off; else RW bits and unlocked RWL bits take the written ones, W1C bits are cleared but where a
hardware event of the same clock cycle sets them, W1S bits are set, and the rest stays. -/
def AccessWritten (a : Nat) (v same : Word) (s w : State) : Prop := OnlyWords [a] s w ∧
  (regRow a = none ∨ on s (blockDomain a) = false → w = s) ∧
  (∀ r, regRow a = some r → on s (blockDomain a) = true → ∀ i < 32,
    (r.rw.testBit i = true → (rd w a).getLsbD i = v.getLsbD i) ∧
    (r.rwl.testBit i = true → (rd w a).getLsbD i = (if flag s (lockFld a) then (rd s a).getLsbD i else v.getLsbD i)) ∧
    (r.w1c.testBit i = true → (rd w a).getLsbD i = ((rd s a).getLsbD i && !(v.getLsbD i && !same.getLsbD i))) ∧
    (r.w1s.testBit i = true → (rd w a).getLsbD i = ((rd s a).getLsbD i || v.getLsbD i)) ∧
    (r.rw.testBit i = false → r.rwl.testBit i = false → r.w1c.testBit i = false → r.w1s.testBit i = false →
      (rd w a).getLsbD i = (rd s a).getLsbD i))

/-- The state has become `u` from `s` by a write through the access types, the scanner's marks of what changed following it (R590). -/
def Written (a : Nat) (v same : Word) (s u : State) : Prop := ∃ w, AccessWritten a v same s w ∧ u = noteCfg s w

/-- A write of `v` to BAR0 offset `a` completes in `u`, the scanner's marks of what changed following it (R590). -/
def WriteGives (v same : Word) (s : State) (a : Nat) (u : State) : Prop := Completes (.registerWrite 0 a v 15 same) s fun t => t = noteCfg s u

/-- The offsets a write to which is no more than its access types: all but the registers that act. -/
def plainOffset (a : Nat) : Bool :=
  !([CK_PDREQ, GL_CFGGEN, CK_RESET, HI_CTRL, HI_TAGS, HI_ORPHAN, PP_CTRL, PP_ARM, PP_PRIORITY, LP_CTRL, SV_CTRL, WD_CTRL, WD_ANSWER,
    WD_PERIOD, WD_KEY, TM_TAMPCFG, TM_TAMPLAT, TM_INSCFG, TM_SHCHK].contains a) &&
  !(decide (0x11000 ≤ a ∧ a < 0x11480) && decide (a % 0x20 < 12)) &&
  !(decide (0x20100 ≤ a ∧ a < 0x20140) && a % 8 == 0) &&
  !(decide (0x21000 ≤ a ∧ a < 0x21100) && (decide (a % 0x40 < 0x10) || a % 0x40 == 0x1C)) &&
  !(decide (0x30000 ≤ a ∧ a < 0x32000) && [0, 0x18, 0x28].contains (a % 0x400)) &&
  !decide (0x41000 ≤ a ∧ a < 0x42000) && !decide (0x50000 ≤ a ∧ a < 0x51000)

/-- `t` has the queue, the part and the fuses of `s`. -/
def SameQueue (s t : State) : Prop := t.pending = s.pending ∧ t.part = s.part ∧ t.fuses = s.fuses

/-- A state of a safe run. -/
def Safe (s : State) : Prop := wordsOk s = true ∧ pendingOk s = true

end Sys2Proof.Machine
end

