-- ==== Sys2Proof/Certificates/Slice0/Obligations.lean ====
section
/-! DEFINITION. The statements for the provers. -/

open Sys2Proof Sys2Proof.Machine

/-- R383, R385: the doorbells. -/
def Obligations.DoorbellsMoveRings : Prop := ∀ (s : State) (i v : Nat), on s dHOSTIF = true →
  (i < 16 → ringEn s .sq i = true →
    (ringSize s .sq i ≤ v → exec (.dbSqTail i v) s = .next (ringError s .sq i 1)) ∧
    (v = getF s (SQ_STATUS_TAIL i) → v < ringSize s .sq i → exec (.dbSqTail i v) s = .next s) ∧
    (v ≠ getF s (SQ_STATUS_TAIL i) → v < ringSize s .sq i → ∃ t, exec (.dbSqTail i v) s = .next t ∧ getF t (SQ_STATUS_TAIL i) = v ∧
      getF t (SQ_STATUS_HEAD i) = getF s (SQ_STATUS_HEAD i) ∧
      (subRing t i).bells = (subRing s i).bells ++ [(v, s.hi.nextBell)] ∧
      WordsBut [SQ_STATUS i] s t ∧ t = { s with words := t.words, hi := t.hi })) ∧
  (i < 16 → ringEn s .cq i = true →
    (ringSize s .cq i ≤ v → exec (.dbCqHead i v) s = .next (ringError s .cq i 1)) ∧
    (v < ringSize s .cq i →
      ((comRing s i).used < released (ringSize s .cq i) (comRing s i).used (getF s (CQ_STATUS_HEAD i)) v →
        exec (.dbCqHead i v) s = .next (ringError s .cq i 2)) ∧
      (released (ringSize s .cq i) (comRing s i).used (getF s (CQ_STATUS_HEAD i)) v ≤ (comRing s i).used →
        ∃ t, exec (.dbCqHead i v) s = .next t ∧ getF t (CQ_STATUS_HEAD i) = v ∧
          getF t (CQ_STATUS_TAIL i) = getF s (CQ_STATUS_TAIL i) ∧
          (comRing t i).used =
            (comRing s i).used - released (ringSize s .cq i) (comRing s i).used (getF s (CQ_STATUS_HEAD i)) v ∧
          WordsBut [CQ_STATUS i] s t ∧ t = { s with words := t.words, hi := t.hi }))) ∧
  (i < 4 → ringEn s .ev i = true →
    (ringSize s .ev i ≤ v → exec (.dbEvHead i v) s = .next (ringError s .ev i 1)) ∧
    (v < ringSize s .ev i →
      ((evRing s i).used < released (ringSize s .ev i) (evRing s i).used (getF s (EV_STATUS_HEAD i)) v →
        exec (.dbEvHead i v) s = .next (ringError s .ev i 2)) ∧
      (released (ringSize s .ev i) (evRing s i).used (getF s (EV_STATUS_HEAD i)) v ≤ (evRing s i).used →
        ∃ t, exec (.dbEvHead i v) s = .next t ∧ getF t (EV_STATUS_HEAD i) = v ∧
          getF t (EV_STATUS_TAIL i) = getF s (EV_STATUS_TAIL i) ∧
          (evRing t i).used =
            (evRing s i).used - released (ringSize s .ev i) (evRing s i).used (getF s (EV_STATUS_HEAD i)) v ∧
          WordsBut [EV_STATUS i] s t ∧ t = { s with words := t.words, hi := t.hi }))) ∧
  (i < 16 → ringEn s .sq i = false → exec (.dbSqTail i v) s = .next s) ∧
  (i < 16 → ringEn s .cq i = false → exec (.dbCqHead i v) s = .next s) ∧
  (i < 4 → ringEn s .ev i = false → exec (.dbEvHead i v) s = .next s)

/-- R384: ring and engine enables. -/
def Obligations.RingEnablesStartAndStop : Prop := ∀ (s : State) (i : Nat) (v : Word), on s dHOSTIF = true →
  (i < 16 → ringEn s .sq i = false → ∃ t, exec (.ringEnable .sq i v) s = .next t ∧
    ringEn t .sq i = true ∧ getF t (SQ_STATUS_ENABLED i) = 1 ∧ getF t (SQ_STATUS_HEAD i) = 0 ∧
    getF t (SQ_STATUS_TAIL i) = 0 ∧ (subRing t i).bells = [] ∧ (subRing t i).staging = (subRing s i).staging ∧
    (getF t (SQ_STATUS_IDLE i) = 1 ↔ sqTags s i = [] ∧ (subRing s i).staging = none) ∧ (ringErr t .sq i = true ↔ ringEn t .cq (sqCq t i) = false)) ∧
  (i < 16 → ringEn s .cq i = false → ∃ t, exec (.ringEnable .cq i v) s = .next t ∧
    ringEn t .cq i = true ∧ rd t (CQ_STATUS i) = 0x90000000 ∧ comRing t i = {} ∧
    WordsBut [CQ_CFG i, CQ_STATUS i] s t ∧ t = { s with words := t.words, hi := t.hi }) ∧
  (i < 4 → ringEn s .ev i = false → ∃ t, exec (.ringEnable .ev i v) s = .next t ∧
    ringEn t .ev i = true ∧ getF t (EV_STATUS_ENABLED i) = 1 ∧ getF t (EV_STATUS_HEAD i) = 0 ∧ getF t (EV_STATUS_TAIL i) = 0 ∧
    getF t (EV_STATUS_PHASE i) = 1 ∧ ringErr t .ev i = false ∧ (getF t (EV_STATUS_FULL i) = 1 ↔ (evRing s i).staging ≠ []) ∧
    (evRing t i).used = 0 ∧
    (evRing t i).staging = (evRing s i).staging ∧
    WordsBut [EV_CFG i, EV_STATUS i] s t ∧ t = { s with words := t.words, hi := t.hi }) ∧
  (i < 16 → ringEn s .sq i = true → ∃ t, exec (.ringDisable .sq i v) s = .next t ∧
    ringEn t .sq i = false ∧ getF t (SQ_STATUS_ENABLED i) = 0 ∧
    (getF t (SQ_STATUS_IDLE i) = 1 ↔ sqTags s i = [] ∧ (subRing s i).staging = none) ∧
    (subRing t i).staging = (subRing s i).staging ∧
    WordsBut [SQ_CFG i, SQ_STATUS i] s t ∧ t = { s with words := t.words, hi := t.hi }) ∧
  (i < 16 → ringEn s .cq i = true → ∃ t, exec (.ringDisable .cq i v) s = .next t ∧ ringEn t .cq i = cqBusy s i ∧
    WordsBut [CQ_CFG i, CQ_STATUS i] s t ∧ t = { s with words := t.words }) ∧
  (i < 4 → ringEn s .ev i = true → ∃ t, exec (.ringDisable .ev i v) s = .next t ∧ ringEn t .ev i = false ∧
    getF t (EV_STATUS_ENABLED i) = 0 ∧
    WordsBut [EV_CFG i, EV_STATUS i] s t ∧ t = { s with words := t.words }) ∧
  (∃ t, exec (.engineEnable v) s = .next t ∧ getF t HI_CTRL_EN = (if v.getLsbD 0 then 1 else 0) ∧
    (getF t HI_STATUS_RUNNING = 1 ↔ v.getLsbD 0 = true ∧ getF s HI_STATUS_READY = 1) ∧
    (getF s HI_CTRL_LOCK = 1 → getF t HI_CTRL_DCRC_EN = getF s HI_CTRL_DCRC_EN ∧ getF t HI_CTRL_LOCK = 1) ∧
    WordsBut [HI_CTRL, HI_STATUS] s t ∧ t = { s with words := t.words })

/-- R386, R387, R389, R390, R395, R403: from the ring to the block. -/
def Obligations.DescriptorsAreFetchedAndStarted : Prop :=
  (∀ (s : State) (i : Nat) (d : Desc) (w : Nat), engineOn s = true → turnRing s = some i → i < 16 →
    (subRing s i).staging = none → unfetched s i ≠ 0 → fetchPaused s i = false → flag s HI_CTRL_DCRC_EN = false →
    freeTagNo s = some w → (tagOf d i 0 0 0).opcode ≠ 1 →
    Completes (.descriptorFetch i [d]) s fun u =>
      getTag u w = some (tagOf d i (getF s (SQ_STATUS_HEAD i)) (headBell s i) s.hi.nextOrder) ∧
      (∀ j, j ≠ w → getTag u j = getTag s j) ∧
      getF u (SQ_STATUS_HEAD i) = (getF s (SQ_STATUS_HEAD i) + 1) % ringSize s .sq i ∧
      u.hi.nextOrder = s.hi.nextOrder + 1 ∧ u.hi.rr = (i + 1) % 16 ∧
      WordsBut [SQ_STATUS i, SQ_COUNT i, HI_TAGS] s u ∧ u = { s with words := u.words, hi := u.hi }) ∧
  (∀ (s : State) (t : Nat) (src : List Byte) (memErr : Bool) (x : Tag), getTag s t = some x → engineOn s = true →
    x.state = .fetched → x.orphan = none → startable s x = true →
    (svActive s = false → Completes (.commandStart t src memErr) s (Ended t stBUSY 0 0)) ∧
    (svActive s = true → startCheck s x ≠ 0 → Completes (.commandStart t src memErr) s (Ended t (startCheck s x) 0 0)) ∧
    (svActive s = true → startCheck s x = 0 → writesState x = true → s.pw.transport = .drain →
      Completes (.commandStart t src memErr) s (Ended t stBUSY 0 0)) ∧
    (svActive s = true → startCheck s x = 0 → (writesState x = true → s.pw.transport ≠ .drain) → memErr = false →
      src.length = bufBytes x.isSgl x.bufLen x.sgl →
      Completes (.commandStart t src memErr) s fun u =>
        ∃ y, getTag u t = some y ∧ y.state = .started ∧ y.words = x.words ∧ y.bufLeft = initBuf x ∧ y.sq = x.sq ∧
        (∀ j, j ≠ t → getTag u j = getTag s j) ∧ (∀ a, ¬ ReportWord a → a ≠ TRC_LOST → a ≠ TRC_EVENT → rd u a = rd s a))) ∧
  (∀ (s : State) (t : Nat) (x : Tag), startedAs s t 0x00 = some x →
    Completes (.fence t) s fun u => Ended t stSUCCESS 0 0 u ∧ OnlyTagEnds t s u) ∧
  (∀ (s : State) (i : Nat) (d : Desc) (x : Tag), engineOn s = true → turnRing s = some i → i < 16 → (subRing s i).staging = none →
    flag s HI_CTRL_DCRC_EN = false → (allTags s).length < 1024 →
    x = tagOf d i (getF s (SQ_STATUS_HEAD i)) (headBell s i) s.hi.nextOrder → x.opcode = 1 → startCheck s x = 0 →
    (∀ (w : Nat) (y : Tag), waitingFor s i x.cid = some w → getTag s w = some y →
      Completes (.continue_ i d) s fun u =>
        getTag u w = some { y with state := .running, bufLeft := bufBytes x.isSgl x.bufLen x.sgl, buf := bufParts x } ∧
        (∀ j, j ≠ w → getTag u j = getTag s j) ∧ getF u (SQ_STATUS_HEAD i) = (getF s (SQ_STATUS_HEAD i) + 1) % ringSize s .sq i ∧
        u.hi.rr = (i + 1) % 16 ∧ WordsBut [SQ_STATUS i, SQ_COUNT i] s u ∧ u = { s with words := u.words, hi := u.hi }) ∧
    (∀ w, waitingFor s i x.cid = none → fetchPaused s i = false → freeTagNo s = some w →
      Completes (.continue_ i d) s fun u => Ended w stINVALID_FIELD 0 0 u ∧ (∀ j, j ≠ w → getTag u j = getTag s j) ∧
        getF u (SQ_STATUS_HEAD i) = (getF s (SQ_STATUS_HEAD i) + 1) % ringSize s .sq i ∧
        WordsBut [SQ_STATUS i, SQ_COUNT i, HI_TAGS] s u ∧ u = { s with words := u.words, hi := u.hi }))

/-- R396, R397, R402, R412, R385: completions, fragments and host memory errors. -/
def Obligations.CompletionsLeaveInOrder : Prop :=
  (∀ (s : State) (c t : Nat) (x : Tag), c < 16 → x.sq < 16 → firstEnded s c = some (t, x) → cqReady s c = true →
    Completes (.completionWrite c) s fun u =>
      getTag u t = none ∧ (∀ j, j ≠ t → getTag u j = getTag s j) ∧
      getF u (CQ_STATUS_TAIL c) = (getF s (CQ_STATUS_TAIL c) + 1) % ringSize s .cq c ∧
      (comRing u c).used = (comRing s c).used + 1 ∧
      ∃ e, Out.completion (sqCq s x.sq) (getF s (CQ_STATUS_TAIL (sqCq s x.sq))) e ∈ u.out ∧ e.take 4 =
        [BitVec.ofNat 32 (x.cid * 65536 + x.status * 256 + x.sq * 16 + (if x.bad then 4 else 0)),
         BitVec.ofNat 32 (getF s (SQ_STATUS_HEAD x.sq) * 65536 + x.slot), x.r0, x.r1]) ∧
  (∀ (s : State) (t n : Nat) (x : Tag), getTag s t = some x → x.sq < 16 → x.state = .running → x.orphan = none → x.off < x.total →
    n = fragLen s x → 0 < n → x.off + n ≤ readyBytes s t x → cqReady s (sqCq s x.sq) = true →
    Completes (.resultFragment t) s fun u =>
      Out.data t x.off (layBytes (bufTake n x.buf).1 (fragBytesOf x n)) ∈ u.out ∧
      (x.total ≤ x.off + n → getTag u t = none) ∧
      (x.off + n < x.total → ∃ y, getTag u t = some y ∧ y.off = x.off + n ∧ y.bufLeft = x.bufLeft - n ∧ y.buf = (bufTake n x.buf).2 ∧
        (y.state = .waitBuf ↔ x.bufLeft = n) ∧ y.result = x.result)) ∧
  (∀ (s : State) (t : Nat) (x : Tag), getTag s t = some x → x.state = .running → x.off < x.total →
    Completes (.hostMemoryError (.buffer t)) s fun u => Ended t stHOST_MEMORY x.r0 x.r1 u ∧ OnlyTagEnds t s u) ∧
  (∀ (s : State) (k : RingKind) (i : Nat), on s dHOSTIF = true → i < ringCount k → ringEn s k i = true →
    exec (.hostMemoryError (.ring k i)) s = .next (ringError s k i 3))

/-- R381, R398, R400, R401, R431-R434: event rings, coalescing and the heartbeat. -/
def Obligations.EventRecordsAreWritten : Prop :=
  (∀ (s : State) (e size tail ph n p : Nat) (x : Record) (l : List Record), evReady s e = true → e < 4 → (evRing s e).staging = x :: l →
    (evRing s e).lostEvt = 0 → (evRing s e).lostTel = 0 → evRoom s e x = true → size = ringSize s .ev e → tail = getF s (EV_STATUS_TAIL e) →
    tail < size → ph = getF s (EV_STATUS_PHASE e) → n = recEntries x → p = padCount size tail n →
    Completes (.eventRecordWrite e) s fun u => (evRing u e).staging = l ∧ (evRing u e).used = (evRing s e).used + p + n ∧
      u.now = (if x.evReg.isSome then max s.now (x.time + 10000) else s.now) ∧ getF u (EV_STATUS_TAIL e) = (tail + p + n) % size ∧
      (p = 0 → RecordAt e tail ph n x u) ∧
      (0 < p → RecordAt e 0 (1 - ph) n x u ∧ ∀ i < p, RecordAt e (tail + i) ph 1 (padRecord 0) u) ∧
      ((evRing s e).co.count + 1 < getF s (EV_CFG_CNT e) → (evRing u e).co.count = (evRing s e).co.count + 1) ∧
      (getF s (EV_CFG_CNT e) ≤ (evRing s e).co.count + 1 → (evRing u e).co = {} ∧
        (getF s (EV_CFG_IEN e) = 1 → msixEnabled s = true → vectorOpen s (getF s (EV_CFG_VEC e)) = true →
          Out.msix (getF s (EV_CFG_VEC e)) ∈ u.out)) ∧
      (∀ i, i ≠ e → evRing u i = evRing s i) ∧ (∀ a, ¬ ReportWord a → a ≠ EV_STATUS e → rd u a = rd s a) ∧ u.hi.tags = s.hi.tags ∧
      u = { s with now := u.now, words := u.words, hi := { s.hi with evs := u.hi.evs }, out := u.out }) ∧
  (∀ (s : State) (e : Nat), evReady s e = true → e < 4 → 0 < (evRing s e).lostEvt ∨ 0 < (evRing s e).lostTel →
    evRoom s e (lostRecord (evRing s e)) = true → getF s (EV_STATUS_TAIL e) < ringSize s .ev e →
    Completes (.eventRecordWrite e) s fun u => (evRing u e).staging = (evRing s e).staging ∧
      (evRing u e).lostEvt = 0 ∧ (evRing u e).lostTel = 0 ∧ (evRing u e).used = (evRing s e).used + 1 ∧
      RecordAt e (getF s (EV_STATUS_TAIL e)) (getF s (EV_STATUS_PHASE e)) 1 (lostRecord (evRing s e)) u) ∧
  (∀ (s : State) (e : Nat), evReady s e = false ∨ ((evRing s e).staging = [] ∧ (evRing s e).lostEvt = 0 ∧ (evRing s e).lostTel = 0) →
    Completes (.eventRecordWrite e) s fun u => u = s) ∧
  (∀ (s : State) (i : Nat), on s dHOSTIF = true → 0 < (comRing s i).co.count → getF s (CQ_IRQ_TIME i) ≠ 0 →
    Completes (.irqCoalesceTimeout .cq i) s fun u => (comRing u i).co = {} ∧ (comRing u i).used = (comRing s i).used ∧
      u.now = max s.now ((comRing s i).co.first + 1000 * getF s (CQ_IRQ_TIME i)) ∧
      (getF s (CQ_IRQ_IEN i) = 1 → Signalled (getF s (CQ_IRQ_VEC i)) s u) ∧ (getF s (CQ_IRQ_IEN i) = 0 → u.out = s.out) ∧
      (∀ a, a ≠ bar4 + 0xC000 → a ≠ bar4 + 0xC004 → rd u a = rd s a)) ∧
  (∀ (s : State) (i : Nat), on s dHOSTIF = true → 0 < (evRing s i).co.count →
    Completes (.irqCoalesceTimeout .ev i) s fun u => (evRing u i).co = {} ∧ (evRing u i).staging = (evRing s i).staging ∧
      u.now = max s.now ((evRing s i).co.first + 1000000) ∧
      (getF s (EV_CFG_IEN i) = 1 → Signalled (getF s (EV_CFG_VEC i)) s u) ∧ (getF s (EV_CFG_IEN i) = 0 → u.out = s.out) ∧
      (∀ a, a ≠ bar4 + 0xC000 → a ≠ bar4 + 0xC004 → rd u a = rd s a)) ∧
  (∀ (s : State) (i : Nat), Completes (.irqCoalesceTimeout .sq i) s (fun u => u = s) ∧
    ((comRing s i).co.count = 0 ∨ getF s (CQ_IRQ_TIME i) = 0 → Completes (.irqCoalesceTimeout .cq i) s fun u => u = s) ∧
    ((evRing s i).co.count = 0 → Completes (.irqCoalesceTimeout .ev i) s fun u => u = s)) ∧
  (∀ (s : State) (r sec : Nat) (x : Record), on s dHOSTIF = true → on s dPPATH = true → flag s HI_CTRL_HB_EN = true →
    getF s HI_CTRL_HB_RING = r → stagedEntries (evRing s r).staging < 1024 → sec = heartbeatSecond s →
    x = heartbeatRecord { s with now := sec * 1000000000 } sec →
    Completes .heartbeat s fun u => s.now ≤ sec * 1000000000 ∧ u.now = sec * 1000000000 ∧ u.hi.hbSecond = sec ∧
      (evRing u r).staging = (evRing s r).staging ++ [x] ∧ x.rtype = 2 ∧ x.time = u.now ∧
      x.content = [BitVec.ofNat 32 sec, rd s LD_EPOCH, pair16 (getF s WD_COUNTS_HRST_COUNT) (allTags s).length] ∧
      flag u (EV_STATUS_FULL r) = true ∧ WordsBut [EV_STATUS r] s u ∧
      u = { s with now := u.now, words := u.words, hi := { s.hi with evs := u.hi.evs, hbSecond := sec } }) ∧
  (∀ s : State, on s dHOSTIF = false ∨ flag s HI_CTRL_HB_EN = false → Completes .heartbeat s fun u => u = s)

/-- R372, R373, R407, R408, R493, R629: link and power states, PEAK_CLR, ACK. -/
def Obligations.LinkStatesAndAcknowledgements : Prop := ∀ s : State, on s dHOSTIF = true →
  (Completes .linkUp s fun u => u.tlHost = { s.tlHost with present := s.tlHost.present || on s dTLPHY } ∧
    u = { s with hi := { s.hi with linkUp := true, l1 := false }, tlHost := u.tlHost }) ∧
  (s.hi.linkUp = true → Completes .d3hotEntry s fun u => u = { s with hi := { s.hi with d3hot := true } }) ∧
  (s.hi.linkUp = true → aspmL1 s = false → Completes .linkL1Entry s fun u => u = s) ∧
  (s.hi.linkUp = true → aspmL1 s = true → s.hi.l1 = false → Completes .linkL1Entry s fun u => u.hi = { s.hi with l1 := true } ∧
    (on s dTRACE = true → flag s TRC_CTRL_HOST_EN = true →
      getF u TRC_STATUS_L1_PAUSE = 1 ∧ u.trc.hostGap = some (1, s.now)) ∧
    WordsBut [TRC_STATUS] s u ∧ u = { s with words := u.words, hi := u.hi, trc := { s.trc with hostGap := u.trc.hostGap } }) ∧
  (s.hi.l1 = true → Completes .linkL1Exit s fun u => u.hi = { s.hi with l1 := false } ∧
    (on s dTRACE = true → getF u TRC_STATUS_L1_PAUSE = 0) ∧ WordsBut [TRC_STATUS] s u ∧
    u = { s with words := u.words, hi := u.hi }) ∧
  (Completes .peakClr s fun u => getF u HI_TAGS_TAG_PEAK = (allTags s).length % 2048 ∧ OnlyWords [HI_TAGS] s u ∧
    getF u HI_TAGS_TAGS_USED = getF s HI_TAGS_TAGS_USED) ∧
  (Completes .orphanAck s fun u => flag u HI_STATUS_ORPH_PEND = false ∧ flag u HI_STATUS_READY = flag s HI_STATUS_READY ∧
    getF u HI_STATUS_LAST_RESET = getF s HI_STATUS_LAST_RESET ∧ OnlyWords [HI_STATUS] s u)

/-- R405-R407: reset, ready and the orphan log. -/
def Obligations.HostResetCutsCommandsOff : Prop :=
  (∀ (s : State) (k : HostResetKind), on s dHOSTIF = true → (k = .flr ∨ (k = .d3ToD0 ∧ s.hi.d3hot = true)) →
    Completes (.hostIfReset k) s fun u =>
      flag u HI_STATUS_READY = false ∧ flag u HI_STATUS_RUNNING = false ∧ getF u HI_STATUS_LAST_RESET = 2 ∧
      u.hi.resetting = true ∧ u.hi.d3hot = false ∧ u.hi.linkUp = s.hi.linkUp ∧
      (∀ t, getTag u t = (getTag s t).map (cutTag s (nextGen s) t)) ∧
      rd u OL_COUNT = rd s OL_COUNT + BitVec.ofNat 32 (stagedOrphans s).length ∧
      (∀ r i, i < ringCount r → ringEn u r i = false ∧ (r = .sq → subRing u i = {}) ∧ (r = .cq → comRing u i = {})) ∧
      (stagedOrphans s = [] → ∀ i < 4, (evRing u i).staging = []) ∧ u.chans = s.chans ∧ u.pp = s.pp) ∧
  (∀ (s : State) (k : HostResetKind), on s dHOSTIF = true → k ≠ .d3ToD0 → k ≠ .flr → Completes (.hostIfReset k) s fun u =>
      u.hi.linkUp = false ∧ u.hi.resetting = true) ∧
  (∀ s : State, on s dHOSTIF = true → s.hi.resetting = true → s.pw.done.testBit 12 = true →
    Completes .hostIfReady s fun u => flag u HI_STATUS_READY = true ∧ u.hi.resetting = false) ∧
  (∀ (s : State) (t g : Nat) (x : Tag), on s dPPATH = true → getTag s t = some x → x.sq < 16 → x.orphan = some g → x.state = .done →
    Completes (.orphanEntry t) s fun u => getTag u t = none ∧ rd u OL_COUNT = rd s OL_COUNT + 1 ∧
      rd u (OL_ENTRY ((rd s OL_COUNT).toNat % 1024)) =
        BitVec.ofNat 32 (x.cid * 65536 + x.status * 256 + x.sq * 16 + x.outcome) ∧
      (flag u HI_STATUS_ORPH_PEND = true) ∧ u.hi.capFree = s.hi.capFree + x.pages ∧
      (∀ j, j ≠ t → getTag u j = getTag s j))

/-- R404, R415, R422, R424, R426, R430: IDENTIFY, EVENT_ROUTE, CHAN_READ and CAPTURE. -/
def Obligations.HubCommandsComplete : Prop := ∀ (s : State) (t : Nat) (x : Tag), targetsOnline s x = true →
  (startedAs s t 0x02 = some x → Completes (.identify t) s fun u =>
    Ended t stSUCCESS (rd s GL_IDENT) (rd s GL_TOPOLOGY) u ∧ OnlyTagEnds t (atTick s x) u) ∧
  (startedAs s t 0x03 = some x → Completes (.eventRoute t) s fun u =>
    Ended t stSUCCESS (BitVec.ofNat 32 (s.hi.routeBlock + 4 * s.hi.routeChan + 16 * s.hi.routeTl)) 0 u ∧
    u.hi.routeBlock = bits (x.param 0) 0 2 ∧ u.hi.routeChan = bits (x.param 0) 2 2 ∧ u.hi.routeTl = bits (x.param 0) 4 2 ∧
    u = { atTick s x with hi := u.hi } ∧ u.hi.evs = s.hi.evs ∧ u.hi.subs = s.hi.subs ∧ u.hi.coms = s.hi.coms) ∧
  (startedAs s t 0x13 = some x → Completes (.chanRead t) s fun u =>
    getTag u t = some { x with state := .running } ∧ u.hi.chanReads = s.hi.chanReads ++ [t] ∧
    (∀ j, j ≠ t → getTag u j = getTag s j) ∧
    u = { atTick s x with hi := { s.hi with tags := u.hi.tags, chanReads := u.hi.chanReads } }) ∧
  (startedAs s t 0x1A = some x → ∀ live, live = s.hi.captures.filter (fun y => captureLive s y) →
    (live.any (fun y => y.chan == selFirst (x.word 1) && !y.full) = true →
      Completes (.capture t) s fun u => Ended t stBUSY 0 0 u ∧ OnlyTagEnds t (atTick s x) u) ∧
    (live.any (fun y => y.chan == selFirst (x.word 1) && !y.full) = false → live.any (fun y => y.state == .waiting) = false →
      capturePages (x.param 0).toNat ≤ s.hi.capFree → Completes (.capture t) s fun u =>
        getTag u t = some { x with state := .running, pages := capturePages (x.param 0).toNat } ∧
        u.hi.capFree = s.hi.capFree - capturePages (x.param 0).toNat ∧
        (∃ c ∈ u.hi.captures, c.tag = t ∧ c.chan = selFirst (x.word 1) ∧ c.nsamp = (x.param 0).toNat ∧
          c.dec = bits (x.param 1) 0 8 ∧ (low2 (x.param 2) = 2 → c.state = .armed)) ∧ u = { atTick s x with hi := u.hi }) ∧
    (live.any (fun y => y.chan == selFirst (x.word 1) && !y.full) = false → s.hi.capFree < capturePages (x.param 0).toNat →
      Completes (.capture t) s fun u => getTag u t = some { x with state := .running } ∧ u.hi.capFree = s.hi.capFree ∧
        ∃ c ∈ u.hi.captures, c.tag = t ∧ c.state = .waiting)) ∧
  (∀ c, firstWaiting s = some c → c.tag = t → getTag s t = some x → capturePages c.nsamp ≤ s.hi.capFree →
    Completes .capturePagesReserved s fun u => u.hi.capFree = s.hi.capFree - capturePages c.nsamp ∧
      getTag u t = some { x with pages := capturePages c.nsamp } ∧
      (∀ d ∈ u.hi.captures, d.tag = t → d.state =
        if c.trig = 0 ∨ (c.trig = 1 ∧ c.trigTime < s.now) then CapState.sampling else .armed) ∧ u = { s with hi := u.hi })

/-- R424, R425, R442, R443: capture triggers, TELEMETRY and its frames. -/
def Obligations.CapturesAndTelemetryProceed : Prop := ∀ (s : State) (t : Nat) (x : Tag),
  (∀ c, armedCapture s t = some c →
    (c.trig = 1 ∨ (c.trig = 2 ∧ c.edge = true ∧ (chan s c.chan).state ≠ .run) ∨
      (c.trig = 3 ∧ c.edge = true ∧ droopOn s = true)) →
    Completes (.captureTrigger t) s fun u => (∃ d ∈ u.hi.captures, d.tag = t ∧ d.state = .sampling ∧ d.taken = 0 ∧
      d.chan = c.chan ∧ d.nsamp = c.nsamp) ∧
      u.now = (if c.trig = 1 then max s.now ((c.trigTime + 999) / 1000 * 1000 - 1000) else s.now) ∧
      u = { s with now := u.now, hi := { s.hi with captures := u.hi.captures } }) ∧
  (∀ c d, armedCapture s t = some c → c.deadline = some d → getTag s t = some x → x.state ≠ .done →
    Completes (.captureTriggerTimeout t) s fun u => Ended t stTIMEOUT 0 0 u ∧
      u.now = max s.now d ∧ u.hi.capFree = s.hi.capFree + x.pages ∧ (∀ y ∈ u.hi.captures, y.tag ≠ t) ∧ u.words = s.words) ∧
  (startedAs s t 0x04 = some x → targetsOnline s x = true → telCheck (x.param 0) = false →
    Completes (.telemetry t) s fun u => Ended t stCHECK_FAILED (BitVec.ofNat 32 (selFirst (x.word 1))) 0 u ∧ OnlyTagEnds t (atTick s x) u) ∧
  (startedAs s t 0x04 = some x → targetsOnline s x = true → telCheck (x.param 0) = true →
    Completes (.telemetry t) s fun u => getTag u t = some { x with state := .running } ∧
      (∀ f ∈ selRange (x.word 1), tele u f = { tele s f with next := (tele s f).next ++ [(x.param 0, x.param 1, t)] }) ∧
      (∀ f, f ∉ selRange (x.word 1) → tele u f = tele s f) ∧ u = { atTick s x with hi := u.hi, tel := u.tel }) ∧
  (∀ f, telEn (tele s f).cfg = true → telF (tele s f).cfg ≤ (tele s f).taken → on s dPPATH = true →
    stagedEntries (evRing s (telRing (tele s f).cfg)).staging + recEntries (telRecord (tele s f) f) ≤ 1024 →
    Completes (.telemetryFrame f) s fun u =>
      (evRing u (telRing (tele s f).cfg)).staging = (evRing s (telRing (tele s f).cfg)).staging ++ [telRecord (tele s f) f] ∧
      (tele u f).fseq = ((tele s f).fseq + 1) % 2 ^ 32 ∧ (tele u f).taken = 0 ∧ (tele u f).force = false ∧
      (tele u f).cfg = (tele s f).cfg ∧ (∀ g, g ≠ f → tele u g = tele s g) ∧ WordsBut [EV_STATUS (telRing (tele s f).cfg)] s u ∧
      u = { s with words := u.words, hi := u.hi, tel := u.tel, fabrics := u.fabrics })

/-- R126, R141, R167, R415, R417: the commands on channels. -/
def Obligations.ChannelCommandsActOnEveryTarget : Prop := ∀ (s : State) (t : Nat) (x : Tag),
  (atTick s x = { s with now := applyTime s x, fabrics := (atTick s x).fabrics }) ∧
  (selRegions (x.word 1) = [] → applyTime s x = s.now) ∧
  (selRegions (x.word 1) ≠ [] → applyTime s x % 1000 = 0 ∧ s.now ≤ applyTime s x) ∧
  ((selRegions (x.word 1)).length = 1 → applyTime s x < s.now + 1000) ∧
  (1 < (selRegions (x.word 1)).length → x.startAt + 3000 < applyTime s x) ∧
  (targetsOnline s x = false → ∀ e ∈ [(Instr.chanParam t, 0x10), (.chanWindows t, 0x11), (.chanState t, 0x12), (.flaskParam t, 0x14), (.flaskState t, 0x15)],
    startedAs s t e.2 = some x → Completes e.1 s fun u => Ended t stREGION_OFFLINE 0 0 u ∧ OnlyTagEnds t s u) ∧
  (targetsOnline s x = true → ∀ l w, l = selRange (x.word 1) → w = (List.range 8).map x.param →
  (startedAs s t 0x10 = some x →
    (∀ c, l.find? (fun c => !chanCheck s c w (winWords s c)) = some c → Completes (.chanParam t) s fun u =>
      Ended t stCHECK_FAILED (BitVec.ofNat 32 c) 0 u ∧ OnlyTagEnds t (atTick s x) u) ∧
    ((∀ c ∈ l, chanCheck s c w (winWords s c) = true) → Completes (.chanParam t) s fun u =>
      (∀ c ∈ l, ∀ j < 8, rd u (CH_CFG c + 4 * j) = x.param j) ∧ (∀ c, c ∉ l → chan u c = chan s c) ∧
      ((x.param 0).getLsbD 31 = true → ∀ c ∈ l, (chan s c).state = .absent → (chan u c).state = .hold ∧ (chan u c).reason = 8) ∧
      ((x.param 0).getLsbD 31 = false → ∀ c ∈ l, (chan s c).state = .run → (chan s c).ramp = none →
        (chan u c).state = .run ∧ (chan u c).ramp = some { deadline := applyTime s x + 1000000, target := .absent, cmds := [(t, .absent)] } ∧
        getTag u t = some { x with state := .running, applied := true }))) ∧
  (startedAs s t 0x11 = some x →
    (∀ c, l.find? (fun c => !chanCheck s c (cfgWords s c) ((List.range 4).map x.param)) = some c →
      Completes (.chanWindows t) s fun u => Ended t stCHECK_FAILED (BitVec.ofNat 32 c) 0 u ∧ OnlyTagEnds t (atTick s x) u) ∧
    ((∀ c ∈ l, chanCheck s c (cfgWords s c) ((List.range 4).map x.param) = true) →
      Completes (.chanWindows t) s fun u => Ended t stSUCCESS 0 0 u ∧
        (∀ c ∈ l, ∀ j < 4, rd u (CH_TCHG1 c + 4 * j) = x.param j) ∧
        (∀ a, (∀ c ∈ l, ∀ j < 4, a ≠ CH_TCHG1 c + 4 * j) → rd u a = rd s a) ∧ u = { atTick s x with words := u.words, hi := u.hi, fw := { s.fw with parts := u.fw.parts } })) ∧
  (startedAs s t 0x12 = some x → ∀ a, a = bits (x.param 0) 0 2 →
    (∀ c, l.find? (fun c => !chanStateOk s a c) = some c → Completes (.chanState t) s fun u =>
      Ended t stSTATE (BitVec.ofNat 32 c) 0 u ∧ OnlyTagEnds t (atTick s x) u) ∧
    ((∀ c ∈ l, chanStateOk s a c = true) → Completes (.chanState t) s fun u =>
      (∀ c, c ∉ l → chan u c = chan s c) ∧
      (a = 0 → ∀ c ∈ l, (chan s c).state = .run → (chan s c).ramp = none → (chan u c).ramp =
        some { deadline := applyTime s x + 1000000, target := .hold, cmds := [(t, .hold)] } ∧
        getTag u t = some { x with state := .running, applied := true }) ∧
      (a = 0 → ∀ c ∈ l, (chan s c).state = .hold → chan u c = chan s c) ∧
      (a = 1 → ∀ c ∈ l, (chan u c).state = .run) ∧
      (a = 2 → ∀ c ∈ l, (chan s c).state ≠ .run → (chan u c).state = .disconnected) ∧
      (a = 2 → ∀ c ∈ l, (chan s c).state = .run → (chan s c).ramp = none → (chan u c).ramp =
        some { deadline := applyTime s x + 1000000, target := .disconnected, cmds := [(t, .disconnected)] }) ∧
      (a = 3 → ∀ c ∈ l, (chan u c).state = .hold ∧ (chan u c).reason = 8))))

/-- R116, R130, R141, R638: the commands on flasks. -/
def Obligations.FlaskCommandsHoldAndRelease : Prop := ∀ (s : State) (t : Nat) (x : Tag), targetsOnline s x = true →
  ∀ l, l = selRange (x.word 1) →
  (startedAs s t 0x14 = some x →
    (flaskCheck x = false → ∀ f, l.head? = some f → Completes (.flaskParam t) s fun u =>
      Ended t stCHECK_FAILED (BitVec.ofNat 32 f) 0 u ∧ OnlyTagEnds t (atTick s x) u) ∧
    (flaskCheck x = true → ∀ f, l.find? (fun f => !(flaskHeld s f || getF s (FL_CFG_FSW f) == bits (x.param 0) 24 8)) = some f →
      Completes (.flaskParam t) s fun u => Ended t stSTATE (BitVec.ofNat 32 f) 0 u ∧ OnlyTagEnds t (atTick s x) u) ∧
    (flaskCheck x = true → (∀ f ∈ l, flaskHeld s f = true ∨ getF s (FL_CFG_FSW f) = bits (x.param 0) 24 8) →
      Completes (.flaskParam t) s fun u => Ended t stSUCCESS 0 0 u ∧
        (∀ f ∈ l, rd u (FL_CFG f) = x.param 0 ∧ rd u (FL_MODE f) = x.param 1) ∧
        (∀ a, (∀ f ∈ l, a ≠ FL_CFG f ∧ a ≠ FL_MODE f) → rd u a = rd s a) ∧ u = { atTick s x with words := u.words, hi := u.hi, fw := { s.fw with parts := u.fw.parts } })) ∧
  (startedAs s t 0x15 = some x →
    (bits (x.param 0) 0 1 = 1 → (∀ f ∈ l, f < s.part.flasks) → Completes (.flaskState t) s fun u => Ended t stSUCCESS 0 0 u ∧
      (∀ f ∈ l, (flask u f).holds = (if (flask s f).holds.contains 1 then (flask s f).holds else (flask s f).holds ++ [1]) ∧
        (flask u f).retry = .run) ∧ (∀ f, f ∉ l → flask u f = flask s f)) ∧
    (bits (x.param 0) 0 1 ≠ 1 → ∀ f, l.find? (fun f => releaseRefused s f) = some f → Completes (.flaskState t) s fun u =>
      Ended t stSTATE (BitVec.ofNat 32 f) 0 u ∧ OnlyTagEnds t (atTick s x) u) ∧
    (bits (x.param 0) 0 1 ≠ 1 → (∀ f ∈ l, releaseRefused s f = false) →
      (s.atst.cur.all (fun m => !l.contains m.flask) = true → Completes (.flaskState t) s fun u => Ended t stSUCCESS 0 0 u ∧
        (∀ f ∈ l, (flask u f).holds = []) ∧ (∀ f, f ∉ l → flask u f = flask s f)) ∧
      (∀ m, s.atst.cur = some m → m.flask ∈ l → Completes (.flaskState t) s fun u =>
        getTag u t = some { x with state := .running } ∧ u.atst.releases = s.atst.releases ++ [t] ∧
        flask u m.flask = flask s m.flask ∧ (∀ f ∈ l, f ≠ m.flask → (flask u f).holds = []))))

/-- R126, R129, R131-R133: ramps, trips, self-check and fault return. -/
def Obligations.TripsStopAndReport : Prop := ∀ (s : State),
  (∀ c r, (chan s c).state = .run → (chan s c).ramp = none → tripReason s c = some r → Completes (.channelTrip c) s fun u =>
    (chan u c).state = .hold ∧ (chan u c).reason = r ∧ (chan u c).trips = satTo 65535 ((chan s c).trips + 1) ∧
    (chan u c).u = 0 ∧ (∀ d, d ≠ c → chan u d = chan s d) ∧
    ∃ v, u = fault v (r - 2) 1 (srcChan c 0)
      (if r = 5 then BitVec.ofInt 32 (chan s c).i else BitVec.ofNat 32 (chan s c).vb) ∧
      ∀ a, ¬ ReportWord a → a ≠ TRC_LOST → a ≠ TRC_EVENT → rd v a = rd s a) ∧
  (∀ c r, (chan s c).state = .run → (chan s c).ramp = some r → Completes (.holdRampEnd c) s fun u =>
    (chan u c).state = r.target ∧ (chan u c).ramp = none ∧ (∀ d, d ≠ c → chan u d = chan s d) ∧
    u.now = (if (chan s c).i.natAbs < 50 then s.now else max s.now r.deadline)) ∧
  (∀ f ctx, f < s.part.flasks → flaskOn s f = true → (flask s f).running = true → Completes (.sequencerSelfcheckFail f ctx) s fun u =>
    (flask u f).running = false ∧ (flask u f).failed = true ∧ (flask u f).pairs = [] ∧
    (∀ g, g < s.part.flasks → g ≠ f → g / 4 = f / 4 → (flask u g).holds.contains 4 = true) ∧
    (∀ g, g / 4 ≠ f / 4 → flask u g = flask s g) ∧ ∃ v, u = fault v 0x13 2 (srcFlask f 0) ctx) ∧
  (∀ f, f < s.part.flasks → flaskOn s f = true → (flask s f).running = true → (flask s f).fltPin = false → (flask s f).holds = [] →
    (flask s f).retry = .run →
    ((flask s f).retryCount < getF s (FL_CFG_RETRY_MAX f) → Completes (.faultReturnAssert f) s fun u =>
      (flask u f).fltPin = true ∧ (flask u f).fltAt = s.now ∧ (flask u f).fltEvents = satTo 65535 ((flask s f).fltEvents + 1) ∧
      (flask u f).retry = .wait ∧ (flask u f).retryCount = (flask s f).retryCount + 1 ∧ (flask u f).holds = [] ∧
      (∀ c ∈ flaskChans f, (chan u c).u = 0 ∧ (chan u c).state = (chan s c).state) ∧ (∀ g, g ≠ f → flask u g = flask s g)) ∧
    (getF s (FL_CFG_RETRY_MAX f) ≤ (flask s f).retryCount → Completes (.faultReturnAssert f) s fun u =>
      (flask u f).fltPin = true ∧ (flask u f).holds = [3] ∧ (flask u f).retry = .run)) ∧
  (∀ f, f < s.part.flasks → flaskOn s f = true → (flask s f).running = true → (flask s f).fltPin = false →
    ((flask s f).holds ≠ [] ∨ (flask s f).retry = .wait) → Completes (.faultReturnAssert f) s fun u =>
      (flask u f).fltPin = true ∧ (flask u f).fltAt = s.now ∧ (flask u f).fltEvents = satTo 65535 ((flask s f).fltEvents + 1) ∧
      (flask u f).retry = (flask s f).retry ∧ (flask u f).holds = (flask s f).holds ∧
      ∀ c, (chan u c).state = (chan s c).state) ∧
  (∀ f l m, f < s.part.flasks → l < 16 → flaskOn s f = true → (flask s f).running = true → (flask s f).fltPin = false →
    (flask s f).holds = [] → (flask s f).retry = .restart → (flask s f).restarted = l :: m →
    s.now ≤ (flask s f).restartAt + 200000 → (chan s (16 * f + l)).state = .run → (chan s (16 * f + l)).ramp = none →
    Completes (.faultReturnAssert f) s fun u => (chan u (16 * f + l)).state = .hold ∧ (chan u (16 * f + l)).reason = 6 ∧
      (flask u f).retry = .wait ∧ (flask u f).restarted = [] ∧ (flask u f).retryCount = (flask s f).retryCount)

/-- R133: the retry rows. -/
def Obligations.RetryRestartsChannelsInOrder : Prop := ∀ (s : State) (f : Nat),
  ((flask s f).retry = .wait → (flask s f).running = true → Completes (.retryDelayExpire f) s fun u =>
    u.now = max s.now ((flask s f).fltAt + 10000000 * getF s (FL_CFG_RETRY_DLY f)) ∧ (flask u f).fltPin = false ∧
    (∀ l, (List.range 16).find? (fun l => (chan s (16 * f + l)).state == .run) = some l →
      (flask u f).retry = .restart ∧ (flask u f).restarted = [l] ∧ (flask u f).restartAt = u.now ∧
      (chan u (16 * f + l)).u = 0 ∧ (chan u (16 * f + l)).state = .run) ∧
    ((∀ l < 16, (chan s (16 * f + l)).state ≠ .run) → (flask u f).retry = .run ∧ u.chans = s.chans)) ∧
  (∀ l, (flask s f).retry = .restart → nextRestart s f = some l → Completes (.retryChannelRestart f) s fun u =>
    u.now = max s.now ((flask s f).restartAt + 200000) ∧ (flask u f).restarted = l :: (flask s f).restarted ∧
    (flask u f).restartAt = u.now ∧ (∀ c, c ≠ 16 * f + l → chan u c = chan s c) ∧
    u = { s with now := u.now, chans := u.chans, flasks := u.flasks }) ∧
  ((flask s f).retry = .restart → nextRestart s f = none → Completes (.retryComplete f) s fun u =>
    u.now = max s.now ((flask s f).restartAt + 10000000) ∧ (flask u f).retry = .run ∧ (flask u f).restarted = [] ∧
    (flask u f).runAt = u.now ∧ u.chans = s.chans) ∧
  (f < s.part.flasks → (flask s f).retry = .wait → (flask s f).fltPin = true → Completes (.faultReturnStuck f) s fun u =>
    u.now = max s.now ((flask s f).fltAt + 1000000000) ∧ (flask u f).holds.contains 6 = true ∧ (flask u f).retry = .run) ∧
  ((flask s f).retry = .run → (flask s f).running = true → (flask s f).holds = [] → Completes (.retryCountReset f) s fun u =>
    u.now = max s.now (max (flask s f).fltAt (flask s f).runAt + 60000000000) ∧
    flask u f = { flask s f with retryCount := 0 } ∧ (∀ g, g ≠ f → flask u g = flask s g) ∧
    u = { s with now := u.now, flasks := u.flasks })

/-- R149, R152, R153, R156, R157: the rows of the phase machine. That recovery is exhausted also with `TRAIN` + 1 above `NTRAIN` is the
model's choice (log 92). -/
def Obligations.PhaseMachineTakesItsTransitions : Prop := ∀ (s : State) (c : Nat) (p : Phase), p = (chan s c).ph →
  phaseLive s c = true →
  (p.fault = 0 → ∀ e ∈ [(1, true, 10000, 10000, 2), (1, false, 10000, 10000, 7), (2, true, 1000, 10000, 3),
      (2, false, 1000, 10000, 1), (3, true, 10000, 1000, 4), (3, false, 10000, 1000, 2), (4, true, 10000, 1000, 5),
      (4, false, 10000, 1000, 2), (5, true, 1, 1, 6), (6, true, 10000, 1, 2), (6, false, 10000, 1, 2)],
    p.phase = e.1 → (if e.2.1 then e.2.2.1 ≤ p.susA else p.susA < e.2.2.1 ∧ e.2.2.2.1 ≤ p.susB) →
    Completes (.phaseSustainMet c) s fun u => (chan u c).ph.phase = e.2.2.2.2 ∧ (chan u c).ph.timer = 0 ∧
      (chan u c).ph.elapsed = 0 ∧ (chan u c).ph.susA = 0 ∧ (chan u c).state = (chan s c).state ∧
      (p.phase = 4 → e.2.1 = true → (chan u c).ph.full = true ∧ (est u c).armed = true) ∧
      (p.phase = 5 → (chan u c).ph.restCut = true) ∧ (∀ d, d ≠ c → chan u d = chan s d) ∧
      (∀ a, ¬ ReportWord a → a ≠ TRC_LOST → a ≠ TRC_EVENT → rd u a = rd s a)) ∧
  (p.phase = 7 → p.fault = 0 → p.relaxing = false → pNPULSE s c ≤ p.pulse → Completes (.pulseTrainDone c) s fun u =>
    (chan u c).ph = { p with relaxing := true, timer := 0, pulse := 0, pulseMs := 0 } ∧
    (∀ d, d ≠ c → chan u d = chan s d) ∧ u = { s with chans := u.chans }) ∧
  (p.phase = 7 → p.relaxing = true → p.fault = 0 → 1000 * pTRELAX s c ≤ p.timer →
    (vbBelow s c (pVRECOV s c) = false → Completes (.relaxTimerExpire c) s fun u => (chan u c).ph.phase = 1) ∧
    (vbBelow s c (pVRECOV s c) = true → p.train + 1 < pNTRAIN s c → Completes (.relaxTimerExpire c) s fun u =>
      (chan u c).ph = { p with train := p.train + 1, relaxing := false, timer := 0 }) ∧
    (vbBelow s c (pVRECOV s c) = true → pNTRAIN s c ≤ p.train + 1 → Completes (.relaxTimerExpire c) s fun u =>
      (chan u c).ph = { p with train := p.train + 1, fault := 2, susp := true } ∧
      ∃ v, u = fault v 0x06 1 (srcChan c 0) 2 ∧ v = { s with chans := v.chans })) ∧
  (p.phase = 1 → p.fault = 0 → 1000 * pTPRE s c ≤ p.timer → Completes (.prechargeTimeout c) s fun u =>
    (chan u c).ph = { p with fault := 1, susp := true } ∧ ∃ v, u = fault v 0x06 1 (srcChan c 0) 1 ∧ v = { s with chans := v.chans }) ∧
  (p.phase = 3 → p.fault = 0 → pTCV s c ≠ 0 → 1000 * pTCV s c ≤ p.timer → Completes (.cvTimeout c) s fun u =>
    (chan u c).ph.phase = 4 ∧ (chan u c).ph.timer = 0) ∧
  (p.phase = 4 → p.fault = 0 → 1000 * pTTOP s c ≤ p.timer → Completes (.topoffTimeout c) s fun u =>
    (chan u c).ph.phase = 5 ∧ (chan u c).ph.timed = true ∧ (chan u c).ph.timer = 0 ∧ (chan u c).ph.full = p.full) ∧
  (p.phase = 5 → p.fault = 0 → 1000 * pTREST s c ≤ p.timer → Completes (.restTimerExpire c) s fun u =>
    (chan u c).ph.phase = 6 ∧ (chan u c).ph.timer = 0 ∧ (chan u c).ph.mark = (chan s c).cv.acc)

/-- R158, R162, R163, R188: invalid temperatures and the PHASE command. -/
def Obligations.WindowsAndPhaseCommand : Prop := ∀ (s : State) (c : Nat),
  (2 ≤ (chan s c).th.oor → (chan s c).th.invalid = false → Completes (.tempInvalid c) s fun u =>
    (chan u c).th = { (chan s c).th with invalid := true, validSince := none } ∧
    (chan u c).win = { cwin := 5, dwin := 3, inForce := true } ∧ (online s (chRegion c) = true → (rd u (MS_T c)).getLsbD 15 = true) ∧ (chan u c).state = (chan s c).state ∧
    (∀ d, d ≠ c → chan u d = chan s d) ∧
    ((chan s c).state = .hold ∨ (chan s c).state = .run → ∃ v, u = fault v 0x05 1 (srcChan c 0)
      (BitVec.ofNat 32 ((chan s c).th.rangeMs * 2 ^ 31 + (chan s c).th.pin / 1000)) ∧ v.fq = s.fq) ∧
    ((chan s c).state = .absent ∨ (chan s c).state = .disconnected → u.fq = s.fq)) ∧
  (∀ t, (chan s c).win.cwin = 5 → (chan s c).th.invalid = false → (chan s c).th.validSince = some t →
    Completes (.tempValidRestored c) s fun u => u.now = max s.now (t + 1000000000) ∧
      (chan u c).win = computeWindows s c true ∧ (∀ d, d ≠ c → chan u d = chan s d)) ∧
  (∀ t x, startedAs s t 0x16 = some x → targetsOnline s x = true → c = selFirst (x.word 1) →
    (phaseActOk (chan s c) (bits (x.param 0) 0 2) = true → flaskHeld s (chFlask c) = false → Completes (.phase t) s fun u =>
      getTag u t = some { x with state := .running, applied := true } ∧
      (chan u c).ph.actions = (chan s c).ph.actions ++ [(bits (x.param 0) 0 2, t)] ∧
      (chan u c).ph.phase = (chan s c).ph.phase ∧ (∀ d, d ≠ c → chan u d = chan s d) ∧
      u = { atTick s x with hi := { s.hi with tags := u.hi.tags }, chans := u.chans }) ∧
    (phaseActOk (chan s c) (bits (x.param 0) 0 2) = false ∨ flaskHeld s (chFlask c) = true → Completes (.phase t) s fun u =>
      Ended t stSTATE (chPhaseWord s c) 0 u ∧ OnlyTagEnds t (atTick s x) u))

/-- R44, R45, R74, R78, R122, R124, R129, R176, R180, R184: the tick, the local copies and the snapshot. -/
def Obligations.TicksAndSnapshotsMoveTime : Prop :=
  (∀ (s : State) (x : TickIn), Completes (.loopTick x) s fun u =>
    u.now = tickTime s ∧ u.tickAt = u.now ∧ s.now ≤ u.now ∧ u.now ≤ s.pw.hubCopy.read s.now + 1000 ∧
    u.pw.hubTick = nextStrobe s ∧ u.pw.hubTick % 1000 = 0 ∧ s.pw.hubCopy.read s.now ≤ u.pw.hubTick ∧
    u.pw.hubTick ≤ s.pw.hubCopy.read s.now + 1000 ∧ u.pw.hubTick ≤ s.pw.hubCopy.read u.now ∧
    u.pp.scale = s.pp.scaleNext ∧ u.lad.f = s.lad.fNext ∧ SameQueue s u ∧ u.snap = s.snap ∧
    (∀ k, k < s.part.regions → on s (dCTL k) = true → x.noStrobe.contains k = false →
      (region u k).strobeAt = u.now ∧ (region u k).strobeLost = false ∧ (region u k).tick = (region s k).copy.read u.now / 1000) ∧
    (∀ k, k < s.part.regions → on s (dCTL k) = true → x.noStrobe.contains k = true →
      (region u k).strobeAt = (region s k).strobeAt ∧ (region u k).strobeLost = (region s k).strobeLost ∧
      (region u k).tick = (if (region s k).strobeLost then (region s k).copy.read u.now / 1000 else (region s k).tick)) ∧
    (∀ c m, x.chans = [m] → m.c = c → flaskOn s (chFlask c) = true → (chan u c).i = tickCurrent (chan s c).cv (chanCal s c) m.sh ∧
      (chan u c).vb = tickVoltage (chan s c).cv (chanCal s c) m.pin ∧
      ((chan u c).hiTrip = true ↔ getF s (CH_VTRIP_VTRIP_HI c) < (chan u c).vb)) ∧
    (∀ c, flaskOn s (chFlask c) = true → (chan s c).state = .run → (flask s (chFlask c)).running = true →
      (flask s (chFlask c)).holds = [] → (flask s (chFlask c)).retry = .run → x.noStrobe.contains (chRegion c) = false →
      -(getF s (CH_ILIM_IDIS_MAX c) : Int) ≤ (chan u c).r ∧ (chan u c).r ≤ getF s (CH_ILIM_ICHG_MAX c) ∧
      (flag s PP_STATUS_OV_CLAMP = true → (flask s (chFlask c)).pairs = [] → (flask s (chFlask c)).asked = [] → 0 ≤ (chan u c).r))) ∧
  (∀ (s : State) (k : Nat), on s (dCTL k) = true → k < s.part.regions → Completes (.tickStrobeLost k) s fun u =>
    region u k = { region s k with strobeLost := true } ∧ (∀ j, j ≠ k → region u j = region s j) ∧
    u.now = max s.now ((region s k).strobeAt + 2000) ∧ u = { s with now := u.now, regs := u.regs }) ∧
  (∀ (s : State) (diff : List (Nat × Int)), Completes (.timeRealign diff) s fun u =>
    (∀ k, on s (dCTL k) = true → k < s.part.regions → region u k = { region s k with copy := (region u k).copy } ∧
      (region u k).copy.at_ = s.now ∧ (region u k).copy.value = max ((region s k).copy.read s.now) (s.now + min (timeStep s) (copyDiff diff k).toNat) ∧
      (region s k).copy.read s.now ≤ (region u k).copy.read s.now) ∧
    (∀ k, on s (dCTL k) = false ∨ s.part.regions ≤ k → region u k = region s k) ∧
    (on s dPPATH = true → u.pw = { s.pw with hubCopy := s.pw.hubCopy.realign s.now (timeStep s) (copyDiff diff 4) }) ∧
    u = { s with regs := u.regs, pw := { s.pw with hubCopy := u.pw.hubCopy } }) ∧
  (∀ (s : State) (x : SnapIn), Completes (.snapshot x) s fun u => u.snap = snapTime s ∧ u.now = snapTime s ∧
    u.now % 1000000 = 0 ∧ s.now ≤ u.now ∧ u.now ≤ s.now + 1000000 ∧ SameQueue s u)

/-- R31, R35-R38, R53, R546: frames and retraining of a runner link. That a frame of a size R38 rules out counts as one whose CRC fails is
the model's choice (log 66). -/
def Obligations.RunnerLinksRetryAndRetrain : Prop := ∀ (s : State) (k : Nat), on s (dCTL k) = true → k < s.part.regions →
  (∀ x : RunFrame, (region s k).trained = true → x.toRegion = false ∨ s.fc.arm = none →
    x.hdr.length = 8 → x.payload.length ≤ (if x.cls = 0 then 64 else 256) → x.crc = crc32c (x.hdr ++ x.payload) →
    Completes (.runnerFrameRx k x) s fun u =>
      region u k = { region s k with retx := retxWithout (region s k) x } ∧ (∀ j, j ≠ k → region u j = region s j) ∧
      (x.toRegion = true → (fabric u k).waiting =
        ((fabric s k).run (rounds s.part k) k s.now).waiting ++ [{ cls := x.cls, req := rqRunner, bytes := x.payload.length }]) ∧
      (x.toRegion = false → on s dPPATH = true →
        (fabric u hubFabric).waiting = ((fabric s hubFabric).run (rounds s.part hubFabric) hubFabric s.now).waiting ++ [{ cls := x.cls, req := k, bytes := x.payload.length }]) ∧
      u = { s with regs := u.regs, fabrics := u.fabrics }) ∧
  (∀ x : RunFrame, (region s k).trained = true → x.toRegion = false ∨ s.fc.arm = none →
    x.hdr.length ≠ 8 ∨ (if x.cls = 0 then 64 else 256) < x.payload.length ∨ x.crc ≠ crc32c (x.hdr ++ x.payload) →
    Completes (.runnerFrameRx k x) s fun u =>
      (frameTries (region s k) x < 3 → region u k = { region s k with
        retx := ((x.toRegion, x.num), frameTries (region s k) x + 1) :: retxWithout (region s k) x }) ∧
      (3 ≤ frameTries (region s k) x → region u k = { region s k with retx := [], trained := false } ∧ online u k = false) ∧
      (∀ j, j ≠ k → region u j = region s j) ∧
      ∃ v, v = fault s 0x20 1 (srcRegion k 4) (BitVec.ofNat 32 (frameTries (region s k) x)) ∧ u.fq = v.fq) ∧
  (∀ (x : RunFrame) (a : Arm), (region s k).trained = true → x.toRegion = true → s.fc.arm = some a → a.checker = 2 → (∃ j ∈ a.jobs, 0 < j.left) →
    injectLink s = some k → frameTries (region s k) x = 0 → x.hdr.length = 8 → x.payload.length ≤ (if x.cls = 0 then 64 else 256) →
    x.crc = crc32c (x.hdr ++ x.payload) → Completes (.runnerFrameRx k x) s fun u =>
      region u k = { region s k with retx := ((true, x.num), 1) :: retxWithout (region s k) x }) ∧
  ((region s k).trained = false → Completes (.runnerRetrain k false) s fun u =>
    u = fault (modRegion s k (fun x => { x with lost := true })) 0x21 3 (srcRegion k 4) 0 ∧ (region u k).lost = true) ∧
  ((region s k).trained = false → Completes (.runnerRetrain k true) s fun u =>
    (region u k).trained = true ∧ (region u k).retx = [] ∧ (region u k).lost = false ∧
    ((region s k).held = false → online u k = true) ∧ (∀ j, j ≠ k → online u j = online s j))

/-- R27, R28, R192, R194-R196: calibration slots, rounds and CHAN_CAL. -/
def Obligations.BackgroundTrimmingFollowsItsRounds : Prop := ∀ (s : State),
  (∀ f x, f < 64 → flaskOn s f = true → (flask s f).running = true → slotHost (slotStart s f) f = none → (calConv s f).skipped = [] →
    (calConv s f).pos < 16 → carriesTone s f (calConv s f).pos = false → Completes (.calSlot f x) s fun u =>
      (calConv u f).pos = ((calConv s f).pos + 1) % 16 ∧ (calConv u f).slots = (calConv s f).slots + 1 ∧
      getF u (CC_STATUS_LAST_CH f) = (calConv s f).pos ∧ u.now = max s.now (1000000 * slotMs s f) ∧ (calConv u f).lastMs = slotMs s f ∧
      (flag s (CC_STATUS_TRIM_SUSP f) = true → u.chans = s.chans) ∧
      (flag s (CC_STATUS_TRIM_SUSP f) = false → (chan u (16 * f + (calConv s f).pos)).cv =
        (trimSlot (chan s (16 * f + (calConv s f).pos)).cv x true).1) ∧
      (∀ c, c ≠ 16 * f + (calConv s f).pos → chan u c = chan s c)) ∧
  (∀ f x, f < 64 → flaskOn s f = true → (flask s f).running = true → slotHost (slotStart s f) f = none → (calConv s f).skipped = [] →
    carriesTone s f (calConv s f).pos = true → Completes (.calSlot f x) s fun u =>
      (calConv u f).skipped = [(calConv s f).pos] ∧ (calConv u f).pos = ((calConv s f).pos + 1) % 16 ∧ u.chans = s.chans ∧
      getF u (CC_LIMITS_SKIPS f) = satTo (2 ^ (CC_LIMITS_SKIPS f).wid - 1) (getF s (CC_LIMITS_SKIPS f) + 1)) ∧
  (∀ x, on s dPPATH = true → (calConv s 64).susp = false → Completes (.calSlot 64 x) s fun u =>
    (calConv u 64).pos = ((calConv s 64).pos + 1) % 13 ∧ (calConv u 64).lastMs = slotMs s 64 ∧ leg u (calConv s 64).pos = (trimSlot (leg s (calConv s 64).pos) x false).1 ∧
    (∀ l, l ≠ (calConv s 64).pos → leg u l = leg s l)) ∧
  (∀ x, on s dPPATH = true → (calConv s 64).susp = true → Completes (.calSlot 64 x) s fun u =>
    (calConv u 64).pos = ((calConv s 64).pos + 1) % 13 ∧ u.legs = s.legs ∧ u.fq = s.fq) ∧
  (∀ u, (calConv s u).lastMs < slotMs s u ∧ s.now / 1000000 ≤ slotMs s u ∧
    (slotMs s u = s.now / 1000000 ∨ slotMs s u = (calConv s u).lastMs + 1)) ∧
  (∀ f x l, f < 64 → flaskOn s f = true → (flask s f).running = true → slotHost (slotStart s f) f = some l → Completes (.calSlot f x) s fun u =>
    calConv u f = { calConv s f with slots := (calConv s f).slots + 1, lastMs := slotMs s f, host := none } ∧
    u.now = max s.now (1000000 * slotMs s f) ∧ u.chans = s.chans ∧ u.words = s.words ∧
    (flask u f).pairs = (flask s f).pairs.map (fun p => if l.contains p.a || l.contains p.b then { p with clipped := true } else p)) ∧
  (∀ f ppm, f < 64 → flaskOn s f = true → (flask s f).running = true → 16 ≤ (calConv s f).slots → calJoined s f = true →
    Completes (.calRoundEnd f ppm) s fun u => calConv u f = { calConv s f with slots := 0 } ∧ u = { s with calConvs := u.calConvs }) ∧
  (∀ f ppm, f < 64 → flaskOn s f = true → (flask s f).running = true → 16 ≤ (calConv s f).slots → calJoined s f = false →
    Completes (.calRoundEnd f ppm) s fun u => (calConv u f).slots = 0 ∧
      (flag u (CC_STATUS_REF_OK f) = true ↔ ppm.natAbs ≤ 500) ∧
      (500 < ppm.natAbs → flag u (CC_STATUS_TRIM_SUSP f) = true ∧ (calConv u f).agree = 0) ∧
      (ppm.natAbs ≤ 500 → flag u (CC_STATUS_TRIM_SUSP f) = (flag s (CC_STATUS_TRIM_SUSP f) && decide ((calConv s f).agree + 1 < 16))) ∧
      (500 < ppm.natAbs → flag s (CC_STATUS_TRIM_SUSP f) = false → ∃ v, u = fault v 0x14 2 (srcFlask f 1) (BitVec.ofInt 32 ppm) ∧
        OnlyWords [CC_STATUS f] { s with calConvs := v.calConvs } v)) ∧
  (∀ ppm, on s dPPATH = true → 16 ≤ (calConv s 64).slots → calJoined s 64 = false → Completes (.calRoundEnd 64 ppm) s fun u => (calConv u 64).slots = 0 ∧
    (calConv u 64).susp = (decide (500 < ppm.natAbs) || ((calConv s 64).susp && decide ((calConv s 64).agree + 1 < 16)))) ∧
  (∀ t x, startedAs s t 0x17 = some x → targetsOnline s x = true →
    (∀ c, (selRange (x.word 1)).find? (fun c => !calCheck s c ((List.range 4).map x.param)) = some c → Completes (.chanCal t) s fun u =>
      Ended t stCHECK_FAILED (BitVec.ofNat 32 c) 0 u ∧ OnlyTagEnds t (atTick s x) u) ∧
    ((∀ c ∈ selRange (x.word 1), calCheck s c ((List.range 4).map x.param) = true) → Completes (.chanCal t) s fun u =>
      getTag u t = some { x with state := .running } ∧ u.words = s.words ∧
      u.calWaits = s.calWaits ++ [⟨selRange (x.word 1), (List.range 4).map x.param, t⟩] ∧
      (∀ c ∈ selRange (x.word 1), ∃ l, (calConv u (chFlask c)).host = some ((atTick s x).now / 1000000 + 1, l) ∧ c % 16 ∈ l) ∧
      u = { atTick s x with hi := { s.hi with tags := u.hi.tags }, calWaits := u.calWaits, calConvs := u.calConvs }))

/-- R29, R30, R531, R532, R538, R540, R543: the fault network and the collector. -/
def Obligations.FaultMessagesReachTheCollector : Prop := ∀ (s : State),
  (∀ f x q, f < 64 → flaskOn s f = true → on s (dCTL (f / 16)) = true → (faultQ s f).q = x :: q → (faultQ s f).ovfDue = false →
    (faultQ s (64 + f / 16)).q.length < 64 → Completes (.flaskFaultPortForward f) s fun u => (faultQ u f).q = q ∧
      (faultQ u (64 + f / 16)).q = queueInsert true ⟨x.msg, s.now⟩ (faultQ s (64 + f / 16)).q ∧
      (∀ i, i ≠ f → i ≠ 64 + f / 16 → faultQ u i = faultQ s i) ∧ u = { s with fq := u.fq }) ∧
  (∀ f x q, f < 64 → flaskOn s f = true → (faultQ s f).q = x :: q → (faultQ s f).ovfDue = true → q.length < 32 →
    Completes (.flaskFaultPortForward f) s fun u => (faultQ u f).ovfDue = false ∧ (faultQ u f).q = queueInsert false
      ⟨{ kind := 0x16, sev := 1, src := srcFlask f 3, ctx := BitVec.ofNat 32 (flask s f).lostMsg }, s.now⟩ q) ∧
  (∀ k x q, k < 4 → on s (dCTL k) = true → on s dBBOX = true → (faultQ s (64 + k)).q = x :: q → (faultQ s (64 + k)).ovfDue = false →
    Completes (.aggregatorForward k) s fun u => (faultQ u (64 + k)).q = q ∧ u.fc.inbox = s.fc.inbox ++ [(k, x.msg)] ∧
      (∀ i, i ≠ 64 + k → faultQ u i = faultQ s i) ∧ u = { s with fq := u.fq, fabrics := u.fabrics, fc := { s.fc with inbox := u.fc.inbox } }) ∧
  (∀ i m, on s dBBOX = true → s.fc.inbox = [(i, m)] → m.inj = false → m.kind ≠ 0x24 → m.kind < 64 → m.sev = 1 ∨ m.sev = 2 →
    s.fc.esc = [] → getF s (FC_KIND_ESC_N m.kind) = 0 → flag s FC_STATUS_FF_VALID = false → Completes .faultMessage s fun u =>
      u.fc.inbox = [] ∧ flag u FC_STATUS_FF_VALID = true ∧ rd u FC_FIRST_HI = m.ctx ∧
      rd u FC_FIRST_LO = BitVec.ofNat 32 (m.kind * 2 ^ 24 + m.sev * 2 ^ 16 + m.src) ∧
      rd u FC_FIRST_TLO = lo32 (stamp s) ∧ rd u FC_FIRST_THI = hi32 (stamp s) ∧
      (m.sev = 1 → getF u FC_MSG0_MINORS = satTo 65535 (getF s FC_MSG0_MINORS + 1)) ∧
      (m.sev = 2 → getF u FC_MSG1_MAJORS = satTo 65535 (getF s FC_MSG1_MAJORS + 1)) ∧ u.now = s.now) ∧
  (∀ k, on s (dCTL k) = true → k < s.part.regions → s.part ≠ .zrc256 → Completes (.regionSelfHold k) s fun u =>
    (region u k).held = true ∧ online u k = false ∧ bitF u FC_RHOLD_RHELD k = true ∧
    (∀ f ∈ regionFlasks k, (flask u f).holds.contains 2 = true) ∧ (∀ j, j ≠ k → online u j = online s j) ∧
    u.now = max s.now (max (region s k).strobeAt (region s k).faultAt + 1000000)) ∧
  (∀ k, on s (dCTL k) = true → k < s.part.regions → s.part = .zrc256 → on s dPPATH = true → Completes (.regionSelfHold k) s fun u =>
    (∀ f ∈ regionFlasks k, f < s.part.flasks → (flask u f).holds.contains 2 = true) ∧ flag u PP_STATUS_SAFE = true) ∧
  (∀ k v, on s dBBOX = true → s.part ≠ .zrc256 → k < s.part.regions → v.getLsbD (4 + k) = true → (region s k).held = true →
    (region s k).trained = true → (region s k).lost = false → Completes (.regionRelease v) s fun u =>
      (region u k).held = false ∧ online u k = true ∧ (region u k).lastSwap = some s.now ∧ bitF u FC_RHOLD_RHELD k = false) ∧
  (∀ v, on s dBBOX = true → Completes (.ppSafeClear v) s fun u =>
    (safePersists s = false → rd u FC_EVENT = rd s FC_EVENT &&& ~~~v) ∧
    (safePersists s = true → rd u FC_EVENT = rd s FC_EVENT &&& ~~~(v &&& ~~~8) ∧ u.fc = s.fc) ∧ WordsBut [FC_EVENT] s u ∧
    u = { s with words := u.words, fc := { s.fc with safeKinds := u.fc.safeKinds } })

/-- R543, R546, R547, R558, R561: injection and what the host clears. -/
def Obligations.InjectionAndClearing : Prop := ∀ (s : State), on s dBBOX = true →
  (∀ t x c, startedAs s t 0x40 = some x → c = bits (x.param 0) 0 4 →
    (bits (x.param 0) 8 4 = 1 → s.fc.key ≠ 0 → x.param 2 = s.fc.key → s.fc.arm = none →
      Completes (.faultInject t) s fun u => Ended t stSUCCESS 0 0 u ∧
        u.fc.arm = some { checker := c, deadline := s.now + 60000000000 } ∧ flag u FC_STATUS_ARMED = true) ∧
    (∀ a, bits (x.param 0) 8 4 = 1 → s.fc.key ≠ 0 → x.param 2 = s.fc.key → s.fc.arm = some a → a.checker = c →
      Completes (.faultInject t) s fun u => Ended t stSUCCESS 0 0 u ∧
        u.fc.arm = some { a with deadline := s.now + 60000000000 } ∧ flag u FC_STATUS_ARMED = true) ∧
    (bits (x.param 0) 8 4 = 1 → s.fc.key = 0 ∨ x.param 2 ≠ s.fc.key → Completes (.faultInject t) s fun u =>
      Ended t stSUCCESS 0 0 u ∧ OnlyTagEnds t s u) ∧
    (bits (x.param 0) 8 4 = 3 → (∀ a, s.fc.arm = some a → ∀ j ∈ a.jobs, j.tag ≠ t) → Completes (.faultInject t) s fun u =>
      Ended t stSUCCESS 0 0 u ∧ u.fc.arm = none ∧ (s.fc.arm ≠ none → flag u FC_STATUS_ARMED = false)) ∧
    (bits (x.param 0) 8 4 = 2 → s.fc.arm = none → Completes (.faultInject t) s fun u =>
      Ended t stNOT_ARMED 0 0 u ∧ OnlyTagEnds t s u) ∧
    (∀ a, bits (x.param 0) 8 4 = 2 → s.fc.arm = some a → a.checker ≠ c ∨ flag s FC_CTRL_INJ_EN = false →
      Completes (.faultInject t) s fun u => Ended t stNOT_ARMED 0 0 u ∧ OnlyTagEnds t s u) ∧
    (∀ a, bits (x.param 0) 8 4 = 2 → s.fc.arm = some a → a.checker = c → (∀ j ∈ a.jobs, 0 < j.left) → c ≠ 1 →
      (c = 3 → flag s HI_CTRL_DCRC_EN = true) → flag s FC_CTRL_INJ_EN = true → 0 < bits (x.param 1) 0 16 →
      Completes (.faultInject t) s fun u => getTag u t = some { x with state := .running, applied := true } ∧
        u.fc.arm = some { a with jobs := a.jobs ++ [⟨t, bits (x.param 1) 0 16, 0⟩] }) ∧
    (∀ a, bits (x.param 0) 8 4 = 2 → s.fc.arm = some a → a.checker = 1 → c = 1 → a.jobs = [] →
      flag s FC_CTRL_INJ_EN = true → Completes (.faultInject t) s fun u =>
        Ended t stSUCCESS (BitVec.ofNat 32 (bits (x.param 1) 0 16)) 0 u ∧ u.fc.arm = some a ∧
        u.fc.inbox.length = s.fc.inbox.length + bits (x.param 1) 0 16)) ∧
  (∀ a, s.fc.arm = some a → Completes .injectArmExpire s fun u => u.fc.arm = none ∧ u.now = max s.now a.deadline ∧
    flag u FC_STATUS_ARMED = false ∧
    (∀ j ∈ a.jobs, (∀ i ∈ a.jobs, i.tag = j.tag → i = j) → ∀ y, getTag s j.tag = some y → y.state ≠ .done →
      Ended j.tag stTIMEOUT (BitVec.ofNat 32 j.done) 0 u)) ∧
  (∀ t x, startedAs s t 0x42 = some x → Completes (.faultClear t) s fun u => Ended t stSUCCESS 0 0 u ∧
    (flag u FC_STATUS_FF_VALID = (flag s FC_STATUS_FF_VALID && !(x.param 0).getLsbD 0)) ∧ WordsBut [FC_STATUS] s u) ∧
  (∀ v, s.fc.condOn = false → Completes (.replaceClear v) s fun u =>
    getF u FC_REPLACE_CAUSES = getF s FC_REPLACE_CAUSES &&& (127 - bits v 0 7)) ∧
  (∀ v, s.fc.condOn = true → Completes (.replaceClear v) s fun u =>
    (∀ e ∈ [(2, decide (2 < banksOff s)), (3, decide (getF s FC_CE_CE_TH < s.fc.ceBins.sum)), (4, decide (900 < getF s FC_BB_BB_WEAR))],
      bitF u FC_REPLACE_CAUSES e.1 = (e.2 || (bitF s FC_REPLACE_CAUSES e.1 && !v.getLsbD e.1 && !s.fc.restored))) ∧
    bitF u FC_REPLACE_CAUSES 0 = (bitF s FC_REPLACE_CAUSES 0 && !v.getLsbD 0)) ∧
  (Completes .ceRateBin s fun u => u.now = (s.now / 300000000000 + 1) * 300000000000 ∧
    u.fc.ceBins = 0 :: s.fc.ceBins.take 11 ∧ getF u FC_CE_CE_HOUR = satTo 65535 (s.fc.ceBins.take 11).sum ∧
    (u.fc.ceSent = true ↔ getF s FC_CE_CE_TH < (s.fc.ceBins.take 11).sum))

/-- R545, R548, R550, R551, R553, R556, R557: the black box. -/
def Obligations.IngotsAreWrittenAndRead : Prop := ∀ (s : State), on s dBBOX = true →
  (∀ x l how, s.fc.logq = x :: l → otherWaits s x = false → (slot s (nextSlot s)).worn = false → x.content.length ≤ 58 →
    lastFirmware s = none → s.fc.arm = none → s.bb.nextSeq < 2 ^ 32 → (x.budgeted = true → budgetAllows s x = true) →
    (how = 0 ∨ (2 ≤ how ∧ (s.pw.supply ≠ .none ∨ s.pw.holdupOk = true)) → Completes (.ingotWrite how) s fun u =>
      readPair (slot u (nextSlot s)).a (slot u (nextSlot s)).b = .copy (slot u (nextSlot s)).a 0 ∧
      (slot u (nextSlot s)).a.take 1 = [BitVec.ofNat 32 s.bb.nextSeq] ∧ iType (slot u (nextSlot s)).a = x.itype % 256 ∧
      u.bb.latest = some (nextSlot s) ∧ u.bb.nextSeq = s.bb.nextSeq + 1 ∧
      (∀ i, i ≠ nextSlot s → slot u i = slot s i) ∧
      u.fc.budget = (if x.budgeted then s.fc.budget - 1 else s.fc.budget)) ∧
    (how = 3 → s.pw.supply = .none → s.pw.holdupOk = false → s.bb.nextSeq + 1 < 2 ^ 32 → Completes (.ingotWrite how) s fun u =>
      readPair (slot u (nextSlot s)).a (slot u (nextSlot s)).b = .copy (slot u (nextSlot s)).a 1)) ∧
  (∀ x l how, s.fc.logq = x :: l → otherWaits s x = false → 2 ^ 32 ≤ s.bb.nextSeq → Completes (.ingotWrite how) s fun u =>
    u.bb = s.bb ∧ u.fc.logq.take l.length = l) ∧
  (∀ x l i j, s.fc.logq = x :: l → otherWaits s x = false → x.content.length ≤ 58 → lastFirmware s = none → s.fc.arm = none →
    s.bb.nextSeq < 2 ^ 32 → (x.budgeted = true → budgetAllows s x = true) → i = nextSlot s →
    j = nextSlot { s with bb := { s.bb with skipped := s.bb.skipped ++ [i] } } → j ≠ i → (slot s j).worn = false →
    Completes (.ingotWrite 1) s fun u => u.bb.skipped = s.bb.skipped ++ [i] ∧ u.bb.latest = some j ∧
      readPair (slot u j).a (slot u j).b = .copy (slot u j).a 0 ∧ (slot u j).a.take 1 = [BitVec.ofNat 32 s.bb.nextSeq] ∧
      (slot u i).worn = true ∧ (∀ k, k ≠ j → (slot u k).a = (slot s k).a ∧ (slot u k).b = (slot s k).b) ∧
      (25, { kind := 0x3A, sev := 2, src := srcBlock 0x009, ctx := BitVec.ofNat 32 i }) ∈ u.fc.inbox) ∧
  (∀ v i c k, s.bb.pinned.find? (fun p => p.1 == v.toNat) = some (v.toNat, i) → readPair (slot s i).a (slot s i).b = .copy c k →
    (slot s i).worn = false → Completes (.unpin v) s fun u =>
      iPinned (slot u i).a = false ∧ slot u i = { a := rePin c false, b := rePin c false } ∧
      (∀ p ∈ u.bb.pinned, p.1 ≠ v.toNat) ∧ (∀ j, j ≠ i → slot u j = slot s j)) ∧
  (Completes .logBudgetRefill s fun u => u.fc.budget = min 512 (s.fc.budget + 1) ∧
    u.now = max s.now (s.fc.refillAt + 250000000) ∧ u.words = s.words ∧ u.bb = s.bb) ∧
  (s.fc.summary ≠ [] → Completes .summaryIngot s fun u => u.fc.summary = [] ∧
    u.now = max s.now (s.fc.sumStart + 60000000000) ∧ ∃ x, u.fc.logq = s.fc.logq ++ [x] ∧ x.itype = 0x03 ∧ x.time = stamp u) ∧
  ((∀ e ∈ s.bb.slots, ∃ c, readPair e.2.a e.2.b = .copy c 0) → Completes (.blackboxScan []) s fun u =>
    u.bb = { s.bb with scanAt := u.now } ∧ u.fq = s.fq ∧ u.now = max s.now (s.bb.scanAt + 86400000000000)) ∧
  (∀ t x, startedAs s t 0x41 = some x → (readAll s).1 = [] → Completes (.bbRead t) s fun u => Ended t stSUCCESS 0 0 u) ∧
  (∀ t x i c y, startedAs s t 0x41 = some x → s.bb.slots = [(i, y)] → y.a = c → y.b = c → copyGood c = true → x.param 0 = 0 → x.param 2 = 0 →
    Completes (.bbRead t) s fun u => getTag u t = some { x with
      state := .running, applied := true, r0 := 1, r1 := BitVec.ofNat 32 (iSeq c), result := c, total := 256 })

/-- R57, R60, R62, R64, R65, R67-R72, R487: arming and transfers. The model's choice of log 99: before step 8 of start-up an arm request
has no effect. -/
def Obligations.SpruesTransferAndFallBack : Prop := ∀ (s : State), on s dPPATH = true → s.pw.supply = .aux12 → s.pw.transport = .run →
  (mayArm s = false → Completes .ppArm s fun u => u = s) ∧
  (∀ n, mayArm s = true → armCheck s = 0 → armed s = false → activeSprue s = none → s.pp.dead = none → chooseSprue s = some n → n < 4 →
    Completes .ppArm s fun u => armed u = true ∧ getF u PP_STATUS_ARM_ERR = 0 ∧ activeSprue u = some n ∧
      flag u (SP_STATUS_ACTIVE n) = true ∧ (sprue u n).gate = .high ∧ (∀ m, m < 4 → m ≠ n → (sprue u m).gate ≠ .high)) ∧
  (mayArm s = true → armCheck s ≠ 0 → Completes .ppArm s fun u => armed u = false ∧ getF u PP_STATUS_ARM_ERR = armCheck s ∧
    (armed s = false → OnlyWords [PP_STATUS] s u)) ∧
  (armed s = true → Completes .ppDisarm s fun u => armed u = false ∧ activeSprue u = none ∧ u.pp.dead = none ∧
    (∀ n, n < 4 → (sprue u n).gate ≠ .high)) ∧
  (∀ n v (uv : Int), n < 4 → isActive s n = true → spMode s n = 0 → ∀ c ∈ [Instr.sprueCollapse n v, .sprueReverse n uv, .sprueOvervoltage n v],
    (c = .sprueCollapse n v → v < getF s (SP_VTH_COLLAPSE n)) → (c = .sprueReverse n uv → uv < -(getF s (SP_VTH2_REV_TH n) : Int)) →
    (c = .sprueOvervoltage n v → getF s (SP_VTH2_QUAL_MAX n) < v ∧ (sprue s n).ovSince ≠ none) →
    Completes c s fun u => u.now = (if c = .sprueOvervoltage n v then max s.now ((sprue s n).ovSince.getD 0 + 100000) else s.now) ∧ activeSprue u = none ∧ flag u (SP_STATUS_LOCKOUT n) = true ∧ (sprue u n).gate = .low ∧
      droopOn u = true ∧ u.pp.droopAt = u.now ∧ armed u = true ∧
      getF u PP_SWCOUNT_FALLBACKS = satTo 65535 (getF s PP_SWCOUNT_FALLBACKS + 1) ∧
      ∃ m, u.pp.dead = some { kind := .fallback, chosen := m, from_ := n, deadline := u.now + 1000 } ∧ m ≠ some n) ∧
  (∀ n v, n < 4 → isActive s n = true → getF s (SP_VTH2_QUAL_MAX n) < v → (sprue s n).ovSince = none →
    Completes (.sprueOvervoltage n v) s fun u => activeSprue u = some n ∧ (sprue u n).ovSince = some s.now ∧ u.now = s.now) ∧
  (∀ a n, activeSprue s = some a → switching s = true → a < 4 → n < 4 → spMode s a = 0 → getF s PP_PRIORITY_RETURN_DLY ≠ 0 →
    listedBefore s n a = true → spMode s n = 0 → flag s (SP_STATUS_READY n) = true → flag s (SP_STATUS_LOCKOUT n) = false →
    Completes (.plannedReturn n) s fun u => activeSprue u = none ∧ (sprue u a).gate = .low ∧ u.pp.capability = 0 ∧
      u.now = max s.now ((sprue s n).readySince + 1000000000 * getF s PP_PRIORITY_RETURN_DLY) ∧
      u.pp.dead = some { kind := .planned, chosen := some n, from_ := a, deadline := u.now + 1000 } ∧ droopOn u = droopOn s ∧
      flag u (SP_STATUS_LOCKOUT a) = flag s (SP_STATUS_LOCKOUT a)) ∧
  (∀ d, s.pp.dead = some d → switching s = true → activeSprue s = none →
    (∀ n, n < 4 → chooseSprue s = some n → Completes .deadTimeEnd s fun u => u.pp.dead = none ∧ activeSprue u = some n ∧
      u.now = max s.now d.deadline ∧ (sprue u n).gate = .high) ∧
    (chooseSprue s = none → Completes .deadTimeEnd s fun u => u.pp.dead = none ∧ activeSprue u = none ∧
      u.now = max s.now d.deadline ∧ u.pp.capability = 0 ∧ ∀ n, n < 4 → (sprue u n).gate ≠ .high))

/-- R58, R59, R64, R66, R99, R109, R418, R419: ready bits and configuration. -/
def Obligations.PowerPathConfigurationIsWritten : Prop := ∀ (s : State), on s dPPATH = true →
  (∀ n v, n < 4 → inWindow s n v = true → flag s (SP_STATUS_READY n) = false ∨ flag s (SP_STATUS_LOCKOUT n) = true →
    faultLasts s n v = false →
    ((sprue s n).inSince = none → Completes (.sprueReady n v) s fun u => (sprue u n).inSince = some s.now ∧ u.now = s.now ∧
      flag u (SP_STATUS_READY n) = flag s (SP_STATUS_READY n) ∧ flag u (SP_STATUS_LOCKOUT n) = flag s (SP_STATUS_LOCKOUT n)) ∧
    (∀ t, (sprue s n).inSince = some t → Completes (.sprueReady n v) s fun u => u.now = max s.now (t + qualNs s n) ∧ flag u (SP_STATUS_READY n) = true ∧ flag u (SP_STATUS_LOCKOUT n) = false ∧
      bitF u PP_STATUS_READY n = true ∧ (sprue u n).readySince = u.now ∧ (sprue u n).vs = v)) ∧
  (∀ n v, n < 4 → inWindow s n v = false → flag s (SP_STATUS_READY n) = true → Completes (.sprueNotReady n v) s fun u =>
    flag u (SP_STATUS_READY n) = false ∧ bitF u PP_STATUS_READY n = false ∧ activeSprue u = activeSprue s ∧
    flag u (SP_STATUS_BELOW_COLLAPSE n) = decide (v < getF s (SP_VTH_COLLAPSE n)) ∧
    u = { s with words := u.words, pp := { s.pp with sprues := u.pp.sprues } }) ∧
  (∀ v, Completes (.ppPriorityWrite v) s fun u =>
    rd u PP_PRIORITY = (rd s PP_PRIORITY &&& 0xFF000000) ||| (v &&& 0x00FFFFFF)) ∧
  (∀ n j v, n < 4 → j < 4 → flag s SP_LOCK_LOCK = false → Completes (.spConfigWrite n j v) s fun u =>
    rd u (SP_CFG n + 4 * j) = (rd s (SP_CFG n + 4 * j) &&& ~~~(spMask j)) ||| (v &&& spMask j) ∧
    (armed s = true → (priorityList s).contains n = true → spMode s n = 0 → j = 0 → v.getLsbD 0 = true ∨ v.getLsbD 1 = true →
      armed u = false ∧ getF u PP_STATUS_ARM_ERR = 6)) ∧
  (∀ t x, startedAs s t 0x30 = some x → targetsOnline s x = true →
    (ppSetLocked s x = true → Completes (.ppSet t) s fun u => Ended t stLOCKED 0 0 u ∧ OnlyTagEnds t (atTick s x) u) ∧
    (ppSetLocked s x = false → Completes (.ppSet t) s fun u => Ended t stSUCCESS (rd u PP_STATUS) 0 u ∧
      ((x.param 1).getLsbD 8 = true → rd u PP_PRIORITY = (rd s PP_PRIORITY &&& 0xFF000000) ||| (x.param 0 &&& 0x00FFFFFF)) ∧
      (∀ n j, n < 4 → j < 4 → (bits (x.param 1) 0 4).testBit n = true → rd u (SP_CFG n + 4 * j) =
        (rd s (SP_CFG n + 4 * j) &&& ~~~(spMask j)) ||| ((bytesWords x.src).getD (4 * n + j) 0 &&& spMask j)))) ∧
  (ppSafe s = true → flag s FC_EVENT_PP_SAFE = false → Completes .safeExit s fun u => ppSafe u = false ∧ armed u = armed s ∧
    (∀ n, n < 4 → getF u (SP_LIMIT_SSTATE n) = 0))

/-- R72, R76, R78, R415, R422: the CBUS events and DROOP_TEST. -/
def Obligations.CbusEventsEngageDroop : Prop := ∀ (s : State), on s dPPATH = true →
  (∀ v, v < getF s PP_CBUS_UV → Completes (.cbusUndervoltage v) s fun u => droopOn u = true ∧ u.pp.droopAt = s.now ∧
    u.pp.cbusV = v ∧ (rd u PP_EVENT).getLsbD 3 = true ∧ armed u = armed s ∧
    (flag s PP_CTRL_EXPORT_SHED = true → droopOn s = false → ∀ n, n < 8 → getF s (PP_TLSTAT_DIR n) = 2 →
      flag u (PP_TLSTAT_SHED n) = true ∧ getF u (PP_TLSTAT_ILIM n) = 0) ∧
    (droopOn s = false → ∀ f, (flask s f).pairs ≠ [] → (flask u f).stopTones = true)) ∧
  (∀ v, getF s PP_CBUS_OV < v → flag s PP_STATUS_OV_CLAMP = false → Completes (.cbusOvervoltage v) s fun u =>
    flag u PP_STATUS_OV_CLAMP = true ∧ u.pp.scale = 0 ∧ u.pp.scaleNext = 0 ∧ u.pp.cbusV = v ∧ (rd u PP_EVENT).getLsbD 4 = true ∧
    u.chans = s.chans) ∧
  (∀ v, flag s PP_STATUS_OV_CLAMP = true → v + 100 < getF s PP_CBUS_OV →
    (s.pp.ovBelow = none → Completes (.cbusOvRelease v) s fun u => u = { s with pp := { s.pp with cbusV := v, ovBelow := some s.now } }) ∧
    (∀ t, s.pp.ovBelow = some t → Completes (.cbusOvRelease v) s fun u => u.now = max s.now (t + 1000000) ∧
      flag u PP_STATUS_OV_CLAMP = false ∧ WordsBut [PP_STATUS] s u ∧ droopOn u = droopOn s ∧
      u = { s with words := u.words, now := u.now, pp := { s.pp with cbusV := v } })) ∧
  (∀ t x, startedAs s t 0x31 = some x → targetsOnline s x = true →
    (armed s = false ∨ droopOn s = true → Completes (.droopTest t) s fun u => Ended t stSTATE 0 0 u ∧ OnlyTagEnds t (atTick s x) u) ∧
    (armed s = true → droopOn s = false → Completes (.droopTest t) s fun u => droopOn u = true ∧ u.pp.droopAt = applyTime s x ∧
      getTag u t = some { x with state := .running, applied := true } ∧ ∃ n, u.pp.droopTest = some (t, n, none)))

/-- R83-R86, R198: the input-current search; the operands of its commands are the means of the pin and shunt voltages, corrected as
every conversion of the leg is. -/
def Obligations.InputCurrentSearchProceeds : Prop := ∀ (s : State) (n : Nat), n < 4 →
  (∀ t pin mean, on s dPPATH = true → (sprue s n).lowSince = some t → mean = meanVs s n pin → Completes (.vnlTracked n pin) s fun u =>
    getF u (SP_VNL_VNL n) = mean ∧ u.now = max s.now (t + 10000000) ∧ (sprue u n).tracked = true ∧ WordsBut [SP_VNL n] s u) ∧
  (∀ pin mean, mean = meanVs s n pin → searchLive s n = true → getF s (SP_LIMIT_SSTATE n) = 1 → Completes (.searchReferenceDone n pin) s fun u =>
    getF u (SP_VNL_VNL n) = mean ∧ getF u (SP_LIMIT_SSTATE n) = 2 ∧ u.now = max s.now (sprue s n).refEnd ∧
    (sprue u n).vtrip = spVtrip s n mean ∧ (sprue u n).presentZero = false ∧ u.pp.capability = getF s (SP_LIMIT_LIMIT n) ∧
    (sprue u n).evalNext = u.now + 2000000) ∧
  (searchLive s n = true → getF s (SP_LIMIT_SSTATE n) = 4 → Completes (.searchHoldExpire n) s fun u =>
    getF u (SP_LIMIT_SSTATE n) = 2 ∧ u.now = max s.now (sprue s n).holdEnd ∧ getF u (SP_LIMIT_LIMIT n) = getF s (SP_LIMIT_LIMIT n)) ∧
  (∀ pin sh v i lim, v = meanVs s n pin → i = meanIs s n sh → searchLive s n = true → getF s (SP_LIMIT_SSTATE n) = 2 → sourceChanged s n v i = false → lim = getF s (SP_LIMIT_LIMIT n) →
    (v < (sprue s n).vtrip → Completes (.searchEvaluation n pin sh) s fun u => getF u (SP_LIMIT_SSTATE n) = 4 ∧
      getF u (SP_LIMIT_LIMIT n) = lim - 3 * spStep s n ∧ (sprue u n).holdEnd = u.now + 60000000000 ∧ (rd u PP_EVENT).getLsbD 7 = true) ∧
    ((sprue s n).vtrip ≤ v → lim < getF s (SP_SEARCH_IMAX n) → (lim : Int) - spStep s n ≤ i →
      Completes (.searchEvaluation n pin sh) s fun u => getF u (SP_LIMIT_SSTATE n) = 2 ∧
        getF u (SP_LIMIT_LIMIT n) = min (lim + spStep s n) (getF s (SP_SEARCH_IMAX n))) ∧
    ((sprue s n).vtrip ≤ v → lim < getF s (SP_SEARCH_IMAX n) → i < (lim : Int) - spStep s n →
      Completes (.searchEvaluation n pin sh) s fun u => getF u (SP_LIMIT_SSTATE n) = 3 ∧ getF u (SP_LIMIT_LIMIT n) = lim)) ∧
  (∀ pin sh v i lim, v = meanVs s n pin → i = meanIs s n sh → searchLive s n = true → sourceChanged s n v i = false → lim = getF s (SP_LIMIT_LIMIT n) →
    (getF s (SP_LIMIT_SSTATE n) = 2 → (sprue s n).vtrip ≤ v → getF s (SP_SEARCH_IMAX n) ≤ lim →
      Completes (.searchEvaluation n pin sh) s fun u => getF u (SP_LIMIT_SSTATE n) = 4 ∧
        getF u (SP_LIMIT_LIMIT n) = getF s (SP_SEARCH_IMAX n) ∧ (sprue u n).holdEnd = u.now + 60000000000) ∧
    (getF s (SP_LIMIT_SSTATE n) = 3 ∨ getF s (SP_LIMIT_SSTATE n) = 4 ∧ (sprue s n).belowPrev = true → v < (sprue s n).vtrip →
      Completes (.searchEvaluation n pin sh) s fun u => getF u (SP_LIMIT_SSTATE n) = 4 ∧
        getF u (SP_LIMIT_LIMIT n) = lim - 3 * spStep s n ∧ (rd u PP_EVENT).getLsbD 7 = true) ∧
    (getF s (SP_LIMIT_SSTATE n) = 3 → (sprue s n).vtrip ≤ v → Completes (.searchEvaluation n pin sh) s fun u =>
      getF u (SP_LIMIT_SSTATE n) = (if (lim : Int) - spStep s n ≤ i then 2 else 3) ∧ getF u (SP_LIMIT_LIMIT n) = lim) ∧
    (getF s (SP_LIMIT_SSTATE n) = 4 → (sprue s n).belowPrev = false ∨ (sprue s n).vtrip ≤ v →
      Completes (.searchEvaluation n pin sh) s fun u => WordsBut [] s u ∧ (sprue u n).prev = some (v, i) ∧
        (sprue u n).evalNext = (sprue s n).evalNext + 2000000)) ∧
  (∀ pin sh v i, v = meanVs s n pin → i = meanIs s n sh → searchLive s n = true → sourceChanged s n v i = true → 2 ≤ getF s (SP_LIMIT_SSTATE n) → getF s (SP_LIMIT_SSTATE n) ≤ 4 →
    Completes (.searchEvaluation n pin sh) s fun u => getF u (SP_LIMIT_SSTATE n) = 1 ∧ (rd u PP_EVENT).getLsbD 8 = true ∧
      u.pp.capability = 0) ∧
  (searchLive s n = true → getF s (SP_LIMIT_SSTATE n) ≠ 5 → Completes (.reprobe n) s fun u => getF u (SP_LIMIT_SSTATE n) = 1 ∧
    u.pp.capability = 0 ∧ (sprue u n).refEnd = s.now + 10000000 ∧ (rd u PP_EVENT).getLsbD 8 = true ∧ u.now = s.now) ∧
  (searchLive s n = true → 1 ≤ getF s (SP_LIMIT_SSTATE n) → getF s (SP_LIMIT_SSTATE n) ≤ 4 → Completes (.searchRestart n) s fun u =>
    getF u (SP_LIMIT_LIMIT n) = spStart s n % 65536 ∧ getF u (SP_LIMIT_SSTATE n) = 1 ∧ u.pp.capability = 0 ∧
    (sprue u n).refEnd = s.now + 10000000)

/-- R209, R210, R215, R216, R219, R221, R222, R224, R228, R243, R244, R661: the rows of the filter and of the frame temperature. -/
def Obligations.FilterFollowsTheSnapshots : Prop := ∀ (s : State) (c : Nat), c < 1024 →
  (∀ ecc, filterDue s c = true → eccBad ecc c = false → (chan s c).state ≠ .disconnected → Completes (.filterUpdate c ecc) s fun u =>
    getF u (ES_SOC_SOC c) = (clampI 0 10000 (socOf (est u c))).toNat ∧ getF u (ES_SOC_SIGMA c) = sigmaOf (est u c) % 65536 ∧
    flag u (ES_CYC_SUSPENDED c) = false ∧ flag u (ES_CYC_INIT c) = (est u c).init ∧
    (∀ d, d ≠ c → est u d = est s d) ∧ u.chans = s.chans ∧ u.now = s.now ∧ u.snap = s.snap ∧
    (est u c).live = true ∧ (est u c).at_ = s.snap ∧ (est u c).acc = (chan s c).cv.acc ∧ (est u c).start = (chan s c).cv.start ∧
    (est u c).qPrev = 0 ∧
    (initNow s c = true ∨ (est s c).start ≠ (chan s c).cv.start → (est u c).initDue = false ∧ (est u c).va = 0 ∧ (est u c).vb = 0 ∧
      (est u c).h = 0 ∧ (est u c).exceed = 0 ∧
      (est u c).s = roundRat (ocvInverse (brickAt s c (chan s c).th.temp) (chan s c).cv.vb * 1073741824)) ∧
    (initNow s c = false → (est s c).start = (chan s c).cv.start → (est u c).q = totalCharge s c ∧
      ((est u c).exceed = 0 ∨ (est u c).exceed = satTo 100 ((est s c).exceed + 1)))) ∧
  (∀ ecc, filterDue s c = true → eccBad ecc c = true → Completes (.filterUpdate c ecc) s fun u =>
    u.ests = s.ests ∧ u.chans = s.chans ∧ u.now = s.now ∧ WordsBut [] s u) ∧
  (∀ ecc, filterDue s c = true → eccBad ecc c = false → (chan s c).state = .disconnected → Completes (.filterUpdate c ecc) s fun u =>
    u.chans = s.chans ∧ u.now = s.now ∧ flag u (ES_CYC_SUSPENDED c) = true ∧ (∀ d, d ≠ c → est u d = est s d) ∧
    (est u c).s = (est s c).s ∧ (est u c).p = (est s c).p ∧ (est u c).at_ = (est s c).at_ ∧
    ((est s c).left = none → u.ests = s.ests ∧ WordsBut [ES_CYC c] s u) ∧
    (∀ t, (est s c).left = some t → t < s.snap → (est u c).armed = false ∧ flag u (ES_CYC_LEARNING c) = false ∧
      getF u (ES_SEQ_LAST_LRN c) = 8 ∧ WordsBut [ES_CYC c, ES_SEQ c, ES_LRN c] s u)) ∧
  (filterDue s c = true → Completes (.filterLate c) s fun u =>
    getF u CR_LATE_FILTER_LATE = satTo 65535 (getF s CR_LATE_FILTER_LATE + 1) ∧ OnlyWords [CR_LATE] s u) ∧
  (on s dCRUCIBLE = true → (est s c).live = true → 100 ≤ (est s c).exceed → Completes (.filterReinit c) s fun u =>
    (est u c).exceed = 0 ∧ (est u c).va = 0 ∧ (est u c).h = 0 ∧ (est u c).at_ = s.snap ∧
    getF u CR_LATE_REINITS = satTo 65535 (getF s CR_LATE_REINITS + 1) ∧ (rd u CR_EVENT).getLsbD 5 = true ∧
    (∀ d, d ≠ c → est u d = est s d) ∧ ∃ v, u = fault v 0x08 1 (srcChan c 0) (BitVec.ofInt 32 (est s c).innov)) ∧
  (∀ hub mid, on s dCRUCIBLE = true → 1100 < hub ∨ 1100 < mid → flag s CR_STATUS_HOT = false → Completes (.frameHot hub mid) s fun u =>
    flag u CR_STATUS_HOT = true ∧ (rd u CR_EVENT).getLsbD 4 = true ∧ u.ests = s.ests ∧ u.now = frameTime s) ∧
  (∀ hub mid, on s dCRUCIBLE = true → hub < 1050 → mid < 1050 → flag s CR_STATUS_HOT = true → Completes (.frameCool hub mid) s fun u =>
    flag u CR_STATUS_HOT = false ∧ (rd u CR_EVENT).getLsbD 4 = true ∧ u.ests = s.ests ∧ u.now = frameTime s)

/-- R246-R248, R250, R415: records, EST_PARAM, EST_RESET. -/
def Obligations.RecordsParametersAndResets : Prop := ∀ (s : State),
  (∀ c e, on s dCRUCIBLE = true → e = est s c → recordDue e = true → Completes (.channelRecordWrite c) s fun u =>
    u.now = (if e.recDue then s.now else max s.now (e.recAt + 3600000000000)) ∧
    est u c = { e with recDue := false, recDirty := false, recAt := u.now, resetTag := none } ∧
    (∃ x, x.good = true ∧ x.iz = izWords s c ∧ x.cap = e.cap ∧ x.cycles = e.cycles ∧ x.dsum = e.dsum ∧
      ((chanRec u c).a = some x ∧ (chanRec u c).b = (chanRec s c).b ∨ (chanRec u c).b = some x ∧ (chanRec u c).a = (chanRec s c).a)) ∧
    (∀ d, d ≠ c → chanRec u d = chanRec s d ∧ est u d = est s d) ∧ u.words = s.words ∧
    (∀ t x, e.resetTag = some t → getTag s t = some x → x.state ≠ .done → Ended t stSUCCESS 0 0 u) ∧
    (e.resetTag = none → u = { s with now := u.now, recs := u.recs, ests := u.ests })) ∧
  (∀ t x w, startedAs s t 0x18 = some x → targetsOnline s x = true → w = (List.range 3).map x.param →
    (estParamOk w = false → Completes (.estParam t) s fun u =>
      Ended t stCHECK_FAILED (BitVec.ofNat 32 (selFirst (x.word 1))) 0 u ∧ OnlyTagEnds t (atTick s x) u) ∧
    (estParamOk w = true → Completes (.estParam t) s fun u => getTag u t = some { x with state := .running } ∧
      (∀ c ∈ selRange (x.word 1), est u c = { est s c with next := (est s c).next ++ [(w, t)] }) ∧
      (∀ c, c ∉ selRange (x.word 1) → est u c = est s c) ∧ u.words = s.words)) ∧
  (∀ t x c, startedAs s t 0x19 = some x → targetsOnline s x = true → c = selFirst (x.word 1) → c < 1024 →
    Completes (.estReset t) s fun u => getTag u t = some { x with state := .running } ∧
      (∀ i < 44, rd u (IZ c + 4 * i) = rd s (modelOf s c + 0x230 + 4 * i)) ∧ rd u (IZ c + 0xB0) = rd s (IZ c + 0xB0) + 1 ∧
      (∀ i, 45 ≤ i → i < 128 → rd u (IZ c + 4 * i) = 0) ∧
      (est u c).cap = 0 ∧ (est u c).cycles = 0 ∧ (est u c).armed = false ∧ (est u c).initDue = true ∧ (est u c).initAfter = u.now ∧ (est u c).recDue = true ∧
      (est u c).tzDefault = true ∧ (est u c).resetTag = some t ∧ (∀ d, d ≠ c → est u d = est s d))

/-- R135, R231, R232, R236-R239, R415: the sweep rows and SPECTRO. The model's choices of log 93: `sweepDue` of a first sweep or of one
whose minute has passed is at once, and the first pass of a host's sweep too numbers itself with `SWEEP_NO`. -/
def Obligations.SweepsStepThroughTheirTones : Prop := ∀ (s : State), on s dCRUCIBLE = true →
  (flag s CR_CTRL_SWEEP_EN = true → s.sweeps.scheduled = false → s.sweeps.hosts = [] → Completes .sweepStart s fun u =>
    u.now = max s.now (sweepDue s) ∧
    (∀ f ∈ sweepFlasks s, ∀ ps, ps = sweepPairs s f (getF s CR_STATUS_SWEEP_NO) → ps ≠ [] → u.sweeps.scheduled = true ∧
      flaskSweeps u f = { host := none, pairs := ps, mask := 0xFFFFFF, k := 0, dwellEnd := u.now + 80000000000 } :: flaskSweeps s f ∧
      (flask u f).tone = 0 ∧ (flask u f).toneAcc = 0 ∧ (flask u f).pairs = [] ∧ flag u CR_STATUS_SWEEPING = true) ∧
    ((∀ f ∈ sweepFlasks s, sweepPairs s f (getF s CR_STATUS_SWEEP_NO) = []) → s.sweeps.flasks = [] →
      u.sweeps.scheduled = false ∧ u.sweeps.lastEnd = u.now ∧ (rd u CR_EVENT).getLsbD 2 = true ∧
      getF u CR_STATUS_SWEEP_NO = (getF s CR_STATUS_SWEEP_NO + 1) % 65536)) ∧
  (∀ f a b w r, flaskSweeps s f = w :: r → flaskOn s f = true → w.finished = false → flag s PP_STATUS_DROOP = false →
    (activePairs w).contains (a, b) = true → (est s (16 * f + a)).armed = false → (est s (16 * f + b)).armed = false →
    Completes (.tonePairRequest f a b) s fun u => (∀ g, g ≠ f → flask u g = flask s g ∧ flaskSweeps u g = flaskSweeps s g) ∧
      u.now = s.now ∧
      ((flask s f).paused = false → flask u f = { flask s f with asked := (flask s f).asked ++ [(a, b)] } ∧ flaskSweeps u f = w :: r) ∧
      ((flask s f).paused = true → (flask u f).paused = false ∧ (flask u f).tone = w.k ∧ (flask u f).toneAcc = 0 ∧
        (flask u f).asked = [(a, b)] ∧ flaskSweeps u f = { w with dwellEnd := s.now + dwell w.k } :: r)) ∧
  (∀ f a b, (flask s f).asked = [(a, b)] →
    (acceptPair s f a b = true → droopOn s = false → ∃ p, p.a = a ∧ p.b = b ∧ (p.ampA, p.ampB) = toneAmps s f a b ∧ p.clipped = false ∧
      flask (admitTones s f) f = { flask s f with asked := [], pairs := (flask s f).pairs ++ [p] }) ∧
    (acceptPair s f a b = false ∨ droopOn s = true →
      flask (admitTones s f) f = { flask s f with asked := [], lostPairs := (flask s f).lostPairs ++ [(a, b)] })) ∧
  (∀ f w r, flaskSweeps s f = w :: r → w.finished = false → (flask s f).paused = false → flag s PP_STATUS_DROOP = false →
    Completes (.toneDwellEnd f) s fun u => u.now = max s.now w.dwellEnd ∧
      ∃ w' v, v = takePoints (flask s f) w ∧ flaskSweeps u f = w' :: r ∧ w'.pairs = w.pairs ∧ w'.host = w.host ∧
        w'.mask = w.mask ∧ w'.points = v.points ∧ w'.missing = v.missing ∧
        (∀ j, nextTone (if w.retry then missMask v.missing else w.mask) (w.k + 1) = some j →
          w'.k = j ∧ w'.retry = w.retry ∧ w'.finished = false ∧ w'.dwellEnd = u.now + dwell j ∧ (flask u f).tone = j ∧
          (flask u f).pairs = []) ∧
        (nextTone (if w.retry then missMask v.missing else w.mask) (w.k + 1) = none →
          (∀ j, w.retry = false → nextTone (missMask v.missing) 0 = some j → w'.k = j ∧ w'.retry = true ∧ w'.finished = false) ∧
          (w.retry = true ∨ nextTone (missMask v.missing) 0 = none → w'.finished = true)) ∧
        (∀ g, g ≠ f → flask u g = flask s g ∧ flaskSweeps u g = flaskSweeps s g)) ∧
  (∀ f w r, flaskSweeps s f = w :: r → w.finished = true → Completes (.sweepEnd f) s fun u =>
    (r = [] → flaskSweeps u f = [] ∧ (flask u f).pairs = []) ∧
    (∀ v r', r = v :: r' → v.finished = false → flaskSweeps u f = { v with dwellEnd := s.now + dwell v.k } :: r' ∧
      (flask u f).tone = v.k) ∧
    (∀ g, g ≠ f → flaskSweeps u g = flaskSweeps s g ∧ flask u g = flask s g) ∧ u.now = s.now ∧
    (w.host = none → s.sweeps.scheduled = true → s.sweeps.flasks = [(f, [w])] →
      u.sweeps.scheduled = false ∧ u.sweeps.lastEnd = s.now ∧
        getF u CR_STATUS_SWEEP_NO = (getF s CR_STATUS_SWEEP_NO + 1) % 65536 ∧ (rd u CR_EVENT).getLsbD 2 = true)) ∧
  (∀ t x l, startedAs s t 0x2B = some x → targetsOnline s x = true → l = selRange (x.word 1) →
    (bits (x.param 0) 0 2 = 2 → Completes (.spectro t) s fun u => Ended t stSUCCESS 0 0 u) ∧
    (bits (x.param 0) 0 2 ≠ 2 → l.any (fun f => hostSweeping s f) = true → Completes (.spectro t) s fun u =>
      Ended t stBUSY 0 0 u ∧ OnlyTagEnds t (atTick s x) u) ∧
    (∀ m, bits (x.param 0) 0 2 ≠ 2 → l.any (fun f => hostSweeping s f) = false →
      m = (if bits (x.param 1) 0 24 = 0 then 0xFFFFFF else bits (x.param 1) 0 24) → s.sweeps.hosts.all (fun h => h.tag != t) = true →
      Completes (.spectro t) s fun u =>
        ((∀ f ∈ l, sweepPairs s f (getF s CR_STATUS_SWEEP_NO) = []) → Ended t stSUCCESS 0 0 u) ∧
        (∀ f ∈ l, ∀ ps k, ps = sweepPairs s f (getF s CR_STATUS_SWEEP_NO) → ps ≠ [] → nextTone m 0 = some k →
          getTag u t = some { x with state := .running, applied := true } ∧
          flaskSweeps u f = { host := some t, pairs := ps, mask := m, k := k, dwellEnd := applyTime s x + dwell k } :: flaskSweeps s f)))

/-- R243, R245, R253, R256, R263, R269, R270, R273: the input read, the simulation, the selection. -/
def Obligations.PoursAreReadAndSelected : Prop := ∀ (s : State), pouring s = true →
  (∀ b, s.lad.pour = none → b = (if s.now ≤ s.lad.next then s.lad.next else boundaryFrom (pourMs s) s.now) →
    Completes .pourInputRead s fun u => u.now = b ∧ u.lad.pours = s.lad.pours + 1 ∧ u.lad.obj = [] ∧
      (∃ p, u.lad.pour = some p ∧ p.order = s.lad.pours + 1 ∧ p.readAt = b ∧ p.swapAt = nextBoundary s b ∧ u.lad.next = p.swapAt ∧
        p.results = none ∧ p.sel = none ∧ p.target = none ∧ p.acks = [] ∧ p.loads = s.lad.loads ∧ p.exclOld = s.lad.excl ∧
        3 ≤ p.cands ∧ p.cands ≤ 64 ∧ p.obj = objInForce u ∧ flag u LD_STATUS_SHORT_P = p.shortP ∧
        flag u LD_STATUS_SHORT_E = p.shortE) ∧
      (flag u LD_STATUS_RES_OK = false → (rd u LD_EVENT).getLsbD 2 = true) ∧
      (∀ e ∈ s.lad.obj, ∀ y, getTag s e.2 = some y → y.state ≠ .done → Ended e.2 stSUCCESS (rd s LD_EPOCH + 1) 0 u ∧ (rd u LD_EVENT).getLsbD 9 = true) ∧
      (∀ o t, s.lad.obj = [(o, t)] → o.length = 40 → objInForce u = o) ∧
      (s.lad.obj = [] → u.hi.tags = s.hi.tags)) ∧
  (∀ p, s.lad.pour = some p → p.results = none → Completes .simulationDone s fun u =>
    ∃ r : List (List SimOut), u = { s with
      words := u.words, lad := { s.lad with pour := some { p with results := some (simRiser p :: r) }, excl := riserExcluded p (simRiser p) } } ∧
      WordsBut [CR_STATUS] s u ∧ getF u CR_STATUS_CANDS = p.cands % 256 ∧
      r.length = p.cands - 1 ∧ ∀ k < r.length, r.getD k [] = simSlot p ((pourSlots s p).getD k [])) ∧
  (∀ p res, s.lad.pour = some p → p.results = some res → p.sel = none → p.target = none → s.now + 400000 ≤ p.swapAt → Completes .candidateSelection s fun u =>
    ∃ y, u.lad.pour = some y ∧ y.sel = some (selectSlot p res) ∧ y.results = some res ∧ y.swapAt = p.swapAt ∧
      y.target = (if (onlineRegions s).all p.acks.contains then some p.swapAt else none) ∧
      y.table = ((pourSlots s p).getD ((selectSlot p res).1 - 1) []).map (fun e => (e.1, e.2, p.riserOf e.1)) ∧
      u.lad.excl = s.lad.excl ∧ getF u LD_STATUS_SEL = (selectSlot p res).1 % 256 ∧
      WordsBut [LD_STATUS] s u ∧ u = { s with words := u.words, lad := u.lad, fabrics := u.fabrics }) ∧
  (∀ p, s.lad.pour = some p → p.swapAt < s.now + 400000 → exec .candidateSelection s = .next s)

/-- R51, R52, R274-R281, R416: delivery, acknowledgement, swap, miss and stale shave. That the pour's count of import current is each
leg's allotment is the model's reading of R91 (log 73). -/
def Obligations.TablesAreDeliveredAndSwapped : Prop := ∀ (s : State) (p : Pour), s.lad.pour = some p →
  (∀ f good, p.sel ≠ none → flaskOn s f = true → online s (f / 16) = true →
    (good = true → Completes (.shadowTableReceived f good) s fun u =>
      flask u f = { flask s f with shadow := some (newEpoch s, (flaskChans f).map (entryWord p.table)) } ∧
      (∀ g, g ≠ f → flask u g = flask s g) ∧ u = { s with flasks := u.flasks }) ∧
    (good = false → exec (.shadowTableReceived f good) s = .next s)) ∧
  (∀ k, p.sel ≠ none → p.target = none → online s k = true → k < s.part.regions → k ∉ p.acks → s.now + 100000 ≤ p.swapAt →
    ((∀ f ∈ regionFlasks k, flaskOn s f = true → flaskHeld s f = false → shadowReady s f = true) →
      Completes (.regionAck k) s fun u => ∃ y, u = { s with lad := { s.lad with pour := some y } } ∧
        y = { p with acks := p.acks ++ [k], target := y.target } ∧
        y.target = if (onlineRegions s).all (p.acks ++ [k]).contains then some p.swapAt else none) ∧
    (∀ f ∈ regionFlasks k, flaskOn s f = true → flaskHeld s f = false → shadowReady s f = false →
      exec (.regionAck k) s = .next s)) ∧
  (∀ late tick, p.target = some tick → (∀ l ∈ p.loads, l.2.1 < 16 ∧ l.2.2.1.length ≤ if l.1 = 0x20 then 64 else 256) →
    Completes (.pourSwap late) s fun u => u.lad.pour = none ∧ u.now = max s.now tick ∧
      rd u LD_EPOCH = rd s LD_EPOCH + 1 ∧ rd u PT_EPOCH = rd u LD_EPOCH ∧ rd u PT_EPOCH2 = rd u LD_EPOCH ∧
      getF u LD_STATUS_MISS_RUN = 0 ∧ (∀ k ∈ onlineRegions s, (region u k).lastSwap = some u.now ∧ (region u k).stale = false) ∧ (∀ c < 1024, rd u (SETPT c) = entryWord p.table c) ∧
      (∀ f, f / 16 < s.part.regions → online s (f / 16) = true → flaskOn s f = true →
        (∀ t, (flask s f).shadow = some (newEpoch s, t) → swapLate s tick late f = false →
          (flask u f).tab = t ∧ (flask u f).tabEpoch = newEpoch s ∧ (flask u f).shadow = none) ∧
        ((∀ t, (flask s f).shadow ≠ some (newEpoch s, t)) ∨ swapLate s tick late f = true → (flask u f).tab = (flask s f).tab ∧ (rd u LD_EVENT).getLsbD 10 = true)) ∧
      (∀ x ∈ p.chans, x.hold8 = true → (chan s x.c).state = .hold → (chan s x.c).reason = 8 → (chan u x.c).state = .run) ∧
      (s.pp.droopAt < p.readAt → getF s PP_CBUS_UV < s.pp.cbusV → droopOn u = false) ∧
      (p.readAt ≤ s.pp.droopAt → droopOn u = droopOn s) ∧
      (∀ n < 8, (tleg u n).allot = if getF s (PP_TLSTAT_DIR n) = 1 then (p.imports.find? (fun e => e.1 == n)).elim 0 (·.2) else 0) ∧
      (∀ l y, p.loads = [l] → s.pp.droopTest = none → getTag s l.2.2.2 = some y → y.state ≠ .done →
        (loadCheck s l.2.1 l.2.2.1 true = stSUCCESS → Ended l.2.2.2 stSUCCESS (rd u LD_EPOCH) 0 u ∧
          ∀ i < l.2.2.1.length, rd u ((if l.1 = 0x20 then PROF l.2.1 else MODEL l.2.1) + 4 * i) = l.2.2.1.getD i 0) ∧
        (loadCheck s l.2.1 l.2.2.1 true ≠ stSUCCESS → Ended l.2.2.2 stSTATE 0 0 u))) ∧
  (p.target = none → Completes .pourMissed s fun u => u.lad.pour = none ∧
    u.now = max s.now (if p.sel = none then p.swapAt - 400000 else p.swapAt - 100000) ∧
    rd u LD_EPOCH = rd s LD_EPOCH ∧ getF u LD_COUNTS_MISSED = satTo 65535 (getF s LD_COUNTS_MISSED + 1) ∧
    getF u LD_STATUS_MISS_RUN = satTo 255 (getF s LD_STATUS_MISS_RUN + 1) ∧ (rd u LD_EVENT).getLsbD 0 = true ∧
    u.flasks = s.flasks ∧ u.chans = s.chans ∧
    (p.sel ≠ none → ∀ k ∈ onlineRegions s, (region u k).ackMiss = if k ∈ p.acks then 0 else satTo 4 ((region s k).ackMiss + 1))) ∧
  (∀ k t, k < s.part.regions → on s (dCTL k) = true → (region s k).lastSwap = some t → (region s k).stale = false → Completes (.staleShave k) s fun u =>
    (region u k).stale = true ∧ bitF u LD_STATUS_STALE k = true ∧ (rd u LD_EVENT).getLsbD 1 = true ∧
    u.now = max s.now (t + 1000000 * staleMs s) ∧
    ∃ v, u = fault v 0x23 2 (srcRegion k 1) (BitVec.ofNat 32 ((u.now - t) / 1000000)))

/-- R169, R170, R206, R253, R285, R287, R404, R415, R427: the commands of the ladle and the time-out of a run. -/
def Obligations.LadleCommandsWaitForTheirPour : Prop := ∀ (s : State) (t : Nat) (x : Tag), targetsOnline s x = true →
  (startedAs s t 0x28 = some x →
    (objectivesOk (bytesWords x.src) = true → Completes (.objectives t) s fun u =>
      getTag u t = some { x with state := .running } ∧ u.lad.obj = s.lad.obj ++ [(bytesWords x.src, t)] ∧
      u = { atTick s x with hi := u.hi, lad := u.lad }) ∧
    (objectivesOk (bytesWords x.src) = false → Completes (.objectives t) s fun u =>
      Ended t stCHECK_FAILED 0 0 u ∧ OnlyTagEnds t (atTick s x) u)) ∧
  (startedAs s t 0x2A = some x → ∀ l, l = selRange (x.word 1) →
    (bits (x.param 0) 0 1 = 1 → ∀ q, q = l.filter (fun c => (chan s c).state != .absent && (calRun s c).state == 0) →
      Completes (.calRun t) s fun u => Ended t stSUCCESS (BitVec.ofNat 32 q.length) 0 u ∧ u.lad.calOrder = s.lad.calOrder + 1 ∧
        (∀ c ∈ q, calRun u c = { calRun s c with req := true, state := 1, order := s.lad.calOrder + 1 }) ∧
        (∀ c, c ∉ q → calRun u c = calRun s c) ∧ u = { atTick s x with hi := u.hi, lad := u.lad }) ∧
    (bits (x.param 0) 0 1 = 0 → ∀ q, q = l.filter (fun c => (calRun s c).state != 0) →
      Completes (.calRun t) s fun u => Ended t stSUCCESS (BitVec.ofNat 32 q.length) 0 u ∧
        (∀ c ∈ q, calRun u c = { calRun s c with req := false, state := 0, end_ := 4 } ∧ (rd u LD_EVENT).getLsbD 7 = true) ∧
        (∀ c, c ∉ q → calRun u c = calRun s c) ∧ u.chans = s.chans)) ∧
  (∀ c, 2 ≤ (calRun s c).state → Completes (.calRunTimeout c) s fun u =>
    calRun u c = { calRun s c with req := false, state := 0, end_ := 3 } ∧ (rd u LD_EVENT).getLsbD 7 = true ∧
    u.now = max s.now ((calRun s c).start + 3600000000000 * oCAL_TMO (objInForce s)) ∧ (∀ d, d ≠ c → calRun u d = calRun s d)) ∧
  (∀ c op ok w, (c, op, ok) ∈ [(Instr.profileLoad t, 0x20, profileOk w), (Instr.modelLoad t, 0x21, modelOk w)] →
    startedAs s t op = some x → w = bytesWords x.src →
    (∀ st, st = loadCheck s (selSlot (x.word 1)) w ok → st ≠ stSUCCESS → Completes c s fun u => Ended t st 0 0 u ∧ OnlyTagEnds t (atTick s x) u) ∧
    (loadCheck s (selSlot (x.word 1)) w ok = stSUCCESS → Completes c s fun u => getTag u t = some { x with state := .running } ∧
      u.lad.loads = s.lad.loads ++ [(op, selSlot (x.word 1), w, t)] ∧ u = { atTick s x with hi := u.hi, lad := u.lad })) ∧
  (startedAs s t 0x29 = some x →
    (s.hi.capFree < 4 → Completes (.allocRead t) s fun u => u = raiseHi (atTick s x) eCAP_WAIT ∧ getTag u t = some x) ∧
    (4 ≤ s.hi.capFree → Completes (.allocRead t) s fun u => u.hi.capFree = s.hi.capFree - 4 ∧
      (∃ w, getTag u t = some { { x with pages := 4, r0 := rd s PT_EPOCH, r1 := 0 } with
          state := .running, applied := true, result := w, total := 12352 } ∧ w.length = 3088 ∧ w.getD 0 0 = rd s PT_EPOCH ∧
        (∀ c < 1024, w.getD (16 + c) 0 = rd s (SETPT c) ∧ w.getD (1040 + 2 * c) 0 = rd s (LS_ROLE c))) ∧
      u = { atTick s x with hi := u.hi }))

/-- R621, R622, R624-R626, R628, R629, R634: the rows of the trace unit. -/
def Obligations.TraceRecordsAreKeptAndSent : Prop := ∀ (s : State), on s dTRACE = true →
  (∀ r q i, s.trc.queue = r :: q → i = getF s TRC_STATUS_WR_IDX →
    (flag s TRC_STATUS_FROZEN = false → flag s TRC_CTRL_MODE = false ∨ flag s TRC_STATUS_WRAPPED = false →
      Completes .traceRecord s fun u => bufferRec u i = traceWords { r with time := stamp s } ∧
        getF u TRC_STATUS_WR_IDX = (if i = 131071 then 0 else i + 1) ∧
        flag u TRC_STATUS_WRAPPED = (flag s TRC_STATUS_WRAPPED || i == 131071) ∧
        (∀ j < 131072, j ≠ i → bufferRec u j = bufferRec s j) ∧
        (s.trc.post = none → s.trc.freezeOn ≠ some r → u.trc.queue = q ∧ u.trc.post = none) ∧
        (∀ n, s.trc.post = none → s.trc.freezeOn = some r → n = getF s TRC_FREEZE_POST →
          (n ≠ 0 → u.trc.queue = q ∧ u.trc.post = some n ∧ u.trc.freezeOn = none) ∧
          (n = 0 → flag u TRC_STATUS_FROZEN = true ∧ u.trc.queue = [] ∧ (rd u TRC_EVENT).getLsbD 2 = true ∧
            getF u TRC_LOST_LOST = satTo 0xFFFFFFFF (getF s TRC_LOST_LOST + q.length))) ∧
        (∀ n, s.trc.post = some n → s.trc.freezeOn ≠ some r → 1 < n → u.trc.queue = q ∧ u.trc.post = some (n - 1)) ∧
        (∀ n, s.trc.post = some n → s.trc.freezeOn ≠ some r → n ≤ 1 → flag u TRC_STATUS_FROZEN = true ∧ u.trc.queue = [] ∧ u.trc.post = none ∧
          (rd u TRC_EVENT).getLsbD 2 = true ∧ getF u TRC_LOST_LOST = satTo 0xFFFFFFFF (getF s TRC_LOST_LOST + q.length))) ∧
    (s.trc.freezeOn ≠ some r → flag s TRC_STATUS_FROZEN = true ∨ (flag s TRC_CTRL_MODE = true ∧ flag s TRC_STATUS_WRAPPED = true) →
      Completes .traceRecord s fun u => u.trc.queue = q ∧ getF u TRC_LOST_LOST = satTo 0xFFFFFFFF (getF s TRC_LOST_LOST + 1) ∧
        (rd u TRC_EVENT).getLsbD 0 = true ∧ (∀ j < 131072, bufferRec u j = bufferRec s j) ∧
        (flag s TRC_STATUS_FROZEN = false → flag u TRC_STATUS_FULL = true ∧
          (flag s TRC_STATUS_FULL = false → (rd u TRC_EVENT).getLsbD 1 = true)))) ∧
  (flag s TRC_CTRL_HOST_EN = true → traceLinkOk s = true → ∀ h, h = getF s TRC_HWR_HWR →
    (∀ i, traceHostFull s = false → s.trc.hostGap = none → s.trc.hostDue = [i] → Completes .traceHostCopy s fun u =>
      u.out = Out.traceHost (traceHostAddr s (h % traceHostSize s)) (bufferRec s i) :: s.out ∧ getF u TRC_HWR_HWR = (h + 16) % traceHostSize s ∧ u.trc.hostDue = [] ∧
      u.trc.hostGap = none) ∧
    (s.trc.hostGap = none → s.trc.hostDue = [] → Completes .traceHostCopy s fun u => WordsBut [TRC_STATUS] s u ∧
      u = { s with words := u.words, fabrics := u.fabrics } ∧
      flag u TRC_STATUS_HOST_STALL = traceHostFull s) ∧
    (traceHostFull s = true → s.trc.hostDue ≠ [] → Completes .traceHostCopy s fun u => flag u TRC_STATUS_HOST_STALL = true ∧
      u.trc = { s.trc with hostGap := s.trc.hostGap <|> some (2, s.now) } ∧ getF u TRC_HWR_HWR = h ∧ u.out = s.out)) ∧
  (flag s TRC_CTRL_PORT_EN = true →
    (∀ w (b : List Byte), b = [0xA5, 0x5A] ++ wordsBytes w ++ wordBytes (crc32cWords w) →
      portFrame w = b.flatMap (fun x => [x.extractLsb' 0 4, x.extractLsb' 4 4])) ∧
    (∀ i l, s.trc.portGap = none → s.trc.portDue = i :: l → Completes .tracePortFrame s fun u =>
      u = { s with trc := { s.trc with portDue := l }, out := Out.tracePort (portFrame (bufferRec s i)) :: s.out }) ∧
    (s.trc.portGap = none → s.trc.portDue = [] → Completes .tracePortFrame s fun u =>
      u = { s with out := Out.tracePort (portFrame [0, 0, 0, 0]) :: s.out }) ∧
    (∀ g, s.trc.portGap = some g → Completes .tracePortFrame s fun u =>
      (∃ r : TraceRec, r.kind = 0xF2 ∧ r.data = BitVec.ofNat 32 s.trc.portSkip ∧
        Out.tracePort (portFrame (traceWords r)) ∈ u.out) ∧
      getF u TRC_SKIP_PORT_SKIP = satTo 65535 (getF s TRC_SKIP_PORT_SKIP + s.trc.portSkip) ∧ (rd u TRC_EVENT).getLsbD 4 = true ∧
      u.trc = { s.trc with portGap := none, portSkip := 0 })) ∧
  (∀ (v m : Word), m = (if flag s TRC_CTRL_LOCK then 0x00000008 else 0x0000FF1F) → Completes (.traceResume v) s fun u =>
    flag u TRC_STATUS_FROZEN = false ∧ flag u TRC_STATUS_FULL = false ∧ flag u TRC_STATUS_WRAPPED = false ∧
    getF u TRC_STATUS_WR_IDX = 0 ∧ u.trc.post = none ∧ u.trc.freezeOn = none ∧ u.trc.queue = s.trc.queue ∧
    rd u TRC_CTRL = (rd s TRC_CTRL &&& ~~~m) ||| (v &&& m) ||| (v &&& 0x80000000) ∧ WordsBut [TRC_CTRL, TRC_STATUS] s u)

/-- R482, R636-R638: the rows of the analogue test controller. -/
def Obligations.MeasurementsHoldTheirFlask : Prop := ∀ (s : State),
  (∀ t x f, startedAs s t 0x52 = some x → f = selFirst (x.word 1) →
    (on s dATEST = false → Completes (.atest t) s fun u => getTag u t = some { x with state := .running } ∧
      u.atst.waiting = s.atst.waiting ++ [t] ∧ (rd u CK_PDREQ).getLsbD dATEST = true ∧
      u.pw.switchingOn.getLsbD dATEST = true ∧ WordsBut [CK_PDREQ] s u) ∧
    (on s dATEST = true → s.atst.cur ≠ none → Completes (.atest t) s fun u => getTag u t = some { x with state := .running } ∧
      u.atst = { s.atst with waiting := s.atst.waiting ++ [t] } ∧ u = { s with hi := u.hi, atst := u.atst }) ∧
    (on s dATEST = true → s.atst.cur = none → s.atst.waiting = [] → tabGet (fun _ => 0) s.pw.switchingOff dATEST = 0 →
      (flag s AT_CTRL_FIELD_EN = false ∨ s.atst.boundary = true → Completes (.atest t) s fun u =>
        Ended t stSTATE 0 0 u ∧ OnlyTagEnds t s u) ∧
      (flag s AT_CTRL_FIELD_EN = true → s.atst.boundary = false → interlock s f = false → Completes (.atest t) s fun u =>
        Ended t stINTERLOCK 0 0 u ∧ u.atst = s.atst ∧ (rd u AT_EVENT).getLsbD 1 = true ∧
        getF u AT_COUNTS_INTERLOCK_FAIL = satTo 65535 (getF s AT_COUNTS_INTERLOCK_FAIL + 1)) ∧
      (flag s AT_CTRL_FIELD_EN = true → s.atst.boundary = false → interlock s f = true → Completes (.atest t) s fun u =>
        (flask u f).holds.contains 5 = true ∧ u.atst.waiting = [] ∧
        (∃ m, u.atst.cur = some m ∧ m.tag = t ∧ m.flask = f ∧ m.node = bits (x.param 0) 0 8 ∧ m.bus = bits (x.param 0) 8 1 ∧
          m.lch = bits (x.param 1) 0 4 ∧ m.started = s.now) ∧ (rd u AT_STATUS).getLsbD 31 = true))) ∧
  (∀ m y, on s dATEST = true → s.atst.cur = some m → getTag s m.tag = some y → y.state ≠ .done → s.atst.waiting = [] →
    (∀ uv, interlock s m.flask = true →
      (s.atst.releases = [] → Completes (.atestMeasureDone uv) s fun u => Ended m.tag stSUCCESS (BitVec.ofInt 32 uv) 0 u ∧
        u.now = max s.now (m.started + 11110000) ∧ u.atst.cur = none ∧ rd u AT_STATUS = 0 ∧
        getF u AT_RESULT_RESULT = toBits 32 uv ∧ getF u AT_COUNTS_MEAS = satTo 65535 (getF s AT_COUNTS_MEAS + 1) ∧
        (rd u AT_EVENT).getLsbD 0 = true ∧ u.flasks = s.flasks) ∧
      (∀ r z, s.atst.releases = [r] → r ≠ m.tag → getTag s r = some z → z.state ≠ .done → releaseRefused s m.flask = false →
        Completes (.atestMeasureDone uv) s fun u => Ended m.tag stSUCCESS (BitVec.ofInt 32 uv) 0 u ∧ Ended r stSUCCESS 0 0 u ∧
          (flask u m.flask).holds = [] ∧ u.atst.releases = [])) ∧
    (interlock s m.flask = false → s.atst.releases = [] → Completes .atestInterlockLoss s fun u => Ended m.tag stINTERLOCK 0 0 u ∧
      u.atst.cur = none ∧ rd u AT_STATUS = 0 ∧ u.flasks = s.flasks ∧
      getF u AT_COUNTS_INTERLOCK_FAIL = satTo 65535 (getF s AT_COUNTS_INTERLOCK_FAIL + 1)))

/-- R503-R513: the rows of the host watchdog. -/
def Obligations.WatchdogRunsFailsAndGivesUp : Prop := ∀ (s : State), on s dHOSTIF = true →
  (∀ v, wdState s = wdIDLE → Completes (.wdStart v) s fun u => wdState u = wdRUN ∧
    getF u WD_QUESTION_Q = (if stamp s / 1024 % 65536 = 0 then 1 else stamp s / 1024 % 65536) ∧
    getF u WD_NOW_PERIOD_NOW = nearest 10 60000 (getF s WD_PERIOD_PERIOD) ∧
    getF u WD_NOW_WIN_NOW = nearest 25 75 (getF s WD_PERIOD_WIN_PCT) ∧ u.wd.start = s.now ∧
    u.wd.deadline = s.now + 1000000 * getF u WD_NOW_PERIOD_NOW ∧ flag u WD_CTRL_START = true ∧
    flag u WD_CTRL_LOCK = (v.getLsbD 31 || flag s WD_CTRL_LOCK) ∧
    WordsBut [WD_CTRL, WD_QUESTION, WD_NOW, WD_STATUS] s u ∧ u = { s with words := u.words, wd := u.wd, fw := u.fw }) ∧
  (∀ v, wdState s ≠ wdIDLE → Completes (.wdStart v) s fun u => OnlyWords [WD_CTRL] { s with fw := u.fw } u ∧
    flag u WD_CTRL_LOCK = (v.getLsbD 31 || flag s WD_CTRL_LOCK)) ∧
  (∀ (v : Word) ok, ok = (v.extractLsb' 0 16 == token (question s) s.wd.key) →
    (ok = true → wdState s = wdGIVEN_UP ∨ (wdLate s = false ∧ (wdState s = wdBOOT ∨ (wdState s = wdRUN ∧ wdOpen s = true))) →
      Completes (.wdAnswer v) s fun u => wdState u = wdRUN ∧ question u = nextQuestion (question s) ∧ getF u WD_STATUS_CONSEC = 0 ∧
        u.wd.start = s.now ∧ u.wd.deadline = s.now + 1000000 * getF u WD_NOW_PERIOD_NOW ∧
        getF u WD_NOW_PERIOD_NOW = nearest 10 60000 (getF s WD_PERIOD_PERIOD) ∧
        WordsBut [WD_CTRL, WD_QUESTION, WD_NOW, WD_STATUS] s u) ∧
    (wdState s = wdRUN → wdLate s = false → wdOpen s = false → Completes (.wdAnswer v) s fun u => WdFailed s 2 u) ∧
    (ok = false → wdLate s = false → wdState s = wdBOOT ∨ (wdState s = wdRUN ∧ wdOpen s = true) →
      Completes (.wdAnswer v) s fun u => WdFailed s 3 u) ∧
    (wdLate s = true → wdState s = wdBOOT ∨ wdState s = wdRUN →
      Completes (.wdAnswer v) s fun u => WdFailed s (if wdState s = wdRUN then 1 else 4) u) ∧
    ((wdState s = wdGIVEN_UP ∧ ok = false) ∨ wdState s = wdOFF ∨ wdState s = wdIDLE ∨ wdState s = wdPULSE →
      exec (.wdAnswer v) s = .next s)) ∧
  (∀ v, (wdState s = wdRUN → wdOpen s = true) → Completes (.wdPeriodWrite v) s fun u =>
    rd u WD_PERIOD = v &&& 0x00FFFFFF ∧ OnlyWords [WD_PERIOD] s u) ∧
  (∀ v, wdState s = wdRUN → wdOpen s = false → Completes (.wdPeriodWrite v) s fun u =>
    rd u WD_PERIOD = rd s WD_PERIOD ∧ (rd u WD_EVENT).getLsbD 1 = true ∧ u.wd = s.wd) ∧
  (∀ v, (flag s WD_CTRL_LOCK = false → exec (.wdKeyWrite v) s = .next { s with wd := { s.wd with key := v } }) ∧
    (flag s WD_CTRL_LOCK = true → exec (.wdKeyWrite v) s = .next s)) ∧
  (s.wd.frozenAt = none →
    (wdState s = wdRUN → Completes .wdPeriodExpire s fun u => WdFailed (advance s s.wd.deadline) 1 u) ∧
    (wdState s = wdBOOT → Completes .wdBootExpire s fun u => WdFailed (advance s s.wd.deadline) 4 u)) ∧
  (wdState s = wdPULSE → ∀ m, m = getF s WD_CFG_FAIL_MAX →
    (m ≠ 0 → m ≤ getF s WD_STATUS_CONSEC → Completes .wdPulseEnd s fun u => wdState u = wdGIVEN_UP ∧
      u.now = max s.now s.wd.deadline ∧ (rd u WD_EVENT).getLsbD 2 = true ∧ u.wd = { s.wd with hrstLow := false } ∧
      (s.wd.hrstLow = true → Out.hostResetEnd ∈ u.out)) ∧
    (m = 0 ∨ getF s WD_STATUS_CONSEC < m → Completes .wdPulseEnd s fun u => wdState u = wdBOOT ∧
      u.now = max s.now s.wd.deadline ∧ u.wd.start = u.now ∧ u.wd.hrstLow = false ∧ (s.wd.hrstLow = true → Out.hostResetEnd ∈ u.out) ∧
      flag u WD_CTRL_START = true ∧
      u.wd.deadline = u.now + 1000000000 * nearest 1 3600 (getF s WD_CFG_BOOT_S) ∧ WordsBut [WD_CTRL, WD_STATUS] s u)) ∧
  (∀ m, Completes (.debugHalt m) s fun u => u.sv.halted = m % 4 ∧ u.wd.halt = decide (m % 4 ≠ 0) ∧
    flag u WD_STATUS_FROZEN = (s.fuses.wdDbg && decide (m % 4 ≠ 0)) ∧ OnlyWords [WD_STATUS] { s with sv := u.sv, wd := u.wd } u ∧
    (s.fuses.wdDbg = true → m % 4 ≠ 0 → s.wd.frozenAt = none → wdState s = wdRUN ∨ wdState s = wdBOOT →
      u.wd.frozenAt = some s.now ∧ u.wd.deadline = s.wd.deadline) ∧
    (∀ t, s.wd.frozenAt = some t → m % 4 = 0 → u.wd.frozenAt = none ∧ u.wd.deadline = s.wd.deadline + (s.now - t) ∧
      u.wd.start = s.wd.start + (s.now - t)) ∧
    (∀ t, s.wd.frozenAt = some t → m % 4 ≠ 0 → u.wd.frozenAt = some t) ∧
    (s.fuses.wdDbg = false → s.wd.frozenAt = none → u.wd.frozenAt = none ∧ u.wd.deadline = s.wd.deadline))

/-- R516-R522, R524-R526, R528: the rows of the supervisor pair. -/
def Obligations.SupervisorsFailCheckpointAndTakeOver : Prop := ∀ (s : State),
  (∀ n cause c, n < 2 → (c, cause) ∈ [(Instr.svInternalWdtExpire n, 1), (Instr.supervisorFailure n, 3)] →
    (c = .svInternalWdtExpire n → svHalted s n = false) → on s (svDomain n) = true → svState s n ≠ svOff → svState s n ≠ svLOST →
    Completes c s fun u => svState u n = svOff ∧ on u (svDomain n) = false ∧ (sup u n).fails = s.now :: recentFails s n ∧
      (n = 0 → getF u SV_COUNTS_FAILS_A = satTo 255 (getF s SV_COUNTS_FAILS_A + 1)) ∧
      (n = 1 → getF u SV_COUNTS_FAILS_B = satTo 255 (getF s SV_COUNTS_FAILS_B + 1)) ∧
      ((recentFails s n).length < 2 → u.pw.switchingOn.getLsbD (svDomain n) = true) ∧
      (2 ≤ (recentFails s n).length → u.pw.switchingOn = s.pw.switchingOn) ∧ u.now = s.now ∧
      (svState s n = svACTIVE → u.sv.takeover = (if (standbySv s).isSome then some (n, cause) else none) ∧
        u.sv.noneSince = some s.now ∧ u.sv.planned = false) ∧
      (svState s n = svWAIT ∨ svState s n = svREADY → u.sv.takeover = none ∧ u.sv.planned = false)) ∧
  (∀ n, n < 2 → svHalted s n = true → exec (.svInternalWdtExpire n) s = .next s) ∧
  (∀ n b, n < 2 → on s dPPATH = true → on s dBBOX = true → svState s n ≠ svLOST →
    (b = true ∧ svState s n = svSTARTING) ∨ 3 ≤ (recentFails s n).length ∨ (sup s n).restartDue ≠ none →
    Completes (.svLost n b) s fun u => svState u n = svLOST ∧ (rd u SV_EVENT).getLsbD 1 = true ∧ (sup u n).restartDue = none ∧
      (getF u FC_REPLACE_CAUSES).testBit 0 = true) ∧
  (∀ a b body crc commit i e, activeSv s = some a → standbySv s = some b → svHalted s a = false → s.sv.cur = none →
    body.length ≤ 0xFFEF → (sup s b).slots.length = 2 → i = (if s.sv.last = some 0 then 1 else 0) → e = BitVec.ofNat 32 s.sv.next →
    Completes (.checkpointEpoch body crc commit) s fun u => u.now = epochTime s ∧
      u.sv.next = (s.sv.next + 1) % 2 ^ 32 ∧ u.sv.began = u.now ∧
      (∃ x, (sup u b).slots.getD i {} = x ∧ x.epoch = e ∧ x.body = body ∧ x.crc = crc ∧ x.began = u.now ∧
        (commit = true → x.commit = e ^^^ 0xFFFFFFFF) ∧ (commit = false → x.commit = ((sup s b).slots.getD i {}).commit)) ∧
      (sup u b).slots.getD (1 - i) {} = (sup s b).slots.getD (1 - i) {} ∧
      (commit = true → rd u SV_CKPT = e ∧ u.sv.last = some i ∧ u.sv.toCheck = true ∧ u.sv.cur = none ∧
        (s.sv.planned = true → u.sv.takeover = some (a, 4) ∧ u.sv.planned = false)) ∧
      (commit = false → u.words = s.words ∧ u.sv.cur = some i ∧ u.sv.last = s.sv.last)) ∧
  (∀ i, on s dPPATH = true → s.sv.cur = some i → Completes .ckptLate s fun u => u.sv.cur = none ∧
    u.now = max s.now (s.sv.began + 1000000) ∧ (rd u SV_EVENT).getLsbD 3 = true ∧
    getF u SV_CKERR_CKPT_LATE = satTo 65535 (getF s SV_CKERR_CKPT_LATE + 1)) ∧
  (∀ b i x, standbySv s = some b → s.sv.last = some i → s.sv.toCheck = true → x = (sup s b).slots.getD i {} →
    Completes .checkpointCheck s fun u => u.sv.toCheck = false ∧
      (crc32cWords x.body = x.crc → (sup u b).checked = some (x.epoch, x.began) ∧ u.words = s.words) ∧
      (crc32cWords x.body ≠ x.crc → sup u b = sup s b ∧ getF u SV_CKERR_CKPT_BAD = satTo 65535 (getF s SV_CKERR_CKPT_BAD + 1))) ∧
  (∀ b, standbySv s = some b → svState s b = svWAIT → (sup s b).checked ≠ none → Completes .standbyReady s fun u =>
    svState u b = svREADY ∧ (sup u b).restartDue = none ∧ (rd u SV_EVENT).getLsbD 4 = true) ∧
  (∀ n cause b, n < 2 → s.sv.takeover = some (n, cause) → standbySv s = some b → b ≠ n → svHalted s n = false →
    Completes .supervisorTakeover s fun u => svState u b = svACTIVE ∧ getF u SV_STATUS_ACTIVE_SV = b ∧ u.sv.takeover = none ∧
      u.sv.noneSince = none ∧ getF u SV_COUNTS_SWITCHES = satTo 65535 (getF s SV_COUNTS_SWITCHES + 1) ∧
      (rd u SV_EVENT).getLsbD 0 = true ∧ rd u SV_SWTIME_LO = lo32 (stamp s) ∧ rd u SV_SWTIME_HI = hi32 (stamp s) ∧
      rd u SV_CAUSE = BitVec.ofNat 32 (cause * 2 ^ 28 + n * 2 ^ 27) ∧
      (cause = 4 → svState u n = svWAIT) ∧ (cause ≠ 4 → svState u n = svState s n)) ∧
  (∀ v, on s dPPATH = true → Completes (.plannedSwitchover v) s fun u =>
    u.sv.planned = ((flag s SV_CTRL_SWAP_EN && standbyOk s) || s.sv.planned) ∧
    flag u SV_CTRL_SWAP_EN = (if flag s SV_CTRL_LOCK then flag s SV_CTRL_SWAP_EN else v.getLsbD 16) ∧
    flag u SV_CTRL_LOCK = (flag s SV_CTRL_LOCK || v.getLsbD 31) ∧ WordsBut [SV_CTRL] s u ∧
    u = { s with words := u.words, fw := u.fw, sv := { s.sv with planned := u.sv.planned } })

/-- R40, R131, R478-R480, R482, R490, R491, R494, R495, R497, R638: the rows of domains and of the reference. The model's choice of
log 79: a source is given up at its next step, to which `now` moves on. -/
def Obligations.DomainsSwitchAndTheReferenceIsFollowed : Prop := ∀ (s : State),
  (∀ d, d ∈ startOrder s.part → on s d = true →
    (∀ c, c = Instr.domainLoss d ∨ (c = Instr.domainSwitchOff d ∧ tabGet (fun _ => 0) s.pw.switchingOff d ≠ 0 ∧
        (d = dATEST → s.atst.cur = none)) →
      Completes c s fun u => on u d = false ∧ (∀ e ∈ startOrder s.part, dependsOn e d = true → on u e = false) ∧
        (∀ e, e ≠ d → dependsOn e d = false → on u e = on s e) ∧ (on u dPPATH = true → rd u CK_PDON = u.pw.dom) ∧ u.now = s.now) ∧
    (d ≠ dKEEPA → d ≠ dKEEPB → Completes (.domainLoss d) s fun u =>
      ∃ v, u = fault v 0x26 2 (requiredSrc d) (BitVec.ofNat 32 d)) ∧
    (∀ f, f < s.part.flasks → dFlask f = d → Completes (.domainLoss d) s fun u => (flask u f).failed = true ∧
      (flask u f).holds.contains 4 = true) ∧
    (d = dATEST → s.atst.cur = none → tabGet (fun _ => 0) s.pw.switchingOff d ≠ 0 → s.atst.waiting ≠ [] →
      Completes (.domainSwitchOff d) s fun u => u.pw.switchingOn.getLsbD dATEST = true ∧ (rd u CK_PDREQ).getLsbD dATEST = true) ∧
    (tabGet (fun _ => 0) s.pw.switchingOff d = 0 ∨ (d = dATEST ∧ s.atst.cur ≠ none) → exec (.domainSwitchOff d) s = .next s)) ∧
  (∀ v, on s dPPATH = true →
    (flag s CK_CTRL_LOCK = true → Completes (.ckPdreqWrite v) s fun u => rd u CK_PDREQ = rd s CK_PDREQ ∧ u.pw = s.pw) ∧
    (flag s CK_CTRL_LOCK = false → Completes (.ckPdreqWrite v) s fun u =>
      (∀ d ∈ startOrder s.part, onRequest s.part d = true → (rd u CK_PDREQ).getLsbD d = v.getLsbD d ∧
        ((rd s CK_PDREQ).getLsbD d = true → v.getLsbD d = false → on s d = true →
          tabGet (fun _ => 0) u.pw.switchingOff d = 1 ∧ u.pw.offByRequest.getLsbD d = true ∧
          (∀ f, f < s.part.flasks → dFlask f = d → (flask u f).holds.contains 17 = true)) ∧
        (v.getLsbD d = true → on s d = false → s.pw.switchingOn.getLsbD d = false → requiredOn s d = true → onBoot s = false →
          requestable s d = true →
          u.pw.switchingOn.getLsbD d = true ∧ u.pw.offByRequest.getLsbD d = false)) ∧
      u.pw.dom = s.pw.dom ∧ u.now = s.now)) ∧
  (s.pw.aon = true → s.pw.transport ≠ .transport → s.pw.transport ≠ .wake → s.pw.supply ≠ .none →
    ∀ l : List Nat,
    (l.length = 4 → l.all (countWithin 1) = true → Completes (.referenceQualified l) s fun u => u.pw.refOk = true ∧
      u.pw.timeSrc = .reference ∧ stamp s ≤ stamp u ∧ (s.pw.timeSrc = .reference → u.now = s.now) ∧
      (s.pw.timeSrc ≠ .reference → stamp u = u.now ∧ (s.pw.timeFrom ≤ s.now → s.now ≤ u.now ∧
        32768 * (u.now - s.now) ≤ timeCycle s.pw.timeSrc + 32767)) ∧
      (on s dPPATH = true → s.pw.runnerLock < 16 → s.pw.rpllLock < 16 → (rd u CK_STATUS).getLsbD 31 = true ∧ bits (rd u CK_STATUS) 26 2 = 0)) ∧
    (l.length ≠ 4 ∨ l.all (countWithin 1) = false → exec (.referenceQualified l) s = .next s)) ∧
  (∀ c q, s.pw.aon = true → s.pw.refOk = true →
    (countWithin 4 c.toNat = false ∨ 10000 ≤ q → Completes (.referenceLoss c q) s fun u => u.pw.refOk = false ∧ u.pw.timeSrc = .rc ∧
      stamp s ≤ stamp u ∧ (s.pw.timeSrc = .rc → u.now = s.now) ∧
      (s.pw.timeSrc ≠ .rc → stamp u = u.now ∧ (s.pw.timeFrom ≤ s.now → s.now ≤ u.now ∧
        32768 * (u.now - s.now) ≤ timeCycle s.pw.timeSrc + 32767)) ∧ (∃ v, u = fault v 0x37 3 (srcBlock 0x00D) c) ∧
      (on s dPPATH = true → s.pw.runnerLock < 16 → s.pw.rpllLock < 16 → (rd u CK_STATUS).getLsbD 31 = false ∧ bits (rd u CK_STATUS) 26 2 = 2)) ∧
    (countWithin 4 c.toNat = true → q < 10000 → exec (.referenceLoss c q) s = .next s)) ∧
  (on s dPPATH = true → Completes .ckTimeRead s fun u => rd u CK_TIME_LO = lo32 (stamp s) ∧ rd u CK_TIME_HI = hi32 (stamp s) ∧
    u.pw.latchedTimeHi = hi32 (stamp s) ∧ WordsBut [CK_TIME_LO, CK_TIME_HI] s u ∧
    u = { s with words := u.words, pw := { s.pw with latchedTimeHi := u.pw.latchedTimeHi } })

/-- R451, R469, R476, R478, R481, R484, R485, R488, R524, R575: AON power-up, domains switching on, the steps. The model's
choice of log 98: a supervisor that restarts alone with no good copy of the boot loader stays STARTING. -/
def Obligations.StartUpProceedsStepByStep : Prop := ∀ (s : State),
  (∀ aux straps, s.pw.aon = false → Completes (.aonPowerUp aux straps) s fun u => u.pw.aon = true ∧ u.pw.straps = straps % 8 ∧
    u.pw.supply = (if aux then .aux12 else .boot) ∧ u.pw.revival = !aux ∧ u.pw.done = 0 ∧ u.pw.stopped = false ∧
    u.mp.state = .startup ∧ getF u CK_CAUSE_CAUSE = 0 ∧ flag u CK_CAUSE_REVIVAL_START = !aux ∧ WordsBut [CK_CAUSE] s u ∧
    u.pw.dom = s.pw.dom) ∧
  (∀ d rec, d ∈ startOrder s.part → s.pw.switchingOn.getLsbD d = true → requiredOn s d = true → s.pw.supply ≠ .none →
    (onBoot s = true → inRevival d = true) →
    (∀ n, nextStep s = some n → d ∈ stepWants s n → ∀ e ∈ (stepWants s n).takeWhile (· ≠ d), s.pw.switchingOn.getLsbD e = false) →
    Completes (.domainSwitchOn d rec) s fun u => on u d = true ∧ (∀ e, on s e = true → on u e = true) ∧
      u.pw.lastSwitch = max s.now (s.pw.lastSwitch + onGap s d) ∧ (on u dPPATH = true → rd u CK_PDON = u.pw.dom)) ∧
  (∀ n c0 c1, nextStep s = some n → (∀ d ∈ stepWants s n, on s d = true) → (n = 2 → s.pw.refOk = true) → (n = 6 → loaderGood c0 = true ∨ loaderGood c1 = true) →
    (n = 7 → (bootImage s).1 = true) → Completes (.startupStep none c0 c1) s fun u =>
      u.pw.done = s.pw.done ||| 2 ^ n ∧ u.pw.stopped = false ∧
      (∀ m, nextStep u = some m → ∀ d ∈ stepWants u m, on u d = true ∨ u.pw.switchingOn.getLsbD d = true) ∧
      (n = 1 → u.pw.xtalOk = true) ∧ (n = 12 → u.fc.condOn = true)) ∧
  (∀ c0 c1, nextStep s = some 6 → (∀ d ∈ stepWants s 6, on s d = true) → loaderGood c0 = false → loaderGood c1 = false →
    Completes (.startupStep none c0 c1) s fun u =>
    u.pw.stopped = true ∧ u.pw.done = s.pw.done ∧ armed u = false ∧ activeSprue u = none ∧
    (∀ d ∈ startOrder s.part, d ≠ dBBOX → d ≠ dPPATH → d ≠ dHOSTIF → on u d = false) ∧
    (on s dBBOX = true → (getF u FC_REPLACE_CAUSES).testBit 6 = true)) ∧
  (∀ c0 c1, nextStep s = some 7 → (∀ d ∈ stepWants s 7, on s d = true) → (bootImage s).1 = false →
    Completes (.startupStep none c0 c1) s fun u => u.pw.stopped = true ∧ u.pw.done = s.pw.done) ∧
  (∀ n c0 c1, nextStep s = some n → (∃ d ∈ stepWants s n, on s d = false) ∨ (n = 2 ∧ s.pw.refOk = false) →
    exec (.startupStep none c0 c1) s = .next s) ∧
  (∀ n c0 c1, n < 2 → on s (svDomain n) = true → svState s n = svSTARTING → s.pw.done.testBit 7 = true →
    (loaderGood c0 = false → loaderGood c1 = false → exec (.startupStep (some n) c0 c1) s = .next s) ∧
    (loaderGood c0 = true ∨ loaderGood c1 = true → Completes (.startupStep (some n) c0 c1) s fun u =>
      ((activeSv s).isNone = true → s.sv.takeover = none → svState u n = svACTIVE ∧ getF u SV_STATUS_ACTIVE_SV = n ∧
        u.sv.noneSince = none) ∧
      ((activeSv s).isSome = true ∨ s.sv.takeover ≠ none → svState u n = svWAIT ∧ OnlyWords [SV_STATUS] s u)))

/-- R96, R97, R471-R475, R477, R498, R499, R552: resets and supplies. -/
def Obligations.ResetsAndSuppliesRestart : Prop := ∀ (s : State),
  (∀ c cause t, (c = .moduleReset ∧ cause = 2 ∧ s.pw.resetDue = some t ∧ t ≤ s.now) ∨
      (c = .testConnectorReset ∧ cause = 3 ∧ s.pw.aon = true ∧ s.pw.supply ≠ .none) → Completes c s fun u =>
    (∀ d ∈ startOrder s.part, on u d = false) ∧ u.pw.done = 6 ∧ u.pw.stopped = false ∧ u.pw.resetDue = none ∧ u.pw.resetKey = none ∧
    u.pw.transport = .run ∧ getF u CK_CAUSE_CAUSE = cause ∧ getF u CK_COUNTS_MOD_RESETS = satTo 65535 (getF s CK_COUNTS_MOD_RESETS + 1) ∧
    u.now = s.now ∧ u.pw.supply = (if s.pw.supply = .boot then .boot else .aux12)) ∧
  (∀ t, s.pw.resetDue = some t → s.now ≤ t → Completes .moduleReset s fun u => u.now = t ∧ u.pw.done = 6) ∧
  (s.pw.aon = true → s.pw.supply = .aux12 → Completes .aux12Invalid s fun u => u.pw.supply = .boot ∧ u.pw.revival = true ∧
    u.pw.aux12 = false ∧ u.pw.done = s.pw.done &&& 0x3DF ∧ (∀ d ∈ startOrder s.part, on u d = (on s d && inRevival d)) ∧
    (on s dPPATH = true → activeSprue u = none ∧ getF u PP_STATUS_SUPPLY = 1 ∧ (rd u PP_EVENT).getLsbD 11 = true)) ∧
  (s.pw.supply ≠ .aux12 ∨ s.pw.aon = false → Completes .aux12Invalid s fun u =>
    u = { s with pw := { s.pw with aux12 := false, boot := true } }) ∧
  (s.pw.aon = true → s.pw.supply = .boot → Completes .aux12Valid s fun u => u.pw.supply = .aux12 ∧ u.pw.revival = false ∧
    u.pw.aux12 = true ∧ u.pw.dom = s.pw.dom ∧ u.pw.done = s.pw.done ∧
    (on s dPPATH = true → getF u PP_STATUS_SUPPLY = 0 ∧ (rd u PP_EVENT).getLsbD 11 = true)) ∧
  (∀ c aux, s.pw.aon = true → s.pw.waking = true → (c = .aux12Valid ∧ aux = true ∧ s.pw.supply ≠ .boot) ∨
      (c = .bootValid ∧ aux = false ∧ s.pw.aux12 = false) → Completes c s fun u =>
    u.pw.supply = (if aux then .aux12 else .boot) ∧ u.pw.waking = false ∧ u.pw.done = 2 ∧ u.pw.revival = !aux ∧
    getF u CK_CAUSE_CAUSE = 4 ∧ flag u CK_CAUSE_REVIVAL_START = !aux) ∧
  (s.pw.waking = false → Completes .bootValid s fun u => u = { s with pw := { s.pw with boot := true } }) ∧
  (s.pw.aon = true → s.pw.supply ≠ .none → Completes .supplyFailure s fun u =>
    (∀ d ∈ startOrder s.part, on u d = (on s d && d == dBBOX)) ∧ u.pw.supply = .none ∧ u.pw.aux12 = false ∧ u.pw.boot = false ∧
    u.pw.done = s.pw.done &&& 0xE ∧ u.now = s.now ∧
    (on s dBBOX = true → ∃ x, u.fc.logq.head? = some x ∧ x.itype = 4 ∧ x.time = stamp s ∧ x.content.length = 3)) ∧
  (s.pw.aon = false ∨ s.pw.supply = .none → Completes .supplyFailure s fun u =>
    u = { s with pw := { s.pw with aux12 := false, boot := false } }) ∧
  (∀ aux, s.pw.aon = true → s.pw.supply = .none → s.pw.transport = .run → s.pw.waking = false →
    Completes (.supplyFailRestart aux) s fun u => u.pw.supply = (if aux then .aux12 else .boot) ∧ u.pw.done = s.pw.done ∧
      getF u CK_CAUSE_CAUSE = 1 ∧ getF u CK_COUNTS_SUPPLY_FAILS = satTo 65535 (getF s CK_COUNTS_SUPPLY_FAILS + 1) ∧
      u.pw.holdupOk = false) ∧
  (on s dBBOX = true → s.pw.supply ≠ .none → Completes .holdupCharged s fun u => u.pw = { s.pw with holdupOk := true } ∧
    WordsBut [CK_STATUS, CK_PDON] s u) ∧
  (s.pw.aon = true → s.pw.supply = .none → Completes .aonPowerOnReset s fun u => u.pw = {} ∧ u.words = [] ∧ u.now = 0 ∧
    u.hi = {} ∧ u.chans = [] ∧ u.part = s.part ∧ u.fuses = s.fuses ∧ u.bb.slots = s.bb.slots ∧ u.recs = s.recs ∧
    u.fw.slotA = s.fw.slotA ∧ u.fw.slotB = s.fw.slotB ∧ u.fw.set0 = s.fw.set0 ∧ u.fw.set1 = s.fw.set1)

/-- R57, R100-R104, R421, R499: transport mode. -/
def Obligations.TransportModeDrainsAndWakes : Prop := ∀ (s : State),
  (∀ t x boot, startedAs s t 0x32 = some x → targetsOnline s x = true →
    (s.pw.transport ≠ .run → Completes (.transport t boot) s fun u => Ended t stBUSY 0 0 u ∧ OnlyTagEnds t (atTick s x) u) ∧
    (s.pw.transport = .run → transportRefused s boot = true → Completes (.transport t boot) s fun u =>
      Ended t stREFUSED 0 0 u ∧ OnlyTagEnds t (atTick s x) u) ∧
    (s.pw.transport = .run → transportRefused s boot = false → Completes (.transport t boot) s fun u =>
      u.pw.transport = .drain ∧ u.pw.timer = applyTime s x + 20000000 ∧ u.pw.transportTag = some t ∧ u.lad.pour = none ∧
      u.pw.ch0vb = (chan s 0).cv.vb / 10 ∧ getTag u t = some { x with state := .running, applied := true } ∧
      (∀ v y, v ≠ t → getTag s v = some y → y.state = .started → writesState y = true → Ended v stBUSY 0 0 u) ∧
      u = { atTick s x with hi := u.hi, pw := u.pw, lad := u.lad })) ∧
  (s.pw.transport = .drain →
    (∀ c, (c = .transportDrainDone ∧ ∀ d < s.part.channels, conducting s d = false) ∨ c = .transportDrainTimeout →
      Completes c s fun u => u.pw.transport = .shutdown ∧ u.pw.transportTag = none ∧ (∀ d ∈ startOrder s.part, on u d = false) ∧
        ∀ n, n < 4 → (sprue u n).gate = .low) ∧
    (∀ d, d < s.part.channels → conducting s d = true → exec .transportDrainDone s = .next s) ∧
    (Completes .transportAbort s fun u => u.pw.transport = .run ∧ u.pw.transportTag = none ∧ (rd u PP_EVENT).getLsbD 12 = true ∧
      ∀ t x, s.pw.transportTag = some t → getTag s t = some x → x.state ≠ .done → Ended t stABORTED 0 0 u)) ∧
  (s.pw.transport = .shutdown → s.pw.dom = 0 → Completes .transportEnter s fun u => u.pw.transport = .transport ∧
    u.pw.supply = .none ∧ u.pw.timeSrc = .crystal ∧ u.pw.done = 2 ∧ u.pw.dom = 0 ∧ stamp s ≤ stamp u ∧ (s.pw.timeSrc = .crystal → u.now = s.now) ∧
    ∀ n, n < 4 → (sprue u n).gate = .low) ∧
  (s.pw.transport = .transport → ∀ sp boot,
    (sp % 16 ≠ 0 ∨ boot = true → Completes (.transportWakeDetect sp boot) s fun u =>
      u = { s with pw := { s.pw with transport := .wake, timer := s.now + 10000000, wakeSp := sp % 16, wakeBoot := boot } }) ∧
    (sp % 16 = 0 → boot = false → exec (.transportWakeDetect sp boot) s = .next s)) ∧
  (s.pw.transport = .wake →
    (Completes .transportWakeLapse s fun u => u = { s with pw := { s.pw with transport := .transport } }) ∧
    (Completes .transportWake s fun u => u.pw.transport = .run ∧ u.now = max s.now s.pw.timer ∧ getF u CK_CAUSE_CAUSE = 4 ∧
      getF u CK_CAUSE_WAKE_SP = s.pw.wakeSp % 16 ∧ flag u CK_CAUSE_WAKE_BOOT = s.pw.wakeBoot ∧
      (s.pw.aux12 = true → u.pw.supply = .aux12 ∧ u.pw.done = 2 ∧ u.pw.waking = false) ∧
      (s.pw.aux12 = false → (s.pw.boot || s.pw.wakeBoot) = true → u.pw.supply = .boot ∧ u.pw.done = 2 ∧ u.pw.revival = true ∧
        u.pw.waking = false) ∧
      (s.pw.aux12 = false → (s.pw.boot || s.pw.wakeBoot) = false → u.pw.supply = s.pw.supply ∧ u.pw.waking = true ∧
        u.pw.timer = u.now + 5000000000))) ∧
  (s.pw.waking = true → Completes .wakeSupplyTimeout s fun u => u.pw.transport = .transport ∧ u.pw.waking = false ∧
    u.now = max s.now s.pw.timer ∧ getF u CK_CAUSE_CAUSE = 5)

/-- R566-R568, R570-R572, R574, R576: the rows of firmware. -/
def Obligations.FirmwareIsStagedCommittedAndConfirmed : Prop := ∀ (s : State) (t : Nat) (x : Tag), targetsOnline s x = true →
  (startedAs s t 0x48 = some x → ∀ (bad : Bool) (st ofs n : Nat) (b : List Byte) (start : Bool) (r : State),
    r = xfer (atTick s x) hubFabric 3 (rqSupervisor ((activeSv s).getD 0)) x.src.length → st = getF s GL_FWSTAT_FW_STATE →
    ofs = (x.param 0).toNat → n = inactiveSlot s → b = (match slotImage s n with | .bytes b => b | .factory => []) →
    start = (ofs == 0 && decide (st ≤ 2)) →
    (start = true → (headerOk s.part x.src && wordAt x.src 4 == x.param 1 && decide (x.src.length ≤ (x.param 1).toNat)) = false →
      Completes (.fwStage t bad) s fun u => Ended t (if st = 1 then stSTATE else stAUTH) 0 0 u ∧ OnlyTagEnds t r u) ∧
    (start = false → ¬ (st = 1 ∧ ofs = b.length ∧ (x.param 1).toNat = s.fw.total ∧ ofs + x.src.length ≤ s.fw.total) →
      Completes (.fwStage t bad) s fun u => Ended t stSTATE 0 0 u ∧ OnlyTagEnds t r u) ∧
    (∀ c : List Byte, (start = true ∧ headerOk s.part x.src = true ∧ wordAt x.src 4 = x.param 1 ∧ x.src.length ≤ (x.param 1).toNat ∧
        c = (if bad then [] else x.src)) ∨
      (start = false ∧ st = 1 ∧ ofs = b.length ∧ (x.param 1).toNat = s.fw.total ∧ ofs + x.src.length ≤ s.fw.total ∧
        c = (if bad then b else b ++ x.src)) →
      Completes (.fwStage t bad) s fun u => slotImage u n = .bytes c ∧ slotImage u (1 - n) = slotImage s (1 - n) ∧
        u.fw.total = (x.param 1).toNat ∧ u.pw = s.pw ∧ u.chans = s.chans ∧ u.fabrics = r.fabrics ∧
        (bad = true → Ended t stMEDIA (BitVec.ofNat 32 c.length) 0 u ∧ getF u GL_FWSTAT_FW_STATE = 1) ∧
        (bad = false → c.length < (x.param 1).toNat → Ended t stSUCCESS (BitVec.ofNat 32 c.length) 0 u ∧
          getF u GL_FWSTAT_FW_STATE = 1 ∧ getF u GL_FWSTAT_STAGED_4K = c.length / 4096 % 8192) ∧
        (bad = false → (x.param 1).toNat ≤ c.length → imageValid s.part (.bytes c) = true →
          Ended t stSUCCESS (BitVec.ofNat 32 c.length) 0 u ∧ getF u GL_FWSTAT_FW_STATE = 2 ∧ (rd u GL_FWEVENT).getLsbD 0 = true) ∧
        (bad = false → (x.param 1).toNat ≤ c.length → imageValid s.part (.bytes c) = false →
          Ended t stAUTH (BitVec.ofNat 32 c.length) 0 u ∧ getF u GL_FWSTAT_FW_STATE = 0 ∧ getF u GL_FWSTAT_STAGED_4K = 0 ∧
          (rd u GL_FWEVENT).getLsbD 1 = true))) ∧
  (startedAs s t 0x49 = some x → ∀ st n, st = getF s GL_FWSTAT_FW_STATE → n = inactiveSlot s →
    (st = 4 → Completes (.fwCommit t) s fun u => Ended t stSUCCESS (BitVec.ofNat 32 (bootGood (bootRecord s))) 0 u ∧
      getF u GL_FWSTAT_FW_STATE = 0 ∧ u.fw.probEnd = none ∧ (rd u GL_FWEVENT).getLsbD 4 = true ∧ u.fw.restarting = true ∧
      on u dKEEPA = false ∧ on u dKEEPB = false ∧ u.pw.done = s.pw.done &&& 0x1E3F) ∧
    (st = 0 ∨ st = 2 → slotValid s n = true → Completes (.fwCommit t) s fun u => Ended t stSUCCESS (BitVec.ofNat 32 n) 0 u ∧
      getF u GL_FWSTAT_FW_STATE = 3 ∧ u.fw.restarting = true ∧ on u dKEEPA = false ∧ on u dKEEPB = false ∧
      u.pw.done = s.pw.done &&& 0x1E3F) ∧
    (st = 0 ∨ st = 2 → slotValid s n = false → Completes (.fwCommit t) s fun u => Ended t stAUTH 0 0 u ∧
      getF u GL_FWSTAT_FW_STATE = st ∧ (rd u GL_FWEVENT).getLsbD 1 = true ∧ u.fw = s.fw ∧ u.pw = s.pw) ∧
    (st ≠ 0 → st ≠ 2 → st ≠ 4 → Completes (.fwCommit t) s fun u => Ended t stSTATE 0 0 u ∧ OnlyTagEnds t (atTick s x) u)) ∧
  (startedAs s t 0x4A = some x →
    (inProbation s = true → quarantine s = false → Completes (.fwConfirm t) s fun u =>
      Ended t stSUCCESS (BitVec.ofNat 32 (bootTry (bootRecord s))) 0 u ∧ getF u GL_FWSTAT_FW_STATE = 0 ∧ u.fw.probEnd = none ∧
      (rd u GL_FWEVENT).getLsbD 3 = true ∧ u.pw = s.pw) ∧
    (inProbation s = false ∨ quarantine s = true → Completes (.fwConfirm t) s fun u =>
      Ended t stSTATE 0 0 u ∧ OnlyTagEnds t (atTick s x) u)) ∧
  (∀ d, on s dPPATH = true → inProbation s = true → s.fw.probEnd = some d →
    (s.fuses.noAutoFb = true → Completes .probationExpire s fun u => u.now = max s.now d ∧ u.fw.probEnd = none ∧
      inProbation u = true ∧ (rd u GL_FWEVENT).getLsbD 7 = true ∧ u.pw = s.pw) ∧
    (s.fuses.noAutoFb = false → Completes .probationExpire s fun u => u.now = max s.now d ∧ u.fw.probEnd = none ∧
      getF u GL_FWSTAT_FW_STATE = 0 ∧ (rd u GL_FWEVENT).getLsbD 4 = true ∧ u.fw.restarting = true ∧ on u dKEEPA = false)) ∧
  (∀ d, on s dPPATH = true → inProbation s = true → activeSv s = none → s.sv.noneSince = some d →
    Completes .probationNoSupervisor s fun u => u.now = max s.now (d + 100000000) ∧ inProbation u = true ∧
      u.fw.restarting = true ∧ on u dKEEPA = false ∧ on u dKEEPB = false ∧ u.fw.probEnd = s.fw.probEnd)

/-- R577, R579, R583, R585, R587, R588, R590-R592: SETTINGS_LOAD, the digest scan, DIGEST_READ. -/
def Obligations.SettingsAreStoredAndDigestsFollow : Prop := ∀ (s : State),
  (∀ t x bad w m, startedAs s t 0x4B = some x → targetsOnline s x = true → w = bytesWords x.src →
    m = imageSchemas (slotImage s (runSlot s)) →
    (x.src.length % 4 ≠ 0 ∨ setImageOk w = false → Completes (.settingsLoad t bad) s fun u =>
      Ended t stCHECK_FAILED 0 0 u ∧ OnlyTagEnds t (atTick s x) u) ∧
    (x.src.length % 4 = 0 → setImageOk w = true → setSchema w < m.1 ∨ m.2 < setSchema w → Completes (.settingsLoad t bad) s fun u =>
      Ended t stSCHEMA 0 0 u ∧ OnlyTagEnds t (atTick s x) u) ∧
    (∀ seq, x.src.length % 4 = 0 → setImageOk w = true → m.1 ≤ setSchema w → setSchema w ≤ m.2 →
      seq = (match heldSettings s with | some h => (setSeqOf h + 1) % 2 ^ 32 | none => 1) →
      (bad = 1 ∨ bad = 2 → Completes (.settingsLoad t bad) s fun u => Ended t stMEDIA (BitVec.ofNat 32 (setSchema w)) 0 u ∧
        WordsBut [GL_SETSTAT] s u ∧ flag u GL_SETSTAT_COPY0_OK = decide (bad = 2) ∧
        flag u GL_SETSTAT_COPY1_OK = (decide (bad = 1) && flag s GL_SETSTAT_COPY1_OK) ∧ u.fw.set1 = (if bad = 1 then s.fw.set1 else (setCopy w seq (stamp (atTick s x))).set 15 0) ∧
        u.fw.set0 = (if bad = 1 then (setCopy w seq (stamp (atTick s x))).set 15 0 else setCopy w seq (stamp (atTick s x)))) ∧
      (bad ≠ 1 → bad ≠ 2 → Completes (.settingsLoad t bad) s fun u =>
        (quarantine s = false → flag u GL_SETSTAT_COPY0_OK = true ∧ flag u GL_SETSTAT_COPY1_OK = true) ∧
        u.fw.set0 = setCopy w seq (stamp (atTick s x)) ∧ u.fw.set1 = setCopy w seq (stamp (atTick s x)) ∧ quarantine u = false ∧
        (quarantine s = false → Ended t stSUCCESS (BitVec.ofNat 32 (setSchema w)) 0 u ∧ rd u GL_SETSEQ = BitVec.ofNat 32 seq ∧ getF u GL_SETSTAT_SET_STATE = 3 ∧
          getF u GL_SETSTAT_SCHEMA = setSchema w ∧ WordsBut [GL_SETSEQ, GL_SETSTAT] s u)))) ∧
  (on s dPPATH = true → Completes .digestScanPass s fun u => u.now = (s.now / 100000000 + 1) * 100000000 ∧
    (∀ p ∈ digParts s, partLive s p = false → digPart u p = {}) ∧
    (∀ p ∈ digParts s, partLive s p = true → (digPart s p).run = none → (digPart u p).digest = (digPart s p).digest ∧
      (digPart u p).passes = (digPart s p).passes ∧ (digPart u p).run ≠ none ∧ (digPart u p).hit = false) ∧
    (∀ d, d = (partDigest s 0, rd s GL_CFGGEN) → (digPart s 0).run = some d → (digPart s 0).hit = false →
      digPart u 0 = { digest := d.1, gen := d.2, passes := ((digPart s 0).passes + 1) % 2 ^ 32, run := some d }) ∧
    (∀ d, d = (partDigest s 0, rd s GL_CFGGEN) → (digPart s 0).run ≠ some d ∨ (digPart s 0).hit = true →
      digPart u 0 = { digPart s 0 with run := some d, hit := false }) ∧ u.pw = s.pw ∧ u.chans = s.chans) ∧
  (∀ t x, startedAs s t 0x4C = some x → targetsOnline s x = true → Completes (.digestRead t) s fun u =>
    (digestWords s).length = 64 ∧ getTag u t = some { { x with r0 := rd s GL_DIGEST_LO, r1 := rd s GL_DIGEST_HI } with
      state := .running, applied := true, result := digestWords s, total := 256 } ∧
    (digestWords s).getD 0 0 = rd s GL_DIGEST_LO ∧ (digestWords s).getD 2 0 = rd s GL_CFGGEN ∧
    (digestWords s).getD 24 0 = rd s GL_SETSEQ ∧ u = { atTick s x with hi := u.hi })

/-- R595-R598: the rows of the tamper inputs. -/
def Obligations.TamperInputsLatchAndAreReported : Prop := ∀ (s : State),
  (∀ l, s.pw.aon = true → Completes (.tamperLatch l) s fun u =>
    u.now = max s.now (tampTime s) ∧ u.site.raw = l % 256 ∧ u.pw = s.pw ∧ u.chans = s.chans ∧ u.fc = s.fc ∧ rd u TM_TAMPCFG = rd s TM_TAMPCFG ∧
    (∀ n < 8, u.site.runs.getD n 0 = (if l.testBit n = s.site.raw.testBit n then min 10 (s.site.runs.getD n 0 + 1) else 1) ∧
      u.site.tamp.testBit n = (if u.site.runs.getD n 0 = 10 then l.testBit n else s.site.tamp.testBit n)) ∧
    (∀ n < 8, bitF u TM_TAMPLAT_LATCHED n = (bitF s TM_TAMPLAT_LATCHED n ||
      (bitF s TM_TAMPCFG_ARMED n && bitF s TM_TAMPCFG_LEVEL n == u.site.tamp.testBit n))) ∧
    (∀ n < 8, bitF s TM_TAMPLAT_LATCHED n = false → bitF u TM_TAMPLAT_LATCHED n = true →
      ⟨n, u.site.tamp.testBit n, !on s dPPATH, stamp u⟩ ∈ u.site.reports) ∧
    (getF s TM_TAMPLAT_LATCHED = 0 → getF u TM_TAMPLAT_LATCHED ≠ 0 → rd u TM_TTIME_LO = lo32 (stamp u) ∧ rd u TM_TTIME_HI = hi32 (stamp u) ∧
      (on s dPPATH = true → getF u TM_STATUS_TFIRST = u.site.first) ∧ u.site.first < 8 ∧ bitF s TM_TAMPLAT_LATCHED u.site.first = false ∧
      bitF u TM_TAMPLAT_LATCHED u.site.first = true) ∧
    (getF s TM_TAMPLAT_LATCHED ≠ 0 ∨ getF u TM_TAMPLAT_LATCHED = 0 → rd u TM_TTIME_LO = rd s TM_TTIME_LO ∧
      rd u TM_TTIME_HI = rd s TM_TTIME_HI ∧ u.site.first = s.site.first) ∧
    (on s dPPATH = true → getF u TM_STATUS_TAMP_IN = u.site.tamp) ∧ u.site.tamp < 256) ∧
  (on s dBBOX = true → on s dPPATH = true → Completes .tamperReport s fun u => u.site = { s.site with reports := [] } ∧ u.now = s.now ∧
    u.fc.inbox = s.fc.inbox ++ s.site.reports.map (fun r => (28, { kind := 0x3C, sev := 2, src := 0xC00C, ctx := BitVec.ofNat 32 (r.input + (if r.level then 8 else 0) + (if r.off then 16 else 0)) })) ∧
    (s.site.reports ≠ [] → (rd u TM_EVENT).getLsbD 0 = true) ∧ (s.site.reports = [] → u = s) ∧
    u.fc.logq = s.fc.logq ++ s.site.reports.map (fun r =>
      { itype := 0x0C, time := r.time, content :=
        [BitVec.ofNat 32 (getF s TM_TAMPLAT_LATCHED + r.input * 256), rd s CK_CAUSE] })) ∧
  (∀ v, on s dPPATH = true → Completes (.tamperClear v) s fun u => OnlyWords [TM_TAMPLAT] s u ∧
    ∀ n < 8, bitF u TM_TAMPLAT_LATCHED n = (bitF s TM_TAMPLAT_LATCHED n && !v.getLsbD n)) ∧
  (∀ t x, startedAs s t 0x51 = some x →
    (flag s TM_TAMPCFG_TLOCK = true → Completes (.tamperArm t) s fun u => Ended t stLOCKED 0 0 u ∧ OnlyTagEnds t s u) ∧
    (flag s TM_TAMPCFG_TLOCK = false → Completes (.tamperArm t) s fun u => Ended t stSUCCESS 0 0 u ∧ u.pw = s.pw ∧
      (on s dPPATH = true → getF u TM_TAMPCFG_ARMED = bits (x.param 0) 0 8 ∧ getF u TM_TAMPCFG_LEVEL = bits (x.param 0) 8 8 ∧
        flag u TM_TAMPCFG_TLOCK = false ∧
        ∀ n < 8, bitF u TM_TAMPLAT_LATCHED n = (bitF s TM_TAMPLAT_LATCHED n ||
          (!tampActive s n && ((x.param 0).getLsbD n && (x.param 0).getLsbD (8 + n) == s.site.tamp.testBit n))))))

/-- R600-R603: the rows of removal and shunt integrity. -/
def Obligations.RemovalsAndShuntsAreJudged : Prop := ∀ (s : State),
  (∀ c t v big, on s dPPATH = true → flaskOn s (chFlask c) = true → (removal s c).step = some (t, v, big) →
    (t + 100000000 ≤ s.snap → Completes (.removalDeclared c) s fun u =>
      removal u c = { removal s c with step := none, removed := true, upSince := none } ∧
      (∀ d, d ≠ c → removal u d = removal s d) ∧ u.chans = s.chans ∧ u.now = s.now ∧
      getF u TM_COUNTS_REMOVALS = satTo 65535 (getF s TM_COUNTS_REMOVALS + 1) ∧ (rd u TM_EVENT).getLsbD 1 = true ∧
      ((faultQ s (chFlask c)).q.length < 32 → (faultQ u (chFlask c)).q = queueInsert false
        ⟨{ kind := 0x0B, sev := 2, src := srcChan c 0, ctx := BitVec.ofNat 32 (v + (if big then 65536 else 0)) }, s.now⟩
        (faultQ s (chFlask c)).q)) ∧
    (s.snap < t + 100000000 → Completes (.removalDeclared c) s fun u => u = s)) ∧
  (∀ c t, on s dPPATH = true → (removal s c).upSince = some t →
    (t + 1000000000 ≤ s.snap → Completes (.refit c) s fun u =>
      removal u c = { removal s c with removed := false, upSince := none } ∧ (∀ d, d ≠ c → removal u d = removal s d) ∧
      (rd u TM_EVENT).getLsbD 2 = true ∧ u.chans = s.chans ∧ u.fq = s.fq) ∧
    (s.snap < t + 1000000000 → Completes (.refit c) s fun u => u = s)) ∧
  (getF s TM_SHCHK_R_STAGE = 0 ∨ s.snap % 1000000000 ≠ 0 ∨ s.site.shcAt = s.snap / 1000000000 →
    Completes .shuntCheckWindow s fun u => u = s) ∧
  (on s dPPATH = true → getF s TM_SHCHK_R_STAGE ≠ 0 → s.snap % 1000000000 = 0 → s.site.shcAt ≠ s.snap / 1000000000 → Completes .shuntCheckWindow s fun u =>
    u.site.shcAt = s.snap / 1000000000 ∧ u.chans = s.chans ∧ u.now = s.now ∧ (∀ d, d ∉ liveChans s → shc u d = shc s d) ∧
    (∀ c ∈ liveChans s, ∀ (y : ShuntCheck) (pred mag diff : Rat), y = shc s c → pred = y.u / (y.ms : Nat) * 100 / (getF s TM_SHCHK_R_STAGE : Nat) →
      mag = (if pred < 0 then -pred else pred) → diff = (if y.q - pred < 0 then -(y.q - pred) else y.q - pred) →
      (shc u c).q = 0 ∧ (shc u c).u = 0 ∧ (shc u c).ms = 0 ∧ (shc u c).ok = ((chan s c).state == .run) ∧
      ((y.ok = false ∨ y.ms ≠ 1000 ∨ mag < 10) → (shc u c).run = y.run) ∧
      (y.ok = true → y.ms = 1000 → 10 ≤ mag →
        (diff ≤ (getF s TM_SHCHK_SC_ABS : Rat) / 10 + (getF s TM_SHCHK_SC_PCT : Rat) / 100 * mag → (shc u c).run = 0) ∧
        ((getF s TM_SHCHK_SC_ABS : Rat) / 10 + (getF s TM_SHCHK_SC_PCT : Rat) / 100 * mag < diff → (shc u c).run = satTo 11 (y.run + 1) ∧
          (y.run = 9 → (rd u TM_EVENT).getLsbD 3 = true ∧
            (getF s TM_COUNTS_SC_MISMATCH < getF u TM_COUNTS_SC_MISMATCH ∨ getF u TM_COUNTS_SC_MISMATCH = 65535))))))

/-- R606-R609: the insulation monitor. -/
def Obligations.TheInsulationMonitorMeasures : Prop := ∀ (s : State) (a v j : Int), on s dPPATH = true → insMode s ≠ 0 →
  (s.site.ins.prev = none → Completes (.insulationHalfPeriod a v j) s fun u => u.words = s.words ∧
    u.now = max s.now (s.site.ins.start + insHalf s * 1000000000) ∧ u.site.ins.start = u.now ∧ u.site.ins.prev = some (v, j) ∧
    u.site.ins.neg = !s.site.ins.neg ∧ u.site.ins.results = s.site.ins.results) ∧
  (∀ vp jp, s.site.ins.prev = some (vp, jp) → Completes (.insulationHalfPeriod a v j) s fun u =>
    u.now = max s.now (s.site.ins.start + insHalf s * 1000000000) ∧ u.site.ins.start = u.now ∧ u.site.ins.prev = some (v, j) ∧
    u.site.ins.neg = !s.site.ins.neg ∧ u.chans = s.chans ∧ u.pw = s.pw ∧
    getF u TM_INS_INS_VMEAN = toBits 16 (divRound (v + vp) 200) ∧
    (insMode s = 2 → WordsBut [TM_INS] s u ∧ getF u TM_INS_INS_KOHM = getF s TM_INS_INS_KOHM ∧ u.site.ins.results = s.site.ins.results) ∧
    (insMode s = 1 → ∀ (d dj : Nat) (g : Rat) (r : Nat), d = (v - vp).natAbs → dj = (j - jp).natAbs →
      g = (((dj : Int) - (d : Int) : Int) : Rat) / ((insRc s : Nat) * (((d : Int) : Int) : Rat)) - 1 / 10000 →
      r = (if d = 0 ∧ dj = 0 then Config.insOpen s.free else if d = 0 then 0 else if g ≤ 0 then 10001 else (roundRat (1 / g)).toNat) →
      (d < 50 * (v - a).natAbs ∨ 100 < s.site.ins.hi - s.site.ins.lo.getD s.site.ins.hi ∨ s.site.ins.droop = true →
        (rd u TM_EVENT).getLsbD 7 = true ∧ u.site.ins.results = s.site.ins.results ∧ getF u TM_INS_INS_KOHM = getF s TM_INS_INS_KOHM) ∧
      (50 * (v - a).natAbs ≤ d → s.site.ins.hi - s.site.ins.lo.getD s.site.ins.hi ≤ 100 → s.site.ins.droop = false →
        u.site.ins.results = (r :: s.site.ins.results).take 3 ∧
        (∀ b c l k m, s.site.ins.results = b :: c :: l → m = median3 r b c → k = max 10 (min 10000 m) →
          getF u TM_INS_INS_KOHM = k ∧ flag u TM_STATUS_UNDER = decide (m < 10) ∧ flag u TM_STATUS_OVER = decide (10000 < m) ∧
          flag u TM_STATUS_INS_WARN = (if flag s TM_STATUS_INS_WARN then decide (4 * k < 5 * getF s TM_INSTH_INS_WARN)
            else decide (k ≤ getF s TM_INSTH_INS_WARN)) ∧
          flag u TM_STATUS_INS_ALARM = (if flag s TM_STATUS_INS_ALARM then decide (4 * k < 5 * getF s TM_INSTH_INS_ALARM)
            else decide (k ≤ getF s TM_INSTH_INS_ALARM)) ∧
          (flag s TM_STATUS_INS_WARN = false → flag u TM_STATUS_INS_WARN = true → (rd u TM_EVENT).getLsbD 4 = true) ∧
          (flag s TM_STATUS_INS_WARN = true → flag u TM_STATUS_INS_WARN = false → (rd u TM_EVENT).getLsbD 6 = true) ∧
          (flag s TM_STATUS_INS_ALARM = true → flag u TM_STATUS_INS_ALARM = false → (rd u TM_EVENT).getLsbD 6 = true) ∧
          (flag s TM_STATUS_INS_ALARM = false → flag u TM_STATUS_INS_ALARM = true → (rd u TM_EVENT).getLsbD 5 = true ∧
            (on s dBBOX = true → u.fc.inbox = s.fc.inbox ++ [(28, { kind := 0x3D, sev := 2, src := 0xC00C, ctx := BitVec.ofNat 32 (k + (if m < 10 then 65536 else 0)) })]))))))

/-- R613, R615-R619: the rows of energy accounting and of the lamps. -/
def Obligations.EnergyIsKeptAndLampsAreShown : Prop := ∀ (s : State),
  (∀ p, on s dPPATH = true → p = (if getF s TM_ENCFG_EN_INT = 0 then 15 else getF s TM_ENCFG_EN_INT) * 60000000000 →
    Completes .energyIngot s fun u => u.now = (s.now / p + 1) * p ∧ u.site = s.site ∧ u.chans = s.chans ∧
      (on s dBBOX = true → u.fc.logq = s.fc.logq ++ [{ itype := 8, time := stamp u, content := energyContent s 0 }])) ∧
  (∀ t x, startedAs s t 0x50 = some x → Completes (.energyRead t) s fun u => getTag u t = some { x with state := .running } ∧
    u.site.en.reads = s.site.en.reads ++ [t] ∧ u.words = s.words ∧ ∀ i, i ≠ t → getTag u i = getTag s i) ∧
  (on s dPPATH = true → Completes .lampEvaluation s fun u => u.now = (s.now / 10000000 + 1) * 10000000 ∧
    WordsBut [LP_COND, LP_STATUS] s u ∧ u = { s with now := u.now, words := u.words, site := { s.site with lamp := u.site.lamp } } ∧
    (∀ c < 15, tabGet (fun _ => 0) u.site.lamp.seen c =
      (if lampTrue (advance s u.now) c then (if tabGet (fun _ => 0) s.site.lamp.seen c = 0 then u.now + 1 else tabGet (fun _ => 0) s.site.lamp.seen c)
        else if u.now < tabGet (fun _ => 0) s.site.lamp.seen c - 1 + 2000000000 then tabGet (fun _ => 0) s.site.lamp.seen c else 0)) ∧
    (∀ c < 15, bitF u LP_COND_COND c = lampInForce u c) ∧ u.site.lamp.chosen = (List.range 4).map (lampChoose u) ∧
    (∀ l < 4, (u.site.lamp.drive.getD l 0, u.site.lamp.from_.getD l 0) = lampDrive s.site.lamp u.now l ∧
      (rd u LP_STATUS).getLsbD l = lampOn u l)) ∧
  (∀ v, on s dPPATH = true → Completes (.lampTest v) s fun u =>
    u.site = { s.site with lamp := { s.site.lamp with testEnd := some (s.now + 2000000000) } } ∧ u.now = s.now ∧
    WordsBut [LP_CTRL, LP_COND, LP_STATUS] s u ∧ (∀ l < 4, (rd u LP_STATUS).getLsbD l = true) ∧
    flag u LP_CTRL_LOCK = (flag s LP_CTRL_LOCK || v.getLsbD 31) ∧
    getF u LP_CTRL_LAMP_EN = (if flag s LP_CTRL_LOCK then getF s LP_CTRL_LAMP_EN else bits v 0 4)) ∧
  (∀ t, on s dPPATH = true → s.site.lamp.testEnd = some t → Completes .lampTestEnd s fun u => u.now = max s.now t ∧
    u.site = { s.site with lamp := { s.site.lamp with testEnd := none } } ∧ WordsBut [LP_COND, LP_STATUS] s u ∧
    ∀ l < 4, (rd u LP_STATUS).getLsbD l = lampOn u l) ∧
  (on s dPPATH = false → ∀ a v j w c, ∀ i ∈ [Instr.tamperReport, .tamperClear w, .removalDeclared c, .refit c, .shuntCheckWindow,
    .insulationHalfPeriod a v j, .energyIngot, .lampEvaluation, .lampTest w, .lampTestEnd], Completes i s fun u => u = s)

/-- R451-R455, R459, R460, R463, R466: I2C address, byte and stretch rows. -/
def Obligations.ThePortServesItsWindow : Prop := ∀ (s : State) (m : Port), m = s.mp →
  (∀ addr r, Completes (.i2cAddress addr r) s fun u =>
    (s.pw.aon = true → s.pw.transport ≠ .transport → s.pw.transport ≠ .wake → on s dPPATH = false ∨ flag s GL_MPCFG_EN = true → addr = 0x30 + s.pw.straps →
      u = { s with mp := { m with failed := false, latch := none, txn := if r then .read else .pointer }, out := .i2c true none :: s.out }) ∧
    (s.pw.aon = false ∨ s.pw.transport = .transport ∨ s.pw.transport = .wake ∨ (on s dPPATH = true ∧ flag s GL_MPCFG_EN = false) ∨ addr ≠ 0x30 + s.pw.straps →
      u = { s with mp := { m with failed := false, latch := none, txn := .idle }, out := .i2c false none :: s.out })) ∧
  (∀ b, Completes (.i2cByteWrite b) s fun u =>
    (portAnswers s = false → m.txn ≠ .idle →
      u = { s with mp := { m with latch := none, failed := false, txn := .idle }, out := .i2c false none :: s.out }) ∧
    (portAnswers s = true → m.failed = false → m.txn = .pointer → u = { s with mp := { m with pointer := b.toNat, txn := .write }, out := .i2c true none :: s.out }) ∧
    (portAnswers s = true → m.failed = false → m.txn = .write → u = { s with mp := u.mp, out := .i2c true none :: s.out } ∧ u.mp.pointer = nextPointer m.pointer ∧
      (m.pointer < 0x84 → (∀ o, tabGet (fun _ => none) u.mp.staged o = if o = m.pointer then some b else tabGet (fun _ => none) m.staged o) ∧
        u.mp.err = m.err) ∧
      (0x84 ≤ m.pointer → u.mp.staged = m.staged) ∧
      (m.pointer = 0x85 → ∀ i, u.mp.err.testBit i = (m.err.testBit i && !(decide (2 ≤ i ∧ i < 8) && b.getLsbD i))) ∧
      (0x85 < m.pointer ∨ m.pointer = 0x84 → u.mp.err = m.err)) ∧
    (portAnswers s = true → m.failed = true → m.txn = .pointer ∨ m.txn = .write → u = { s with out := .i2c false none :: s.out }) ∧
    (m.txn = .idle ∨ (m.txn = .read ∧ portAnswers s = true) → u = s)) ∧
  (∀ nack o r, o = m.pointer → r = xfer s hubFabric 3 rqMgmt 4 → Completes (.i2cByteRead nack) s fun u =>
    (m.txn ≠ .read → u = s) ∧
    (m.txn = .read → portAnswers s = false →
      u = { s with mp := { m with latch := none, failed := false, txn := .idle }, out := .i2c false none :: s.out }) ∧
    (m.txn = .read → portAnswers s = true → u.mp.txn = (if nack then .idle else .read) ∧ u.mp.pointer = nextPointer o ∧ u.mp.page = m.page ∧ u.mp.staged = m.staged ∧
      (m.failed = true → u = { s with mp := { m with pointer := nextPointer o, txn := if nack then .idle else .read }, out := .i2c true (some 0xFF) :: s.out }) ∧
      (m.failed = false → 0x80 ≤ o → u = { s with mp := { m with pointer := nextPointer o, txn := if nack then .idle else .read }, out := .i2c true (some (byteOf (fixedWord s (o / 4 * 4)) (o % 4))) :: s.out }) ∧
      (∀ w, m.failed = false → o < 0x80 → o % 4 ≠ 0 → m.latch = some (o / 4, w) →
        u = { s with mp := { m with pointer := nextPointer o, txn := if nack then .idle else .read }, out := .i2c true (some (byteOf w (o % 4))) :: s.out }) ∧
      (m.failed = false → o < 0x80 → o % 4 = 0 ∨ (∀ w, m.latch ≠ some (o / 4, w)) →
        (m.pagedOk = false ∨ (m.page.getLsbD 31 = true ∧ on s dPPATH = true ∧ flag s GL_MPCFG_BAR2_EN = false) →
          u = { s with mp := { m with pointer := nextPointer o, txn := if nack then .idle else .read, err := m.err ||| 4, latch := some (o / 4, 0) }, out := .i2c true (some 0) :: s.out }) ∧
        (m.pagedOk = true → m.page.getLsbD 31 = true → on s dPPATH = false ∨ flag s GL_MPCFG_BAR2_EN = true →
          ∀ w, w = viewTable r (bits m.page 0 20 * 0x80 + o / 4 * 4) →
            u = { r with mp := { m with pointer := nextPointer o, txn := if nack then .idle else .read, latch := some (o / 4, w) }, out := .i2c true (some (byteOf w (o % 4))) :: s.out }) ∧
        (m.pagedOk = true → m.page.getLsbD 31 = false → bits m.page 0 20 * 0x80 + o / 4 * 4 ≠ CK_TIME_LO →
          ∀ w, w = viewReg r (bits m.page 0 20 * 0x80 + o / 4 * 4) →
            u = { r with mp := { m with pointer := nextPointer o, txn := if nack then .idle else .read, latch := some (o / 4, w) }, out := .i2c true (some (byteOf w (o % 4))) :: s.out }) ∧
        (m.pagedOk = true → m.page.getLsbD 31 = false → on s dPPATH = true → bits m.page 0 20 * 0x80 + o / 4 * 4 = CK_TIME_LO →
          u.mp.latch = some (o / 4, lo32 (stamp s)) ∧ u.pw.latchedTimeHi = hi32 (stamp s) ∧ rd u CK_TIME_HI = hi32 (stamp s))))) ∧
  ((m.txn = .idle → Completes .i2cStretchTimeout s fun u => u = s) ∧
    (m.txn ≠ .idle → Completes .i2cStretchTimeout s fun u => u.mp = { m with failed := true, err := m.err ||| 0x20 } ∧
      u = { s with mp := u.mp, words := u.words } ∧ WordsBut [GL_MPSTAT] s u ∧
      (on s dPPATH = true → getF u GL_MPSTAT_STRETCH_TO = satTo 255 (getF s GL_MPSTAT_STRETCH_TO + 1)))) ∧
  (∀ p, nextPointer p = (if p = 0x7F then 0 else if p = 0xFF then 0x80 else p + 1))

/-- R456-R458, R461-R463: the rows that end a transaction or change the port's state. Log entry 37. -/
def Obligations.GroupsCommitAtTheStop : Prop := ∀ (s : State) (m p : Port), m = s.mp →
  p = { m with staged := [], txn := .idle, latch := none, failed := false } →
  (s.pw.aon = true → m.state ≠ .recovery →
    (m.staged = [] → Completes .i2cStop s fun u => u = { s with mp := p }) ∧
    (∀ k b0 b1 b2 b3 a w, k < 32 → m.staged = [(4 * k, some b0), (4 * k + 1, some b1), (4 * k + 2, some b2), (4 * k + 3, some b3)] →
      a = bits m.page 0 20 * 0x80 + 4 * k → w = bytesWord [b0, b1, b2, b3] →
      (m.pagedOk = true → m.page.getLsbD 31 = false → on s dPPATH = false ∨ flag s GL_MPCFG_WR_EN = true → a < 0x10000 ∨ 0x20000 ≤ a →
        a ≠ GL_MPCFG → a < 0x400000 → Completes .i2cStop s fun u => u = regWrite (xfer { s with mp := p } hubFabric 3 rqMgmt 4) a w) ∧
      (m.pagedOk = true → m.page.getLsbD 31 = true ∨ (on s dPPATH = true ∧ flag s GL_MPCFG_WR_EN = false) ∨ (0x10000 ≤ a ∧ a < 0x20000) ∨
        a = GL_MPCFG → Completes .i2cStop s fun u => u = { s with mp := { p with err := m.err ||| 8 } }) ∧
      (m.pagedOk = false → Completes .i2cStop s fun u => u.mp = { p with err := m.err ||| 0x40 ||| 4 } ∧ u = { s with mp := u.mp, words := u.words } ∧
        WordsBut [GL_MPSTAT] s u)) ∧
    (∀ b0 b1 b2 b3, m.staged = [(0x80, some b0), (0x81, some b1), (0x82, some b2), (0x83, some b3)] →
      Completes .i2cStop s fun u => u = { s with mp := { p with page := bytesWord [b0, b1, b2, b3] &&& 0x800FFFFF } }) ∧
    (∀ k b0 b1 b2, k ≤ 32 → m.staged = [(4 * k, some b0), (4 * k + 1, some b1), (4 * k + 2, some b2)] ∨
      m.staged = [(4 * k, some b0), (4 * k + 1, some b1)] ∨ m.staged = [(4 * k, some b0)] →
      Completes .i2cStop s fun u => u.mp = { p with err := m.err ||| 0x40 } ∧ u = { s with mp := u.mp, words := u.words } ∧
        WordsBut [GL_MPSTAT] s u ∧ (on s dPPATH = true → getF u GL_MPSTAT_DISCARDS = satTo 255 (getF s GL_MPSTAT_DISCARDS + 1)))) ∧
  (Completes .i2cRepeatedStart s fun u => u = { s with mp := { p with staged := m.staged } }) ∧
  (s.pw.aon = true → ∀ stop, stop = false ∨ m.state ≠ .recovery → Completes (.i2cFrameError stop) s fun u =>
    u.mp = { p with err := (if m.staged = [] then m.err else m.err ||| 0x40) ||| 0x80 } ∧ u = { s with mp := u.mp, words := u.words } ∧
    WordsBut [GL_MPSTAT] s u ∧ (on s dPPATH = true → getF u GL_MPSTAT_FRAME_ERRS = satTo 255 (getF s GL_MPSTAT_FRAME_ERRS + 1) ∧
      (m.staged ≠ [] → getF u GL_MPSTAT_DISCARDS = satTo 255 (getF s GL_MPSTAT_DISCARDS + 1)))) ∧
  (s.pw.aon = true → Completes .i2cBusClear s fun u =>
    u.mp = { p with err := (if m.staged = [] then m.err else m.err ||| 0x40) ||| 0x10, state := .recovery } ∧
    u = { s with mp := u.mp, words := u.words } ∧ WordsBut [GL_MPSTAT] s u ∧
    (on s dPPATH = true → getF u GL_MPSTAT_BUS_CLEARS = satTo 255 (getF s GL_MPSTAT_BUS_CLEARS + 1))) ∧
  (s.pw.aon = false → ∀ i ∈ [Instr.i2cStop, .i2cFrameError true, .i2cFrameError false, .i2cBusClear], Completes i s fun u => u = s) ∧
  (∀ (st : PortState) (q : Bool), (st, q) = (if s.atst.boundary then (.test, false) else if on s dPPATH && s.pw.done.testBit 4 then (.run, true) else (.startup, false)) →
    (m.state = .recovery → s.pw.aon = true → m.staged = [] → Completes .i2cStop s fun u => u = { s with mp := { p with state := st, pagedOk := q } }) ∧
    (m.state = .recovery → Completes .i2cRecoveryEnd s fun u => u = { s with mp := { m with state := st, pagedOk := q } }) ∧
    (m.state ≠ .recovery → Completes .i2cRecoveryEnd s fun u => u = s)) ∧
  (m.state = .startup → on s dPPATH = true → s.pw.done.testBit 4 = true → s.pw.transport ≠ .transport → s.pw.transport ≠ .wake →
    Completes .mpPortReady s fun u => u = { s with mp := { m with state := .run, pagedOk := true } }) ∧
  (m.state ≠ .startup ∨ on s dPPATH = false ∨ s.pw.done.testBit 4 = false ∨ s.pw.transport = .transport ∨ s.pw.transport = .wake →
    Completes .mpPortReady s fun u => u = s) ∧
  (Completes .boundaryAccessStart s fun u => u = { s with atst := { s.atst with boundary := true }, mp := u.mp } ∧
    u.mp = (if m.state = .run then { m with state := .test, pagedOk := false } else m)) ∧
  (Completes .boundaryAccessEnd s fun u => u = { s with atst := { s.atst with boundary := false }, mp := u.mp } ∧
    (m.state ≠ .test → u.mp = m) ∧
    (m.state = .test → u.mp = { m with state := if on s dPPATH && s.pw.done.testBit 4 then .run else .startup, pagedOk := on s dPPATH && s.pw.done.testBit 4 }))

/-- R17-R21, R367, R370, R383, R477, R589, R641, R643: REGISTER_WRITE and CFG_GEN_WRITE. That `bar` 6 stands for configuration space, and
where its dwords lie, is the model's (log 96). -/
def Obligations.RegisterWritesFollowAccessTypes : Prop := ∀ (s : State) (v same : Word),
  (∀ bar ofs be, on s dHOSTIF = false ∨ (bar ≠ 6 ∧ be ≠ 15) ∨ ofs % 4 ≠ 0 ∨ (bar ≠ 0 ∧ bar ≠ 4 ∧ bar ≠ 6) →
    Completes (.registerWrite bar ofs v be same) s fun u => u = s) ∧
  (on s dHOSTIF = true → ∀ a, a % 4 = 0 →
    (plainOffset a = true → Completes (.registerWrite 0 a v 15 same) s fun u => Written a v same s u) ∧
    (0x41000 ≤ a → a < 0x42000 → a ∉ [FC_EVENT, FC_REPLACE, FC_RHOLD, FC_UNPIN, FC_INJKEY] →
      Completes (.registerWrite 0 a v 15 same) s fun u => ∃ w, AccessWritten a v same s w ∧ u = noteCfg s (updConditions w)) ∧
    (0x50000 ≤ a → a < 0x51000 → a ≠ TRC_CTRL → Completes (.registerWrite 0 a v 15 same) s fun u =>
      (flag s TRC_CTRL_HOST_EN = true → a ∈ [TRC_HBASE_LO, TRC_HBASE_HI, TRC_HCFG] → u = s) ∧
      (flag s TRC_CTRL_HOST_EN = false ∨ a ∉ [TRC_HBASE_LO, TRC_HBASE_HI, TRC_HCFG] → ∃ w, AccessWritten a v same s w ∧ u = noteCfg s (updStall w))) ∧
    (a = TM_SHCHK → Completes (.registerWrite 0 a v 15 same) s fun u => ∃ w, AccessWritten a v same s w ∧
      u = noteCfg s { w with site := { w.site with shc := if getF w TM_SHCHK_R_STAGE = getF s TM_SHCHK_R_STAGE then s.site.shc else
        (s.site.shc.map (fun e => (e.1, ({ run := e.2.run } : ShuntCheck)))).filter (fun e => e.2 != {}) } }) ∧
    (a = PP_CTRL → Completes (.registerWrite 0 a v 15 same) s fun u => ∃ w, AccessWritten a v same s w ∧
      u = noteCfg s (if on s dPPATH = true ∧ v.getLsbD 3 = true then safeExit w else w)) ∧
    (∀ k i, i < ringCount k → (a = ringCfg k i - 8 ∨ a = ringCfg k i - 4) → Completes (.registerWrite 0 a v 15 same) s fun u =>
      (cfgWritable s k i = true → Written a v same s u) ∧ (cfgWritable s k i = false → u = s))) ∧
  (on s dHOSTIF = true → ∀ w, w = WriteGives v same s →
    w CK_PDREQ (updConditions (pdreqWrite s v)) ∧ w HI_CTRL (hiCtrlWrite s v) ∧ w PP_PRIORITY (ppPriorityWrite s v) ∧ w SV_CTRL (svCtrlWrite s v) ∧
    w HI_TAGS (if v.getLsbD 31 then setF s HI_TAGS_TAG_PEAK (allTags s).length else s) ∧
    w HI_ORPHAN (if v.getLsbD 0 then setFlag s HI_STATUS_ORPH_PEND false else s) ∧
    w PP_ARM (if bits v 0 2 = 1 then ppArm s else if bits v 0 2 = 2 then ppDisarm s else s) ∧
    (∀ k i, i < ringCount k → w (ringCfg k i) (ringCfgWrite s k i v)) ∧
    (∀ n < 8, w (PP_TLCFG n) (tlLegWrite s n v) ∧ w (TL_CFG n) (tlCfgWrite s n v) ∧ w (TL_CCTRL n) (tlCctrlWrite s n v) ∧
      w (TL_REVREQ n) (tlRevreqWrite s n v)) ∧
    (∀ n < 4, (∀ j < 4, w (0x21000 + 0x40 * n + 4 * j) (spConfigWrite s n j v)) ∧
      w (SP_CMD n) (if on s dPPATH then (if v.getLsbD 0 then searchRestart s n else if v.getLsbD 1 then reprobe s n else s) else s)) ∧
    w WD_CTRL (wdCtrlWrite s v) ∧ w WD_PERIOD (wdPeriodWrite s v) ∧ w WD_KEY (wdKeyWrite s v) ∧
    w FC_EVENT (fcEventWrite s (notSame FC_EVENT v same)) ∧ w FC_REPLACE (if on s dBBOX then replaceWrite s (notSame FC_REPLACE v same) else s) ∧ w FC_RHOLD (updConditions (rholdWrite s v)) ∧
    w FC_UNPIN (unpin s v.toNat) ∧ w FC_INJKEY (if on s dBBOX = true ∧ flag s FC_CTRL_LOCK = false then { s with fc := { s.fc with key := v } } else s) ∧
    w TRC_CTRL (trcCtrlWrite s v) ∧ w TM_TAMPCFG (tampCfgWrite s v) ∧ w TM_INSCFG (insCfgWrite s v) ∧ w LP_CTRL (lpCtrlWrite s v) ∧
    w TM_TAMPLAT (tampClear s (notSame TM_TAMPLAT v same)) ∧ w GL_CFGGEN (cfgGenWrite s v) ∧ w WD_ANSWER (wdAnswer s v) ∧
    (v.getLsbD 8 = true → exec (.registerWrite 0 LP_CTRL v 15 same) s = exec (.lampTest v) s)) ∧
  (on s dHOSTIF = true → ∀ ofs be, ofs % 4 = 0 →
    (ofs = 0x44 → be.testBit 0 = true → bits v 0 2 = 3 → s.hi.linkUp = true →
      Completes (.registerWrite 6 ofs v be same) s fun u => u = { s with hi := { s.hi with d3hot := true } }) ∧
    (ofs = 0x44 → be.testBit 0 = true → bits v 0 2 = 0 → s.hi.d3hot = true →
      Completes (.registerWrite 6 ofs v be same) s fun u => u = hostReset s .d3ToD0) ∧
    (ofs = 0x58 → be.testBit 1 = true → v.getLsbD 15 = true → Completes (.registerWrite 6 ofs v be same) s fun u => u = hostReset s .flr) ∧
    (ofs ≠ 0x44 → (∀ r ∈ cfgRows, r.1 ≠ ofs) → Completes (.registerWrite 6 ofs v be same) s fun u => u = s) ∧
    (∀ r ∈ cfgRows, r.1 = ofs → ofs ≠ 0x44 → (ofs ≠ 0x58 ∨ be.testBit 1 = false ∨ v.getLsbD 15 = false) →
      Completes (.registerWrite 6 ofs v be same) s fun u => cfgWord u ofs =
        (cfgWord s ofs &&& ~~~(BitVec.ofNat 32 r.2.1 &&& byteMask be)) ||| (v &&& (BitVec.ofNat 32 r.2.1 &&& byteMask be)) ∧
        (∀ o, o ≠ ofs → cfgWord u o = cfgWord s o) ∧
        u = { s with hi := { s.hi with cfg := u.hi.cfg }, words := u.words, out := u.out } ∧ (ofs ≠ 0x90 → u.words = s.words ∧ u.out = s.out))) ∧
  (on s dHOSTIF = true → on s dPPATH = true →
    (bits v 0 16 = 0xD0A5 → Completes (.registerWrite 0 CK_RESET v 15 same) s fun u => u = { s with pw := { s.pw with resetKey := some s.now } }) ∧
    (bits v 0 16 ≠ 0xD0A5 → s.pw.resetKey = none → Completes (.registerWrite 0 CK_RESET v 15 same) s fun u => u = s) ∧
    (∀ t, bits v 0 16 ≠ 0xD0A5 → s.pw.resetKey = some t → Completes (.registerWrite 0 CK_RESET v 15 same) s fun u =>
      (bits v 0 16 = 0x5A0D → s.now ≤ t + 1000000 → u = { s with pw := { s.pw with resetKey := none, resetDue := some (s.now + 10000) } }) ∧
      (bits v 0 16 ≠ 0x5A0D ∨ t + 1000000 < s.now → u = { s with pw := { s.pw with resetKey := none } }))) ∧
  (on s dHOSTIF = true → on s dPPATH = false → Completes (.registerWrite 0 CK_RESET v 15 same) s fun u => u = s) ∧
  (on s dHOSTIF = true → ∀ o, o % 4 = 0 →
    (∀ n < 16, o = 0x400 * n → exec (.registerWrite 4 o v 15 same) s = exec (.dbSqTail n v.toNat) s) ∧
    (∀ n < 16, o = 0x400 * n + 4 → exec (.registerWrite 4 o v 15 same) s = exec (.dbCqHead n v.toNat) s) ∧
    (∀ n < 4, o = 0x4000 + 0x10 * n → exec (.registerWrite 4 o v 15 same) s = exec (.dbEvHead n v.toNat) s) ∧
    (∀ n < 64, ∀ j < 4, o = 0x8000 + 16 * n + 4 * j → ∀ t, t = wr s (bar4 + o) (v &&& (if j = 0 then 0xFFFFFFFC else if j = 3 then 1 else 0xFFFFFFFF)) →
      Completes (.registerWrite 4 o v 15 same) s fun u =>
        (j = 3 → v.getLsbD 0 = false → (rd s (bar4 + 0xC000 + 4 * (n / 32))).getLsbD (n % 32) = true →
          s.hi.d3hot = false → s.hi.resetting = false → msixEnabled s = true → msixMasked s = false →
          u = { setF t ⟨bar4 + 0xC000 + 4 * (n / 32), n % 32, 1⟩ 0 with out := .msix n :: s.out }) ∧
        (j ≠ 3 ∨ v.getLsbD 0 = true ∨ (rd s (bar4 + 0xC000 + 4 * (n / 32))).getLsbD (n % 32) = false → u = t)) ∧
    ((o < 0x4000 ∧ o % 0x400 ≠ 0 ∧ o % 0x400 ≠ 4) ∨ (0x4000 ≤ o ∧ o < 0x4040 ∧ o % 0x10 ≠ 0) ∨ (0x4040 ≤ o ∧ o < 0x8000) ∨ 0x8400 ≤ o →
      Completes (.registerWrite 4 o v 15 same) s fun u => u = s)) ∧
  (on s dPPATH = true → Completes (.cfgGenWrite v) s fun u => u.now = (s.now / 1000 + 4) * 1000 ∧ rd u GL_CFGGEN = v ∧
    WordsBut [GL_CFGGEN] s u ∧ u = { s with now := u.now, words := u.words, fw := u.fw } ∧ (rd s GL_CFGGEN = v → u.fw = s.fw) ∧
    (rd s GL_CFGGEN ≠ v → ∀ p, p ≤ s.part.regions → (digPart u p).hit = true)) ∧
  (on s dPPATH = false → Completes (.cfgGenWrite v) s fun u => u = s)

/-- R294, R302-R307, R310, R331, R354: the rows of the attach machine. Log entry 27. -/
def Obligations.TheAttachMachineFollowsItsTable : Prop := ∀ (s : State) (n : Nat),
  (tlOn s n = true → ∀ (a un : Nat) (into held : Nat → Nat → State → Prop), a = astate s n →
    un = (if onBoot s = false ∧ getF s (TL_CFG_PREF n) = 1 then aUNATT_SRC else aUNATT_SNK) →
    (∀ b t u, into b t u ↔ (astate u n = b ∧ (tl u n).since = u.now ∧ u.now = max s.now ((tl s n).since + t * 1000000) ∧ OnlyPort n s u)) →
    (∀ b t u, held b t u ↔ (astate u n = b ∧ (tl u n).since = u.now ∧ u.now = max s.now ((tl s n).seenAt + t * 1000000) ∧ OnlyPort n s u)) →
    (∀ v, flag s (TL_CFG_LOCK n) = false →
      (a = aDISABLED → Completes (.tlEnable n v) s fun u => rd u (TL_CFG n) = (v ||| 1) &&& 0x8000001F ∧
        astate u n = (if onBoot s = false ∧ bits v 2 3 = 1 then aUNATT_SRC else aUNATT_SNK) ∧ (tl u n).since = s.now ∧
        WordsBut [TL_CFG n, TL_ATTACH n] s u ∧ OnlyPort n s u) ∧
      (a ≠ aDISABLED → Completes (.tlEnable n v) s fun u => rd u (TL_CFG n) = (v ||| 1) &&& 0x8000001F ∧ astate u n = a ∧ OnlyPort n s u) ∧
      (a ≠ aDISABLED → Completes (.tlDisable n v) s fun u => rd u (TL_CFG n) = v &&& 0x8000001E ∧ astate u n = aDISABLED ∧
        flag u (TL_ATTACH_LES_OUT n) = false ∧ u.now = s.now ∧ OnlyPort n s u ∧ (attached s n = true → LeftAttached n s u)) ∧
      (a = aDISABLED → Completes (.tlDisable n v) s fun u => rd u (TL_CFG n) = v &&& 0x8000001E ∧ astate u n = aDISABLED ∧ OnlyPort n s u)) ∧
    (∀ v, flag s (TL_CFG_LOCK n) = true → Completes (.tlEnable n v) s (fun u => rd u (TL_CFG n) = rd s (TL_CFG n)) ∧
      Completes (.tlDisable n v) s fun u => rd u (TL_CFG n) = rd s (TL_CFG n)) ∧
    (∀ mv seen, seen = (if a = aDISABLED ∨ a = aREATTACH ∨ mv < 200 ∨ 2450 < mv then false else if 300 ≤ mv ∧ mv ≤ 1600 then true else (tl s n).seen) →
      Completes (.lcwPartnerSeen n mv) s fun u =>
        getF u (TL_ATTACH_LCW_LVL n) = (if mv < 200 then 0 else if 300 ≤ mv ∧ mv ≤ 1600 then 1 else if 2450 < mv then 2 else 3) ∧
        (tl u n).seen = seen ∧ (tl u n).seenAt = (if a ≠ aDISABLED ∧ a ≠ aREATTACH ∧ seen = (tl s n).seen then (tl s n).seenAt else s.now) ∧ (tl u n).pinLcw = mv ∧ WordsBut [TL_ATTACH n] s u ∧ OnlyPort n s u ∧ u.now = s.now ∧
        astate u n = (if seen ∧ a = aUNATT_SNK then aWAIT_SNK else if seen ∧ a = aUNATT_SRC then aWAIT_SRC else a)) ∧
    (dualRole s n = true → a = aUNATT_SNK → Completes (.drpToggle n) s fun u =>
      into (if onBoot s = true ∨ getF s (TL_CFG_PREF n) = 0 ∨ 4 < getF s (TL_CFG_PREF n) then aUNATT_SNK else aUNATT_SRC) 36 u) ∧
    (dualRole s n = true → a = aUNATT_SRC → Completes (.drpToggle n) s fun u => into un 24 u) ∧
    (dualRole s n = false ∨ (a ≠ aUNATT_SNK ∧ a ≠ aUNATT_SRC) → Completes (.drpToggle n) s fun u => u = s) ∧
    ((tl s n).seen = false → Completes (.attachDebounceDone n) s (fun u => u = s) ∧ Completes (.tryPartnerSeen n) s fun u => u = s) ∧
    ((tl s n).seen = true → Completes (.attachwaitLost n) s (fun u => u = s) ∧ Completes (.detach n) s fun u => u = s) ∧
    ((tl s n).seen = true → (a = aWAIT_SNK → effPref s n = 3 → Completes (.attachDebounceDone n) s fun u => held aTRY_SRC 120 u) ∧
    (a = aWAIT_SRC → effPref s n = 4 → Completes (.attachDebounceDone n) s fun u => held aTRY_SNK 120 u) ∧
    ((a = aWAIT_SNK ∧ effPref s n ≠ 3) ∨ a = aTRYWAIT_SNK → Completes (.attachDebounceDone n) s fun u =>
      held aATT_SNK 120 u ∧ AttachedAs n 0 s u) ∧
    ((a = aWAIT_SRC ∧ effPref s n ≠ 4) ∨ a = aTRYWAIT_SRC → Completes (.attachDebounceDone n) s fun u =>
      held aATT_SRC 120 u ∧ AttachedAs n 1 s u ∧
      (flag s (TL_CFG_LES_EN n) = true → s.pw.supply = .aux12 → getF s (TL_LES_LES_STATE n) ≠ 3 →
        ((tl s n).pinLes < 2000 → flag u (TL_ATTACH_LES_OUT n) = true ∧ getF u (TL_LES_LES_STATE n) = 1) ∧
        (2000 ≤ (tl s n).pinLes → getF u (TL_LES_LES_STATE n) = 2 ∧ (rd u (TL_EVENT n)).getLsbD 3 = true)))) ∧
    ((tl s n).seen = false → a = aWAIT_SNK ∨ a = aWAIT_SRC → Completes (.attachwaitLost n) s fun u => held un 10 u ∧ (tl u n).seen = false) ∧
    ((tl s n).seen = true → a = aTRY_SRC → Completes (.tryPartnerSeen n) s fun u => held aATT_SRC 10 u ∧ AttachedAs n 1 s u) ∧
    ((tl s n).seen = true → a = aTRY_SNK → Completes (.tryPartnerSeen n) s fun u => held aATT_SNK 10 u ∧ AttachedAs n 0 s u) ∧
    (a = aTRY_SRC → Completes (.tryTimerExpire n) s fun u => into aTRYWAIT_SNK 80 u) ∧
    (a = aTRY_SNK → Completes (.tryTimerExpire n) s fun u => into (if onBoot s = true then aUNATT_SNK else aTRYWAIT_SRC) 80 u) ∧
    (a = aTRYWAIT_SNK ∨ a = aTRYWAIT_SRC → Completes (.trywaitTimerExpire n) s fun u => into un 500 u) ∧
    (attached s n = true → (tl s n).seen = false → Completes (.detach n) s fun u => held un 10 u ∧ LeftAttached n s u ∧
      (tl u n).seen = false ∧ ((∃ c, (tl s n).cur = some c ∧ c.sent.isSome = true) →
        (rd u (TL_EVENT n)).getLsbD 4 = true ∧ getF u (TL_ERRS_TX_FAILS n) = satTo 255 (getF s (TL_ERRS_TX_FAILS n) + 1))) ∧
    (a = aREATTACH → Completes (.reattachTimerExpire n) s fun u => (tl u n).nextPref = none ∧ (tl u n).reatt = false ∧
      ((tl s n).nextPref = none → into un 100 u ∧ getF u (TL_CFG_PREF n) = getF s (TL_CFG_PREF n)) ∧
      (∀ p, (tl s n).nextPref = some p → p < 2 → getF u (TL_CFG_PREF n) = p ∧
        into (if onBoot s = false ∧ p = 1 then aUNATT_SRC else aUNATT_SNK) 100 u))) ∧
  (tlOn s n = false → ∀ v mv, ∀ i ∈ [Instr.tlEnable n v, .tlDisable n v, .lcwPartnerSeen n mv, .drpToggle n, .attachDebounceDone n,
    .attachwaitLost n, .tryPartnerSeen n, .tryTimerExpire n, .trywaitTimerExpire n, .detach n, .reattachTimerExpire n, .lesRetry n,
    .lesOvercurrent n], Completes i s fun u => u = s)

/-- R93, R298, R300, R337, R346: LES_RETRY, LES_OVERCURRENT, TL_LEG_TRIP. -/
def Obligations.LesAndLegProtectionsAct : Prop := ∀ (s : State) (n : Nat),
  (tlOn s n = true → getF s (TL_LES_LES_STATE n) = 2 →
    (lesWanted s n = true → Completes (.lesRetry n) s fun u =>
      u.now = max s.now (tl s n).lesRetry ∧ OnlyPort n s u ∧
      ((tl s n).pinLes < 2000 → flag u (TL_ATTACH_LES_OUT n) = true ∧ getF u (TL_LES_LES_STATE n) = 1) ∧
      (2000 ≤ (tl s n).pinLes → getF u (TL_LES_LES_STATE n) = 2 ∧ (rd u (TL_EVENT n)).getLsbD 3 = true ∧
        (tl u n).lesRetry = u.now + 1000000000)) ∧
    (lesWanted s n = false → Completes (.lesRetry n) s fun u => u.now = max s.now (tl s n).lesRetry ∧
      getF u (TL_LES_LES_STATE n) = 0 ∧ flag u (TL_ATTACH_LES_OUT n) = false ∧ OnlyPort n s u)) ∧
  (tlOn s n = true → getF s (TL_LES_LES_STATE n) ≠ 2 → Completes (.lesRetry n) s fun u => u = s) ∧
  (tlOn s n = true → flag s (TL_ATTACH_LES_OUT n) = false → Completes (.lesOvercurrent n) s fun u => u = s) ∧
  (∀ l, tlOn s n = true → flag s (TL_ATTACH_LES_OUT n) = true → l = s.now :: (tl s n).lesFaults.filter (fun t => decide (s.now < t + 30000000000)) →
    Completes (.lesOvercurrent n) s fun u => flag u (TL_ATTACH_LES_OUT n) = false ∧ u.now = s.now ∧ OnlyPort n s u ∧
      (tl u n).lesFaults = l ∧ (tl u n).lesRetry = s.now + 1000000000 ∧ getF u (TL_LES_LES_FAULTS n) = satTo 15 l.length ∧
      getF u (TL_LES_LES_STATE n) = (if 4 ≤ l.length then 3 else 2) ∧ (rd u (TL_EVENT n)).getLsbD 2 = true ∧
      (on s dBBOX = true → u.fc.inbox = s.fc.inbox ++
        [(32 + n, { kind := 0x32, sev := 1, src := 0xC010 + n, ctx := BitVec.ofNat 32 (satTo 15 l.length) })])) ∧
  (∀ p t l, on s dPPATH = true → n < 8 → getF s (PP_TLSTAT_DIR n) ≠ 0 →
    (p % 3 = 0 ∧ t = s.now ∧ ((getF s (PP_TLSTAT_DIR n) = 1 ∧ (tleg s n).i < -100) ∨ (getF s (PP_TLSTAT_DIR n) = 2 ∧ 100 < (tleg s n).i))) ∨
      (∃ b, p % 3 = 1 ∧ (tleg s n).vSince = some b ∧ t = b + 100000) ∨ (∃ b, p % 3 = 2 ∧ (tleg s n).iSince = some b ∧ t = b + 100000) →
    l = max s.now t :: (tl s n).trips.filter (fun b => decide (max s.now t < b + 600000000000)) → Completes (.tlLegTrip n p) s fun u =>
      rd u (TL_CONTRACT n) = 0 ∧ getF u (PP_TLSTAT_DIR n) = 0 ∧ flag u (PP_TLSTAT_TRIPPED n) = true ∧ u.now = max s.now t ∧ OnlyPort n s u ∧
      (rd u PP_EVENT).getLsbD 10 = true ∧ (rd s (TL_CONTRACT n) ≠ 0 → (rd u (TL_CEVENT n)).getLsbD 1 = true) ∧
      (on s dBBOX = true → u.fc.inbox = s.fc.inbox ++
        [(32 + n, { kind := 0x31, sev := 1, src := 0xC010 + n, ctx := BitVec.ofNat 32 (p % 3) })]) ∧
      (isSnk s n = false → (tl u n).trips = (tl s n).trips ∧ (tl u n).tripDue = (tl s n).tripDue) ∧
      (isSnk s n = true → (tl u n).trips = l ∧ (tl u n).tripDue = some (u.now + 10000000000) ∧
        flag u (TL_CSTATE_TRIP_LOCK n) = (flag s (TL_CSTATE_TRIP_LOCK n) || decide (3 ≤ l.length)) ∧
        (flag s (TL_CSTATE_TRIP_LOCK n) = false → 3 ≤ l.length → (rd u (TL_CEVENT n)).getLsbD 12 = true))) ∧
  (∀ p, on s dPPATH = false ∨ 8 ≤ n ∨ getF s (PP_TLSTAT_DIR n) = 0 ∨ (p % 3 = 1 ∧ (tleg s n).vSince = none) ∨ (p % 3 = 2 ∧ (tleg s n).iSince = none) ∨
    (p % 3 = 0 ∧ getF s (PP_TLSTAT_DIR n) = 1 ∧ -100 ≤ (tleg s n).i) ∨ (p % 3 = 0 ∧ getF s (PP_TLSTAT_DIR n) = 2 ∧ (tleg s n).i ≤ 100) → Completes (.tlLegTrip n p) s fun u => u = s)

/-- R314, R317, R321-R323, R325, R326, R328, R329, R345, R356: the packet engine's own rows. -/
def Obligations.PacketsAreSentAcknowledgedAndRetried : Prop := ∀ (s : State) (n : Nat) (x : TlPort) (back : Nat), x = tl s n →
  back = (if isSrc s n then 400000 else 900000) →
  (tlOn s n = true → attached s n = true →
    (x.sending ≠ 0 ∨ (∃ t, x.backoff = some (t, 1)) ∨ (x.good = none ∧ x.backoff ≠ none) → Completes (.packetTxStart n) s fun u => u = s) ∧
    (x.sending = 0 → (x.good ≠ none ∧ ∀ t, x.backoff ≠ some (t, 1)) ∨ x.backoff = none → Completes (.packetTxStart n) s fun u => Starts n s u) ∧
    (x.sending = 0 → Completes (.packetTxDone n) s fun u => u = s) ∧
    (∀ q hdr runs, x.sending = 1 → x.good = some q → hdr = header s n mGOODCRC 0 q → runs = packetRuns [hdr, crc32 (wordsBytes [hdr])] →
      Completes (.packetTxDone n) s fun u =>
        u.now = max s.now (x.txAt + 468000) ∧ tl u n = { x with
          sending := 0, lineAt := u.now, good := none, rxHigh := endsHigh runs, rxWait := false, backoff := x.backoff.map (fun b => (u.now + back, b.2)) } ∧
        u.out = .packet n hdr [] (crc32 (wordsBytes [hdr])) (lineWave 2000 runs) :: s.out ∧ OnlyPort n s u) ∧
    (∀ c objs hdr crc runs, x.sending = 2 → x.cur = some c →
      (hdr, objs) = (match c.sent with
        | some p => p
        | none => (header s n c.msg.typ (objsSent c.msg (stampAt s (x.txAt + 204000))).length c.seq, objsSent c.msg (stampAt s (x.txAt + 204000)))) →
      crc = crc32 (wordsBytes (hdr :: objs)) → runs = packetRuns (hdr :: objs ++ [crc]) → Completes (.packetTxDone n) s fun u =>
        u.now = max s.now (x.txAt + (468 + 128 * objs.length) * 1000) ∧ OnlyPort n s u ∧ u.out = .packet n hdr objs crc (lineWave 2000 runs) :: s.out ∧
        (c.msg.act ≠ .swapDone ∨ x.swap ≠ some .newDone → tl u n = { x with
          sending := 0, lineAt := u.now, rxHigh := endsHigh runs, rxWait := false, backoff := x.backoff.map (fun b => (u.now + back, b.2))
          cur := some { c with ackDue := some (u.now + 1500000), sent := some (hdr, objs) }
          kaAt := if isSnk s n = true ∧ c.msg.typ = mREQUEST ∧ equalsDc s n (objs.headD 0) = true then u.now else x.kaAt
          syncT1 := if c.msg.act = .syncReq then stampAt s (x.txAt + 204000) else x.syncT1 }) ∧
        (c.msg.act = .swapDone → x.swap = some .newDone → (tl u n).sending = 0 ∧ (tl u n).swap = none ∧ lrole u n = 1 ∧
          (tl u n).cur = some { c with ackDue := some (u.now + 1500000), sent := some (hdr, objs) } ∧ (rd u (TL_CEVENT n)).getLsbD 6 = true)) ∧
    (∀ tfn bytes h crc, x.sending = 3 → (tfn, bytes) = (match x.tun.frame with
        | some f => (f.tfn, if f.ackDue = none then f.bytes else [])
        | none => ((x.tun.next + 255) % 256, [])) →
      h = BitVec.ofNat 32 (tfn % 256 * 2 ^ 24 + x.tun.tack % 256 * 2 ^ 16 + bytes.length) → crc = crc32 (wordBytes h ++ bytes) →
      Completes (.packetTxDone n) s fun u =>
        u.now = max s.now (x.txAt + (101 + 8 * bytes.length) * 1000) ∧ (tl u n).sending = 0 ∧
        u.out = .tunnel n h bytes crc (lineWave 500 (tunnelRuns h bytes crc)) :: s.out ∧ OnlyPort n s u ∧
        (tl u n).tun.ackOwed = false ∧ (tl u n).tun.waiting = x.tun.waiting ∧
        (∀ f, x.tun.frame = some f → (tl u n).tun.frame = some { f with ackDue := f.ackDue <|> some (u.now + 1000000) })) ∧
    (∀ line runs half dr, runs = (lineOut s n).1 → half = (lineOut s n).2 → dr = halfBits true runs →
      (x.sending = 0 → Completes (.txCollision n line) s fun u => u = s) ∧
      (x.sending ≠ 0 → (∀ j, j + 1 < dr.length → j + 1 < line.length → dr[j]? ≠ (line)[j]? → dr[j + 1]? = (line)[j + 1]?) →
        Completes (.txCollision n line) s fun u => u = s) ∧
      (∀ k m, x.sending ≠ 0 → k + 1 < dr.length → k + 1 < line.length → dr[k]? ≠ (line)[k]? → dr[k + 1]? ≠ (line)[k + 1]? →
        (∀ j < k, dr[j]? ≠ (line)[j]? → dr[j + 1]? = (line)[j + 1]?) → m = max s.now (x.txAt + (k + 1) * half + half / 2) →
        Completes (.txCollision n line) s fun u =>
          u = setTl { s with now := m } n { x with sending := 0, lineAt := m, backoff := some (m + back, x.sending) })) ∧
    (x.backoff = none ∨ x.sending ≠ 0 → Completes (.collisionBackoffEnd n) s fun u => u = s) ∧
    (∀ t k, x.sending = 0 → x.backoff = some (t, k) → Completes (.collisionBackoffEnd n) s fun u =>
      Starts n (setTl { s with now := max s.now t } n { x with backoff := none }) u) ∧
    (∀ r rest, Delivered n mGOODCRC r rest s →
      (∀ c, x.cur = some c → c.ackDue ≠ none → hSeq r.hdr = c.seq →
        (c.msg.act = .none → c.msg.typ ≠ mSOFT_RESET → x.own = none → Completes (.goodcrc n) s fun u =>
          u = setTl s n { x with inbox := rest, cur := none, txSeq := (c.seq + 1) % 16 }) ∧
        (∀ t y, c.msg.act = .vendor t → x.own = none → getTag s t = some y → y.state ≠ .done → Completes (.goodcrc n) s fun u => Ended t stSUCCESS 0 0 u ∧
          tl u n = { x with inbox := rest, cur := none, txSeq := (c.seq + 1) % 16 }) ∧
        (c.msg.act = .none → (x.own = some .request ∧ c.msg.typ = mREQUEST) ∨ (x.own = some .getCaps ∧ c.msg.typ = mGET_CAPS) ∨
            (x.own = some .lesSwap ∧ c.msg.typ = mLES_SWAP) ∨ (x.own = some .reattach ∧ c.msg.typ = mREATTACH) → Completes (.goodcrc n) s fun u =>
          u = setTl s n { x with inbox := rest, cur := none, txSeq := (c.seq + 1) % 16, ownDue := some (s.now + 30000000) })) ∧
      (x.cur = none ∨ (∀ c, x.cur = some c → hSeq r.hdr ≠ c.seq ∨ c.ackDue = none) → Completes (.goodcrc n) s fun u =>
        u = setTl s n { x with inbox := rest })) ∧
    (∀ c d, x.cur = some c → c.ackDue = some d →
      (c.tries < 2 → Completes (.ackTimeout n) s fun u =>
        u = setTl { s with now := max s.now d } n { x with cur := some { c with tries := c.tries + 1, ackDue := none } }) ∧
      (2 ≤ c.tries → Completes (.ackTimeout n) s fun u => u.now = max s.now d ∧ (tl u n).cur = none ∧
        getF u (TL_ERRS_TX_FAILS n) = satTo 255 (getF s (TL_ERRS_TX_FAILS n) + 1) ∧ (rd u (TL_EVENT n)).getLsbD 4 = true ∧
        (c.msg.typ ≠ mSOFT_RESET → (tl u n).answers = [{ typ := mSOFT_RESET, objs := [], act := .none }] ∧ (tl u n).txSeq = 0 ∧
          (tl u n).rxSeq = none ∧ (rd u (TL_EVENT n)).getLsbD 6 = true ∧ astate u n = astate s n) ∧
        (c.msg.typ = mSOFT_RESET → bootSrc s n = true → (tl u n).softRepeat = some (u.now + 1000000000) ∧ astate u n = astate s n) ∧
        (c.msg.typ = mSOFT_RESET → bootSrc s n = false → astate u n = aREATTACH ∧ LeftAttached n s u ∧ (tl u n).nextPref = none))) ∧
    (x.cur = none ∨ (∀ c, x.cur = some c → c.ackDue = none) → Completes (.ackTimeout n) s fun u => u = s) ∧
    (∀ r rest, Delivered n mSOFT_RESET r rest s → Completes (.softReset n) s fun u => (tl u n).txSeq = 0 ∧ (tl u n).rxSeq = none ∧
      (tl u n).cur = none ∧ getF u (TL_CSTATE_MODES n) = 0 ∧ (rd u (TL_EVENT n)).getLsbD 6 = true ∧ astate u n = astate s n ∧
      (isSrc s n = true → (tl u n).heard = false ∧ (tl u n).news = [] ∧ rd u (TL_CONTRACT n) = rd s (TL_CONTRACT n))) ∧
    (Completes (.softResetRepeat n) s fun u => (x.softRepeat = none → u = s) ∧
      (∀ d, x.softRepeat = some d → u.now = max s.now d ∧ (tl u n).softRepeat = none ∧ (tl u n).txSeq = 0 ∧
        (tl u n).answers = [{ typ := mSOFT_RESET, objs := [], act := .none }] ∧ (rd u (TL_EVENT n)).getLsbD 6 = true))) ∧
  (∀ e ∈ [(Instr.goodcrc n, mGOODCRC), (.softReset n, mSOFT_RESET), (.getCaps n, mGET_CAPS), (.caps n, mCAPS), (.ident n, mIDENT),
      (.request n, mREQUEST), (.accept n, mACCEPT), (.reject n, mREJECT), (.wait n, mWAIT), (.notSupported n, mNOT_SUPPORTED),
      (.psReady n, mPS_READY), (.lesSwap n, mLES_SWAP), (.reattach n, mREATTACH), (.vendor n, mVENDOR)],
    tlOn s n = false ∨ attached s n = false ∨ (∀ r ∈ x.inbox, hType r.hdr ≠ e.2) → Completes e.1 s fun u => u = s) ∧
  (tlOn s n = false ∨ attached s n = false → ∀ w l, ∀ i ∈ [Instr.packetTxStart n, .packetTxDone n, .txCollision n l, .collisionBackoffEnd n,
    .packetReceived n w, .tunnelFrameReceived n w, .ackTimeout n, .softResetRepeat n, .tunnelAckTimeout n, .responseTimerExpire n, .getCapsRetry n,
    .sinkPsTimerExpire n, .sourcePsTimerExpire n, .transitionSettled n, .holdoffExpire n, .sinkKeepaliveExpire n, .sourceKeepaliveExpire n,
    .tripRetryExpire n, .lesSwapOffDone n, .lesSwapOnDone n, .lesSwapStepTimeout n, .vdmTimeout n, .digestSend n, .syncSend n, .budgetSend n],
    Completes i s fun u => u = s)

/-- R315, R319-R322, R324, R328, R361, R420, R437: PACKET_RECEIVED and the tunnel's rows. -/
def Obligations.PacketsAndTunnelFramesAreReceived : Prop := ∀ (s : State) (n : Nat) (x : TlPort), x = tl s n →
  (∀ wave r y, tlOn s n = true → attached s n = true →
    r = receive x.rxHigh x.rxWait (modeOn s n 2) (s.now - waveNs wave - x.lineAt) wave →
    y = { x with lineAt := s.now, rxHigh := waveLevel x.rxHigh wave, rxWait := r.wait
                 backoff := x.backoff.map (fun b => (s.now + (if isSrc s n then 400000 else 900000), b.2)) } →
    (r.packet = none → Completes (.packetReceived n wave) s fun u => tl u n = y ∧ u.now = s.now ∧ OnlyPort n s u ∧
      getF u (TL_ERRS_FRAME_ERRS n) = satTo 255 (getF s (TL_ERRS_FRAME_ERRS n) + r.bad) ∧ (0 < r.bad → (rd u (TL_EVENT n)).getLsbD 5 = true)) ∧
    (∀ hdr objs crc at_ ok, r.packet = some (hdr, objs, crc, at_) → ok = (crc == crc32 (wordsBytes (hdr :: objs))) →
      objs.length = hNdo hdr ∧
      (ok = false ∨ (∃ a, s.fc.arm = some a ∧ a.checker = 4 ∧ ∃ j ∈ a.jobs, 0 < j.left) → Completes (.packetReceived n wave) s fun u =>
        getF u (TL_ERRS_CRC_ERRS n) = satTo 65535 (getF s (TL_ERRS_CRC_ERRS n) + 1) ∧ (rd u (TL_EVENT n)).getLsbD 5 = true ∧
        getF u (TL_ERRS_FRAME_ERRS n) = satTo 255 (getF s (TL_ERRS_FRAME_ERRS n) + r.bad) ∧
        tl u n = y ∧ u.now = s.now ∧ OnlyPort n s u ∧ (on s dBBOX = true → ok = false →
          u.fc.inbox = s.fc.inbox ++ [(32 + n, { kind := 0x33, sev := 0, src := 0xC010 + n, ctx := BitVec.ofNat 32 (hType hdr) })])) ∧
      (ok = true → (∀ a, s.fc.arm = some a → a.checker ≠ 4 ∨ ∀ j ∈ a.jobs, j.left = 0) → ∀ p z, p = ⟨hdr, objs, stampAt s (s.now - waveNs wave + at_)⟩ →
        z = { y with heard := true, good := some (hSeq hdr), backoff := y.backoff.filter (fun b => b.2 != 1) } →
        Completes (.packetReceived n wave) s fun u => u.now = s.now ∧ OnlyPort n s u ∧
          getF u (TL_ERRS_FRAME_ERRS n) = satTo 255 (getF s (TL_ERRS_FRAME_ERRS n) + r.bad +
            (if hType hdr ≠ mGOODCRC ∧ hProle hdr = prole s n then 1 else 0)) ∧
          (hType hdr = mGOODCRC → tl u n = { y with heard := true, inbox := x.inbox ++ [p] }) ∧
          (hType hdr ≠ mGOODCRC → hProle hdr = prole s n ∨ (hType hdr ≠ mSOFT_RESET ∧ x.rxSeq = some (hSeq hdr)) → tl u n = z) ∧
          (hType hdr ≠ mGOODCRC → hProle hdr ≠ prole s n → hType hdr = mSOFT_RESET ∨ x.rxSeq ≠ some (hSeq hdr) →
            ∀ v, v = { z with rxSeq := if hType hdr = mSOFT_RESET then x.rxSeq else some (hSeq hdr) } →
            (knownType (hType hdr) (hNdo hdr) = true → hRev hdr < 2 → tl u n = { v with inbox := x.inbox ++ [p] }) ∧
            (knownType (hType hdr) (hNdo hdr) = false ∨ 2 ≤ hRev hdr →
              tl u n = { v with answers := x.answers ++ [{ typ := mNOT_SUPPORTED, objs := [], act := .none }] })))) ∧
    (modeOn s n 2 = true →
      (r.tunnel = none ∨ (∃ h b c a, r.tunnel = some (h, b, c, a) ∧ c ≠ crc32 (wordBytes h ++ b)) →
        Completes (.tunnelFrameReceived n wave) s fun u => tl u n = y ∧ OnlyPort n s u ∧ u.now = s.now) ∧
      (∀ hdr bytes at_, r.tunnel = some (hdr, bytes, crc32 (wordBytes hdr ++ bytes), at_) → Completes (.tunnelFrameReceived n wave) s fun u =>
        OnlyPort n s u ∧ u.now = s.now ∧ (tl u n).lineAt = s.now ∧ bytes.length = bits hdr 0 9 ∧
        (∀ f, x.tun.frame = some f → f.ackDue ≠ none → f.tfn = bits hdr 16 8 →
          ((∃ g, getTag s f.tag = some g ∧ g.state ≠ .done) → Ended f.tag stSUCCESS (BitVec.ofNat 32 f.tfn) 0 u) ∧
          (x.tun.waiting = [] → (tl u n).tun.frame = none) ∧
          (∀ b t l, x.tun.waiting = (b, t) :: l → (tl u n).tun.frame = some { tfn := x.tun.next, bytes := b, tag := t } ∧
            (tl u n).tun.waiting = l ∧ (tl u n).tun.next = (x.tun.next + 1) % 256)) ∧
        (x.tun.frame = none ∨ (∀ f, x.tun.frame = some f → f.ackDue = none ∨ f.tfn ≠ bits hdr 16 8) →
          (tl u n).tun.frame = x.tun.frame ∧ (tl u n).tun.waiting = x.tun.waiting) ∧
        (bytes = [] → (tl u n).tun.tack = x.tun.tack ∧ (tl u n).tun.ackOwed = x.tun.ackOwed) ∧
        (bytes ≠ [] → x.tun.tack = bits hdr 24 8 → (tl u n).tun.tack = x.tun.tack ∧ (tl u n).tun.ackOwed = true ∧
          (evRing u s.hi.routeTl).staging = (evRing s s.hi.routeTl).staging) ∧
        (bytes ≠ [] → x.tun.tack ≠ bits hdr 24 8 → on s dPPATH = true →
          stagedEntries (evRing s s.hi.routeTl).staging + (bytes.length / 4 + 18) / 15 ≤ 1024 →
          (tl u n).tun.tack = bits hdr 24 8 ∧ (tl u n).tun.ackOwed = true ∧
          (evRing u s.hi.routeTl).staging = (evRing s s.hi.routeTl).staging ++
            [{ rtype := 0x31, hdr := n * 65536 + bytes.length, time := stamp s, content := bytesWords bytes }])))) ∧
  (∀ wave, modeOn s n 2 = false → Completes (.tunnelFrameReceived n wave) s fun u => u = s) ∧
  (tlOn s n = true → attached s n = true → (x.tun.frame = none ∨ (∀ f, x.tun.frame = some f → f.ackDue = none) → Completes (.tunnelAckTimeout n) s fun u => u = s) ∧
    (∀ f d, x.tun.frame = some f → f.ackDue = some d →
      (f.tries < 2 → Completes (.tunnelAckTimeout n) s fun u =>
        u = setTl { s with now := max s.now d } n { x with tun := { x.tun with frame := some { f with tries := f.tries + 1, ackDue := none } } }) ∧
      (2 ≤ f.tries → modeOn s n 2 = true → Completes (.tunnelAckTimeout n) s fun u => u.now = max s.now d ∧ (tl u n).tun = {} ∧
        modeOn u n 2 = false ∧ (rd u (TL_CEVENT n)).getLsbD 11 = true ∧ (rd u (TL_CEVENT n)).getLsbD 9 = true ∧
        (∀ y, getTag s f.tag = some y → y.state ≠ .done → ∃ z, getTag u f.tag = some z ∧ z.state = .done ∧ z.status = stABORTED)))) ∧
  (∀ t c, startedAs s t 0x3E = some c → n = selPort (c.word 1) →
    (tlOn s n = false ∨ attached s n = false → Completes (.tunnelSend t) s fun u => Ended t stNOT_ATTACHED 0 0 u) ∧
    (tlOn s n = true → attached s n = true → modeOn s n 2 = false → Completes (.tunnelSend t) s fun u => Ended t stSTATE 0 0 u) ∧
    (tlOn s n = true → attached s n = true → modeOn s n 2 = true → Completes (.tunnelSend t) s fun u => getTag u t = some { c with state := .running } ∧
      (x.tun.frame = none → x.tun.waiting = [] → (tl u n).tun = { x.tun with frame := some { tfn := x.tun.next, bytes := c.src, tag := t }, next := (x.tun.next + 1) % 256 }) ∧
      (x.tun.frame ≠ none → (tl u n).tun = { x.tun with waiting := x.tun.waiting ++ [(c.src, t)] })))

/-- R336, R337, R341-R344, R355: the source's rows of the contract machine. -/
def Obligations.ASourceAnswersRequests : Prop := ∀ (s : State) (n : Nat) (x : TlPort), x = tl s n →
  (∀ r rest, Delivered n mGET_CAPS r rest s →
    (isSrc s n = true → x.cs = 1 ∨ x.cs = 5 →
      (legFitted s n = true → ∀ w l, advertised s n = w :: l → Completes (.getCaps n) s fun u => Answers n mCAPS (w :: l) rest s u) ∧
      (legFitted s n = false ∨ advertised s n = [] → Completes (.getCaps n) s fun u => Answers n mCAPS [0] rest s u)) ∧
    (isSrc s n = false ∨ (x.cs ≠ 1 ∧ x.cs ≠ 5) → Completes (.getCaps n) s fun u => Answers n mNOT_SUPPORTED [] rest s u)) ∧
  (∀ r rest w, Delivered n mREQUEST r rest s → w = r.objs.headD 0 →
    (isSrc s n = false → Completes (.request n) s fun u => Answers n mNOT_SUPPORTED [] rest s u) ∧
    (isSrc s n = true → x.cs = 4 ∨ swapping s n = true → Completes (.request n) s fun u => Answers n mWAIT [] rest s u) ∧
    (isSrc s n = true → x.cs ≠ 4 → swapping s n = false → ∀ (stop fits eq : Prop),
      (stop ↔ (ppSafe s = true ∨ flag s (PP_TLCFG_PRESENT n) = false ∨ getF s (PP_TLCFG_IHW n) = 0 ∨ getF s (PP_TLCFG_IHW n) < rI w ∨ onBoot s = true)) →
      (fits ↔ (1 ≤ rPos w ∧ ∃ c, (advertised s n)[rPos w - 1]? = some c ∧ capFits c (rV w) (rI w) = true)) →
      (eq ↔ (rd s (TL_CONTRACT n) ≠ 0 ∧ getF s (TL_CONTRACT_CV n) = rV w ∧ getF s (TL_CONTRACT_CI n) = rI w)) →
      (rI w ≠ 0 → stop → ¬ eq → Completes (.request n) s fun u => Answers n mREJECT [] rest s u) ∧
      (rI w ≠ 0 → stop → eq → Completes (.request n) s fun u => OnlyPort n s u ∧ rd u (TL_CONTRACT n) = 0 ∧ (tl u n).cs = 1 ∧ getF u (PP_TLSTAT_DIR n) = 0 ∧
        (tl u n).answers = x.answers ++ [{ typ := mREJECT, objs := [], act := .none }] ∧ (rd u (TL_CEVENT n)).getLsbD 1 = true) ∧
      (rI w = 0 → Completes (.request n) s fun u => OnlyPort n s u ∧ rd u (TL_CONTRACT n) = 0 ∧ (tl u n).cs = 1 ∧ getF u (PP_TLSTAT_DIR n) = 0 ∧
        (tl u n).answers = x.answers ++ [{ typ := mACCEPT, objs := [], act := .none }]) ∧
      (rI w ≠ 0 → ¬ stop → eq → Completes (.request n) s fun u =>
        u = setTl s n { x with inbox := rest, answers := x.answers ++ [{ typ := mACCEPT, objs := [], act := .none }], kaAt := s.now, kaDue := some (s.now + 12000000000) }) ∧
      (rI w ≠ 0 → ¬ stop → ¬ eq → ¬ fits → Completes (.request n) s fun u => Answers n mREJECT [] rest s u) ∧
      (rI w ≠ 0 → ¬ stop → ¬ eq → fits →
        (getF s (TL_CCTRL_REQ_ACC n) = 1 ∨ (getF s (TL_CCTRL_REQ_ACC n) = 2 ∧ verdictOf s n 0 w = some true) → Completes (.request n) s fun u =>
          OnlyPort n s u ∧ (tl u n).cs = 4 ∧ (tl u n).lastReq = w ∧ (tl u n).noDC = true ∧ (tl u n).psDue = some (s.now + 500000000) ∧
          (tl u n).kaDue = none ∧ rd u (TL_CONTRACT n) = rd s (TL_CONTRACT n) ∧
          (tl u n).answers = x.answers ++ [{ typ := mACCEPT, objs := [], act := .none }]) ∧
        (getF s (TL_CCTRL_REQ_ACC n) = 0 ∨ getF s (TL_CCTRL_REQ_ACC n) = 3 ∨ (getF s (TL_CCTRL_REQ_ACC n) = 2 ∧
            (verdictOf s n 0 w = some false ∨ (verdictOf s n 0 w = none ∧ hostLost s n = true))) → Completes (.request n) s fun u => Answers n mREJECT [] rest s u) ∧
        (getF s (TL_CCTRL_REQ_ACC n) = 2 → verdictOf s n 0 w = none → hostLost s n = false → Completes (.request n) s fun u => OnlyPort n s u ∧
          rd u (PARTNER n + 0x1C) = w ∧ (rd u (TL_CEVENT n)).getLsbD 4 = true ∧
          tl u n = { x with inbox := rest, pendReq := true, answers := x.answers ++ [{ typ := mWAIT, objs := [], act := .none }] })))) ∧
  (∀ w b v, verdictOf s n 0 w = some b → v = x.verdicts.find? (fun v => v.kind == 0 && v.obj == w && decide (s.now < v.at_ + 10000000000)) →
    ∃ y, v = some y ∧ y.accept = b) ∧
  (∀ t, tlOn s n = true → isSrc s n = true → x.cs = 4 → legFitted s n = true → (tleg s n).okSince = some t →
    Completes (.transitionSettled n) s fun u => OnlyPort n s u ∧ u.now = max s.now (t + 10000000) ∧
    rd u (TL_CONTRACT n) = pair16 (rV x.lastReq) (rI x.lastReq) ∧ (tl u n).cs = 5 ∧ (tl u n).kaDue = some (u.now + 12000000000) ∧ (tl u n).noDC = false ∧
    getF u (PP_TLSTAT_DIR n) = 2 ∧ (rd u (TL_CEVENT n)).getLsbD 0 = true ∧
    (tl u n).answers = x.answers ++ [{ typ := mPS_READY, objs := [], act := .none }]) ∧
  (isSrc s n = false ∨ x.cs ≠ 4 ∨ legFitted s n = false ∨ (tleg s n).okSince = none → Completes (.transitionSettled n) s fun u => u = s) ∧
  (∀ d, tlOn s n = true → isSrc s n = true → x.cs = 4 → x.psDue = some d → Completes (.sourcePsTimerExpire n) s fun u => OnlyPort n s u ∧
    u.now = max s.now d ∧ rd u (TL_CONTRACT n) = 0 ∧ (tl u n).cs = 1 ∧ (tl u n).psDue = none ∧ getF u (PP_TLSTAT_DIR n) = 0 ∧ (tl u n).answers = x.answers) ∧
  (isSrc s n = false ∨ x.cs ≠ 4 ∨ x.psDue = none → Completes (.sourcePsTimerExpire n) s fun u => u = s) ∧
  (∀ d, tlOn s n = true → isSrc s n = true → x.kaDue = some d → Completes (.sourceKeepaliveExpire n) s fun u => OnlyPort n s u ∧
    u.now = max s.now d ∧ rd u (TL_CONTRACT n) = 0 ∧ getF u (PP_TLSTAT_DIR n) = 0 ∧ (tl u n).kaDue = none ∧ (tl u n).answers = x.answers ∧
    (rd s (TL_CONTRACT n) ≠ 0 → (rd u (TL_CEVENT n)).getLsbD 1 = true)) ∧
  (isSrc s n = false ∨ x.kaDue = none → Completes (.sourceKeepaliveExpire n) s fun u => u = s)

/-- R335, R338-R341, R343, R346, R348, R356, R366, R420: the sink's rows of the contract machine. -/
def Obligations.ASinkNegotiatesItsContract : Prop := ∀ (s : State) (n : Nat) (x : TlPort), x = tl s n →
  (∀ r rest, Delivered n mCAPS r rest s →
    (isSnk s n = false → Completes (.caps n) s fun u => Answers n mNOT_SUPPORTED [] rest s u) ∧
    (isSnk s n = true → x.cs = 2 → x.own = none ∨ x.own = some .getCaps → Completes (.caps n) s fun u =>
      RequestFormed n u ∧ OnlyPort n s u ∧ (tl u n).capsRetry = none ∧ (∀ i < 6, rd u (PARTNER n + 4 * i) = r.objs.getD i 0) ∧
      (x.identSent = false → (tl u n).identSent = true ∧
        { typ := mIDENT, objs := [rd s (TL_LINKID n)], act := .none } ∈ (tl u n).news)) ∧
    (isSnk s n = true → x.cs ≠ 2 → Completes (.caps n) s fun u => OnlyPort n s u ∧ (∀ i < 6, rd u (PARTNER n + 4 * i) = r.objs.getD i 0) ∧
      rd u (PARTNER n + 0x18) = BitVec.ofNat 32 r.objs.length ∧ (x.own = none → RequestFormed n u) ∧
      (x.own ≠ none → tl u n = { x with inbox := rest, wants := if .request ∈ x.wants then x.wants else x.wants ++ [.request] }))) ∧
  (∀ r rest, Delivered n mIDENT r rest s → Completes (.ident n) s fun u => OnlyPort n s u ∧ rd u (TL_PLINKID n) = r.objs.headD 0 ∧
    rd u (PARTNER n + 0x3C) = r.objs.headD 0 ∧ pidValid u n = true ∧ (tl u n).identSent = true ∧
    (x.identSent = false → (tl u n).answers = x.answers ++ [{ typ := mIDENT, objs := [rd s (TL_LINKID n)], act := .none }]) ∧
    (x.identSent = true → (tl u n).answers = x.answers)) ∧
  (∀ r rest w, Delivered n mACCEPT r rest s → x.own = some .request → w = x.lastReq → x.wants = [] →
    (rI w = 0 → Completes (.accept n) s fun u => OnlyPort n s u ∧ rd u (TL_CONTRACT n) = 0 ∧
      (x.reqDue = false → (tl u n).cs = 1 ∧ (tl u n).own = none) ∧ (x.reqDue = true → RequestFormed n u)) ∧
    (rI w ≠ 0 → equalsDc s n w = true → Completes (.accept n) s fun u => OnlyPort n s u ∧ (x.reqDue = true → RequestFormed n u) ∧
      (x.reqDue = false → (tl u n).cs = 5 ∧ (tl u n).own = none ∧ (tl u n).kaDue = some (s.now + 5000000000) ∧ rd u (TL_CONTRACT n) = rd s (TL_CONTRACT n))) ∧
    (rI w ≠ 0 → equalsDc s n w = false → Completes (.accept n) s fun u => OnlyPort n s u ∧ (tl u n).cs = 4 ∧ (tl u n).own = none ∧
      (tl u n).noDC = true ∧ (tl u n).psDue = some (s.now + 600000000) ∧ rd u (TL_CONTRACT n) = rd s (TL_CONTRACT n))) ∧
  (∀ r rest w, Delivered n mACCEPT r rest s → x.own = some .request → w = x.lastReq → x.wants = [.request] → rI w ≠ 0 → equalsDc s n w = false →
    Completes (.accept n) s fun u => OnlyPort n s u ∧ (tl u n).cs = 4 ∧ (tl u n).own = none ∧ (tl u n).wants = [] ∧ (tl u n).reqDue = true ∧
      (tl u n).noDC = true ∧ (tl u n).psDue = some (s.now + 600000000) ∧ rd u (TL_CONTRACT n) = rd s (TL_CONTRACT n)) ∧
  (∀ r rest c, Delivered n mGOODCRC r rest s → x.cur = some c → c.ackDue ≠ none → hSeq r.hdr = c.seq → c.msg = { typ := mSOFT_RESET, objs := [], act := .none } →
    isSnk s n = true → x.cs ≠ 2 → x.own = none → x.identSent = true →
    (x.softHold = false → Completes (.goodcrc n) s fun u => OnlyPort n s u ∧ (tl u n).cur = none ∧ RequestFormed n u) ∧
    (x.softHold = true → Completes (.goodcrc n) s fun u => OnlyPort n s u ∧ (tl u n).cur = none ∧ (tl u n).softHold = false ∧ (tl u n).cs = x.cs ∧
      (tl u n).holdDue = x.holdDue ∧ ∀ m ∈ (tl u n).news, m ∈ x.news ∨ m.typ = mVENDOR)) ∧
  (∀ r rest, Delivered n mREJECT r rest s → x.own = some .request → x.wants = [] → Completes (.reject n) s fun u => OnlyPort n s u ∧ (tl u n).cs = 6 ∧
    (tl u n).own = none ∧ (tl u n).holdDue = some (s.now + 10000000000) ∧ (rd u (TL_CEVENT n)).getLsbD 2 = true ∧
    rd u (TL_CONTRACT n) = (if equalsDc s n x.lastReq then 0 else rd s (TL_CONTRACT n))) ∧
  (∀ r rest, Delivered n mWAIT r rest s → x.own = some .request → x.wants = [] → Completes (.wait n) s fun u => OnlyPort n s u ∧ (tl u n).cs = 6 ∧
    (tl u n).own = none ∧ (tl u n).holdDue = some (s.now + 1000000000) ∧ rd u (TL_CONTRACT n) = rd s (TL_CONTRACT n)) ∧
  (∀ r rest, Delivered n mNOT_SUPPORTED r rest s →
    (x.own = some .request → Completes (.notSupported n) s fun u => OnlyPort n s u ∧ (tl u n).cs = 6 ∧ (tl u n).own = none ∧
      (tl u n).holdDue = some (s.now + 1000000000) ∧ (tl u n).answers = [{ typ := mSOFT_RESET, objs := [], act := .none }]) ∧
    (x.own = none ∨ x.own = some .getCaps → Completes (.notSupported n) s fun u => u = setTl s n { x with inbox := rest })) ∧
  (∀ i typ, (i, typ) ∈ [(Instr.accept n, mACCEPT), (.reject n, mREJECT), (.wait n, mWAIT)] → ∀ r rest, Delivered n typ r rest s →
    x.own = none ∨ x.own = some .getCaps ∨ (∃ c m, x.own = some (.vdm c m)) → Completes i s fun u => Answers n mNOT_SUPPORTED [] rest s u) ∧
  (∀ r rest, Delivered n mPS_READY r rest s → x.swap ≠ some .newWait → x.swap ≠ some .oldWait →
    (isSnk s n = true → x.cs = 4 → legFitted s n = false → Completes (.psReady n) s fun u => OnlyPort n s u ∧ rd u (TL_CONTRACT n) = 0 ∧
      getF u (PP_TLSTAT_DIR n) = 0 ∧ (tl u n).cs = 6 ∧ (tl u n).holdDue = some (s.now + 10000000000)) ∧
    (isSnk s n = true → x.cs = 4 → legFitted s n = true → Completes (.psReady n) s fun u => OnlyPort n s u ∧ (rd u (TL_CEVENT n)).getLsbD 0 = true ∧
      (x.reqDue = false → rd u (TL_CONTRACT n) = pair16 (rV x.lastReq) (rI x.lastReq) ∧ (tl u n).kaDue = some (s.now + 5000000000) ∧
        getF u (PP_TLSTAT_DIR n) = 1 ∧ (tl u n).cs = 5) ∧ (x.reqDue = true → x.own = none → RequestFormed n u)) ∧
    (isSnk s n = false ∨ x.cs ≠ 4 → Completes (.psReady n) s fun u => Answers n mNOT_SUPPORTED [] rest s u)) ∧
  (tlOn s n = true → attached s n = true →
    (∀ d, x.ownDue = some d →
      (x.own = some .getCaps → Completes (.responseTimerExpire n) s fun u => OnlyPort n s u ∧ u.now = max s.now d ∧ (tl u n).cs = 2 ∧
        (tl u n).capsRetry = some (u.now + 1000000000) ∧ (tl u n).answers = [{ typ := mSOFT_RESET, objs := [], act := .none }]) ∧
      (x.own = some .request → Completes (.responseTimerExpire n) s fun u => OnlyPort n s u ∧ u.now = max s.now d ∧ (tl u n).cs = 6 ∧
        (tl u n).holdDue = some (u.now + 1000000000) ∧ (tl u n).answers = [{ typ := mSOFT_RESET, objs := [], act := .none }]) ∧
      (x.own = some .lesSwap ∨ x.own = some .reattach → Completes (.responseTimerExpire n) s fun u => OnlyPort n s u ∧ u.now = max s.now d ∧
        (tl u n).own = none ∧ (tl u n).answers = [{ typ := mSOFT_RESET, objs := [], act := .none }])) ∧
    (x.ownDue = none ∨ x.own = none ∨ (∃ c m, x.own = some (.vdm c m)) → Completes (.responseTimerExpire n) s fun u => u = s) ∧
    (∀ d, x.capsRetry = some d → x.own = none → Completes (.getCapsRetry n) s fun u => OnlyPort n s u ∧ u.now = max s.now d ∧ (tl u n).capsRetry = none ∧
      (tl u n).own = some .getCaps ∧ (tl u n).cs = 2 ∧ (tl u n).news = x.news ++ [{ typ := mGET_CAPS, objs := [], act := .none }]) ∧
    (x.capsRetry = none → Completes (.getCapsRetry n) s fun u => u = s) ∧
    (∀ d, isSnk s n = true → x.cs = 4 → x.psDue = some d → Completes (.sinkPsTimerExpire n) s fun u => OnlyPort n s u ∧ u.now = max s.now d ∧
      rd u (TL_CONTRACT n) = 0 ∧ (tl u n).cs = 6 ∧ (tl u n).holdDue = some (u.now + 10000000000)) ∧
    (∀ d, isSnk s n = true → x.cs = 6 → x.holdDue = some d → x.own = none → Completes (.holdoffExpire n) s fun u => OnlyPort n s u ∧ u.now = max s.now d ∧
      (tl u n).holdDue = none ∧ RequestFormed n u) ∧
    (∀ d, isSnk s n = true → x.cs = 1 ∨ x.cs = 5 → rd s (TL_CONTRACT n) ≠ 0 → x.kaDue = some d → Completes (.sinkKeepaliveExpire n) s fun u =>
      OnlyPort n s u ∧ u.now = max s.now d ∧ (tl u n).kaDue = none ∧
      (x.own = none → FormedFor n (getF s (TL_CONTRACT_CV n)) (getF s (TL_CONTRACT_CI n)) u) ∧
      (x.own ≠ none → tl u n = { x with kaDue := none, wants := if .keepAlive ∈ x.wants then x.wants else x.wants ++ [.keepAlive] })) ∧
    (∀ d, isSnk s n = true → x.tripDue = some d → Completes (.tripRetryExpire n) s fun u => OnlyPort n s u ∧ u.now = max s.now d ∧ (tl u n).tripDue = none ∧
      (flag s (TL_CSTATE_TRIP_LOCK n) = true → u = setTl { s with now := u.now } n { x with tripDue := none }) ∧
      (flag s (TL_CSTATE_TRIP_LOCK n) = false → x.own = none → RequestFormed n u)) ∧
    (isSnk s n = false ∨ x.cs ≠ 4 ∨ x.psDue = none → Completes (.sinkPsTimerExpire n) s fun u => u = s) ∧
    (isSnk s n = false ∨ x.cs ≠ 6 ∨ x.holdDue = none → Completes (.holdoffExpire n) s fun u => u = s) ∧
    (isSnk s n = false ∨ (x.cs ≠ 1 ∧ x.cs ≠ 5) ∨ rd s (TL_CONTRACT n) = 0 ∨ x.kaDue = none → Completes (.sinkKeepaliveExpire n) s fun u => u = s) ∧
    (isSnk s n = false ∨ x.tripDue = none → Completes (.tripRetryExpire n) s fun u => u = s)) ∧
  (tlOn s n = true → ∀ d, x.hostHold = some d → Completes (.hostLostHoldExpire n) s fun u => OnlyPort n s u ∧ u.now = max s.now d ∧ (tl u n).hostHold = none ∧
    getF u (TL_HOLD_HOLD_S n) = 0 ∧ rd u (TL_REQ n) = 0 ∧ (rd u (TL_CEVENT n)).getLsbD 5 = true ∧
    (isSnk s n = true → rd u (TL_CONTRACT n) = 0 ∧ (x.own = none → RequestFormed n u))) ∧
  (tlOn s n = false ∨ x.hostHold = none → Completes (.hostLostHoldExpire n) s fun u => u = s) ∧
  (∀ v, tlOn s n = false ∨ flag s (TL_CFG_LOCK n) = true → Completes (.tlRevreqWrite n v) s fun u => u = s) ∧
  (∀ v, tlOn s n = true → flag s (TL_CFG_LOCK n) = false → Completes (.tlRevreqWrite n v) s fun u => OnlyPort n s u ∧ rd u (TL_REVREQ n) = v ∧
    flag u (TL_CSTATE_TRIP_LOCK n) = false ∧ (tl u n).trips = [] ∧
    (requestInForce u n = requestInForce s n → flag s (TL_CSTATE_TRIP_LOCK n) = false → WordsBut [TL_REVREQ n] s u ∧ tl u n = { x with trips := [] }) ∧
    (requestInForce u n ≠ requestInForce s n ∨ flag s (TL_CSTATE_TRIP_LOCK n) = true → isSnk s n = true → x.own = none → x.cs = 1 ∨ x.cs = 5 → RequestFormed n u))

/-- R347, R349-R355, R415, R420: the swap and re-attach rows. A port on BOOT_SRC drops the re-attach it agreed to (R309). -/
def Obligations.SwapsAndReattachesRun : Prop := ∀ (s : State) (n : Nat) (x : TlPort), x = tl s n →
  (∀ r rest, Delivered n mLES_SWAP r rest s →
    (swapping s n = true → Completes (.lesSwap n) s fun u => Answers n mNOT_SUPPORTED [] rest s u) ∧
    (swapping s n = false → outstanding s n mREATTACH .reattach = true → Completes (.lesSwap n) s fun u => Answers n mWAIT [] rest s u) ∧
    (swapping s n = false → outstanding s n mLES_SWAP .lesSwap = true → (rd s (TL_PLINKID n)).toNat < (rd s (TL_LINKID n)).toNat ∨ (rd s (TL_PLINKID n) = rd s (TL_LINKID n) ∧ isSrc s n = true) →
      Completes (.lesSwap n) s fun u => u = setTl s n { x with inbox := rest }) ∧
    (swapping s n = false → outstanding s n mLES_SWAP .lesSwap = true → x.swapLost = false → (rd s (TL_LINKID n)).toNat < (rd s (TL_PLINKID n)).toNat ∨ (rd s (TL_PLINKID n) = rd s (TL_LINKID n) ∧ isSrc s n = false) →
      swapOk s n = true → getF s (TL_CCTRL_LSW_ACC n) = 1 → Completes (.lesSwap n) s fun u => OnlyPort n s u ∧ (tl u n).own = none ∧ (tl u n).ownDue = none ∧
        (tl u n).swap = some .accepted ∧ (tl u n).swapLost = true ∧ (rd u (TL_CEVENT n)).getLsbD 7 = true ∧ (∀ m ∈ (tl u n).news, m.typ ≠ mLES_SWAP) ∧
        (tl u n).answers = x.answers ++ [{ typ := mACCEPT, objs := [], act := .swapAccepted }]) ∧
    (swapping s n = false → outstanding s n mREATTACH .reattach = false → outstanding s n mLES_SWAP .lesSwap = false → x.swapLost = false →
      (swapOk s n = false → Completes (.lesSwap n) s fun u => Answers n mREJECT [] rest s u) ∧
      (swapOk s n = true → getF s (TL_CCTRL_LSW_ACC n) = 0 ∨ getF s (TL_CCTRL_LSW_ACC n) = 3 ∨ (getF s (TL_CCTRL_LSW_ACC n) = 2 ∧
          (verdictOf s n 1 0 = some false ∨ hostLost s n = true)) → Completes (.lesSwap n) s fun u => Answers n mREJECT [] rest s u) ∧
      (swapOk s n = true → getF s (TL_CCTRL_LSW_ACC n) = 1 ∨ (getF s (TL_CCTRL_LSW_ACC n) = 2 ∧ verdictOf s n 1 0 = some true ∧ hostLost s n = false) → Completes (.lesSwap n) s fun u =>
        OnlyPort n s u ∧ u.words = s.words ∧ (tl u n).inbox = rest ∧ (tl u n).swap = some .accepted ∧
        (tl u n).answers = x.answers ++ [{ typ := mACCEPT, objs := [], act := .swapAccepted }] ∧ (tl u n).news = x.news.filter (fun m => m.typ ≠ mLES_SWAP) ∧
        (x.own = some .lesSwap → (tl u n).own = none ∧ (tl u n).ownDue = none) ∧ (x.own ≠ some .lesSwap → (tl u n).own = x.own ∧ (tl u n).ownDue = x.ownDue)) ∧
      (swapOk s n = true → getF s (TL_CCTRL_LSW_ACC n) = 2 → verdictOf s n 1 0 = none → hostLost s n = false → Completes (.lesSwap n) s fun u => OnlyPort n s u ∧
        (rd u (TL_CEVENT n)).getLsbD 4 = true ∧ tl u n = { x with inbox := rest, pendSwap := true, answers := x.answers ++ [{ typ := mWAIT, objs := [], act := .none }] }))) ∧
  (∀ r rest, Delivered n mREATTACH r rest s →
    (swapping s n = true → Completes (.reattach n) s fun u => Answers n mNOT_SUPPORTED [] rest s u) ∧
    (swapping s n = false → outstanding s n mLES_SWAP .lesSwap = true → Completes (.reattach n) s fun u => Answers n mWAIT [] rest s u) ∧
    (swapping s n = false → outstanding s n mLES_SWAP .lesSwap = false → outstanding s n mREATTACH .reattach = true →
      (rd s (TL_PLINKID n)).toNat < (rd s (TL_LINKID n)).toNat ∨ (rd s (TL_PLINKID n) = rd s (TL_LINKID n) ∧ isSrc s n = true) →
      Completes (.reattach n) s fun u => u = setTl s n { x with inbox := rest }) ∧
    (swapping s n = false → outstanding s n mLES_SWAP .lesSwap = false → outstanding s n mREATTACH .reattach = true →
      (rd s (TL_LINKID n)).toNat < (rd s (TL_PLINKID n)).toNat ∨ (rd s (TL_PLINKID n) = rd s (TL_LINKID n) ∧ isSrc s n = false) →
      bootSrc s n = false → getF s (TL_CCTRL_RA_ACC n) = 1 → Completes (.reattach n) s fun u => OnlyPort n s u ∧ (rd u (TL_CEVENT n)).getLsbD 7 = true ∧
        (tl u n).own = none ∧ (tl u n).ownDue = none ∧ (tl u n).reatt = true ∧ (∀ m ∈ (tl u n).news, m.typ ≠ mREATTACH) ∧
        (tl u n).answers = x.answers ++ [{ typ := mACCEPT, objs := [], act := .reattachAccepted }]) ∧
    (swapping s n = false → outstanding s n mLES_SWAP .lesSwap = false → outstanding s n mREATTACH .reattach = false →
      (bootSrc s n = true ∨ getF s (TL_CCTRL_RA_ACC n) = 0 ∨ getF s (TL_CCTRL_RA_ACC n) = 3 ∨ (getF s (TL_CCTRL_RA_ACC n) = 2 ∧
          (verdictOf s n 2 0 = some false ∨ hostLost s n = true)) → Completes (.reattach n) s fun u => Answers n mREJECT [] rest s u) ∧
      (bootSrc s n = false → getF s (TL_CCTRL_RA_ACC n) = 1 ∨ (getF s (TL_CCTRL_RA_ACC n) = 2 ∧ verdictOf s n 2 0 = some true ∧ hostLost s n = false) → Completes (.reattach n) s fun u =>
        OnlyPort n s u ∧ rd u (TL_CONTRACT n) = 0 ∧ getF u (PP_TLSTAT_DIR n) = 0 ∧ (tl u n).reatt = true ∧ astate u n = astate s n ∧
        (tl u n).answers = x.answers ++ [{ typ := mACCEPT, objs := [], act := .reattachAccepted }]) ∧
      (bootSrc s n = false → getF s (TL_CCTRL_RA_ACC n) = 2 → verdictOf s n 2 0 = none → hostLost s n = false → Completes (.reattach n) s fun u => OnlyPort n s u ∧
        (rd u (TL_CEVENT n)).getLsbD 4 = true ∧ tl u n = { x with inbox := rest, pendReatt := true, answers := x.answers ++ [{ typ := mWAIT, objs := [], act := .none }] }))) ∧
  (∀ r rest, Delivered n mACCEPT r rest s → x.wants = [] →
    (x.own = some .lesSwap → Completes (.accept n) s fun u => OnlyPort n s u ∧ (tl u n).own = none ∧
      (lrole s n = 1 → (tl u n).swap = some .oldOff ∧ flag u (TL_ATTACH_LES_OUT n) = false) ∧
      (lrole s n = 0 → (tl u n).swap = some .newWait ∧ (tl u n).swapDue = some (s.now + 150000000))) ∧
    (x.own = some .reattach → bootSrc s n = false → Completes (.accept n) s fun u => OnlyPort n s u ∧ astate u n = aREATTACH ∧ LeftAttached n s u ∧
      (tl u n).nextPref = some (if isSnk s n then 1 else 0)) ∧
    (x.own = some .reattach → bootSrc s n = true → Completes (.accept n) s fun u => OnlyPort n s u ∧ astate u n = astate s n ∧ (tl u n).reatt = false ∧
      (tl u n).own = none ∧ (tl u n).reTag = none ∧ rd u (TL_CONTRACT n) = 0 ∧
      ∀ t y, x.reTag = some t → getTag s t = some y → y.state ≠ .done → (∀ e ∈ x.reqTags, e.1 ≠ t) → ∃ r0, Ended t stSTATE r0 0 u)) ∧
  (∀ r rest c, Delivered n mGOODCRC r rest s → x.cur = some c → c.ackDue ≠ none → hSeq r.hdr = c.seq → x.own = none →
    (c.msg.act = .swapAccepted → x.swap = some .accepted → Completes (.goodcrc n) s fun u => OnlyPort n s u ∧
      (lrole s n = 1 → (tl u n).swap = some .oldOff ∧ flag u (TL_ATTACH_LES_OUT n) = false) ∧
      (lrole s n = 0 → (tl u n).swap = some .newWait ∧ (tl u n).swapDue = some (s.now + 150000000))) ∧
    (c.msg.act = .reattachAccepted → bootSrc s n = false → Completes (.goodcrc n) s fun u => OnlyPort n s u ∧ astate u n = aREATTACH ∧ LeftAttached n s u ∧
      (tl u n).nextPref = some (if isSnk s n then 1 else 0)) ∧
    (c.msg.act = .reattachAccepted → bootSrc s n = true → Completes (.goodcrc n) s fun u => OnlyPort n s u ∧ astate u n = astate s n ∧ (tl u n).reatt = false ∧
      (tl u n).cur = none ∧ (tl u n).reTag = none ∧ ∀ t y, x.reTag = some t → getTag s t = some y → y.state ≠ .done → (∀ e ∈ x.reqTags, e.1 ≠ t) → Ended t stSTATE (rd s (TL_ATTACH n)) 0 u)) ∧
  (∀ c, tlOn s n = true → attached s n = true → x.sending = 2 → x.cur = some c → c.msg.act = .swapDone → x.swap = some .newDone → Completes (.packetTxDone n) s fun u =>
    OnlyPort n s u ∧ lrole u n = 1 ∧ (tl u n).swap = none ∧ (rd u (TL_CEVENT n)).getLsbD 6 = true) ∧
  (∀ i typ st, (i, typ, st) ∈ [(Instr.reject n, mREJECT, stPARTNER_REJECT), (.wait n, mWAIT, stBUSY), (.notSupported n, mNOT_SUPPORTED, stPARTNER_REJECT)] →
    ∀ r rest t y, Delivered n typ r rest s → x.wants = [] → getTag s t = some y → y.state ≠ .done →
      (x.own = some .lesSwap → x.swapTag = some t → Completes i s fun u => Ended t st 0 (rd s (TL_ATTACH n)) u ∧ (tl u n).own = none ∧ (tl u n).swapTag = none) ∧
      (x.own = some .reattach → x.reTag = some t → Completes i s fun u => Ended t st (rd s (TL_ATTACH n)) 0 u ∧ (tl u n).own = none ∧ (tl u n).reTag = none)) ∧
  (∀ r rest, Delivered n mPS_READY r rest s →
    (x.swap = some .newWait → Completes (.psReady n) s fun u => OnlyPort n s u ∧ (tl u n).swap = some .newOn ∧ (tl u n).swapDue = none ∧
      (flag s (TL_CFG_LES_EN n) = true → s.pw.supply = .aux12 → x.pinLes < 2000 → flag u (TL_ATTACH_LES_OUT n) = true)) ∧
    (x.swap = some .oldWait → Completes (.psReady n) s fun u => OnlyPort n s u ∧ (tl u n).swap = none ∧ lrole u n = 0 ∧
      (rd u (TL_CEVENT n)).getLsbD 6 = true ∧ ∀ t y, x.swapTag = some t → x.swapLost = false → getTag s t = some y → y.state ≠ .done → ∃ r1, Ended t stSUCCESS 0 r1 u)) ∧
  (tlOn s n = true → attached s n = true →
    (x.swap = some .oldOff → x.pinLes < 2000 → Completes (.lesSwapOffDone n) s fun u =>
      u = setTl s n { x with swap := some .oldWait, swapDue := some (s.now + 150000000), answers := x.answers ++ [{ typ := mPS_READY, objs := [], act := .none }] }) ∧
    (x.swap ≠ some .oldOff ∨ 2000 ≤ x.pinLes → Completes (.lesSwapOffDone n) s fun u => u = s) ∧
    (x.swap = some .newOn → 11400 ≤ x.pinLes → Completes (.lesSwapOnDone n) s fun u =>
      u = setTl s n { x with swap := some .newDone, answers := x.answers ++ [{ typ := mPS_READY, objs := [], act := .swapDone }] }) ∧
    (x.swap ≠ some .newOn ∨ x.pinLes < 11400 → Completes (.lesSwapOnDone n) s fun u => u = s) ∧
    (∀ v d, x.swap = some v → x.swapDue = some d → Completes (.lesSwapStepTimeout n) s fun u => OnlyPort n s u ∧ u.now = max s.now d ∧ (tl u n).swap = none ∧
      lrole u n = prole s n ∧ (tl u n).answers = [{ typ := mSOFT_RESET, objs := [], act := .none }] ∧ rd u (TL_CONTRACT n) = rd s (TL_CONTRACT n)) ∧
    (x.swap = none ∨ x.swapDue = none → Completes (.lesSwapStepTimeout n) s fun u => u = s)) ∧
  (∀ t c, startedAs s t 0x3C = some c → n = selPort (c.word 1) →
    (tlOn s n = false ∨ attached s n = false → Completes (.tlLesSwap t) s fun u => Ended t stNOT_ATTACHED 0 (rd s (TL_ATTACH n)) u) ∧
    (tlOn s n = true → attached s n = true → swapOk s n = false → Completes (.tlLesSwap t) s fun u => Ended t stSTATE 0 (rd s (TL_ATTACH n)) u) ∧
    (tlOn s n = true → attached s n = true → swapOk s n = true → swapping s n = true ∨ x.swapTag ≠ none → Completes (.tlLesSwap t) s fun u =>
      Ended t stBUSY 0 (rd s (TL_ATTACH n)) u) ∧
    (tlOn s n = true → attached s n = true → swapOk s n = true → swapping s n = false → x.swapTag = none → x.own = none → Completes (.tlLesSwap t) s fun u =>
      getTag u t = some { c with state := .running } ∧ (tl u n).swapTag = some t ∧ (tl u n).own = some .lesSwap ∧
      (tl u n).news = x.news ++ [{ typ := mLES_SWAP, objs := [], act := .none }])) ∧
  (∀ t c, startedAs s t 0x3D = some c → n = selPort (c.word 1) →
    (tlOn s n = false ∨ attached s n = false → Completes (.tlReattach t) s fun u => Ended t stNOT_ATTACHED (rd s (TL_ATTACH n)) 0 u) ∧
    (tlOn s n = true → attached s n = true → pidValid s n = false ∨ bootSrc s n = true → Completes (.tlReattach t) s fun u =>
      Ended t stSTATE (rd s (TL_ATTACH n)) 0 u) ∧
    (tlOn s n = true → attached s n = true → pidValid s n = true → bootSrc s n = false → swapping s n = true ∨ x.reTag ≠ none → Completes (.tlReattach t) s fun u =>
      Ended t stBUSY (rd s (TL_ATTACH n)) 0 u) ∧
    (tlOn s n = true → attached s n = true → pidValid s n = true → bootSrc s n = false → swapping s n = false → x.reTag = none → x.own = none →
      Completes (.tlReattach t) s fun u => getTag u t = some { c with state := .running } ∧ (tl u n).reTag = some t ∧ (tl u n).reRole = 1 - prole s n ∧
        (tl u n).own = some .reattach ∧ (tl u n).news = x.news ++ [{ typ := mREATTACH, objs := [], act := .none }])) ∧
  (∀ t d y, s.tls.find? (fun e => e.2.reTag == some t) = some (n, x) → x.reDue = some d → getTag s t = some y → y.state ≠ .done → x.reTag = some t → Completes (.tlReattachTimeout t) s fun u =>
    u.now = max s.now d ∧ Ended t stTIMEOUT (rd s (TL_ATTACH n)) 0 u ∧ (tl u n).reTag = none ∧ OnlyPort n s u) ∧
  (∀ t, (∀ e ∈ s.tls, e.2.reTag ≠ some t) → Completes (.tlReattachTimeout t) s fun u => u = s)

/-- R339, R340, R342, R344, R346, R347, R349, R353, R357, R415, R418, R420: the host's tie-link commands. -/
def Obligations.TieLinkCommandsActOnTheirPort : Prop := ∀ (s : State) (t n : Nat) (c : Tag) (x : TlPort), n = selPort (c.word 1) → x = tl s n →
  (∀ i op, (i, op) ∈ [(Instr.tlAdvertise t, 0x38), (.tlRequest t, 0x39), (.tlAccept t, 0x3A), (.tlVendor t, 0x3B), (.tlLesSwap t, 0x3C), (.tlReattach t, 0x3D), (.tunnelSend t, 0x3E)] →
    startedAs s t op = some c → on s dTLPHY = true → Completes i s fun u => u.tlHost = { present := true, lost := false } ∧
      ∀ m < 8, hostLost u m = false ∧ getF u (TL_HOLD_HOLD_S m) = 0 ∧ (tl u m).hostHold = none) ∧
  (startedAs s t 0x38 = some c →
    (tlOn s n = false → Completes (.tlAdvertise t) s fun u => Ended t stSTATE 0 0 u) ∧
    (tlOn s n = true → flag s (TL_CFG_LOCK n) = true → Completes (.tlAdvertise t) s fun u => Ended t stLOCKED 0 0 u ∧ ∀ i < 6, rd u (TL_CAPS n i) = rd s (TL_CAPS n i)) ∧
    (tlOn s n = true → flag s (TL_CFG_LOCK n) = false → ∀ k, k = bits (c.param 6) 0 3 → Completes (.tlAdvertise t) s fun u => Ended t stSUCCESS 0 0 u ∧
      (∀ i < 6, rd u (TL_CAPS n i) = if i < k then c.param i else 0) ∧ rd u (TL_CONTRACT n) = rd s (TL_CONTRACT n) ∧
      (isSrc s n = true → (∃ i < 6, rd u (TL_CAPS n i) ≠ rd s (TL_CAPS n i)) → (tl u n).news = x.news ++ [{ typ := mCAPS, objs := capsObjs u n, act := .none }]) ∧
      (isSrc s n = false ∨ (∀ i < 6, rd u (TL_CAPS n i) = rd s (TL_CAPS n i)) → (tl u n).news = x.news))) ∧
  (startedAs s t 0x39 = some c →
    (tlOn s n = false ∨ attached s n = false → Completes (.tlRequest t) s fun u => Ended t stNOT_ATTACHED (rd s (TL_CONTRACT n)) (rd u (TL_CSTATE n)) u ∧ rd u (TL_REQ n) = rd s (TL_REQ n)) ∧
    (tlOn s n = true → isSrc s n = true → Completes (.tlRequest t) s fun u => Ended t stSTATE (rd s (TL_CONTRACT n)) (rd u (TL_CSTATE n)) u ∧ rd u (TL_REQ n) = rd s (TL_REQ n)) ∧
    (tlOn s n = true → isSnk s n = true → x.reqTags = [] → Completes (.tlRequest t) s fun u => rd u (TL_REQ n) = c.param 0 ∧ flag u (TL_CSTATE_HREQ n) = true ∧
      flag u (TL_CSTATE_TRIP_LOCK n) = false ∧ (tl u n).trips = [] ∧
      (requestMet s n (c.param 0) = true → (∃ r1, Ended t stSUCCESS (rd s (TL_CONTRACT n)) r1 u) ∧ (tl u n).reqTags = []) ∧
      (x.own = none → x.cs = 1 ∨ (x.cs = 5 ∧ requestInForce u n ≠ requestInForce s n) → RequestFormed n u ∧
        (requestMet s n (c.param 0) = false → getF u (TL_REQ_HI n) ≠ 0 → matchPos u n (getF u (TL_REQ_HV n)) (getF u (TL_REQ_HI n)) = none →
          ∃ r1, Ended t stNO_MATCH 0 r1 u)) ∧
      (requestMet s n (c.param 0) = false → x.cs ≠ 1 → x.cs ≠ 5 → getTag u t = some { c with state := .running, applied := true } ∧
        (tl u n).reqTags = [(t, c.param 0, s.now + 5000000000)]))) ∧
  (∀ m y w d, s.tls.find? (fun e => e.2.reqTags.any (fun r => r.1 == t)) = some (m, tl s m) → (tl s m).reqTags.find? (fun r => r.1 == t) = some (t, w, d) →
    getTag s t = some y → y.state ≠ .done → Completes (.tlRequestTimeout t) s fun u => u.now = max s.now d ∧ Ended t stTIMEOUT (rd s (TL_CONTRACT m)) (rd s (TL_CSTATE m)) u ∧
      (∀ e ∈ (tl u m).reqTags, e.1 ≠ t) ∧ OnlyPort m s u ∧ u.words = s.words) ∧
  ((∀ e ∈ s.tls, ∀ r ∈ e.2.reqTags, r.1 ≠ t) → Completes (.tlRequestTimeout t) s fun u => u = s) ∧
  (startedAs s t 0x3A = some c → ∀ (k : Nat) (pend : Prop) (w : Word), k = bits (c.param 0) 0 2 → k < 3 → w = (if k = 0 then c.param 1 else 0) →
    (pend ↔ (k = 0 ∧ x.pendReq = true ∧ c.param 1 = rd s (PARTNER n + 0x1C)) ∨ (k = 1 ∧ x.pendSwap = true) ∨ (k = 2 ∧ x.pendReatt = true)) →
    (tlOn s n = false ∨ ¬ pend → Completes (.tlAccept t) s fun u => Ended t stSTATE 0 0 u ∧ (tl u n).verdicts = x.verdicts) ∧
    (tlOn s n = true → pend → Completes (.tlAccept t) s fun u => Ended t stSUCCESS 0 0 u ∧
      (tl u n).verdicts = ⟨k, w, (c.param 0).getLsbD 8, s.now⟩ :: x.verdicts.filter (fun v => v.kind ≠ k ∨ v.obj ≠ w) ∧
      verdictOf u n k w = some ((c.param 0).getLsbD 8) ∧
      (k = 0 → (tl u n).pendReq = false) ∧ (k = 1 → (tl u n).pendSwap = false) ∧ (k = 2 → (tl u n).pendReatt = false))) ∧
  (startedAs s t 0x3B = some c → ∀ h, h = (bytesWords c.src).headD 0 →
    (tlOn s n = false ∨ attached s n = false → Completes (.tlVendor t) s fun u => Ended t stNOT_ATTACHED 0 0 u) ∧
    (tlOn s n = true → attached s n = true → bits h 16 16 = 0x4F4A → h.getLsbD 15 = true → Completes (.tlVendor t) s fun u => Ended t stCHECK_FAILED 0 0 u) ∧
    (tlOn s n = true → attached s n = true → bits h 16 16 ≠ 0x4F4A ∨ h.getLsbD 15 = false → Completes (.tlVendor t) s fun u =>
      getTag u t = some { c with state := .running } ∧ (tl u n).news = x.news ++ [{ typ := mVENDOR, objs := bytesWords c.src, act := .vendor t }]))

/-- R357-R360, R363, R437: the rows of the alternate modes. -/
def Obligations.AlternateModesRun : Prop := ∀ (s : State) (n : Nat) (x : TlPort), x = tl s n →
  (∀ r rest w m, Delivered n mVENDOR r rest s → w = r.objs.headD 0 → m = vMode w →
    (isStructured w = false →
      (flag s (TL_CCTRL_VDM_PASS n) = false → Completes (.vendor n) s fun u => Answers n mNOT_SUPPORTED [] rest s u) ∧
      (flag s (TL_CCTRL_VDM_PASS n) = true → Completes (.vendor n) s fun u => OnlyPort n s u ∧ tl u n = { x with inbox := rest } ∧
        (rd u (TL_CEVENT n)).getLsbD 8 = true ∧
        ∀ q, q = ({ rtype := 0x30, hdr := n * 65536 + r.objs.length, time := stamp s, content := r.objs } : Record) → on s dPPATH = true →
          stagedEntries (evRing s s.hi.routeTl).staging + recEntries q ≤ 1024 → q ∈ (evRing u s.hi.routeTl).staging)) ∧
    (isStructured w = true → vType w = 0 →
      (vVer w ≠ 0 → Completes (.vendor n) s fun u => Answers n mVENDOR [vdmHeader 2 m (vCmd w)] rest s u) ∧
      (vVer w = 0 → vCmd w = 1 → isSrc s n = true → Completes (.vendor n) s fun u =>
        Answers n mVENDOR [vdmHeader 1 m 1, BitVec.ofNat 32 (2 * getF s (TL_CCTRL_MODE_EN n))] rest s u) ∧
      (vVer w = 0 → vCmd w = 2 → isSrc s n = true → 1 ≤ m → m ≤ 3 → modeEn s n m = true →
        (modeOn s n m = true → Completes (.vendor n) s fun u => Answers n mVENDOR [vdmHeader 1 m 2] rest s u) ∧
        (modeOn s n m = false → Completes (.vendor n) s fun u => OnlyPort n s u ∧ (∀ k, 1 ≤ k → k ≤ 3 → modeOn u n k = (modeOn s n k || k == m)) ∧
          (rd u (TL_CEVENT n)).getLsbD 9 = true ∧ (tl u n).answers = x.answers ++ [{ typ := mVENDOR, objs := [vdmHeader 1 m 2], act := .none }] ∧
          (m = 1 → (tl u n).digDue = s.now + 10000000000 ∧ (tl u n).syncDue = s.now + 1000000000 ∧
            (tl u n).digSent = some (rd s GL_DIGEST_LO, rd s GL_DIGEST_HI, rd s GL_CFGGEN)) ∧ (m = 3 → (tl u n).budDue = s.now + 1000000000))) ∧
      (vVer w = 0 → vCmd w = 3 → 1 ≤ m → m ≤ 3 → Completes (.vendor n) s fun u => OnlyPort n s u ∧
        (∀ k, 1 ≤ k → k ≤ 3 → modeOn u n k = (modeOn s n k && k != m)) ∧ (modeOn s n m = true → (rd u (TL_CEVENT n)).getLsbD 9 = true) ∧
        (tl u n).answers = x.answers ++ [{ typ := mVENDOR, objs := [vdmHeader 1 m 3], act := .none }]) ∧
      (vVer w = 0 → vCmd w = 8 → m = 1 → modeOn s n 1 = true → r.objs.length = 4 → Completes (.vendor n) s fun u => OnlyPort n s u ∧ tl u n = { x with inbox := rest } ∧
        rd u (PARTNER n + 0x20) = r.objs.getD 1 0 ∧ rd u (PARTNER n + 0x24) = r.objs.getD 2 0 ∧ rd u (PARTNER n + 0x28) = r.objs.getD 3 0 ∧
        rd u (PARTNER n + 0x2C) = lo32 (stamp s) ∧ rd u (PARTNER n + 0x30) = hi32 (stamp s) ∧
        (r.objs.getD 3 0 = rd s GL_CFGGEN → r.objs.getD 1 0 ≠ rd s GL_DIGEST_LO ∨ r.objs.getD 2 0 ≠ rd s GL_DIGEST_HI → (rd u (TL_CEVENT n)).getLsbD 10 = true) ∧
        (r.objs.getD 3 0 ≠ rd s GL_CFGGEN ∨ (r.objs.getD 1 0 = rd s GL_DIGEST_LO ∧ r.objs.getD 2 0 = rd s GL_DIGEST_HI) → rd u (TL_CEVENT n) = rd s (TL_CEVENT n))) ∧
      (vVer w = 0 → vCmd w = 8 → m = 3 → modeOn s n 3 = true → r.objs.length = 4 → Completes (.vendor n) s fun u => OnlyPort n s u ∧
        tl u n = { x with inbox := rest, budgetAt := some s.now } ∧ getF u (TL_FLEET_P_EXP_I n) = bits (r.objs.getD 1 0) 16 16 ∧
        getF u (TL_FLEET_P_RES_OK n) = bits (r.objs.getD 1 0) 15 1 ∧ rd u (PARTNER n + 0x34) = r.objs.getD 2 0 ∧ rd u (PARTNER n + 0x38) = r.objs.getD 3 0) ∧
      (vVer w = 0 → vCmd w = 9 → m = 1 → modeOn s n 1 = true → isSrc s n = true → Completes (.vendor n) s fun u =>
        u = setTl s n { x with inbox := rest, answers := x.answers ++ [{ typ := mVENDOR, objs := [vdmHeader 1 1 10], act := .syncResp r.hold }] }) ∧
      (vVer w = 0 → vCmd w ≠ 10 → (vCmd w = 1 → isSrc s n = false) → (vCmd w = 2 → isSrc s n = false ∨ m = 0 ∨ 3 < m ∨ modeEn s n m = false) →
        (vCmd w = 3 → m = 0 ∨ 3 < m) → (vCmd w = 8 → (m ≠ 1 ∧ m ≠ 3) ∨ modeOn s n m = false ∨ r.objs.length ≠ 4) →
        (vCmd w = 9 → m ≠ 1 ∨ modeOn s n 1 = false ∨ isSrc s n = false) →
        Completes (.vendor n) s fun u => Answers n mVENDOR [vdmHeader 2 m (vCmd w)] rest s u)) ∧
    (isStructured w = true → vCmd w = 10 → vType w = 1 ∨ (vType w = 0 ∧ vVer w = 0) →
      (x.own = some (.vdm 9 1) → r.objs.length = 5 → x.wants = [] → ∀ t2 t3 : Int, t2 = (r.objs.getD 1 0).toNat + 2 ^ 32 * (r.objs.getD 2 0).toNat →
        t3 = (r.objs.getD 3 0).toNat + 2 ^ 32 * (r.objs.getD 4 0).toNat → Completes (.vendor n) s fun u => OnlyPort n s u ∧ (tl u n).own = none ∧
          (tl u n).ownDue = none ∧ getI u (TL_TSOFS_TSOFS n) = clampI (-(2 ^ 31 - 1)) (2 ^ 31 - 1) (divTrunc ((t2 - x.syncT1) - (r.hold - t3)) 2)) ∧
      (x.own ≠ some (.vdm 9 1) ∨ r.objs.length ≠ 5 → Completes (.vendor n) s fun u => u = setTl s n { x with inbox := rest })) ∧
    (isStructured w = true → vType w ≠ 0 → (vType w = 1 → vCmd w ≠ 10) → x.own ≠ some (.vdm (vCmd w) m) →
      Completes (.vendor n) s fun u => u = setTl s n { x with inbox := rest }) ∧
    (isStructured w = true → vType w = 1 → x.own = some (.vdm (vCmd w) m) → x.wants = [] →
      (vCmd w = 1 → ∀ l, l = [1, 2, 3].filter (fun k => modeEn s n k && (r.objs.getD 1 0).getLsbD k && !modeOn s n k) →
        Completes (.vendor n) s fun u => OnlyPort n s u ∧ NextEnter n l s u) ∧
      (vCmd w = 2 → 1 ≤ m → m ≤ 3 → Completes (.vendor n) s fun u => OnlyPort n s u ∧ NextEnter n x.enters s u ∧
        (∀ k, 1 ≤ k → k ≤ 3 → modeOn u n k = (modeOn s n k || (k == m && modeEn s n m))) ∧
        (modeOn s n m = false → modeEn s n m = true → (rd u (TL_CEVENT n)).getLsbD 9 = true)) ∧
      (vCmd w = 3 → Completes (.vendor n) s fun u => OnlyPort n s u ∧ (tl u n).own = none ∧ (tl u n).ownDue = none)) ∧
    (isStructured w = true → 2 ≤ vType w → x.own = some (.vdm (vCmd w) m) → x.wants = [] → Completes (.vendor n) s fun u =>
      OnlyPort n s u ∧ NextEnter n x.enters s u)) ∧
  (tlOn s n = true → attached s n = true →
    (∀ c m d, x.own = some (.vdm c m) → x.ownDue = some d → x.wants = [] → Completes (.vdmTimeout n) s fun u =>
      OnlyPort n s u ∧ u.now = max s.now d ∧ NextEnter n x.enters s u) ∧
    (x.ownDue = none ∨ (∀ c m, x.own ≠ some (.vdm c m)) → Completes (.vdmTimeout n) s fun u => u = s) ∧
    (modeOn s n 1 = true → ∀ (l h e : Word) (c : Bool), l = rd s GL_DIGEST_LO → h = rd s GL_DIGEST_HI → e = rd s GL_CFGGEN →
      (c = true ↔ ∃ l' h' e', x.digSent = some (l', h', e') ∧ (l' ≠ l ∨ h' ≠ h)) → Completes (.digestSend n) s fun u =>
        u.now = (if c = true then s.now else max s.now x.digDue) ∧
        u = setTl { s with now := u.now } n { x with digSent := some (l, h, e), digDue := u.now + 10000000000, news := x.news ++ [{ typ := mVENDOR, objs := [vdmHeader 0 1 8, l, h, e], act := .none }] }) ∧
    (modeOn s n 1 = false → Completes (.digestSend n) s fun u => u = s) ∧
    (modeOn s n 1 = true → isSnk s n = true → x.own = none → Completes (.syncSend n) s fun u => u.now = max s.now x.syncDue ∧
      u = setTl { s with now := u.now } n { x with syncDue := u.now + 1000000000, own := some (.vdm 9 1), ownDue := none, news := x.news ++ [{ typ := mVENDOR, objs := [vdmHeader 0 1 9], act := .syncReq }] }) ∧
    (modeOn s n 1 = false ∨ isSnk s n = false → Completes (.syncSend n) s fun u => u = s) ∧
    (modeOn s n 3 = true → ∀ (vs e : Nat) (w : Rat) (pb res : Int) (c : Bool), w = max s.lad.pb 0 → vs = (tabGet (fun _ => ({} : Conv)) s.legs (4 + n)).vb → pb = getI s PT_LOAD_P_BUDGET →
      res = getF s PT_RES_RES_AVAIL → e = (if isSrc s n = true ∧ 0 < vs then min (getF s (TL_CONTRACT_CI n)) (w * 100000 / (vs : Rat)).floor.toNat else 0) →
      (c = true ↔ ∀ o, x.budSent = some o → o.1.natAbs < 20 * ((e : Int) - o.1).natAbs ∨ o.2.1.natAbs < 20 * (pb - o.2.1).natAbs ∨ o.2.2.natAbs < 20 * (res - o.2.2).natAbs) →
      Completes (.budgetSend n) s fun u => u.now = (if c = true then s.now else max s.now x.budDue) ∧
        u = setTl { s with now := u.now } n { x with budSent := some (e, pb, res), budDue := u.now + 1000000000, news := x.news ++ [{ typ := mVENDOR, objs := [vdmHeader 0 3 8, BitVec.ofNat 32 (e * 65536 + getF s LD_STATUS_RES_OK * 32768), BitVec.ofInt 32 pb, BitVec.ofInt 32 res], act := .none }] }) ∧
    (modeOn s n 3 = false → Completes (.budgetSend n) s fun u => u = s)) ∧
  (tlOn s n = false ∨ attached s n = false → ∀ i ∈ [Instr.vendor n, .vdmTimeout n, .digestSend n, .syncSend n, .budgetSend n], Completes i s fun u => u = s) ∧
  (∀ v, tlOn s n = false ∨ flag s (TL_CFG_LOCK n) = true → Completes (.tlCctrlWrite n v) s fun u => u = s) ∧
  (∀ v, tlOn s n = true → flag s (TL_CFG_LOCK n) = false → Completes (.tlCctrlWrite n v) s fun u => OnlyPort n s u ∧ rd u (TL_CCTRL n) = v &&& 0x0071FC00 ∧
    ∀ cleared : Nat → Prop, (∀ k, cleared k ↔ (1 ≤ k ∧ k ≤ 3 ∧ attached s n = true ∧ modeEn s n k = true ∧ modeEn u n k = false)) →
    (∀ k, 1 ≤ k → k ≤ 3 → (cleared k → modeOn u n k = false ∧ (modeOn s n k = true → (rd u (TL_CEVENT n)).getLsbD 9 = true)) ∧
      (¬ cleared k → modeOn u n k = modeOn s n k)) ∧
    (∀ m, cleared m → (∀ k, k ≠ m → ¬ cleared k) → x.own = none →
      (tl u n).own = some (.vdm 3 m) ∧ (tl u n).news = x.news ++ [{ typ := mVENDOR, objs := [vdmHeader 0 m 3], act := .none }]) ∧
    ((∀ k, ¬ cleared k) → x.own = none →
      (isSnk s n = true → pidValid s n = true → x.identSent = true → (∃ k, 1 ≤ k ∧ k ≤ 3 ∧ modeEn s n k = false ∧ modeEn u n k = true) →
        (tl u n).own = some (.vdm 1 0) ∧ (tl u n).news = x.news ++ [{ typ := mVENDOR, objs := [vdmHeader 0 0 1], act := .none }]) ∧
      (isSnk s n = false ∨ pidValid s n = false ∨ x.identSent = false ∨ (∀ k, 1 ≤ k → k ≤ 3 → modeEn u n k = true → modeEn s n k = true) → tl u n = x)))

/-- The block's queue: first in, first out. Idling on an empty queue is the model's choice (log entry 4). -/
def Obligations.AStepRunsTheFrontCommand : Prop :=
  (∀ (s : State) (c : Instr) (rest : List Instr), s.pending = c :: rest → step s = exec c { s with pending := rest }) ∧
  (∀ s : State, s.pending = [] → step s = .next s)

/-- R17, R335, R475, R476, R484: the reset state. Moment and part: log entries 6 and 7. -/
def Obligations.TheResetStateIsSafe : Prop :=
  Safe State.reset ∧ State.reset.pending = [] ∧ State.reset.words = [] ∧ State.reset.pw.dom = 0 ∧ State.reset.pw.done = 0 ∧
  (∀ e ∈ [(GL_IDENT, 0x5A011101), (GL_MPCFG, 0x7), (WD_CFG, 0x80078), (WD_PERIOD, 0x3203E8), (LD_STALE, 0x1F4), (CR_SWEEP, 0x3C), (SV_CTRL, 0x10000),
    (FC_CE, 0x780000), (FC_ESCUSE, 0), (TM_SHCHK, 0x1E320000), (TM_TAMPCFG, 0), (TM_TAMPLAT, 0), (PP_EVENT, 0), (HI_EVENT, 0)], rd State.reset e.1 = e.2) ∧
  (∀ n < 8, rd State.reset (TL_CFG n) = 0x3 ∧ rd State.reset (TL_CCTRL n) = 0x400 ∧ rd State.reset (TL_PLINKID n) = 0 ∧
    (rd State.reset (TL_LINKID n)).extractLsb' 3 29 = Config.serial ∧ getF State.reset ⟨TL_LINKID n, 0, 3⟩ = n ∧ astate State.reset n = aDISABLED) ∧
  (∀ n < 4, flag State.reset (SP_STATUS_ACTIVE n) = false ∧ flag State.reset (SP_STATUS_LOCKOUT n) = false) ∧
  armed State.reset = false ∧ droopOn State.reset = false

/-- Every command of the table completes from every state, and none changes the queue, the part or the fuses. -/
def Obligations.EveryStepKeepsTheMachineSafe : Prop := ∀ s : State, Safe s →
  ∃ t, step s = .next t ∧ Safe t ∧ t.pending = s.pending.tail ∧ t.part = s.part ∧ t.fuses = s.fuses
end

