-- ==== Sys2Proof/Laws/Tables.lean ====
section
/-! SUPPORT. Laws of the sparse tables and of the word store: a read after a write, and the canonical form that every
write keeps. -/

namespace Sys2Proof.Machine

variable {α : Type}

theorem tabGet_tabDel_ne (d : Nat → α) (t : Tab α) {i j : Nat} (h : j ≠ i) : tabGet d (tabDel i t) j = tabGet d t j := by
  induction t with
  | nil => rfl
  | cons e t ih =>
    by_cases hk : e.1 = i
    · have hj : ¬ j = e.1 := fun hj => h (hj.trans hk)
      simp [tabDel, hk, tabGet, h] at ih ⊢
      exact ih
    · simp only [tabDel, List.filter_cons, hk, ne_eq, not_false_eq_true, decide_true, if_true, tabGet] at ih ⊢
      rw [ih]

theorem tabGet_tabDel_self (d : Nat → α) (t : Tab α) (i : Nat) : tabGet d (tabDel i t) i = d i := by
  induction t with
  | nil => rfl
  | cons e t ih =>
    by_cases hk : e.1 = i
    · simpa [tabDel, hk] using ih
    · have hi : ¬ i = e.1 := fun hi => hk hi.symm
      simpa [tabDel, hk, tabGet, hi] using ih

theorem tabGet_tabIns_self (d : Nat → α) (t : Tab α) (i : Nat) (v : α) (h : ∀ e ∈ t, e.1 ≠ i) :
    tabGet d (tabIns i v t) i = v := by
  induction t with
  | nil => simp [tabIns, tabGet]
  | cons e t ih =>
    have hi : ¬ i = e.1 := fun hi => h e (by simp) hi.symm
    unfold tabIns
    split
    · simp [tabGet]
    · simp only [tabGet, hi, if_false]
      exact ih (fun e he => h e (by simp [he]))

theorem tabGet_tabIns_ne (d : Nat → α) (t : Tab α) {i j : Nat} (v : α) (h : j ≠ i) :
    tabGet d (tabIns i v t) j = tabGet d t j := by
  induction t with
  | nil => simp [tabIns, tabGet, h]
  | cons e t ih =>
    unfold tabIns
    split
    · simp [tabGet, h]
    · simp only [tabGet, ih]

theorem mem_tabDel {i : Nat} {t : Tab α} : ∀ e ∈ tabDel i t, e.1 ≠ i := by
  intro e he
  simpa using (List.mem_filter.mp he).2

variable [DecidableEq α]

/-- A table reads the value last written at a key. -/
@[simp] theorem tabGet_tabSet_self (d : Nat → α) (t : Tab α) (i : Nat) (v : α) : tabGet d (tabSet d t i v) i = v := by
  unfold tabSet
  split
  · next h => rw [h]; exact tabGet_tabDel_self d t i
  · exact tabGet_tabIns_self d _ i v mem_tabDel

/-- A write leaves every other key alone. -/
theorem tabGet_tabSet_ne (d : Nat → α) (t : Tab α) {i j : Nat} (v : α) (h : j ≠ i) :
    tabGet d (tabSet d t i v) j = tabGet d t j := by
  unfold tabSet
  split
  · exact tabGet_tabDel_ne d t h
  · rw [tabGet_tabIns_ne d _ v h, tabGet_tabDel_ne d t h]

theorem tabGet_tabSet (d : Nat → α) (t : Tab α) (i j : Nat) (v : α) :
    tabGet d (tabSet d t i v) j = if j = i then v else tabGet d t j := by
  split
  · next h => rw [h]; exact tabGet_tabSet_self d t i v
  · next h => exact tabGet_tabSet_ne d t v h

/-! ## The canonical form -/

theorem tabWfFrom_mono (d : Nat → α) (t : Tab α) (k : Nat) (h : tabWfFrom d (some k) t = true) (l : Nat) (hl : l ≤ k) :
    tabWfFrom d (some l) t = true := by
  cases t with
  | nil => rfl
  | cons e t =>
    simp only [tabWfFrom, Bool.and_eq_true, decide_eq_true_eq] at h ⊢
    exact ⟨⟨by omega, h.1.2⟩, h.2⟩

theorem tabWfFrom_none (d : Nat → α) (t : Tab α) (k : Nat) (h : tabWfFrom d (some k) t = true) : tabWfFrom d none t = true := by
  cases t with
  | nil => rfl
  | cons e t =>
    simp only [tabWfFrom, Bool.and_eq_true, decide_eq_true_eq] at h ⊢
    exact ⟨⟨trivial, h.1.2⟩, h.2⟩

theorem tabWfFrom_filter (d : Nat → α) (p : Nat × α → Bool) (t : Tab α) (lo : Option Nat) (h : tabWfFrom d lo t = true) :
    tabWfFrom d lo (t.filter p) = true := by
  induction t generalizing lo with
  | nil => rfl
  | cons e t ih =>
    obtain ⟨k, v⟩ := e
    simp only [tabWfFrom, Bool.and_eq_true, decide_eq_true_eq] at h
    rw [List.filter_cons]
    split
    · simp only [tabWfFrom, Bool.and_eq_true, decide_eq_true_eq]
      exact ⟨h.1, ih _ h.2⟩
    · refine ih lo ?_
      cases lo with
      | none => exact tabWfFrom_none d t k h.2
      | some l => exact tabWfFrom_mono d t k h.2 l (Nat.le_of_lt (of_decide_eq_true h.1.1))

/-- A table stays canonical when entries are taken out. -/
theorem tabWf_filter (d : Nat → α) (p : Nat × α → Bool) (t : Tab α) (h : tabWf d t = true) : tabWf d (t.filter p) = true :=
  tabWfFrom_filter d p t none h

theorem tabWfFrom_tabIns (d : Nat → α) (t : Tab α) (lo : Option Nat) (i : Nat) (v : α) (hv : v ≠ d i)
    (hlo : ∀ l, lo = some l → l < i) (hi : ∀ e ∈ t, e.1 ≠ i) (h : tabWfFrom d lo t = true) :
    tabWfFrom d lo (tabIns i v t) = true := by
  induction t generalizing lo with
  | nil =>
    cases lo with
    | none => simp [tabIns, tabWfFrom, hv]
    | some l => simp [tabIns, tabWfFrom, hv, hlo l rfl]
  | cons e t ih =>
    obtain ⟨k, w⟩ := e
    have hne : k ≠ i := hi (k, w) (by simp)
    simp only [tabWfFrom, Bool.and_eq_true, decide_eq_true_eq] at h
    unfold tabIns
    split
    · next hik =>
      simp only [tabWfFrom, Bool.and_eq_true, decide_eq_true_eq]
      refine ⟨⟨?_, hv⟩, ⟨hik, h.1.2⟩, h.2⟩
      cases lo with
      | none => rfl
      | some l => simpa using hlo l rfl
    · next hik =>
      simp only [tabWfFrom, Bool.and_eq_true, decide_eq_true_eq]
      refine ⟨h.1, ih (some k) ?_ (fun e he => hi e (by simp [he])) h.2⟩
      intro l hl
      cases hl
      omega

/-- Every write keeps the canonical form. -/
theorem tabWf_tabSet (d : Nat → α) (t : Tab α) (i : Nat) (v : α) (h : tabWf d t = true) : tabWf d (tabSet d t i v) = true := by
  unfold tabSet
  split
  · exact tabWf_filter d _ t h
  · next hv =>
    exact tabWfFrom_tabIns d _ none i v hv (fun l hl => by cases hl) mem_tabDel (tabWf_filter d _ t h)

/-! ## The word store -/

@[simp] theorem rd_wr_self (s : State) (a : Nat) (v : Word) : rd (wr s a v) a = v := tabGet_tabSet_self _ _ _ _

theorem rd_wr_ne (s : State) {a b : Nat} (v : Word) (h : b ≠ a) : rd (wr s a v) b = rd s b := tabGet_tabSet_ne _ _ _ h

theorem rd_wr (s : State) (a b : Nat) (v : Word) : rd (wr s a v) b = if b = a then v else rd s b := tabGet_tabSet _ _ _ _ _

theorem rd_setF_ne (s : State) (f : Fld) (v b : Nat) (h : b ≠ f.addr) : rd (setF s f v) b = rd s b := rd_wr_ne s _ h

/-- Bits of a word after some of its bits are replaced. -/
theorem getLsbD_setBits (w : Word) (lo n v i : Nat) :
    (setBits w lo n v).getLsbD i =
      if lo ≤ i ∧ i < lo + n then (decide (i < 32) && v.testBit (i - lo)) else w.getLsbD i := by
  unfold setBits
  simp only [BitVec.getLsbD_or, BitVec.getLsbD_and, BitVec.getLsbD_not, BitVec.getLsbD_shiftLeft, BitVec.getLsbD_ofNat,
    Nat.testBit_two_pow_sub_one, Nat.testBit_mod_two_pow]
  by_cases hi : i < 32
  · by_cases h1 : lo ≤ i
    · by_cases h2 : i < lo + n
      · have h3 : i - lo < n := by omega
        have h4 : i - lo < 32 := by omega
        simp [hi, h1, h2, h3, h4, Nat.not_lt.mpr h1]
      · have h3 : ¬ i - lo < n := by omega
        simp [hi, h1, h2, h3]
    · have h3 : i < lo := by omega
      have h4 : ¬ (lo ≤ i ∧ i < lo + n) := by omega
      simp [hi, h3, h4]
  · have : w.getLsbD i = false := BitVec.getLsbD_of_ge w i (by omega)
    simp [hi, this]

/-- A field reads the low bits of the number last written to it. -/
theorem bits_setBits_self (w : Word) (lo n v : Nat) (h : lo + n ≤ 32) : bits (setBits w lo n v) lo n = v % 2 ^ n := by
  apply Nat.eq_of_testBit_eq
  intro i
  unfold bits
  rw [← BitVec.getLsbD, BitVec.getLsbD_extractLsb', getLsbD_setBits, Nat.testBit_mod_two_pow]
  by_cases hi : i < n
  · have h1 : lo ≤ lo + i ∧ lo + i < lo + n := by omega
    have h2 : lo + i < 32 := by omega
    simp [hi, h2]
  · simp [hi]

/-- A field that shares no bit with the one written keeps its value. -/
theorem bits_setBits_ne (w : Word) (lo n v lo' n' : Nat) (h : lo' + n' ≤ lo ∨ lo + n ≤ lo') :
    bits (setBits w lo n v) lo' n' = bits w lo' n' := by
  apply Nat.eq_of_testBit_eq
  intro i
  unfold bits
  rw [← BitVec.getLsbD, ← BitVec.getLsbD, BitVec.getLsbD_extractLsb', BitVec.getLsbD_extractLsb', getLsbD_setBits]
  by_cases hi : i < n'
  · have h1 : ¬ (lo ≤ lo' + i ∧ lo' + i < lo + n) := by omega
    simp [h1]
  · simp [hi]

/-- A field reads the low bits of the number last written to it. -/
theorem getF_setF_self (s : State) (f : Fld) (v : Nat) (h : f.lo + f.wid ≤ 32) : getF (setF s f v) f = v % 2 ^ f.wid := by
  unfold getF setF
  rw [rd_wr_self]
  exact bits_setBits_self _ _ _ _ h

theorem getF_setF_addr (s : State) (f g : Fld) (v : Nat) (h : g.addr ≠ f.addr) : getF (setF s f v) g = getF s g := by
  unfold getF setF
  rw [rd_wr_ne _ _ h]

/-- A field keeps its value when another field is written. -/
theorem getF_setF_ne (s : State) (f g : Fld) (v : Nat) (h : g.addr ≠ f.addr ∨ g.lo + g.wid ≤ f.lo ∨ f.lo + f.wid ≤ g.lo) :
    getF (setF s f v) g = getF s g := by
  by_cases ha : g.addr = f.addr
  · unfold getF setF
    rw [ha, rd_wr_self]
    exact bits_setBits_ne _ _ _ _ _ _ (h.resolve_left (fun hn => hn ha))
  · exact getF_setF_addr s f g v ha

end Sys2Proof.Machine
end

