-- ==== Sys2Proof/Laws/State.lean ====
section
/-! SUPPORT. The fields of State that each update of Ops.lean leaves alone, one lemma a field, and what each update reads
back. -/

namespace Sys2Proof.Machine

variable (s : State)

@[simp] theorem wr_part (a : Nat) (v : Word) : (wr s a v).part = s.part := (rfl)
@[simp] theorem wr_now (a : Nat) (v : Word) : (wr s a v).now = s.now := rfl
@[simp] theorem wr_snap (a : Nat) (v : Word) : (wr s a v).snap = s.snap := rfl
@[simp] theorem wr_tickAt (a : Nat) (v : Word) : (wr s a v).tickAt = s.tickAt := rfl
@[simp] theorem wr_fabrics (a : Nat) (v : Word) : (wr s a v).fabrics = s.fabrics := rfl
@[simp] theorem wr_pw (a : Nat) (v : Word) : (wr s a v).pw = s.pw := rfl
@[simp] theorem wr_pp (a : Nat) (v : Word) : (wr s a v).pp = s.pp := rfl
@[simp] theorem wr_fq (a : Nat) (v : Word) : (wr s a v).fq = s.fq := rfl
@[simp] theorem wr_fc (a : Nat) (v : Word) : (wr s a v).fc = s.fc := rfl
@[simp] theorem wr_bb (a : Nat) (v : Word) : (wr s a v).bb = s.bb := rfl
@[simp] theorem wr_hi (a : Nat) (v : Word) : (wr s a v).hi = s.hi := rfl
@[simp] theorem wr_mp (a : Nat) (v : Word) : (wr s a v).mp = s.mp := rfl
@[simp] theorem wr_trc (a : Nat) (v : Word) : (wr s a v).trc = s.trc := rfl
@[simp] theorem wr_atst (a : Nat) (v : Word) : (wr s a v).atst = s.atst := rfl
@[simp] theorem wr_chans (a : Nat) (v : Word) : (wr s a v).chans = s.chans := rfl
@[simp] theorem wr_flasks (a : Nat) (v : Word) : (wr s a v).flasks = s.flasks := rfl
@[simp] theorem wr_regs (a : Nat) (v : Word) : (wr s a v).regs = s.regs := rfl
@[simp] theorem wr_lad (a : Nat) (v : Word) : (wr s a v).lad = s.lad := rfl
@[simp] theorem wr_tls (a : Nat) (v : Word) : (wr s a v).tls = s.tls := rfl
@[simp] theorem wr_tlHost (a : Nat) (v : Word) : (wr s a v).tlHost = s.tlHost := rfl
@[simp] theorem wr_ests (a : Nat) (v : Word) : (wr s a v).ests = s.ests := rfl
@[simp] theorem wr_recs (a : Nat) (v : Word) : (wr s a v).recs = s.recs := rfl
@[simp] theorem wr_sweeps (a : Nat) (v : Word) : (wr s a v).sweeps = s.sweeps := rfl
@[simp] theorem wr_fuses (a : Nat) (v : Word) : (wr s a v).fuses = s.fuses := rfl
@[simp] theorem wr_wd (a : Nat) (v : Word) : (wr s a v).wd = s.wd := rfl
@[simp] theorem wr_sv (a : Nat) (v : Word) : (wr s a v).sv = s.sv := rfl
@[simp] theorem wr_fw (a : Nat) (v : Word) : (wr s a v).fw = s.fw := rfl
@[simp] theorem wr_site (a : Nat) (v : Word) : (wr s a v).site = s.site := rfl
@[simp] theorem wr_tel (a : Nat) (v : Word) : (wr s a v).tel = s.tel := rfl
@[simp] theorem wr_calWaits (a : Nat) (v : Word) : (wr s a v).calWaits = s.calWaits := rfl
@[simp] theorem wr_legs (a : Nat) (v : Word) : (wr s a v).legs = s.legs := rfl
@[simp] theorem wr_legCal (a : Nat) (v : Word) : (wr s a v).legCal = s.legCal := rfl
@[simp] theorem wr_calConvs (a : Nat) (v : Word) : (wr s a v).calConvs = s.calConvs := rfl
@[simp] theorem wr_free (a : Nat) (v : Word) : (wr s a v).free = s.free := rfl
@[simp] theorem wr_out (a : Nat) (v : Word) : (wr s a v).out = s.out := rfl
@[simp] theorem wr_pending (a : Nat) (v : Word) : (wr s a v).pending = s.pending := rfl

@[simp] theorem resetWords_part (p : Nat → Bool) : (resetWords s p).part = s.part := (rfl)
@[simp] theorem resetWords_now (p : Nat → Bool) : (resetWords s p).now = s.now := rfl
@[simp] theorem resetWords_snap (p : Nat → Bool) : (resetWords s p).snap = s.snap := rfl
@[simp] theorem resetWords_tickAt (p : Nat → Bool) : (resetWords s p).tickAt = s.tickAt := rfl
@[simp] theorem resetWords_fabrics (p : Nat → Bool) : (resetWords s p).fabrics = s.fabrics := rfl
@[simp] theorem resetWords_pw (p : Nat → Bool) : (resetWords s p).pw = s.pw := rfl
@[simp] theorem resetWords_pp (p : Nat → Bool) : (resetWords s p).pp = s.pp := rfl
@[simp] theorem resetWords_fq (p : Nat → Bool) : (resetWords s p).fq = s.fq := rfl
@[simp] theorem resetWords_fc (p : Nat → Bool) : (resetWords s p).fc = s.fc := rfl
@[simp] theorem resetWords_bb (p : Nat → Bool) : (resetWords s p).bb = s.bb := rfl
@[simp] theorem resetWords_hi (p : Nat → Bool) : (resetWords s p).hi = s.hi := rfl
@[simp] theorem resetWords_mp (p : Nat → Bool) : (resetWords s p).mp = s.mp := rfl
@[simp] theorem resetWords_trc (p : Nat → Bool) : (resetWords s p).trc = s.trc := rfl
@[simp] theorem resetWords_atst (p : Nat → Bool) : (resetWords s p).atst = s.atst := rfl
@[simp] theorem resetWords_chans (p : Nat → Bool) : (resetWords s p).chans = s.chans := rfl
@[simp] theorem resetWords_flasks (p : Nat → Bool) : (resetWords s p).flasks = s.flasks := rfl
@[simp] theorem resetWords_regs (p : Nat → Bool) : (resetWords s p).regs = s.regs := rfl
@[simp] theorem resetWords_lad (p : Nat → Bool) : (resetWords s p).lad = s.lad := rfl
@[simp] theorem resetWords_tls (p : Nat → Bool) : (resetWords s p).tls = s.tls := rfl
@[simp] theorem resetWords_tlHost (p : Nat → Bool) : (resetWords s p).tlHost = s.tlHost := rfl
@[simp] theorem resetWords_ests (p : Nat → Bool) : (resetWords s p).ests = s.ests := rfl
@[simp] theorem resetWords_recs (p : Nat → Bool) : (resetWords s p).recs = s.recs := rfl
@[simp] theorem resetWords_sweeps (p : Nat → Bool) : (resetWords s p).sweeps = s.sweeps := rfl
@[simp] theorem resetWords_fuses (p : Nat → Bool) : (resetWords s p).fuses = s.fuses := rfl
@[simp] theorem resetWords_wd (p : Nat → Bool) : (resetWords s p).wd = s.wd := rfl
@[simp] theorem resetWords_sv (p : Nat → Bool) : (resetWords s p).sv = s.sv := rfl
@[simp] theorem resetWords_fw (p : Nat → Bool) : (resetWords s p).fw = s.fw := rfl
@[simp] theorem resetWords_site (p : Nat → Bool) : (resetWords s p).site = s.site := rfl
@[simp] theorem resetWords_tel (p : Nat → Bool) : (resetWords s p).tel = s.tel := rfl
@[simp] theorem resetWords_calWaits (p : Nat → Bool) : (resetWords s p).calWaits = s.calWaits := rfl
@[simp] theorem resetWords_legs (p : Nat → Bool) : (resetWords s p).legs = s.legs := rfl
@[simp] theorem resetWords_legCal (p : Nat → Bool) : (resetWords s p).legCal = s.legCal := rfl
@[simp] theorem resetWords_calConvs (p : Nat → Bool) : (resetWords s p).calConvs = s.calConvs := rfl
@[simp] theorem resetWords_free (p : Nat → Bool) : (resetWords s p).free = s.free := rfl
@[simp] theorem resetWords_out (p : Nat → Bool) : (resetWords s p).out = s.out := rfl
@[simp] theorem resetWords_pending (p : Nat → Bool) : (resetWords s p).pending = s.pending := rfl

@[simp] theorem setF_part (f : Fld) (v : Nat) : (setF s f v).part = s.part := (rfl)
@[simp] theorem setF_now (f : Fld) (v : Nat) : (setF s f v).now = s.now := rfl
@[simp] theorem setF_snap (f : Fld) (v : Nat) : (setF s f v).snap = s.snap := rfl
@[simp] theorem setF_tickAt (f : Fld) (v : Nat) : (setF s f v).tickAt = s.tickAt := rfl
@[simp] theorem setF_fabrics (f : Fld) (v : Nat) : (setF s f v).fabrics = s.fabrics := rfl
@[simp] theorem setF_pw (f : Fld) (v : Nat) : (setF s f v).pw = s.pw := rfl
@[simp] theorem setF_pp (f : Fld) (v : Nat) : (setF s f v).pp = s.pp := rfl
@[simp] theorem setF_fq (f : Fld) (v : Nat) : (setF s f v).fq = s.fq := rfl
@[simp] theorem setF_fc (f : Fld) (v : Nat) : (setF s f v).fc = s.fc := rfl
@[simp] theorem setF_bb (f : Fld) (v : Nat) : (setF s f v).bb = s.bb := rfl
@[simp] theorem setF_hi (f : Fld) (v : Nat) : (setF s f v).hi = s.hi := rfl
@[simp] theorem setF_mp (f : Fld) (v : Nat) : (setF s f v).mp = s.mp := rfl
@[simp] theorem setF_trc (f : Fld) (v : Nat) : (setF s f v).trc = s.trc := rfl
@[simp] theorem setF_atst (f : Fld) (v : Nat) : (setF s f v).atst = s.atst := rfl
@[simp] theorem setF_chans (f : Fld) (v : Nat) : (setF s f v).chans = s.chans := rfl
@[simp] theorem setF_flasks (f : Fld) (v : Nat) : (setF s f v).flasks = s.flasks := rfl
@[simp] theorem setF_regs (f : Fld) (v : Nat) : (setF s f v).regs = s.regs := rfl
@[simp] theorem setF_lad (f : Fld) (v : Nat) : (setF s f v).lad = s.lad := rfl
@[simp] theorem setF_tls (f : Fld) (v : Nat) : (setF s f v).tls = s.tls := rfl
@[simp] theorem setF_tlHost (f : Fld) (v : Nat) : (setF s f v).tlHost = s.tlHost := rfl
@[simp] theorem setF_ests (f : Fld) (v : Nat) : (setF s f v).ests = s.ests := rfl
@[simp] theorem setF_recs (f : Fld) (v : Nat) : (setF s f v).recs = s.recs := rfl
@[simp] theorem setF_sweeps (f : Fld) (v : Nat) : (setF s f v).sweeps = s.sweeps := rfl
@[simp] theorem setF_fuses (f : Fld) (v : Nat) : (setF s f v).fuses = s.fuses := rfl
@[simp] theorem setF_wd (f : Fld) (v : Nat) : (setF s f v).wd = s.wd := rfl
@[simp] theorem setF_sv (f : Fld) (v : Nat) : (setF s f v).sv = s.sv := rfl
@[simp] theorem setF_fw (f : Fld) (v : Nat) : (setF s f v).fw = s.fw := rfl
@[simp] theorem setF_site (f : Fld) (v : Nat) : (setF s f v).site = s.site := rfl
@[simp] theorem setF_tel (f : Fld) (v : Nat) : (setF s f v).tel = s.tel := rfl
@[simp] theorem setF_calWaits (f : Fld) (v : Nat) : (setF s f v).calWaits = s.calWaits := rfl
@[simp] theorem setF_legs (f : Fld) (v : Nat) : (setF s f v).legs = s.legs := rfl
@[simp] theorem setF_legCal (f : Fld) (v : Nat) : (setF s f v).legCal = s.legCal := rfl
@[simp] theorem setF_calConvs (f : Fld) (v : Nat) : (setF s f v).calConvs = s.calConvs := rfl
@[simp] theorem setF_free (f : Fld) (v : Nat) : (setF s f v).free = s.free := rfl
@[simp] theorem setF_out (f : Fld) (v : Nat) : (setF s f v).out = s.out := rfl
@[simp] theorem setF_pending (f : Fld) (v : Nat) : (setF s f v).pending = s.pending := rfl

@[simp] theorem setI_part (f : Fld) (v : Int) : (setI s f v).part = s.part := (rfl)
@[simp] theorem setI_now (f : Fld) (v : Int) : (setI s f v).now = s.now := rfl
@[simp] theorem setI_snap (f : Fld) (v : Int) : (setI s f v).snap = s.snap := rfl
@[simp] theorem setI_tickAt (f : Fld) (v : Int) : (setI s f v).tickAt = s.tickAt := rfl
@[simp] theorem setI_fabrics (f : Fld) (v : Int) : (setI s f v).fabrics = s.fabrics := rfl
@[simp] theorem setI_pw (f : Fld) (v : Int) : (setI s f v).pw = s.pw := rfl
@[simp] theorem setI_pp (f : Fld) (v : Int) : (setI s f v).pp = s.pp := rfl
@[simp] theorem setI_fq (f : Fld) (v : Int) : (setI s f v).fq = s.fq := rfl
@[simp] theorem setI_fc (f : Fld) (v : Int) : (setI s f v).fc = s.fc := rfl
@[simp] theorem setI_bb (f : Fld) (v : Int) : (setI s f v).bb = s.bb := rfl
@[simp] theorem setI_hi (f : Fld) (v : Int) : (setI s f v).hi = s.hi := rfl
@[simp] theorem setI_mp (f : Fld) (v : Int) : (setI s f v).mp = s.mp := rfl
@[simp] theorem setI_trc (f : Fld) (v : Int) : (setI s f v).trc = s.trc := rfl
@[simp] theorem setI_atst (f : Fld) (v : Int) : (setI s f v).atst = s.atst := rfl
@[simp] theorem setI_chans (f : Fld) (v : Int) : (setI s f v).chans = s.chans := rfl
@[simp] theorem setI_flasks (f : Fld) (v : Int) : (setI s f v).flasks = s.flasks := rfl
@[simp] theorem setI_regs (f : Fld) (v : Int) : (setI s f v).regs = s.regs := rfl
@[simp] theorem setI_lad (f : Fld) (v : Int) : (setI s f v).lad = s.lad := rfl
@[simp] theorem setI_tls (f : Fld) (v : Int) : (setI s f v).tls = s.tls := rfl
@[simp] theorem setI_tlHost (f : Fld) (v : Int) : (setI s f v).tlHost = s.tlHost := rfl
@[simp] theorem setI_ests (f : Fld) (v : Int) : (setI s f v).ests = s.ests := rfl
@[simp] theorem setI_recs (f : Fld) (v : Int) : (setI s f v).recs = s.recs := rfl
@[simp] theorem setI_sweeps (f : Fld) (v : Int) : (setI s f v).sweeps = s.sweeps := rfl
@[simp] theorem setI_fuses (f : Fld) (v : Int) : (setI s f v).fuses = s.fuses := rfl
@[simp] theorem setI_wd (f : Fld) (v : Int) : (setI s f v).wd = s.wd := rfl
@[simp] theorem setI_sv (f : Fld) (v : Int) : (setI s f v).sv = s.sv := rfl
@[simp] theorem setI_fw (f : Fld) (v : Int) : (setI s f v).fw = s.fw := rfl
@[simp] theorem setI_site (f : Fld) (v : Int) : (setI s f v).site = s.site := rfl
@[simp] theorem setI_tel (f : Fld) (v : Int) : (setI s f v).tel = s.tel := rfl
@[simp] theorem setI_calWaits (f : Fld) (v : Int) : (setI s f v).calWaits = s.calWaits := rfl
@[simp] theorem setI_legs (f : Fld) (v : Int) : (setI s f v).legs = s.legs := rfl
@[simp] theorem setI_legCal (f : Fld) (v : Int) : (setI s f v).legCal = s.legCal := rfl
@[simp] theorem setI_calConvs (f : Fld) (v : Int) : (setI s f v).calConvs = s.calConvs := rfl
@[simp] theorem setI_free (f : Fld) (v : Int) : (setI s f v).free = s.free := rfl
@[simp] theorem setI_out (f : Fld) (v : Int) : (setI s f v).out = s.out := rfl
@[simp] theorem setI_pending (f : Fld) (v : Int) : (setI s f v).pending = s.pending := rfl

@[simp] theorem setFlag_part (f : Fld) (b : Bool) : (setFlag s f b).part = s.part := (rfl)
@[simp] theorem setFlag_now (f : Fld) (b : Bool) : (setFlag s f b).now = s.now := rfl
@[simp] theorem setFlag_snap (f : Fld) (b : Bool) : (setFlag s f b).snap = s.snap := rfl
@[simp] theorem setFlag_tickAt (f : Fld) (b : Bool) : (setFlag s f b).tickAt = s.tickAt := rfl
@[simp] theorem setFlag_fabrics (f : Fld) (b : Bool) : (setFlag s f b).fabrics = s.fabrics := rfl
@[simp] theorem setFlag_pw (f : Fld) (b : Bool) : (setFlag s f b).pw = s.pw := rfl
@[simp] theorem setFlag_pp (f : Fld) (b : Bool) : (setFlag s f b).pp = s.pp := rfl
@[simp] theorem setFlag_fq (f : Fld) (b : Bool) : (setFlag s f b).fq = s.fq := rfl
@[simp] theorem setFlag_fc (f : Fld) (b : Bool) : (setFlag s f b).fc = s.fc := rfl
@[simp] theorem setFlag_bb (f : Fld) (b : Bool) : (setFlag s f b).bb = s.bb := rfl
@[simp] theorem setFlag_hi (f : Fld) (b : Bool) : (setFlag s f b).hi = s.hi := rfl
@[simp] theorem setFlag_mp (f : Fld) (b : Bool) : (setFlag s f b).mp = s.mp := rfl
@[simp] theorem setFlag_trc (f : Fld) (b : Bool) : (setFlag s f b).trc = s.trc := rfl
@[simp] theorem setFlag_atst (f : Fld) (b : Bool) : (setFlag s f b).atst = s.atst := rfl
@[simp] theorem setFlag_chans (f : Fld) (b : Bool) : (setFlag s f b).chans = s.chans := rfl
@[simp] theorem setFlag_flasks (f : Fld) (b : Bool) : (setFlag s f b).flasks = s.flasks := rfl
@[simp] theorem setFlag_regs (f : Fld) (b : Bool) : (setFlag s f b).regs = s.regs := rfl
@[simp] theorem setFlag_lad (f : Fld) (b : Bool) : (setFlag s f b).lad = s.lad := rfl
@[simp] theorem setFlag_tls (f : Fld) (b : Bool) : (setFlag s f b).tls = s.tls := rfl
@[simp] theorem setFlag_tlHost (f : Fld) (b : Bool) : (setFlag s f b).tlHost = s.tlHost := rfl
@[simp] theorem setFlag_ests (f : Fld) (b : Bool) : (setFlag s f b).ests = s.ests := rfl
@[simp] theorem setFlag_recs (f : Fld) (b : Bool) : (setFlag s f b).recs = s.recs := rfl
@[simp] theorem setFlag_sweeps (f : Fld) (b : Bool) : (setFlag s f b).sweeps = s.sweeps := rfl
@[simp] theorem setFlag_fuses (f : Fld) (b : Bool) : (setFlag s f b).fuses = s.fuses := rfl
@[simp] theorem setFlag_wd (f : Fld) (b : Bool) : (setFlag s f b).wd = s.wd := rfl
@[simp] theorem setFlag_sv (f : Fld) (b : Bool) : (setFlag s f b).sv = s.sv := rfl
@[simp] theorem setFlag_fw (f : Fld) (b : Bool) : (setFlag s f b).fw = s.fw := rfl
@[simp] theorem setFlag_site (f : Fld) (b : Bool) : (setFlag s f b).site = s.site := rfl
@[simp] theorem setFlag_tel (f : Fld) (b : Bool) : (setFlag s f b).tel = s.tel := rfl
@[simp] theorem setFlag_calWaits (f : Fld) (b : Bool) : (setFlag s f b).calWaits = s.calWaits := rfl
@[simp] theorem setFlag_legs (f : Fld) (b : Bool) : (setFlag s f b).legs = s.legs := rfl
@[simp] theorem setFlag_legCal (f : Fld) (b : Bool) : (setFlag s f b).legCal = s.legCal := rfl
@[simp] theorem setFlag_calConvs (f : Fld) (b : Bool) : (setFlag s f b).calConvs = s.calConvs := rfl
@[simp] theorem setFlag_free (f : Fld) (b : Bool) : (setFlag s f b).free = s.free := rfl
@[simp] theorem setFlag_out (f : Fld) (b : Bool) : (setFlag s f b).out = s.out := rfl
@[simp] theorem setFlag_pending (f : Fld) (b : Bool) : (setFlag s f b).pending = s.pending := rfl

@[simp] theorem setBitF_part (f : Fld) (i : Nat) (b : Bool) : (setBitF s f i b).part = s.part := (rfl)
@[simp] theorem setBitF_now (f : Fld) (i : Nat) (b : Bool) : (setBitF s f i b).now = s.now := rfl
@[simp] theorem setBitF_snap (f : Fld) (i : Nat) (b : Bool) : (setBitF s f i b).snap = s.snap := rfl
@[simp] theorem setBitF_tickAt (f : Fld) (i : Nat) (b : Bool) : (setBitF s f i b).tickAt = s.tickAt := rfl
@[simp] theorem setBitF_fabrics (f : Fld) (i : Nat) (b : Bool) : (setBitF s f i b).fabrics = s.fabrics := rfl
@[simp] theorem setBitF_pw (f : Fld) (i : Nat) (b : Bool) : (setBitF s f i b).pw = s.pw := rfl
@[simp] theorem setBitF_pp (f : Fld) (i : Nat) (b : Bool) : (setBitF s f i b).pp = s.pp := rfl
@[simp] theorem setBitF_fq (f : Fld) (i : Nat) (b : Bool) : (setBitF s f i b).fq = s.fq := rfl
@[simp] theorem setBitF_fc (f : Fld) (i : Nat) (b : Bool) : (setBitF s f i b).fc = s.fc := rfl
@[simp] theorem setBitF_bb (f : Fld) (i : Nat) (b : Bool) : (setBitF s f i b).bb = s.bb := rfl
@[simp] theorem setBitF_hi (f : Fld) (i : Nat) (b : Bool) : (setBitF s f i b).hi = s.hi := rfl
@[simp] theorem setBitF_mp (f : Fld) (i : Nat) (b : Bool) : (setBitF s f i b).mp = s.mp := rfl
@[simp] theorem setBitF_trc (f : Fld) (i : Nat) (b : Bool) : (setBitF s f i b).trc = s.trc := rfl
@[simp] theorem setBitF_atst (f : Fld) (i : Nat) (b : Bool) : (setBitF s f i b).atst = s.atst := rfl
@[simp] theorem setBitF_chans (f : Fld) (i : Nat) (b : Bool) : (setBitF s f i b).chans = s.chans := rfl
@[simp] theorem setBitF_flasks (f : Fld) (i : Nat) (b : Bool) : (setBitF s f i b).flasks = s.flasks := rfl
@[simp] theorem setBitF_regs (f : Fld) (i : Nat) (b : Bool) : (setBitF s f i b).regs = s.regs := rfl
@[simp] theorem setBitF_lad (f : Fld) (i : Nat) (b : Bool) : (setBitF s f i b).lad = s.lad := rfl
@[simp] theorem setBitF_tls (f : Fld) (i : Nat) (b : Bool) : (setBitF s f i b).tls = s.tls := rfl
@[simp] theorem setBitF_tlHost (f : Fld) (i : Nat) (b : Bool) : (setBitF s f i b).tlHost = s.tlHost := rfl
@[simp] theorem setBitF_ests (f : Fld) (i : Nat) (b : Bool) : (setBitF s f i b).ests = s.ests := rfl
@[simp] theorem setBitF_recs (f : Fld) (i : Nat) (b : Bool) : (setBitF s f i b).recs = s.recs := rfl
@[simp] theorem setBitF_sweeps (f : Fld) (i : Nat) (b : Bool) : (setBitF s f i b).sweeps = s.sweeps := rfl
@[simp] theorem setBitF_fuses (f : Fld) (i : Nat) (b : Bool) : (setBitF s f i b).fuses = s.fuses := rfl
@[simp] theorem setBitF_wd (f : Fld) (i : Nat) (b : Bool) : (setBitF s f i b).wd = s.wd := rfl
@[simp] theorem setBitF_sv (f : Fld) (i : Nat) (b : Bool) : (setBitF s f i b).sv = s.sv := rfl
@[simp] theorem setBitF_fw (f : Fld) (i : Nat) (b : Bool) : (setBitF s f i b).fw = s.fw := rfl
@[simp] theorem setBitF_site (f : Fld) (i : Nat) (b : Bool) : (setBitF s f i b).site = s.site := rfl
@[simp] theorem setBitF_tel (f : Fld) (i : Nat) (b : Bool) : (setBitF s f i b).tel = s.tel := rfl
@[simp] theorem setBitF_calWaits (f : Fld) (i : Nat) (b : Bool) : (setBitF s f i b).calWaits = s.calWaits := rfl
@[simp] theorem setBitF_legs (f : Fld) (i : Nat) (b : Bool) : (setBitF s f i b).legs = s.legs := rfl
@[simp] theorem setBitF_legCal (f : Fld) (i : Nat) (b : Bool) : (setBitF s f i b).legCal = s.legCal := rfl
@[simp] theorem setBitF_calConvs (f : Fld) (i : Nat) (b : Bool) : (setBitF s f i b).calConvs = s.calConvs := rfl
@[simp] theorem setBitF_free (f : Fld) (i : Nat) (b : Bool) : (setBitF s f i b).free = s.free := rfl
@[simp] theorem setBitF_out (f : Fld) (i : Nat) (b : Bool) : (setBitF s f i b).out = s.out := rfl
@[simp] theorem setBitF_pending (f : Fld) (i : Nat) (b : Bool) : (setBitF s f i b).pending = s.pending := rfl

@[simp] theorem addSat_part (f : Fld) (n : Nat) : (addSat s f n).part = s.part := (rfl)
@[simp] theorem addSat_now (f : Fld) (n : Nat) : (addSat s f n).now = s.now := rfl
@[simp] theorem addSat_snap (f : Fld) (n : Nat) : (addSat s f n).snap = s.snap := rfl
@[simp] theorem addSat_tickAt (f : Fld) (n : Nat) : (addSat s f n).tickAt = s.tickAt := rfl
@[simp] theorem addSat_fabrics (f : Fld) (n : Nat) : (addSat s f n).fabrics = s.fabrics := rfl
@[simp] theorem addSat_pw (f : Fld) (n : Nat) : (addSat s f n).pw = s.pw := rfl
@[simp] theorem addSat_pp (f : Fld) (n : Nat) : (addSat s f n).pp = s.pp := rfl
@[simp] theorem addSat_fq (f : Fld) (n : Nat) : (addSat s f n).fq = s.fq := rfl
@[simp] theorem addSat_fc (f : Fld) (n : Nat) : (addSat s f n).fc = s.fc := rfl
@[simp] theorem addSat_bb (f : Fld) (n : Nat) : (addSat s f n).bb = s.bb := rfl
@[simp] theorem addSat_hi (f : Fld) (n : Nat) : (addSat s f n).hi = s.hi := rfl
@[simp] theorem addSat_mp (f : Fld) (n : Nat) : (addSat s f n).mp = s.mp := rfl
@[simp] theorem addSat_trc (f : Fld) (n : Nat) : (addSat s f n).trc = s.trc := rfl
@[simp] theorem addSat_atst (f : Fld) (n : Nat) : (addSat s f n).atst = s.atst := rfl
@[simp] theorem addSat_chans (f : Fld) (n : Nat) : (addSat s f n).chans = s.chans := rfl
@[simp] theorem addSat_flasks (f : Fld) (n : Nat) : (addSat s f n).flasks = s.flasks := rfl
@[simp] theorem addSat_regs (f : Fld) (n : Nat) : (addSat s f n).regs = s.regs := rfl
@[simp] theorem addSat_lad (f : Fld) (n : Nat) : (addSat s f n).lad = s.lad := rfl
@[simp] theorem addSat_tls (f : Fld) (n : Nat) : (addSat s f n).tls = s.tls := rfl
@[simp] theorem addSat_tlHost (f : Fld) (n : Nat) : (addSat s f n).tlHost = s.tlHost := rfl
@[simp] theorem addSat_ests (f : Fld) (n : Nat) : (addSat s f n).ests = s.ests := rfl
@[simp] theorem addSat_recs (f : Fld) (n : Nat) : (addSat s f n).recs = s.recs := rfl
@[simp] theorem addSat_sweeps (f : Fld) (n : Nat) : (addSat s f n).sweeps = s.sweeps := rfl
@[simp] theorem addSat_fuses (f : Fld) (n : Nat) : (addSat s f n).fuses = s.fuses := rfl
@[simp] theorem addSat_wd (f : Fld) (n : Nat) : (addSat s f n).wd = s.wd := rfl
@[simp] theorem addSat_sv (f : Fld) (n : Nat) : (addSat s f n).sv = s.sv := rfl
@[simp] theorem addSat_fw (f : Fld) (n : Nat) : (addSat s f n).fw = s.fw := rfl
@[simp] theorem addSat_site (f : Fld) (n : Nat) : (addSat s f n).site = s.site := rfl
@[simp] theorem addSat_tel (f : Fld) (n : Nat) : (addSat s f n).tel = s.tel := rfl
@[simp] theorem addSat_calWaits (f : Fld) (n : Nat) : (addSat s f n).calWaits = s.calWaits := rfl
@[simp] theorem addSat_legs (f : Fld) (n : Nat) : (addSat s f n).legs = s.legs := rfl
@[simp] theorem addSat_legCal (f : Fld) (n : Nat) : (addSat s f n).legCal = s.legCal := rfl
@[simp] theorem addSat_calConvs (f : Fld) (n : Nat) : (addSat s f n).calConvs = s.calConvs := rfl
@[simp] theorem addSat_free (f : Fld) (n : Nat) : (addSat s f n).free = s.free := rfl
@[simp] theorem addSat_out (f : Fld) (n : Nat) : (addSat s f n).out = s.out := rfl
@[simp] theorem addSat_pending (f : Fld) (n : Nat) : (addSat s f n).pending = s.pending := rfl

@[simp] theorem incSat_part (f : Fld) : (incSat s f).part = s.part := (rfl)
@[simp] theorem incSat_now (f : Fld) : (incSat s f).now = s.now := rfl
@[simp] theorem incSat_snap (f : Fld) : (incSat s f).snap = s.snap := rfl
@[simp] theorem incSat_tickAt (f : Fld) : (incSat s f).tickAt = s.tickAt := rfl
@[simp] theorem incSat_fabrics (f : Fld) : (incSat s f).fabrics = s.fabrics := rfl
@[simp] theorem incSat_pw (f : Fld) : (incSat s f).pw = s.pw := rfl
@[simp] theorem incSat_pp (f : Fld) : (incSat s f).pp = s.pp := rfl
@[simp] theorem incSat_fq (f : Fld) : (incSat s f).fq = s.fq := rfl
@[simp] theorem incSat_fc (f : Fld) : (incSat s f).fc = s.fc := rfl
@[simp] theorem incSat_bb (f : Fld) : (incSat s f).bb = s.bb := rfl
@[simp] theorem incSat_hi (f : Fld) : (incSat s f).hi = s.hi := rfl
@[simp] theorem incSat_mp (f : Fld) : (incSat s f).mp = s.mp := rfl
@[simp] theorem incSat_trc (f : Fld) : (incSat s f).trc = s.trc := rfl
@[simp] theorem incSat_atst (f : Fld) : (incSat s f).atst = s.atst := rfl
@[simp] theorem incSat_chans (f : Fld) : (incSat s f).chans = s.chans := rfl
@[simp] theorem incSat_flasks (f : Fld) : (incSat s f).flasks = s.flasks := rfl
@[simp] theorem incSat_regs (f : Fld) : (incSat s f).regs = s.regs := rfl
@[simp] theorem incSat_lad (f : Fld) : (incSat s f).lad = s.lad := rfl
@[simp] theorem incSat_tls (f : Fld) : (incSat s f).tls = s.tls := rfl
@[simp] theorem incSat_tlHost (f : Fld) : (incSat s f).tlHost = s.tlHost := rfl
@[simp] theorem incSat_ests (f : Fld) : (incSat s f).ests = s.ests := rfl
@[simp] theorem incSat_recs (f : Fld) : (incSat s f).recs = s.recs := rfl
@[simp] theorem incSat_sweeps (f : Fld) : (incSat s f).sweeps = s.sweeps := rfl
@[simp] theorem incSat_fuses (f : Fld) : (incSat s f).fuses = s.fuses := rfl
@[simp] theorem incSat_wd (f : Fld) : (incSat s f).wd = s.wd := rfl
@[simp] theorem incSat_sv (f : Fld) : (incSat s f).sv = s.sv := rfl
@[simp] theorem incSat_fw (f : Fld) : (incSat s f).fw = s.fw := rfl
@[simp] theorem incSat_site (f : Fld) : (incSat s f).site = s.site := rfl
@[simp] theorem incSat_tel (f : Fld) : (incSat s f).tel = s.tel := rfl
@[simp] theorem incSat_calWaits (f : Fld) : (incSat s f).calWaits = s.calWaits := rfl
@[simp] theorem incSat_legs (f : Fld) : (incSat s f).legs = s.legs := rfl
@[simp] theorem incSat_legCal (f : Fld) : (incSat s f).legCal = s.legCal := rfl
@[simp] theorem incSat_calConvs (f : Fld) : (incSat s f).calConvs = s.calConvs := rfl
@[simp] theorem incSat_free (f : Fld) : (incSat s f).free = s.free := rfl
@[simp] theorem incSat_out (f : Fld) : (incSat s f).out = s.out := rfl
@[simp] theorem incSat_pending (f : Fld) : (incSat s f).pending = s.pending := rfl

@[simp] theorem incWrap_part (f : Fld) : (incWrap s f).part = s.part := (rfl)
@[simp] theorem incWrap_now (f : Fld) : (incWrap s f).now = s.now := rfl
@[simp] theorem incWrap_snap (f : Fld) : (incWrap s f).snap = s.snap := rfl
@[simp] theorem incWrap_tickAt (f : Fld) : (incWrap s f).tickAt = s.tickAt := rfl
@[simp] theorem incWrap_fabrics (f : Fld) : (incWrap s f).fabrics = s.fabrics := rfl
@[simp] theorem incWrap_pw (f : Fld) : (incWrap s f).pw = s.pw := rfl
@[simp] theorem incWrap_pp (f : Fld) : (incWrap s f).pp = s.pp := rfl
@[simp] theorem incWrap_fq (f : Fld) : (incWrap s f).fq = s.fq := rfl
@[simp] theorem incWrap_fc (f : Fld) : (incWrap s f).fc = s.fc := rfl
@[simp] theorem incWrap_bb (f : Fld) : (incWrap s f).bb = s.bb := rfl
@[simp] theorem incWrap_hi (f : Fld) : (incWrap s f).hi = s.hi := rfl
@[simp] theorem incWrap_mp (f : Fld) : (incWrap s f).mp = s.mp := rfl
@[simp] theorem incWrap_trc (f : Fld) : (incWrap s f).trc = s.trc := rfl
@[simp] theorem incWrap_atst (f : Fld) : (incWrap s f).atst = s.atst := rfl
@[simp] theorem incWrap_chans (f : Fld) : (incWrap s f).chans = s.chans := rfl
@[simp] theorem incWrap_flasks (f : Fld) : (incWrap s f).flasks = s.flasks := rfl
@[simp] theorem incWrap_regs (f : Fld) : (incWrap s f).regs = s.regs := rfl
@[simp] theorem incWrap_lad (f : Fld) : (incWrap s f).lad = s.lad := rfl
@[simp] theorem incWrap_tls (f : Fld) : (incWrap s f).tls = s.tls := rfl
@[simp] theorem incWrap_tlHost (f : Fld) : (incWrap s f).tlHost = s.tlHost := rfl
@[simp] theorem incWrap_ests (f : Fld) : (incWrap s f).ests = s.ests := rfl
@[simp] theorem incWrap_recs (f : Fld) : (incWrap s f).recs = s.recs := rfl
@[simp] theorem incWrap_sweeps (f : Fld) : (incWrap s f).sweeps = s.sweeps := rfl
@[simp] theorem incWrap_fuses (f : Fld) : (incWrap s f).fuses = s.fuses := rfl
@[simp] theorem incWrap_wd (f : Fld) : (incWrap s f).wd = s.wd := rfl
@[simp] theorem incWrap_sv (f : Fld) : (incWrap s f).sv = s.sv := rfl
@[simp] theorem incWrap_fw (f : Fld) : (incWrap s f).fw = s.fw := rfl
@[simp] theorem incWrap_site (f : Fld) : (incWrap s f).site = s.site := rfl
@[simp] theorem incWrap_tel (f : Fld) : (incWrap s f).tel = s.tel := rfl
@[simp] theorem incWrap_calWaits (f : Fld) : (incWrap s f).calWaits = s.calWaits := rfl
@[simp] theorem incWrap_legs (f : Fld) : (incWrap s f).legs = s.legs := rfl
@[simp] theorem incWrap_legCal (f : Fld) : (incWrap s f).legCal = s.legCal := rfl
@[simp] theorem incWrap_calConvs (f : Fld) : (incWrap s f).calConvs = s.calConvs := rfl
@[simp] theorem incWrap_free (f : Fld) : (incWrap s f).free = s.free := rfl
@[simp] theorem incWrap_out (f : Fld) : (incWrap s f).out = s.out := rfl
@[simp] theorem incWrap_pending (f : Fld) : (incWrap s f).pending = s.pending := rfl

@[simp] theorem advance_part (t : Nat) : (advance s t).part = s.part := (rfl)
@[simp] theorem advance_snap (t : Nat) : (advance s t).snap = s.snap := rfl
@[simp] theorem advance_tickAt (t : Nat) : (advance s t).tickAt = s.tickAt := rfl
@[simp] theorem advance_fabrics (t : Nat) : (advance s t).fabrics = s.fabrics := rfl
@[simp] theorem advance_words (t : Nat) : (advance s t).words = s.words := rfl
@[simp] theorem advance_pw (t : Nat) : (advance s t).pw = s.pw := rfl
@[simp] theorem advance_pp (t : Nat) : (advance s t).pp = s.pp := rfl
@[simp] theorem advance_fq (t : Nat) : (advance s t).fq = s.fq := rfl
@[simp] theorem advance_fc (t : Nat) : (advance s t).fc = s.fc := rfl
@[simp] theorem advance_bb (t : Nat) : (advance s t).bb = s.bb := rfl
@[simp] theorem advance_hi (t : Nat) : (advance s t).hi = s.hi := rfl
@[simp] theorem advance_mp (t : Nat) : (advance s t).mp = s.mp := rfl
@[simp] theorem advance_trc (t : Nat) : (advance s t).trc = s.trc := rfl
@[simp] theorem advance_atst (t : Nat) : (advance s t).atst = s.atst := rfl
@[simp] theorem advance_chans (t : Nat) : (advance s t).chans = s.chans := rfl
@[simp] theorem advance_flasks (t : Nat) : (advance s t).flasks = s.flasks := rfl
@[simp] theorem advance_regs (t : Nat) : (advance s t).regs = s.regs := rfl
@[simp] theorem advance_lad (t : Nat) : (advance s t).lad = s.lad := rfl
@[simp] theorem advance_tls (t : Nat) : (advance s t).tls = s.tls := rfl
@[simp] theorem advance_tlHost (t : Nat) : (advance s t).tlHost = s.tlHost := rfl
@[simp] theorem advance_ests (t : Nat) : (advance s t).ests = s.ests := rfl
@[simp] theorem advance_recs (t : Nat) : (advance s t).recs = s.recs := rfl
@[simp] theorem advance_sweeps (t : Nat) : (advance s t).sweeps = s.sweeps := rfl
@[simp] theorem advance_fuses (t : Nat) : (advance s t).fuses = s.fuses := rfl
@[simp] theorem advance_wd (t : Nat) : (advance s t).wd = s.wd := rfl
@[simp] theorem advance_sv (t : Nat) : (advance s t).sv = s.sv := rfl
@[simp] theorem advance_fw (t : Nat) : (advance s t).fw = s.fw := rfl
@[simp] theorem advance_site (t : Nat) : (advance s t).site = s.site := rfl
@[simp] theorem advance_tel (t : Nat) : (advance s t).tel = s.tel := rfl
@[simp] theorem advance_calWaits (t : Nat) : (advance s t).calWaits = s.calWaits := rfl
@[simp] theorem advance_legs (t : Nat) : (advance s t).legs = s.legs := rfl
@[simp] theorem advance_legCal (t : Nat) : (advance s t).legCal = s.legCal := rfl
@[simp] theorem advance_calConvs (t : Nat) : (advance s t).calConvs = s.calConvs := rfl
@[simp] theorem advance_free (t : Nat) : (advance s t).free = s.free := rfl
@[simp] theorem advance_out (t : Nat) : (advance s t).out = s.out := rfl
@[simp] theorem advance_pending (t : Nat) : (advance s t).pending = s.pending := rfl

@[simp] theorem setSprue_part (n : Nat) (x : Sprue) : (setSprue s n x).part = s.part := (rfl)
@[simp] theorem setSprue_now (n : Nat) (x : Sprue) : (setSprue s n x).now = s.now := rfl
@[simp] theorem setSprue_snap (n : Nat) (x : Sprue) : (setSprue s n x).snap = s.snap := rfl
@[simp] theorem setSprue_tickAt (n : Nat) (x : Sprue) : (setSprue s n x).tickAt = s.tickAt := rfl
@[simp] theorem setSprue_fabrics (n : Nat) (x : Sprue) : (setSprue s n x).fabrics = s.fabrics := rfl
@[simp] theorem setSprue_words (n : Nat) (x : Sprue) : (setSprue s n x).words = s.words := rfl
@[simp] theorem setSprue_pw (n : Nat) (x : Sprue) : (setSprue s n x).pw = s.pw := rfl
@[simp] theorem setSprue_fq (n : Nat) (x : Sprue) : (setSprue s n x).fq = s.fq := rfl
@[simp] theorem setSprue_fc (n : Nat) (x : Sprue) : (setSprue s n x).fc = s.fc := rfl
@[simp] theorem setSprue_bb (n : Nat) (x : Sprue) : (setSprue s n x).bb = s.bb := rfl
@[simp] theorem setSprue_hi (n : Nat) (x : Sprue) : (setSprue s n x).hi = s.hi := rfl
@[simp] theorem setSprue_mp (n : Nat) (x : Sprue) : (setSprue s n x).mp = s.mp := rfl
@[simp] theorem setSprue_trc (n : Nat) (x : Sprue) : (setSprue s n x).trc = s.trc := rfl
@[simp] theorem setSprue_atst (n : Nat) (x : Sprue) : (setSprue s n x).atst = s.atst := rfl
@[simp] theorem setSprue_chans (n : Nat) (x : Sprue) : (setSprue s n x).chans = s.chans := rfl
@[simp] theorem setSprue_flasks (n : Nat) (x : Sprue) : (setSprue s n x).flasks = s.flasks := rfl
@[simp] theorem setSprue_regs (n : Nat) (x : Sprue) : (setSprue s n x).regs = s.regs := rfl
@[simp] theorem setSprue_lad (n : Nat) (x : Sprue) : (setSprue s n x).lad = s.lad := rfl
@[simp] theorem setSprue_tls (n : Nat) (x : Sprue) : (setSprue s n x).tls = s.tls := rfl
@[simp] theorem setSprue_tlHost (n : Nat) (x : Sprue) : (setSprue s n x).tlHost = s.tlHost := rfl
@[simp] theorem setSprue_ests (n : Nat) (x : Sprue) : (setSprue s n x).ests = s.ests := rfl
@[simp] theorem setSprue_recs (n : Nat) (x : Sprue) : (setSprue s n x).recs = s.recs := rfl
@[simp] theorem setSprue_sweeps (n : Nat) (x : Sprue) : (setSprue s n x).sweeps = s.sweeps := rfl
@[simp] theorem setSprue_fuses (n : Nat) (x : Sprue) : (setSprue s n x).fuses = s.fuses := rfl
@[simp] theorem setSprue_wd (n : Nat) (x : Sprue) : (setSprue s n x).wd = s.wd := rfl
@[simp] theorem setSprue_sv (n : Nat) (x : Sprue) : (setSprue s n x).sv = s.sv := rfl
@[simp] theorem setSprue_fw (n : Nat) (x : Sprue) : (setSprue s n x).fw = s.fw := rfl
@[simp] theorem setSprue_site (n : Nat) (x : Sprue) : (setSprue s n x).site = s.site := rfl
@[simp] theorem setSprue_tel (n : Nat) (x : Sprue) : (setSprue s n x).tel = s.tel := rfl
@[simp] theorem setSprue_calWaits (n : Nat) (x : Sprue) : (setSprue s n x).calWaits = s.calWaits := rfl
@[simp] theorem setSprue_legs (n : Nat) (x : Sprue) : (setSprue s n x).legs = s.legs := rfl
@[simp] theorem setSprue_legCal (n : Nat) (x : Sprue) : (setSprue s n x).legCal = s.legCal := rfl
@[simp] theorem setSprue_calConvs (n : Nat) (x : Sprue) : (setSprue s n x).calConvs = s.calConvs := rfl
@[simp] theorem setSprue_free (n : Nat) (x : Sprue) : (setSprue s n x).free = s.free := rfl
@[simp] theorem setSprue_out (n : Nat) (x : Sprue) : (setSprue s n x).out = s.out := rfl
@[simp] theorem setSprue_pending (n : Nat) (x : Sprue) : (setSprue s n x).pending = s.pending := rfl

@[simp] theorem setTag_part (t : Nat) (x : Option Tag) : (setTag s t x).part = s.part := (rfl)
@[simp] theorem setTag_now (t : Nat) (x : Option Tag) : (setTag s t x).now = s.now := rfl
@[simp] theorem setTag_snap (t : Nat) (x : Option Tag) : (setTag s t x).snap = s.snap := rfl
@[simp] theorem setTag_tickAt (t : Nat) (x : Option Tag) : (setTag s t x).tickAt = s.tickAt := rfl
@[simp] theorem setTag_fabrics (t : Nat) (x : Option Tag) : (setTag s t x).fabrics = s.fabrics := rfl
@[simp] theorem setTag_words (t : Nat) (x : Option Tag) : (setTag s t x).words = s.words := rfl
@[simp] theorem setTag_pw (t : Nat) (x : Option Tag) : (setTag s t x).pw = s.pw := rfl
@[simp] theorem setTag_pp (t : Nat) (x : Option Tag) : (setTag s t x).pp = s.pp := rfl
@[simp] theorem setTag_fq (t : Nat) (x : Option Tag) : (setTag s t x).fq = s.fq := rfl
@[simp] theorem setTag_fc (t : Nat) (x : Option Tag) : (setTag s t x).fc = s.fc := rfl
@[simp] theorem setTag_bb (t : Nat) (x : Option Tag) : (setTag s t x).bb = s.bb := rfl
@[simp] theorem setTag_mp (t : Nat) (x : Option Tag) : (setTag s t x).mp = s.mp := rfl
@[simp] theorem setTag_trc (t : Nat) (x : Option Tag) : (setTag s t x).trc = s.trc := rfl
@[simp] theorem setTag_atst (t : Nat) (x : Option Tag) : (setTag s t x).atst = s.atst := rfl
@[simp] theorem setTag_chans (t : Nat) (x : Option Tag) : (setTag s t x).chans = s.chans := rfl
@[simp] theorem setTag_flasks (t : Nat) (x : Option Tag) : (setTag s t x).flasks = s.flasks := rfl
@[simp] theorem setTag_regs (t : Nat) (x : Option Tag) : (setTag s t x).regs = s.regs := rfl
@[simp] theorem setTag_lad (t : Nat) (x : Option Tag) : (setTag s t x).lad = s.lad := rfl
@[simp] theorem setTag_tls (t : Nat) (x : Option Tag) : (setTag s t x).tls = s.tls := rfl
@[simp] theorem setTag_tlHost (t : Nat) (x : Option Tag) : (setTag s t x).tlHost = s.tlHost := rfl
@[simp] theorem setTag_ests (t : Nat) (x : Option Tag) : (setTag s t x).ests = s.ests := rfl
@[simp] theorem setTag_recs (t : Nat) (x : Option Tag) : (setTag s t x).recs = s.recs := rfl
@[simp] theorem setTag_sweeps (t : Nat) (x : Option Tag) : (setTag s t x).sweeps = s.sweeps := rfl
@[simp] theorem setTag_fuses (t : Nat) (x : Option Tag) : (setTag s t x).fuses = s.fuses := rfl
@[simp] theorem setTag_wd (t : Nat) (x : Option Tag) : (setTag s t x).wd = s.wd := rfl
@[simp] theorem setTag_sv (t : Nat) (x : Option Tag) : (setTag s t x).sv = s.sv := rfl
@[simp] theorem setTag_fw (t : Nat) (x : Option Tag) : (setTag s t x).fw = s.fw := rfl
@[simp] theorem setTag_site (t : Nat) (x : Option Tag) : (setTag s t x).site = s.site := rfl
@[simp] theorem setTag_tel (t : Nat) (x : Option Tag) : (setTag s t x).tel = s.tel := rfl
@[simp] theorem setTag_calWaits (t : Nat) (x : Option Tag) : (setTag s t x).calWaits = s.calWaits := rfl
@[simp] theorem setTag_legs (t : Nat) (x : Option Tag) : (setTag s t x).legs = s.legs := rfl
@[simp] theorem setTag_legCal (t : Nat) (x : Option Tag) : (setTag s t x).legCal = s.legCal := rfl
@[simp] theorem setTag_calConvs (t : Nat) (x : Option Tag) : (setTag s t x).calConvs = s.calConvs := rfl
@[simp] theorem setTag_free (t : Nat) (x : Option Tag) : (setTag s t x).free = s.free := rfl
@[simp] theorem setTag_out (t : Nat) (x : Option Tag) : (setTag s t x).out = s.out := rfl
@[simp] theorem setTag_pending (t : Nat) (x : Option Tag) : (setTag s t x).pending = s.pending := rfl

@[simp] theorem setSubRing_part (i : Nat) (x : SubRing) : (setSubRing s i x).part = s.part := (rfl)
@[simp] theorem setSubRing_now (i : Nat) (x : SubRing) : (setSubRing s i x).now = s.now := rfl
@[simp] theorem setSubRing_snap (i : Nat) (x : SubRing) : (setSubRing s i x).snap = s.snap := rfl
@[simp] theorem setSubRing_tickAt (i : Nat) (x : SubRing) : (setSubRing s i x).tickAt = s.tickAt := rfl
@[simp] theorem setSubRing_fabrics (i : Nat) (x : SubRing) : (setSubRing s i x).fabrics = s.fabrics := rfl
@[simp] theorem setSubRing_words (i : Nat) (x : SubRing) : (setSubRing s i x).words = s.words := rfl
@[simp] theorem setSubRing_pw (i : Nat) (x : SubRing) : (setSubRing s i x).pw = s.pw := rfl
@[simp] theorem setSubRing_pp (i : Nat) (x : SubRing) : (setSubRing s i x).pp = s.pp := rfl
@[simp] theorem setSubRing_fq (i : Nat) (x : SubRing) : (setSubRing s i x).fq = s.fq := rfl
@[simp] theorem setSubRing_fc (i : Nat) (x : SubRing) : (setSubRing s i x).fc = s.fc := rfl
@[simp] theorem setSubRing_bb (i : Nat) (x : SubRing) : (setSubRing s i x).bb = s.bb := rfl
@[simp] theorem setSubRing_mp (i : Nat) (x : SubRing) : (setSubRing s i x).mp = s.mp := rfl
@[simp] theorem setSubRing_trc (i : Nat) (x : SubRing) : (setSubRing s i x).trc = s.trc := rfl
@[simp] theorem setSubRing_atst (i : Nat) (x : SubRing) : (setSubRing s i x).atst = s.atst := rfl
@[simp] theorem setSubRing_chans (i : Nat) (x : SubRing) : (setSubRing s i x).chans = s.chans := rfl
@[simp] theorem setSubRing_flasks (i : Nat) (x : SubRing) : (setSubRing s i x).flasks = s.flasks := rfl
@[simp] theorem setSubRing_regs (i : Nat) (x : SubRing) : (setSubRing s i x).regs = s.regs := rfl
@[simp] theorem setSubRing_lad (i : Nat) (x : SubRing) : (setSubRing s i x).lad = s.lad := rfl
@[simp] theorem setSubRing_tls (i : Nat) (x : SubRing) : (setSubRing s i x).tls = s.tls := rfl
@[simp] theorem setSubRing_tlHost (i : Nat) (x : SubRing) : (setSubRing s i x).tlHost = s.tlHost := rfl
@[simp] theorem setSubRing_ests (i : Nat) (x : SubRing) : (setSubRing s i x).ests = s.ests := rfl
@[simp] theorem setSubRing_recs (i : Nat) (x : SubRing) : (setSubRing s i x).recs = s.recs := rfl
@[simp] theorem setSubRing_sweeps (i : Nat) (x : SubRing) : (setSubRing s i x).sweeps = s.sweeps := rfl
@[simp] theorem setSubRing_fuses (i : Nat) (x : SubRing) : (setSubRing s i x).fuses = s.fuses := rfl
@[simp] theorem setSubRing_wd (i : Nat) (x : SubRing) : (setSubRing s i x).wd = s.wd := rfl
@[simp] theorem setSubRing_sv (i : Nat) (x : SubRing) : (setSubRing s i x).sv = s.sv := rfl
@[simp] theorem setSubRing_fw (i : Nat) (x : SubRing) : (setSubRing s i x).fw = s.fw := rfl
@[simp] theorem setSubRing_site (i : Nat) (x : SubRing) : (setSubRing s i x).site = s.site := rfl
@[simp] theorem setSubRing_tel (i : Nat) (x : SubRing) : (setSubRing s i x).tel = s.tel := rfl
@[simp] theorem setSubRing_calWaits (i : Nat) (x : SubRing) : (setSubRing s i x).calWaits = s.calWaits := rfl
@[simp] theorem setSubRing_legs (i : Nat) (x : SubRing) : (setSubRing s i x).legs = s.legs := rfl
@[simp] theorem setSubRing_legCal (i : Nat) (x : SubRing) : (setSubRing s i x).legCal = s.legCal := rfl
@[simp] theorem setSubRing_calConvs (i : Nat) (x : SubRing) : (setSubRing s i x).calConvs = s.calConvs := rfl
@[simp] theorem setSubRing_free (i : Nat) (x : SubRing) : (setSubRing s i x).free = s.free := rfl
@[simp] theorem setSubRing_out (i : Nat) (x : SubRing) : (setSubRing s i x).out = s.out := rfl
@[simp] theorem setSubRing_pending (i : Nat) (x : SubRing) : (setSubRing s i x).pending = s.pending := rfl

@[simp] theorem setComRing_part (i : Nat) (x : ComRing) : (setComRing s i x).part = s.part := (rfl)
@[simp] theorem setComRing_now (i : Nat) (x : ComRing) : (setComRing s i x).now = s.now := rfl
@[simp] theorem setComRing_snap (i : Nat) (x : ComRing) : (setComRing s i x).snap = s.snap := rfl
@[simp] theorem setComRing_tickAt (i : Nat) (x : ComRing) : (setComRing s i x).tickAt = s.tickAt := rfl
@[simp] theorem setComRing_fabrics (i : Nat) (x : ComRing) : (setComRing s i x).fabrics = s.fabrics := rfl
@[simp] theorem setComRing_words (i : Nat) (x : ComRing) : (setComRing s i x).words = s.words := rfl
@[simp] theorem setComRing_pw (i : Nat) (x : ComRing) : (setComRing s i x).pw = s.pw := rfl
@[simp] theorem setComRing_pp (i : Nat) (x : ComRing) : (setComRing s i x).pp = s.pp := rfl
@[simp] theorem setComRing_fq (i : Nat) (x : ComRing) : (setComRing s i x).fq = s.fq := rfl
@[simp] theorem setComRing_fc (i : Nat) (x : ComRing) : (setComRing s i x).fc = s.fc := rfl
@[simp] theorem setComRing_bb (i : Nat) (x : ComRing) : (setComRing s i x).bb = s.bb := rfl
@[simp] theorem setComRing_mp (i : Nat) (x : ComRing) : (setComRing s i x).mp = s.mp := rfl
@[simp] theorem setComRing_trc (i : Nat) (x : ComRing) : (setComRing s i x).trc = s.trc := rfl
@[simp] theorem setComRing_atst (i : Nat) (x : ComRing) : (setComRing s i x).atst = s.atst := rfl
@[simp] theorem setComRing_chans (i : Nat) (x : ComRing) : (setComRing s i x).chans = s.chans := rfl
@[simp] theorem setComRing_flasks (i : Nat) (x : ComRing) : (setComRing s i x).flasks = s.flasks := rfl
@[simp] theorem setComRing_regs (i : Nat) (x : ComRing) : (setComRing s i x).regs = s.regs := rfl
@[simp] theorem setComRing_lad (i : Nat) (x : ComRing) : (setComRing s i x).lad = s.lad := rfl
@[simp] theorem setComRing_tls (i : Nat) (x : ComRing) : (setComRing s i x).tls = s.tls := rfl
@[simp] theorem setComRing_tlHost (i : Nat) (x : ComRing) : (setComRing s i x).tlHost = s.tlHost := rfl
@[simp] theorem setComRing_ests (i : Nat) (x : ComRing) : (setComRing s i x).ests = s.ests := rfl
@[simp] theorem setComRing_recs (i : Nat) (x : ComRing) : (setComRing s i x).recs = s.recs := rfl
@[simp] theorem setComRing_sweeps (i : Nat) (x : ComRing) : (setComRing s i x).sweeps = s.sweeps := rfl
@[simp] theorem setComRing_fuses (i : Nat) (x : ComRing) : (setComRing s i x).fuses = s.fuses := rfl
@[simp] theorem setComRing_wd (i : Nat) (x : ComRing) : (setComRing s i x).wd = s.wd := rfl
@[simp] theorem setComRing_sv (i : Nat) (x : ComRing) : (setComRing s i x).sv = s.sv := rfl
@[simp] theorem setComRing_fw (i : Nat) (x : ComRing) : (setComRing s i x).fw = s.fw := rfl
@[simp] theorem setComRing_site (i : Nat) (x : ComRing) : (setComRing s i x).site = s.site := rfl
@[simp] theorem setComRing_tel (i : Nat) (x : ComRing) : (setComRing s i x).tel = s.tel := rfl
@[simp] theorem setComRing_calWaits (i : Nat) (x : ComRing) : (setComRing s i x).calWaits = s.calWaits := rfl
@[simp] theorem setComRing_legs (i : Nat) (x : ComRing) : (setComRing s i x).legs = s.legs := rfl
@[simp] theorem setComRing_legCal (i : Nat) (x : ComRing) : (setComRing s i x).legCal = s.legCal := rfl
@[simp] theorem setComRing_calConvs (i : Nat) (x : ComRing) : (setComRing s i x).calConvs = s.calConvs := rfl
@[simp] theorem setComRing_free (i : Nat) (x : ComRing) : (setComRing s i x).free = s.free := rfl
@[simp] theorem setComRing_out (i : Nat) (x : ComRing) : (setComRing s i x).out = s.out := rfl
@[simp] theorem setComRing_pending (i : Nat) (x : ComRing) : (setComRing s i x).pending = s.pending := rfl

@[simp] theorem setEvRing_part (i : Nat) (x : EvRing) : (setEvRing s i x).part = s.part := (rfl)
@[simp] theorem setEvRing_now (i : Nat) (x : EvRing) : (setEvRing s i x).now = s.now := rfl
@[simp] theorem setEvRing_snap (i : Nat) (x : EvRing) : (setEvRing s i x).snap = s.snap := rfl
@[simp] theorem setEvRing_tickAt (i : Nat) (x : EvRing) : (setEvRing s i x).tickAt = s.tickAt := rfl
@[simp] theorem setEvRing_fabrics (i : Nat) (x : EvRing) : (setEvRing s i x).fabrics = s.fabrics := rfl
@[simp] theorem setEvRing_words (i : Nat) (x : EvRing) : (setEvRing s i x).words = s.words := rfl
@[simp] theorem setEvRing_pw (i : Nat) (x : EvRing) : (setEvRing s i x).pw = s.pw := rfl
@[simp] theorem setEvRing_pp (i : Nat) (x : EvRing) : (setEvRing s i x).pp = s.pp := rfl
@[simp] theorem setEvRing_fq (i : Nat) (x : EvRing) : (setEvRing s i x).fq = s.fq := rfl
@[simp] theorem setEvRing_fc (i : Nat) (x : EvRing) : (setEvRing s i x).fc = s.fc := rfl
@[simp] theorem setEvRing_bb (i : Nat) (x : EvRing) : (setEvRing s i x).bb = s.bb := rfl
@[simp] theorem setEvRing_mp (i : Nat) (x : EvRing) : (setEvRing s i x).mp = s.mp := rfl
@[simp] theorem setEvRing_trc (i : Nat) (x : EvRing) : (setEvRing s i x).trc = s.trc := rfl
@[simp] theorem setEvRing_atst (i : Nat) (x : EvRing) : (setEvRing s i x).atst = s.atst := rfl
@[simp] theorem setEvRing_chans (i : Nat) (x : EvRing) : (setEvRing s i x).chans = s.chans := rfl
@[simp] theorem setEvRing_flasks (i : Nat) (x : EvRing) : (setEvRing s i x).flasks = s.flasks := rfl
@[simp] theorem setEvRing_regs (i : Nat) (x : EvRing) : (setEvRing s i x).regs = s.regs := rfl
@[simp] theorem setEvRing_lad (i : Nat) (x : EvRing) : (setEvRing s i x).lad = s.lad := rfl
@[simp] theorem setEvRing_tls (i : Nat) (x : EvRing) : (setEvRing s i x).tls = s.tls := rfl
@[simp] theorem setEvRing_tlHost (i : Nat) (x : EvRing) : (setEvRing s i x).tlHost = s.tlHost := rfl
@[simp] theorem setEvRing_ests (i : Nat) (x : EvRing) : (setEvRing s i x).ests = s.ests := rfl
@[simp] theorem setEvRing_recs (i : Nat) (x : EvRing) : (setEvRing s i x).recs = s.recs := rfl
@[simp] theorem setEvRing_sweeps (i : Nat) (x : EvRing) : (setEvRing s i x).sweeps = s.sweeps := rfl
@[simp] theorem setEvRing_fuses (i : Nat) (x : EvRing) : (setEvRing s i x).fuses = s.fuses := rfl
@[simp] theorem setEvRing_wd (i : Nat) (x : EvRing) : (setEvRing s i x).wd = s.wd := rfl
@[simp] theorem setEvRing_sv (i : Nat) (x : EvRing) : (setEvRing s i x).sv = s.sv := rfl
@[simp] theorem setEvRing_fw (i : Nat) (x : EvRing) : (setEvRing s i x).fw = s.fw := rfl
@[simp] theorem setEvRing_site (i : Nat) (x : EvRing) : (setEvRing s i x).site = s.site := rfl
@[simp] theorem setEvRing_tel (i : Nat) (x : EvRing) : (setEvRing s i x).tel = s.tel := rfl
@[simp] theorem setEvRing_calWaits (i : Nat) (x : EvRing) : (setEvRing s i x).calWaits = s.calWaits := rfl
@[simp] theorem setEvRing_legs (i : Nat) (x : EvRing) : (setEvRing s i x).legs = s.legs := rfl
@[simp] theorem setEvRing_legCal (i : Nat) (x : EvRing) : (setEvRing s i x).legCal = s.legCal := rfl
@[simp] theorem setEvRing_calConvs (i : Nat) (x : EvRing) : (setEvRing s i x).calConvs = s.calConvs := rfl
@[simp] theorem setEvRing_free (i : Nat) (x : EvRing) : (setEvRing s i x).free = s.free := rfl
@[simp] theorem setEvRing_out (i : Nat) (x : EvRing) : (setEvRing s i x).out = s.out := rfl
@[simp] theorem setEvRing_pending (i : Nat) (x : EvRing) : (setEvRing s i x).pending = s.pending := rfl

@[simp] theorem emit_part (o : Out) : (emit s o).part = s.part := (rfl)
@[simp] theorem emit_now (o : Out) : (emit s o).now = s.now := rfl
@[simp] theorem emit_snap (o : Out) : (emit s o).snap = s.snap := rfl
@[simp] theorem emit_tickAt (o : Out) : (emit s o).tickAt = s.tickAt := rfl
@[simp] theorem emit_fabrics (o : Out) : (emit s o).fabrics = s.fabrics := rfl
@[simp] theorem emit_words (o : Out) : (emit s o).words = s.words := rfl
@[simp] theorem emit_pw (o : Out) : (emit s o).pw = s.pw := rfl
@[simp] theorem emit_pp (o : Out) : (emit s o).pp = s.pp := rfl
@[simp] theorem emit_fq (o : Out) : (emit s o).fq = s.fq := rfl
@[simp] theorem emit_fc (o : Out) : (emit s o).fc = s.fc := rfl
@[simp] theorem emit_bb (o : Out) : (emit s o).bb = s.bb := rfl
@[simp] theorem emit_hi (o : Out) : (emit s o).hi = s.hi := rfl
@[simp] theorem emit_mp (o : Out) : (emit s o).mp = s.mp := rfl
@[simp] theorem emit_trc (o : Out) : (emit s o).trc = s.trc := rfl
@[simp] theorem emit_atst (o : Out) : (emit s o).atst = s.atst := rfl
@[simp] theorem emit_chans (o : Out) : (emit s o).chans = s.chans := rfl
@[simp] theorem emit_flasks (o : Out) : (emit s o).flasks = s.flasks := rfl
@[simp] theorem emit_regs (o : Out) : (emit s o).regs = s.regs := rfl
@[simp] theorem emit_lad (o : Out) : (emit s o).lad = s.lad := rfl
@[simp] theorem emit_tls (o : Out) : (emit s o).tls = s.tls := rfl
@[simp] theorem emit_tlHost (o : Out) : (emit s o).tlHost = s.tlHost := rfl
@[simp] theorem emit_ests (o : Out) : (emit s o).ests = s.ests := rfl
@[simp] theorem emit_recs (o : Out) : (emit s o).recs = s.recs := rfl
@[simp] theorem emit_sweeps (o : Out) : (emit s o).sweeps = s.sweeps := rfl
@[simp] theorem emit_fuses (o : Out) : (emit s o).fuses = s.fuses := rfl
@[simp] theorem emit_wd (o : Out) : (emit s o).wd = s.wd := rfl
@[simp] theorem emit_sv (o : Out) : (emit s o).sv = s.sv := rfl
@[simp] theorem emit_fw (o : Out) : (emit s o).fw = s.fw := rfl
@[simp] theorem emit_site (o : Out) : (emit s o).site = s.site := rfl
@[simp] theorem emit_tel (o : Out) : (emit s o).tel = s.tel := rfl
@[simp] theorem emit_calWaits (o : Out) : (emit s o).calWaits = s.calWaits := rfl
@[simp] theorem emit_legs (o : Out) : (emit s o).legs = s.legs := rfl
@[simp] theorem emit_legCal (o : Out) : (emit s o).legCal = s.legCal := rfl
@[simp] theorem emit_calConvs (o : Out) : (emit s o).calConvs = s.calConvs := rfl
@[simp] theorem emit_free (o : Out) : (emit s o).free = s.free := rfl
@[simp] theorem emit_pending (o : Out) : (emit s o).pending = s.pending := rfl

@[simp] theorem setChan_part (c : Nat) (x : Chan) : (setChan s c x).part = s.part := (rfl)
@[simp] theorem setChan_now (c : Nat) (x : Chan) : (setChan s c x).now = s.now := rfl
@[simp] theorem setChan_snap (c : Nat) (x : Chan) : (setChan s c x).snap = s.snap := rfl
@[simp] theorem setChan_tickAt (c : Nat) (x : Chan) : (setChan s c x).tickAt = s.tickAt := rfl
@[simp] theorem setChan_fabrics (c : Nat) (x : Chan) : (setChan s c x).fabrics = s.fabrics := rfl
@[simp] theorem setChan_words (c : Nat) (x : Chan) : (setChan s c x).words = s.words := rfl
@[simp] theorem setChan_pw (c : Nat) (x : Chan) : (setChan s c x).pw = s.pw := rfl
@[simp] theorem setChan_pp (c : Nat) (x : Chan) : (setChan s c x).pp = s.pp := rfl
@[simp] theorem setChan_fq (c : Nat) (x : Chan) : (setChan s c x).fq = s.fq := rfl
@[simp] theorem setChan_fc (c : Nat) (x : Chan) : (setChan s c x).fc = s.fc := rfl
@[simp] theorem setChan_bb (c : Nat) (x : Chan) : (setChan s c x).bb = s.bb := rfl
@[simp] theorem setChan_hi (c : Nat) (x : Chan) : (setChan s c x).hi = s.hi := rfl
@[simp] theorem setChan_mp (c : Nat) (x : Chan) : (setChan s c x).mp = s.mp := rfl
@[simp] theorem setChan_trc (c : Nat) (x : Chan) : (setChan s c x).trc = s.trc := rfl
@[simp] theorem setChan_atst (c : Nat) (x : Chan) : (setChan s c x).atst = s.atst := rfl
@[simp] theorem setChan_flasks (c : Nat) (x : Chan) : (setChan s c x).flasks = s.flasks := rfl
@[simp] theorem setChan_regs (c : Nat) (x : Chan) : (setChan s c x).regs = s.regs := rfl
@[simp] theorem setChan_lad (c : Nat) (x : Chan) : (setChan s c x).lad = s.lad := rfl
@[simp] theorem setChan_tls (c : Nat) (x : Chan) : (setChan s c x).tls = s.tls := rfl
@[simp] theorem setChan_tlHost (c : Nat) (x : Chan) : (setChan s c x).tlHost = s.tlHost := rfl
@[simp] theorem setChan_ests (c : Nat) (x : Chan) : (setChan s c x).ests = s.ests := rfl
@[simp] theorem setChan_recs (c : Nat) (x : Chan) : (setChan s c x).recs = s.recs := rfl
@[simp] theorem setChan_sweeps (c : Nat) (x : Chan) : (setChan s c x).sweeps = s.sweeps := rfl
@[simp] theorem setChan_fuses (c : Nat) (x : Chan) : (setChan s c x).fuses = s.fuses := rfl
@[simp] theorem setChan_wd (c : Nat) (x : Chan) : (setChan s c x).wd = s.wd := rfl
@[simp] theorem setChan_sv (c : Nat) (x : Chan) : (setChan s c x).sv = s.sv := rfl
@[simp] theorem setChan_fw (c : Nat) (x : Chan) : (setChan s c x).fw = s.fw := rfl
@[simp] theorem setChan_site (c : Nat) (x : Chan) : (setChan s c x).site = s.site := rfl
@[simp] theorem setChan_tel (c : Nat) (x : Chan) : (setChan s c x).tel = s.tel := rfl
@[simp] theorem setChan_calWaits (c : Nat) (x : Chan) : (setChan s c x).calWaits = s.calWaits := rfl
@[simp] theorem setChan_legs (c : Nat) (x : Chan) : (setChan s c x).legs = s.legs := rfl
@[simp] theorem setChan_legCal (c : Nat) (x : Chan) : (setChan s c x).legCal = s.legCal := rfl
@[simp] theorem setChan_calConvs (c : Nat) (x : Chan) : (setChan s c x).calConvs = s.calConvs := rfl
@[simp] theorem setChan_free (c : Nat) (x : Chan) : (setChan s c x).free = s.free := rfl
@[simp] theorem setChan_out (c : Nat) (x : Chan) : (setChan s c x).out = s.out := rfl
@[simp] theorem setChan_pending (c : Nat) (x : Chan) : (setChan s c x).pending = s.pending := rfl

@[simp] theorem modChan_part (c : Nat) (f : Chan → Chan) : (modChan s c f).part = s.part := (rfl)
@[simp] theorem modChan_now (c : Nat) (f : Chan → Chan) : (modChan s c f).now = s.now := rfl
@[simp] theorem modChan_snap (c : Nat) (f : Chan → Chan) : (modChan s c f).snap = s.snap := rfl
@[simp] theorem modChan_tickAt (c : Nat) (f : Chan → Chan) : (modChan s c f).tickAt = s.tickAt := rfl
@[simp] theorem modChan_fabrics (c : Nat) (f : Chan → Chan) : (modChan s c f).fabrics = s.fabrics := rfl
@[simp] theorem modChan_words (c : Nat) (f : Chan → Chan) : (modChan s c f).words = s.words := rfl
@[simp] theorem modChan_pw (c : Nat) (f : Chan → Chan) : (modChan s c f).pw = s.pw := rfl
@[simp] theorem modChan_pp (c : Nat) (f : Chan → Chan) : (modChan s c f).pp = s.pp := rfl
@[simp] theorem modChan_fq (c : Nat) (f : Chan → Chan) : (modChan s c f).fq = s.fq := rfl
@[simp] theorem modChan_fc (c : Nat) (f : Chan → Chan) : (modChan s c f).fc = s.fc := rfl
@[simp] theorem modChan_bb (c : Nat) (f : Chan → Chan) : (modChan s c f).bb = s.bb := rfl
@[simp] theorem modChan_hi (c : Nat) (f : Chan → Chan) : (modChan s c f).hi = s.hi := rfl
@[simp] theorem modChan_mp (c : Nat) (f : Chan → Chan) : (modChan s c f).mp = s.mp := rfl
@[simp] theorem modChan_trc (c : Nat) (f : Chan → Chan) : (modChan s c f).trc = s.trc := rfl
@[simp] theorem modChan_atst (c : Nat) (f : Chan → Chan) : (modChan s c f).atst = s.atst := rfl
@[simp] theorem modChan_flasks (c : Nat) (f : Chan → Chan) : (modChan s c f).flasks = s.flasks := rfl
@[simp] theorem modChan_regs (c : Nat) (f : Chan → Chan) : (modChan s c f).regs = s.regs := rfl
@[simp] theorem modChan_lad (c : Nat) (f : Chan → Chan) : (modChan s c f).lad = s.lad := rfl
@[simp] theorem modChan_tls (c : Nat) (f : Chan → Chan) : (modChan s c f).tls = s.tls := rfl
@[simp] theorem modChan_tlHost (c : Nat) (f : Chan → Chan) : (modChan s c f).tlHost = s.tlHost := rfl
@[simp] theorem modChan_ests (c : Nat) (f : Chan → Chan) : (modChan s c f).ests = s.ests := rfl
@[simp] theorem modChan_recs (c : Nat) (f : Chan → Chan) : (modChan s c f).recs = s.recs := rfl
@[simp] theorem modChan_sweeps (c : Nat) (f : Chan → Chan) : (modChan s c f).sweeps = s.sweeps := rfl
@[simp] theorem modChan_fuses (c : Nat) (f : Chan → Chan) : (modChan s c f).fuses = s.fuses := rfl
@[simp] theorem modChan_wd (c : Nat) (f : Chan → Chan) : (modChan s c f).wd = s.wd := rfl
@[simp] theorem modChan_sv (c : Nat) (f : Chan → Chan) : (modChan s c f).sv = s.sv := rfl
@[simp] theorem modChan_fw (c : Nat) (f : Chan → Chan) : (modChan s c f).fw = s.fw := rfl
@[simp] theorem modChan_site (c : Nat) (f : Chan → Chan) : (modChan s c f).site = s.site := rfl
@[simp] theorem modChan_tel (c : Nat) (f : Chan → Chan) : (modChan s c f).tel = s.tel := rfl
@[simp] theorem modChan_calWaits (c : Nat) (f : Chan → Chan) : (modChan s c f).calWaits = s.calWaits := rfl
@[simp] theorem modChan_legs (c : Nat) (f : Chan → Chan) : (modChan s c f).legs = s.legs := rfl
@[simp] theorem modChan_legCal (c : Nat) (f : Chan → Chan) : (modChan s c f).legCal = s.legCal := rfl
@[simp] theorem modChan_calConvs (c : Nat) (f : Chan → Chan) : (modChan s c f).calConvs = s.calConvs := rfl
@[simp] theorem modChan_free (c : Nat) (f : Chan → Chan) : (modChan s c f).free = s.free := rfl
@[simp] theorem modChan_out (c : Nat) (f : Chan → Chan) : (modChan s c f).out = s.out := rfl
@[simp] theorem modChan_pending (c : Nat) (f : Chan → Chan) : (modChan s c f).pending = s.pending := rfl

@[simp] theorem setFlask_part (c : Nat) (x : Flask) : (setFlask s c x).part = s.part := (rfl)
@[simp] theorem setFlask_now (c : Nat) (x : Flask) : (setFlask s c x).now = s.now := rfl
@[simp] theorem setFlask_snap (c : Nat) (x : Flask) : (setFlask s c x).snap = s.snap := rfl
@[simp] theorem setFlask_tickAt (c : Nat) (x : Flask) : (setFlask s c x).tickAt = s.tickAt := rfl
@[simp] theorem setFlask_fabrics (c : Nat) (x : Flask) : (setFlask s c x).fabrics = s.fabrics := rfl
@[simp] theorem setFlask_words (c : Nat) (x : Flask) : (setFlask s c x).words = s.words := rfl
@[simp] theorem setFlask_pw (c : Nat) (x : Flask) : (setFlask s c x).pw = s.pw := rfl
@[simp] theorem setFlask_pp (c : Nat) (x : Flask) : (setFlask s c x).pp = s.pp := rfl
@[simp] theorem setFlask_fq (c : Nat) (x : Flask) : (setFlask s c x).fq = s.fq := rfl
@[simp] theorem setFlask_fc (c : Nat) (x : Flask) : (setFlask s c x).fc = s.fc := rfl
@[simp] theorem setFlask_bb (c : Nat) (x : Flask) : (setFlask s c x).bb = s.bb := rfl
@[simp] theorem setFlask_hi (c : Nat) (x : Flask) : (setFlask s c x).hi = s.hi := rfl
@[simp] theorem setFlask_mp (c : Nat) (x : Flask) : (setFlask s c x).mp = s.mp := rfl
@[simp] theorem setFlask_trc (c : Nat) (x : Flask) : (setFlask s c x).trc = s.trc := rfl
@[simp] theorem setFlask_atst (c : Nat) (x : Flask) : (setFlask s c x).atst = s.atst := rfl
@[simp] theorem setFlask_chans (c : Nat) (x : Flask) : (setFlask s c x).chans = s.chans := rfl
@[simp] theorem setFlask_regs (c : Nat) (x : Flask) : (setFlask s c x).regs = s.regs := rfl
@[simp] theorem setFlask_lad (c : Nat) (x : Flask) : (setFlask s c x).lad = s.lad := rfl
@[simp] theorem setFlask_tls (c : Nat) (x : Flask) : (setFlask s c x).tls = s.tls := rfl
@[simp] theorem setFlask_tlHost (c : Nat) (x : Flask) : (setFlask s c x).tlHost = s.tlHost := rfl
@[simp] theorem setFlask_ests (c : Nat) (x : Flask) : (setFlask s c x).ests = s.ests := rfl
@[simp] theorem setFlask_recs (c : Nat) (x : Flask) : (setFlask s c x).recs = s.recs := rfl
@[simp] theorem setFlask_sweeps (c : Nat) (x : Flask) : (setFlask s c x).sweeps = s.sweeps := rfl
@[simp] theorem setFlask_fuses (c : Nat) (x : Flask) : (setFlask s c x).fuses = s.fuses := rfl
@[simp] theorem setFlask_wd (c : Nat) (x : Flask) : (setFlask s c x).wd = s.wd := rfl
@[simp] theorem setFlask_sv (c : Nat) (x : Flask) : (setFlask s c x).sv = s.sv := rfl
@[simp] theorem setFlask_fw (c : Nat) (x : Flask) : (setFlask s c x).fw = s.fw := rfl
@[simp] theorem setFlask_site (c : Nat) (x : Flask) : (setFlask s c x).site = s.site := rfl
@[simp] theorem setFlask_tel (c : Nat) (x : Flask) : (setFlask s c x).tel = s.tel := rfl
@[simp] theorem setFlask_calWaits (c : Nat) (x : Flask) : (setFlask s c x).calWaits = s.calWaits := rfl
@[simp] theorem setFlask_legs (c : Nat) (x : Flask) : (setFlask s c x).legs = s.legs := rfl
@[simp] theorem setFlask_legCal (c : Nat) (x : Flask) : (setFlask s c x).legCal = s.legCal := rfl
@[simp] theorem setFlask_calConvs (c : Nat) (x : Flask) : (setFlask s c x).calConvs = s.calConvs := rfl
@[simp] theorem setFlask_free (c : Nat) (x : Flask) : (setFlask s c x).free = s.free := rfl
@[simp] theorem setFlask_out (c : Nat) (x : Flask) : (setFlask s c x).out = s.out := rfl
@[simp] theorem setFlask_pending (c : Nat) (x : Flask) : (setFlask s c x).pending = s.pending := rfl

@[simp] theorem modFlask_part (c : Nat) (f : Flask → Flask) : (modFlask s c f).part = s.part := (rfl)
@[simp] theorem modFlask_now (c : Nat) (f : Flask → Flask) : (modFlask s c f).now = s.now := rfl
@[simp] theorem modFlask_snap (c : Nat) (f : Flask → Flask) : (modFlask s c f).snap = s.snap := rfl
@[simp] theorem modFlask_tickAt (c : Nat) (f : Flask → Flask) : (modFlask s c f).tickAt = s.tickAt := rfl
@[simp] theorem modFlask_fabrics (c : Nat) (f : Flask → Flask) : (modFlask s c f).fabrics = s.fabrics := rfl
@[simp] theorem modFlask_words (c : Nat) (f : Flask → Flask) : (modFlask s c f).words = s.words := rfl
@[simp] theorem modFlask_pw (c : Nat) (f : Flask → Flask) : (modFlask s c f).pw = s.pw := rfl
@[simp] theorem modFlask_pp (c : Nat) (f : Flask → Flask) : (modFlask s c f).pp = s.pp := rfl
@[simp] theorem modFlask_fq (c : Nat) (f : Flask → Flask) : (modFlask s c f).fq = s.fq := rfl
@[simp] theorem modFlask_fc (c : Nat) (f : Flask → Flask) : (modFlask s c f).fc = s.fc := rfl
@[simp] theorem modFlask_bb (c : Nat) (f : Flask → Flask) : (modFlask s c f).bb = s.bb := rfl
@[simp] theorem modFlask_hi (c : Nat) (f : Flask → Flask) : (modFlask s c f).hi = s.hi := rfl
@[simp] theorem modFlask_mp (c : Nat) (f : Flask → Flask) : (modFlask s c f).mp = s.mp := rfl
@[simp] theorem modFlask_trc (c : Nat) (f : Flask → Flask) : (modFlask s c f).trc = s.trc := rfl
@[simp] theorem modFlask_atst (c : Nat) (f : Flask → Flask) : (modFlask s c f).atst = s.atst := rfl
@[simp] theorem modFlask_chans (c : Nat) (f : Flask → Flask) : (modFlask s c f).chans = s.chans := rfl
@[simp] theorem modFlask_regs (c : Nat) (f : Flask → Flask) : (modFlask s c f).regs = s.regs := rfl
@[simp] theorem modFlask_lad (c : Nat) (f : Flask → Flask) : (modFlask s c f).lad = s.lad := rfl
@[simp] theorem modFlask_tls (c : Nat) (f : Flask → Flask) : (modFlask s c f).tls = s.tls := rfl
@[simp] theorem modFlask_tlHost (c : Nat) (f : Flask → Flask) : (modFlask s c f).tlHost = s.tlHost := rfl
@[simp] theorem modFlask_ests (c : Nat) (f : Flask → Flask) : (modFlask s c f).ests = s.ests := rfl
@[simp] theorem modFlask_recs (c : Nat) (f : Flask → Flask) : (modFlask s c f).recs = s.recs := rfl
@[simp] theorem modFlask_sweeps (c : Nat) (f : Flask → Flask) : (modFlask s c f).sweeps = s.sweeps := rfl
@[simp] theorem modFlask_fuses (c : Nat) (f : Flask → Flask) : (modFlask s c f).fuses = s.fuses := rfl
@[simp] theorem modFlask_wd (c : Nat) (f : Flask → Flask) : (modFlask s c f).wd = s.wd := rfl
@[simp] theorem modFlask_sv (c : Nat) (f : Flask → Flask) : (modFlask s c f).sv = s.sv := rfl
@[simp] theorem modFlask_fw (c : Nat) (f : Flask → Flask) : (modFlask s c f).fw = s.fw := rfl
@[simp] theorem modFlask_site (c : Nat) (f : Flask → Flask) : (modFlask s c f).site = s.site := rfl
@[simp] theorem modFlask_tel (c : Nat) (f : Flask → Flask) : (modFlask s c f).tel = s.tel := rfl
@[simp] theorem modFlask_calWaits (c : Nat) (f : Flask → Flask) : (modFlask s c f).calWaits = s.calWaits := rfl
@[simp] theorem modFlask_legs (c : Nat) (f : Flask → Flask) : (modFlask s c f).legs = s.legs := rfl
@[simp] theorem modFlask_legCal (c : Nat) (f : Flask → Flask) : (modFlask s c f).legCal = s.legCal := rfl
@[simp] theorem modFlask_calConvs (c : Nat) (f : Flask → Flask) : (modFlask s c f).calConvs = s.calConvs := rfl
@[simp] theorem modFlask_free (c : Nat) (f : Flask → Flask) : (modFlask s c f).free = s.free := rfl
@[simp] theorem modFlask_out (c : Nat) (f : Flask → Flask) : (modFlask s c f).out = s.out := rfl
@[simp] theorem modFlask_pending (c : Nat) (f : Flask → Flask) : (modFlask s c f).pending = s.pending := rfl

@[simp] theorem setRegion_part (k : Nat) (x : Region) : (setRegion s k x).part = s.part := (rfl)
@[simp] theorem setRegion_now (k : Nat) (x : Region) : (setRegion s k x).now = s.now := rfl
@[simp] theorem setRegion_snap (k : Nat) (x : Region) : (setRegion s k x).snap = s.snap := rfl
@[simp] theorem setRegion_tickAt (k : Nat) (x : Region) : (setRegion s k x).tickAt = s.tickAt := rfl
@[simp] theorem setRegion_fabrics (k : Nat) (x : Region) : (setRegion s k x).fabrics = s.fabrics := rfl
@[simp] theorem setRegion_words (k : Nat) (x : Region) : (setRegion s k x).words = s.words := rfl
@[simp] theorem setRegion_pw (k : Nat) (x : Region) : (setRegion s k x).pw = s.pw := rfl
@[simp] theorem setRegion_pp (k : Nat) (x : Region) : (setRegion s k x).pp = s.pp := rfl
@[simp] theorem setRegion_fq (k : Nat) (x : Region) : (setRegion s k x).fq = s.fq := rfl
@[simp] theorem setRegion_fc (k : Nat) (x : Region) : (setRegion s k x).fc = s.fc := rfl
@[simp] theorem setRegion_bb (k : Nat) (x : Region) : (setRegion s k x).bb = s.bb := rfl
@[simp] theorem setRegion_hi (k : Nat) (x : Region) : (setRegion s k x).hi = s.hi := rfl
@[simp] theorem setRegion_mp (k : Nat) (x : Region) : (setRegion s k x).mp = s.mp := rfl
@[simp] theorem setRegion_trc (k : Nat) (x : Region) : (setRegion s k x).trc = s.trc := rfl
@[simp] theorem setRegion_atst (k : Nat) (x : Region) : (setRegion s k x).atst = s.atst := rfl
@[simp] theorem setRegion_chans (k : Nat) (x : Region) : (setRegion s k x).chans = s.chans := rfl
@[simp] theorem setRegion_flasks (k : Nat) (x : Region) : (setRegion s k x).flasks = s.flasks := rfl
@[simp] theorem setRegion_lad (k : Nat) (x : Region) : (setRegion s k x).lad = s.lad := rfl
@[simp] theorem setRegion_tls (k : Nat) (x : Region) : (setRegion s k x).tls = s.tls := rfl
@[simp] theorem setRegion_tlHost (k : Nat) (x : Region) : (setRegion s k x).tlHost = s.tlHost := rfl
@[simp] theorem setRegion_ests (k : Nat) (x : Region) : (setRegion s k x).ests = s.ests := rfl
@[simp] theorem setRegion_recs (k : Nat) (x : Region) : (setRegion s k x).recs = s.recs := rfl
@[simp] theorem setRegion_sweeps (k : Nat) (x : Region) : (setRegion s k x).sweeps = s.sweeps := rfl
@[simp] theorem setRegion_fuses (k : Nat) (x : Region) : (setRegion s k x).fuses = s.fuses := rfl
@[simp] theorem setRegion_wd (k : Nat) (x : Region) : (setRegion s k x).wd = s.wd := rfl
@[simp] theorem setRegion_sv (k : Nat) (x : Region) : (setRegion s k x).sv = s.sv := rfl
@[simp] theorem setRegion_fw (k : Nat) (x : Region) : (setRegion s k x).fw = s.fw := rfl
@[simp] theorem setRegion_site (k : Nat) (x : Region) : (setRegion s k x).site = s.site := rfl
@[simp] theorem setRegion_tel (k : Nat) (x : Region) : (setRegion s k x).tel = s.tel := rfl
@[simp] theorem setRegion_calWaits (k : Nat) (x : Region) : (setRegion s k x).calWaits = s.calWaits := rfl
@[simp] theorem setRegion_legs (k : Nat) (x : Region) : (setRegion s k x).legs = s.legs := rfl
@[simp] theorem setRegion_legCal (k : Nat) (x : Region) : (setRegion s k x).legCal = s.legCal := rfl
@[simp] theorem setRegion_calConvs (k : Nat) (x : Region) : (setRegion s k x).calConvs = s.calConvs := rfl
@[simp] theorem setRegion_free (k : Nat) (x : Region) : (setRegion s k x).free = s.free := rfl
@[simp] theorem setRegion_out (k : Nat) (x : Region) : (setRegion s k x).out = s.out := rfl
@[simp] theorem setRegion_pending (k : Nat) (x : Region) : (setRegion s k x).pending = s.pending := rfl

@[simp] theorem modRegion_part (k : Nat) (f : Region → Region) : (modRegion s k f).part = s.part := (rfl)
@[simp] theorem modRegion_now (k : Nat) (f : Region → Region) : (modRegion s k f).now = s.now := rfl
@[simp] theorem modRegion_snap (k : Nat) (f : Region → Region) : (modRegion s k f).snap = s.snap := rfl
@[simp] theorem modRegion_tickAt (k : Nat) (f : Region → Region) : (modRegion s k f).tickAt = s.tickAt := rfl
@[simp] theorem modRegion_fabrics (k : Nat) (f : Region → Region) : (modRegion s k f).fabrics = s.fabrics := rfl
@[simp] theorem modRegion_words (k : Nat) (f : Region → Region) : (modRegion s k f).words = s.words := rfl
@[simp] theorem modRegion_pw (k : Nat) (f : Region → Region) : (modRegion s k f).pw = s.pw := rfl
@[simp] theorem modRegion_pp (k : Nat) (f : Region → Region) : (modRegion s k f).pp = s.pp := rfl
@[simp] theorem modRegion_fq (k : Nat) (f : Region → Region) : (modRegion s k f).fq = s.fq := rfl
@[simp] theorem modRegion_fc (k : Nat) (f : Region → Region) : (modRegion s k f).fc = s.fc := rfl
@[simp] theorem modRegion_bb (k : Nat) (f : Region → Region) : (modRegion s k f).bb = s.bb := rfl
@[simp] theorem modRegion_hi (k : Nat) (f : Region → Region) : (modRegion s k f).hi = s.hi := rfl
@[simp] theorem modRegion_mp (k : Nat) (f : Region → Region) : (modRegion s k f).mp = s.mp := rfl
@[simp] theorem modRegion_trc (k : Nat) (f : Region → Region) : (modRegion s k f).trc = s.trc := rfl
@[simp] theorem modRegion_atst (k : Nat) (f : Region → Region) : (modRegion s k f).atst = s.atst := rfl
@[simp] theorem modRegion_chans (k : Nat) (f : Region → Region) : (modRegion s k f).chans = s.chans := rfl
@[simp] theorem modRegion_flasks (k : Nat) (f : Region → Region) : (modRegion s k f).flasks = s.flasks := rfl
@[simp] theorem modRegion_lad (k : Nat) (f : Region → Region) : (modRegion s k f).lad = s.lad := rfl
@[simp] theorem modRegion_tls (k : Nat) (f : Region → Region) : (modRegion s k f).tls = s.tls := rfl
@[simp] theorem modRegion_tlHost (k : Nat) (f : Region → Region) : (modRegion s k f).tlHost = s.tlHost := rfl
@[simp] theorem modRegion_ests (k : Nat) (f : Region → Region) : (modRegion s k f).ests = s.ests := rfl
@[simp] theorem modRegion_recs (k : Nat) (f : Region → Region) : (modRegion s k f).recs = s.recs := rfl
@[simp] theorem modRegion_sweeps (k : Nat) (f : Region → Region) : (modRegion s k f).sweeps = s.sweeps := rfl
@[simp] theorem modRegion_fuses (k : Nat) (f : Region → Region) : (modRegion s k f).fuses = s.fuses := rfl
@[simp] theorem modRegion_wd (k : Nat) (f : Region → Region) : (modRegion s k f).wd = s.wd := rfl
@[simp] theorem modRegion_sv (k : Nat) (f : Region → Region) : (modRegion s k f).sv = s.sv := rfl
@[simp] theorem modRegion_fw (k : Nat) (f : Region → Region) : (modRegion s k f).fw = s.fw := rfl
@[simp] theorem modRegion_site (k : Nat) (f : Region → Region) : (modRegion s k f).site = s.site := rfl
@[simp] theorem modRegion_tel (k : Nat) (f : Region → Region) : (modRegion s k f).tel = s.tel := rfl
@[simp] theorem modRegion_calWaits (k : Nat) (f : Region → Region) : (modRegion s k f).calWaits = s.calWaits := rfl
@[simp] theorem modRegion_legs (k : Nat) (f : Region → Region) : (modRegion s k f).legs = s.legs := rfl
@[simp] theorem modRegion_legCal (k : Nat) (f : Region → Region) : (modRegion s k f).legCal = s.legCal := rfl
@[simp] theorem modRegion_calConvs (k : Nat) (f : Region → Region) : (modRegion s k f).calConvs = s.calConvs := rfl
@[simp] theorem modRegion_free (k : Nat) (f : Region → Region) : (modRegion s k f).free = s.free := rfl
@[simp] theorem modRegion_out (k : Nat) (f : Region → Region) : (modRegion s k f).out = s.out := rfl
@[simp] theorem modRegion_pending (k : Nat) (f : Region → Region) : (modRegion s k f).pending = s.pending := rfl

@[simp] theorem setEst_part (c : Nat) (x : Est) : (setEst s c x).part = s.part := (rfl)
@[simp] theorem setEst_now (c : Nat) (x : Est) : (setEst s c x).now = s.now := rfl
@[simp] theorem setEst_snap (c : Nat) (x : Est) : (setEst s c x).snap = s.snap := rfl
@[simp] theorem setEst_tickAt (c : Nat) (x : Est) : (setEst s c x).tickAt = s.tickAt := rfl
@[simp] theorem setEst_fabrics (c : Nat) (x : Est) : (setEst s c x).fabrics = s.fabrics := rfl
@[simp] theorem setEst_words (c : Nat) (x : Est) : (setEst s c x).words = s.words := rfl
@[simp] theorem setEst_pw (c : Nat) (x : Est) : (setEst s c x).pw = s.pw := rfl
@[simp] theorem setEst_pp (c : Nat) (x : Est) : (setEst s c x).pp = s.pp := rfl
@[simp] theorem setEst_fq (c : Nat) (x : Est) : (setEst s c x).fq = s.fq := rfl
@[simp] theorem setEst_fc (c : Nat) (x : Est) : (setEst s c x).fc = s.fc := rfl
@[simp] theorem setEst_bb (c : Nat) (x : Est) : (setEst s c x).bb = s.bb := rfl
@[simp] theorem setEst_hi (c : Nat) (x : Est) : (setEst s c x).hi = s.hi := rfl
@[simp] theorem setEst_mp (c : Nat) (x : Est) : (setEst s c x).mp = s.mp := rfl
@[simp] theorem setEst_trc (c : Nat) (x : Est) : (setEst s c x).trc = s.trc := rfl
@[simp] theorem setEst_atst (c : Nat) (x : Est) : (setEst s c x).atst = s.atst := rfl
@[simp] theorem setEst_chans (c : Nat) (x : Est) : (setEst s c x).chans = s.chans := rfl
@[simp] theorem setEst_flasks (c : Nat) (x : Est) : (setEst s c x).flasks = s.flasks := rfl
@[simp] theorem setEst_regs (c : Nat) (x : Est) : (setEst s c x).regs = s.regs := rfl
@[simp] theorem setEst_lad (c : Nat) (x : Est) : (setEst s c x).lad = s.lad := rfl
@[simp] theorem setEst_tls (c : Nat) (x : Est) : (setEst s c x).tls = s.tls := rfl
@[simp] theorem setEst_tlHost (c : Nat) (x : Est) : (setEst s c x).tlHost = s.tlHost := rfl
@[simp] theorem setEst_recs (c : Nat) (x : Est) : (setEst s c x).recs = s.recs := rfl
@[simp] theorem setEst_sweeps (c : Nat) (x : Est) : (setEst s c x).sweeps = s.sweeps := rfl
@[simp] theorem setEst_fuses (c : Nat) (x : Est) : (setEst s c x).fuses = s.fuses := rfl
@[simp] theorem setEst_wd (c : Nat) (x : Est) : (setEst s c x).wd = s.wd := rfl
@[simp] theorem setEst_sv (c : Nat) (x : Est) : (setEst s c x).sv = s.sv := rfl
@[simp] theorem setEst_fw (c : Nat) (x : Est) : (setEst s c x).fw = s.fw := rfl
@[simp] theorem setEst_site (c : Nat) (x : Est) : (setEst s c x).site = s.site := rfl
@[simp] theorem setEst_tel (c : Nat) (x : Est) : (setEst s c x).tel = s.tel := rfl
@[simp] theorem setEst_calWaits (c : Nat) (x : Est) : (setEst s c x).calWaits = s.calWaits := rfl
@[simp] theorem setEst_legs (c : Nat) (x : Est) : (setEst s c x).legs = s.legs := rfl
@[simp] theorem setEst_legCal (c : Nat) (x : Est) : (setEst s c x).legCal = s.legCal := rfl
@[simp] theorem setEst_calConvs (c : Nat) (x : Est) : (setEst s c x).calConvs = s.calConvs := rfl
@[simp] theorem setEst_free (c : Nat) (x : Est) : (setEst s c x).free = s.free := rfl
@[simp] theorem setEst_out (c : Nat) (x : Est) : (setEst s c x).out = s.out := rfl
@[simp] theorem setEst_pending (c : Nat) (x : Est) : (setEst s c x).pending = s.pending := rfl

@[simp] theorem modEst_part (c : Nat) (f : Est → Est) : (modEst s c f).part = s.part := (rfl)
@[simp] theorem modEst_now (c : Nat) (f : Est → Est) : (modEst s c f).now = s.now := rfl
@[simp] theorem modEst_snap (c : Nat) (f : Est → Est) : (modEst s c f).snap = s.snap := rfl
@[simp] theorem modEst_tickAt (c : Nat) (f : Est → Est) : (modEst s c f).tickAt = s.tickAt := rfl
@[simp] theorem modEst_fabrics (c : Nat) (f : Est → Est) : (modEst s c f).fabrics = s.fabrics := rfl
@[simp] theorem modEst_words (c : Nat) (f : Est → Est) : (modEst s c f).words = s.words := rfl
@[simp] theorem modEst_pw (c : Nat) (f : Est → Est) : (modEst s c f).pw = s.pw := rfl
@[simp] theorem modEst_pp (c : Nat) (f : Est → Est) : (modEst s c f).pp = s.pp := rfl
@[simp] theorem modEst_fq (c : Nat) (f : Est → Est) : (modEst s c f).fq = s.fq := rfl
@[simp] theorem modEst_fc (c : Nat) (f : Est → Est) : (modEst s c f).fc = s.fc := rfl
@[simp] theorem modEst_bb (c : Nat) (f : Est → Est) : (modEst s c f).bb = s.bb := rfl
@[simp] theorem modEst_hi (c : Nat) (f : Est → Est) : (modEst s c f).hi = s.hi := rfl
@[simp] theorem modEst_mp (c : Nat) (f : Est → Est) : (modEst s c f).mp = s.mp := rfl
@[simp] theorem modEst_trc (c : Nat) (f : Est → Est) : (modEst s c f).trc = s.trc := rfl
@[simp] theorem modEst_atst (c : Nat) (f : Est → Est) : (modEst s c f).atst = s.atst := rfl
@[simp] theorem modEst_chans (c : Nat) (f : Est → Est) : (modEst s c f).chans = s.chans := rfl
@[simp] theorem modEst_flasks (c : Nat) (f : Est → Est) : (modEst s c f).flasks = s.flasks := rfl
@[simp] theorem modEst_regs (c : Nat) (f : Est → Est) : (modEst s c f).regs = s.regs := rfl
@[simp] theorem modEst_lad (c : Nat) (f : Est → Est) : (modEst s c f).lad = s.lad := rfl
@[simp] theorem modEst_tls (c : Nat) (f : Est → Est) : (modEst s c f).tls = s.tls := rfl
@[simp] theorem modEst_tlHost (c : Nat) (f : Est → Est) : (modEst s c f).tlHost = s.tlHost := rfl
@[simp] theorem modEst_recs (c : Nat) (f : Est → Est) : (modEst s c f).recs = s.recs := rfl
@[simp] theorem modEst_sweeps (c : Nat) (f : Est → Est) : (modEst s c f).sweeps = s.sweeps := rfl
@[simp] theorem modEst_fuses (c : Nat) (f : Est → Est) : (modEst s c f).fuses = s.fuses := rfl
@[simp] theorem modEst_wd (c : Nat) (f : Est → Est) : (modEst s c f).wd = s.wd := rfl
@[simp] theorem modEst_sv (c : Nat) (f : Est → Est) : (modEst s c f).sv = s.sv := rfl
@[simp] theorem modEst_fw (c : Nat) (f : Est → Est) : (modEst s c f).fw = s.fw := rfl
@[simp] theorem modEst_site (c : Nat) (f : Est → Est) : (modEst s c f).site = s.site := rfl
@[simp] theorem modEst_tel (c : Nat) (f : Est → Est) : (modEst s c f).tel = s.tel := rfl
@[simp] theorem modEst_calWaits (c : Nat) (f : Est → Est) : (modEst s c f).calWaits = s.calWaits := rfl
@[simp] theorem modEst_legs (c : Nat) (f : Est → Est) : (modEst s c f).legs = s.legs := rfl
@[simp] theorem modEst_legCal (c : Nat) (f : Est → Est) : (modEst s c f).legCal = s.legCal := rfl
@[simp] theorem modEst_calConvs (c : Nat) (f : Est → Est) : (modEst s c f).calConvs = s.calConvs := rfl
@[simp] theorem modEst_free (c : Nat) (f : Est → Est) : (modEst s c f).free = s.free := rfl
@[simp] theorem modEst_out (c : Nat) (f : Est → Est) : (modEst s c f).out = s.out := rfl
@[simp] theorem modEst_pending (c : Nat) (f : Est → Est) : (modEst s c f).pending = s.pending := rfl

@[simp] theorem setTl_part (n : Nat) (x : TlPort) : (setTl s n x).part = s.part := (rfl)
@[simp] theorem setTl_now (n : Nat) (x : TlPort) : (setTl s n x).now = s.now := rfl
@[simp] theorem setTl_snap (n : Nat) (x : TlPort) : (setTl s n x).snap = s.snap := rfl
@[simp] theorem setTl_tickAt (n : Nat) (x : TlPort) : (setTl s n x).tickAt = s.tickAt := rfl
@[simp] theorem setTl_fabrics (n : Nat) (x : TlPort) : (setTl s n x).fabrics = s.fabrics := rfl
@[simp] theorem setTl_words (n : Nat) (x : TlPort) : (setTl s n x).words = s.words := rfl
@[simp] theorem setTl_pw (n : Nat) (x : TlPort) : (setTl s n x).pw = s.pw := rfl
@[simp] theorem setTl_pp (n : Nat) (x : TlPort) : (setTl s n x).pp = s.pp := rfl
@[simp] theorem setTl_fq (n : Nat) (x : TlPort) : (setTl s n x).fq = s.fq := rfl
@[simp] theorem setTl_fc (n : Nat) (x : TlPort) : (setTl s n x).fc = s.fc := rfl
@[simp] theorem setTl_bb (n : Nat) (x : TlPort) : (setTl s n x).bb = s.bb := rfl
@[simp] theorem setTl_hi (n : Nat) (x : TlPort) : (setTl s n x).hi = s.hi := rfl
@[simp] theorem setTl_mp (n : Nat) (x : TlPort) : (setTl s n x).mp = s.mp := rfl
@[simp] theorem setTl_trc (n : Nat) (x : TlPort) : (setTl s n x).trc = s.trc := rfl
@[simp] theorem setTl_atst (n : Nat) (x : TlPort) : (setTl s n x).atst = s.atst := rfl
@[simp] theorem setTl_chans (n : Nat) (x : TlPort) : (setTl s n x).chans = s.chans := rfl
@[simp] theorem setTl_flasks (n : Nat) (x : TlPort) : (setTl s n x).flasks = s.flasks := rfl
@[simp] theorem setTl_regs (n : Nat) (x : TlPort) : (setTl s n x).regs = s.regs := rfl
@[simp] theorem setTl_lad (n : Nat) (x : TlPort) : (setTl s n x).lad = s.lad := rfl
@[simp] theorem setTl_tlHost (n : Nat) (x : TlPort) : (setTl s n x).tlHost = s.tlHost := rfl
@[simp] theorem setTl_ests (n : Nat) (x : TlPort) : (setTl s n x).ests = s.ests := rfl
@[simp] theorem setTl_recs (n : Nat) (x : TlPort) : (setTl s n x).recs = s.recs := rfl
@[simp] theorem setTl_sweeps (n : Nat) (x : TlPort) : (setTl s n x).sweeps = s.sweeps := rfl
@[simp] theorem setTl_fuses (n : Nat) (x : TlPort) : (setTl s n x).fuses = s.fuses := rfl
@[simp] theorem setTl_wd (n : Nat) (x : TlPort) : (setTl s n x).wd = s.wd := rfl
@[simp] theorem setTl_sv (n : Nat) (x : TlPort) : (setTl s n x).sv = s.sv := rfl
@[simp] theorem setTl_fw (n : Nat) (x : TlPort) : (setTl s n x).fw = s.fw := rfl
@[simp] theorem setTl_site (n : Nat) (x : TlPort) : (setTl s n x).site = s.site := rfl
@[simp] theorem setTl_tel (n : Nat) (x : TlPort) : (setTl s n x).tel = s.tel := rfl
@[simp] theorem setTl_calWaits (n : Nat) (x : TlPort) : (setTl s n x).calWaits = s.calWaits := rfl
@[simp] theorem setTl_legs (n : Nat) (x : TlPort) : (setTl s n x).legs = s.legs := rfl
@[simp] theorem setTl_legCal (n : Nat) (x : TlPort) : (setTl s n x).legCal = s.legCal := rfl
@[simp] theorem setTl_calConvs (n : Nat) (x : TlPort) : (setTl s n x).calConvs = s.calConvs := rfl
@[simp] theorem setTl_free (n : Nat) (x : TlPort) : (setTl s n x).free = s.free := rfl
@[simp] theorem setTl_out (n : Nat) (x : TlPort) : (setTl s n x).out = s.out := rfl
@[simp] theorem setTl_pending (n : Nat) (x : TlPort) : (setTl s n x).pending = s.pending := rfl

@[simp] theorem modTl_part (n : Nat) (f : TlPort → TlPort) : (modTl s n f).part = s.part := (rfl)
@[simp] theorem modTl_now (n : Nat) (f : TlPort → TlPort) : (modTl s n f).now = s.now := rfl
@[simp] theorem modTl_snap (n : Nat) (f : TlPort → TlPort) : (modTl s n f).snap = s.snap := rfl
@[simp] theorem modTl_tickAt (n : Nat) (f : TlPort → TlPort) : (modTl s n f).tickAt = s.tickAt := rfl
@[simp] theorem modTl_fabrics (n : Nat) (f : TlPort → TlPort) : (modTl s n f).fabrics = s.fabrics := rfl
@[simp] theorem modTl_words (n : Nat) (f : TlPort → TlPort) : (modTl s n f).words = s.words := rfl
@[simp] theorem modTl_pw (n : Nat) (f : TlPort → TlPort) : (modTl s n f).pw = s.pw := rfl
@[simp] theorem modTl_pp (n : Nat) (f : TlPort → TlPort) : (modTl s n f).pp = s.pp := rfl
@[simp] theorem modTl_fq (n : Nat) (f : TlPort → TlPort) : (modTl s n f).fq = s.fq := rfl
@[simp] theorem modTl_fc (n : Nat) (f : TlPort → TlPort) : (modTl s n f).fc = s.fc := rfl
@[simp] theorem modTl_bb (n : Nat) (f : TlPort → TlPort) : (modTl s n f).bb = s.bb := rfl
@[simp] theorem modTl_hi (n : Nat) (f : TlPort → TlPort) : (modTl s n f).hi = s.hi := rfl
@[simp] theorem modTl_mp (n : Nat) (f : TlPort → TlPort) : (modTl s n f).mp = s.mp := rfl
@[simp] theorem modTl_trc (n : Nat) (f : TlPort → TlPort) : (modTl s n f).trc = s.trc := rfl
@[simp] theorem modTl_atst (n : Nat) (f : TlPort → TlPort) : (modTl s n f).atst = s.atst := rfl
@[simp] theorem modTl_chans (n : Nat) (f : TlPort → TlPort) : (modTl s n f).chans = s.chans := rfl
@[simp] theorem modTl_flasks (n : Nat) (f : TlPort → TlPort) : (modTl s n f).flasks = s.flasks := rfl
@[simp] theorem modTl_regs (n : Nat) (f : TlPort → TlPort) : (modTl s n f).regs = s.regs := rfl
@[simp] theorem modTl_lad (n : Nat) (f : TlPort → TlPort) : (modTl s n f).lad = s.lad := rfl
@[simp] theorem modTl_tlHost (n : Nat) (f : TlPort → TlPort) : (modTl s n f).tlHost = s.tlHost := rfl
@[simp] theorem modTl_ests (n : Nat) (f : TlPort → TlPort) : (modTl s n f).ests = s.ests := rfl
@[simp] theorem modTl_recs (n : Nat) (f : TlPort → TlPort) : (modTl s n f).recs = s.recs := rfl
@[simp] theorem modTl_sweeps (n : Nat) (f : TlPort → TlPort) : (modTl s n f).sweeps = s.sweeps := rfl
@[simp] theorem modTl_fuses (n : Nat) (f : TlPort → TlPort) : (modTl s n f).fuses = s.fuses := rfl
@[simp] theorem modTl_wd (n : Nat) (f : TlPort → TlPort) : (modTl s n f).wd = s.wd := rfl
@[simp] theorem modTl_sv (n : Nat) (f : TlPort → TlPort) : (modTl s n f).sv = s.sv := rfl
@[simp] theorem modTl_fw (n : Nat) (f : TlPort → TlPort) : (modTl s n f).fw = s.fw := rfl
@[simp] theorem modTl_site (n : Nat) (f : TlPort → TlPort) : (modTl s n f).site = s.site := rfl
@[simp] theorem modTl_tel (n : Nat) (f : TlPort → TlPort) : (modTl s n f).tel = s.tel := rfl
@[simp] theorem modTl_calWaits (n : Nat) (f : TlPort → TlPort) : (modTl s n f).calWaits = s.calWaits := rfl
@[simp] theorem modTl_legs (n : Nat) (f : TlPort → TlPort) : (modTl s n f).legs = s.legs := rfl
@[simp] theorem modTl_legCal (n : Nat) (f : TlPort → TlPort) : (modTl s n f).legCal = s.legCal := rfl
@[simp] theorem modTl_calConvs (n : Nat) (f : TlPort → TlPort) : (modTl s n f).calConvs = s.calConvs := rfl
@[simp] theorem modTl_free (n : Nat) (f : TlPort → TlPort) : (modTl s n f).free = s.free := rfl
@[simp] theorem modTl_out (n : Nat) (f : TlPort → TlPort) : (modTl s n f).out = s.out := rfl
@[simp] theorem modTl_pending (n : Nat) (f : TlPort → TlPort) : (modTl s n f).pending = s.pending := rfl

@[simp] theorem setFaultQ_part (i : Nat) (q : FaultQueue) : (setFaultQ s i q).part = s.part := (rfl)
@[simp] theorem setFaultQ_now (i : Nat) (q : FaultQueue) : (setFaultQ s i q).now = s.now := rfl
@[simp] theorem setFaultQ_snap (i : Nat) (q : FaultQueue) : (setFaultQ s i q).snap = s.snap := rfl
@[simp] theorem setFaultQ_tickAt (i : Nat) (q : FaultQueue) : (setFaultQ s i q).tickAt = s.tickAt := rfl
@[simp] theorem setFaultQ_fabrics (i : Nat) (q : FaultQueue) : (setFaultQ s i q).fabrics = s.fabrics := rfl
@[simp] theorem setFaultQ_words (i : Nat) (q : FaultQueue) : (setFaultQ s i q).words = s.words := rfl
@[simp] theorem setFaultQ_pw (i : Nat) (q : FaultQueue) : (setFaultQ s i q).pw = s.pw := rfl
@[simp] theorem setFaultQ_pp (i : Nat) (q : FaultQueue) : (setFaultQ s i q).pp = s.pp := rfl
@[simp] theorem setFaultQ_fc (i : Nat) (q : FaultQueue) : (setFaultQ s i q).fc = s.fc := rfl
@[simp] theorem setFaultQ_bb (i : Nat) (q : FaultQueue) : (setFaultQ s i q).bb = s.bb := rfl
@[simp] theorem setFaultQ_hi (i : Nat) (q : FaultQueue) : (setFaultQ s i q).hi = s.hi := rfl
@[simp] theorem setFaultQ_mp (i : Nat) (q : FaultQueue) : (setFaultQ s i q).mp = s.mp := rfl
@[simp] theorem setFaultQ_trc (i : Nat) (q : FaultQueue) : (setFaultQ s i q).trc = s.trc := rfl
@[simp] theorem setFaultQ_atst (i : Nat) (q : FaultQueue) : (setFaultQ s i q).atst = s.atst := rfl
@[simp] theorem setFaultQ_chans (i : Nat) (q : FaultQueue) : (setFaultQ s i q).chans = s.chans := rfl
@[simp] theorem setFaultQ_flasks (i : Nat) (q : FaultQueue) : (setFaultQ s i q).flasks = s.flasks := rfl
@[simp] theorem setFaultQ_regs (i : Nat) (q : FaultQueue) : (setFaultQ s i q).regs = s.regs := rfl
@[simp] theorem setFaultQ_lad (i : Nat) (q : FaultQueue) : (setFaultQ s i q).lad = s.lad := rfl
@[simp] theorem setFaultQ_tls (i : Nat) (q : FaultQueue) : (setFaultQ s i q).tls = s.tls := rfl
@[simp] theorem setFaultQ_tlHost (i : Nat) (q : FaultQueue) : (setFaultQ s i q).tlHost = s.tlHost := rfl
@[simp] theorem setFaultQ_ests (i : Nat) (q : FaultQueue) : (setFaultQ s i q).ests = s.ests := rfl
@[simp] theorem setFaultQ_recs (i : Nat) (q : FaultQueue) : (setFaultQ s i q).recs = s.recs := rfl
@[simp] theorem setFaultQ_sweeps (i : Nat) (q : FaultQueue) : (setFaultQ s i q).sweeps = s.sweeps := rfl
@[simp] theorem setFaultQ_fuses (i : Nat) (q : FaultQueue) : (setFaultQ s i q).fuses = s.fuses := rfl
@[simp] theorem setFaultQ_wd (i : Nat) (q : FaultQueue) : (setFaultQ s i q).wd = s.wd := rfl
@[simp] theorem setFaultQ_sv (i : Nat) (q : FaultQueue) : (setFaultQ s i q).sv = s.sv := rfl
@[simp] theorem setFaultQ_fw (i : Nat) (q : FaultQueue) : (setFaultQ s i q).fw = s.fw := rfl
@[simp] theorem setFaultQ_site (i : Nat) (q : FaultQueue) : (setFaultQ s i q).site = s.site := rfl
@[simp] theorem setFaultQ_tel (i : Nat) (q : FaultQueue) : (setFaultQ s i q).tel = s.tel := rfl
@[simp] theorem setFaultQ_calWaits (i : Nat) (q : FaultQueue) : (setFaultQ s i q).calWaits = s.calWaits := rfl
@[simp] theorem setFaultQ_legs (i : Nat) (q : FaultQueue) : (setFaultQ s i q).legs = s.legs := rfl
@[simp] theorem setFaultQ_legCal (i : Nat) (q : FaultQueue) : (setFaultQ s i q).legCal = s.legCal := rfl
@[simp] theorem setFaultQ_calConvs (i : Nat) (q : FaultQueue) : (setFaultQ s i q).calConvs = s.calConvs := rfl
@[simp] theorem setFaultQ_free (i : Nat) (q : FaultQueue) : (setFaultQ s i q).free = s.free := rfl
@[simp] theorem setFaultQ_out (i : Nat) (q : FaultQueue) : (setFaultQ s i q).out = s.out := rfl
@[simp] theorem setFaultQ_pending (i : Nat) (q : FaultQueue) : (setFaultQ s i q).pending = s.pending := rfl

@[simp] theorem chan_setChan_self (c : Nat) (x : Chan) : chan (setChan s c x) c = x := tabGet_tabSet_self _ _ _ _

theorem chan_setChan_ne {a b : Nat} (x : Chan) (h : b ≠ a) : chan (setChan s a x) b = chan s b := tabGet_tabSet_ne _ _ _ h

@[simp] theorem flask_setFlask_self (f : Nat) (x : Flask) : flask (setFlask s f x) f = x := tabGet_tabSet_self _ _ _ _

theorem flask_setFlask_ne {a b : Nat} (x : Flask) (h : b ≠ a) : flask (setFlask s a x) b = flask s b := tabGet_tabSet_ne _ _ _ h

@[simp] theorem region_setRegion_self (k : Nat) (x : Region) : region (setRegion s k x) k = x := tabGet_tabSet_self _ _ _ _

theorem region_setRegion_ne {a b : Nat} (x : Region) (h : b ≠ a) : region (setRegion s a x) b = region s b := tabGet_tabSet_ne _ _ _ h

@[simp] theorem est_setEst_self (c : Nat) (x : Est) : est (setEst s c x) c = x := tabGet_tabSet_self _ _ _ _

theorem est_setEst_ne {a b : Nat} (x : Est) (h : b ≠ a) : est (setEst s a x) b = est s b := tabGet_tabSet_ne _ _ _ h

@[simp] theorem tl_setTl_self (n : Nat) (x : TlPort) : tl (setTl s n x) n = x := tabGet_tabSet_self _ _ _ _

theorem tl_setTl_ne {a b : Nat} (x : TlPort) (h : b ≠ a) : tl (setTl s a x) b = tl s b := tabGet_tabSet_ne _ _ _ h

@[simp] theorem sprue_setSprue_self (n : Nat) (x : Sprue) : sprue (setSprue s n x) n = x := tabGet_tabSet_self _ _ _ _

theorem sprue_setSprue_ne {a b : Nat} (x : Sprue) (h : b ≠ a) : sprue (setSprue s a x) b = sprue s b := tabGet_tabSet_ne _ _ _ h

@[simp] theorem faultQ_setFaultQ_self (i : Nat) (x : FaultQueue) : faultQ (setFaultQ s i x) i = x := tabGet_tabSet_self _ _ _ _

theorem faultQ_setFaultQ_ne {a b : Nat} (x : FaultQueue) (h : b ≠ a) : faultQ (setFaultQ s a x) b = faultQ s b := tabGet_tabSet_ne _ _ _ h

@[simp] theorem subRing_setSubRing_self (i : Nat) (x : SubRing) : subRing (setSubRing s i x) i = x := tabGet_tabSet_self _ _ _ _

theorem subRing_setSubRing_ne {a b : Nat} (x : SubRing) (h : b ≠ a) : subRing (setSubRing s a x) b = subRing s b := tabGet_tabSet_ne _ _ _ h

@[simp] theorem comRing_setComRing_self (i : Nat) (x : ComRing) : comRing (setComRing s i x) i = x := tabGet_tabSet_self _ _ _ _

theorem comRing_setComRing_ne {a b : Nat} (x : ComRing) (h : b ≠ a) : comRing (setComRing s a x) b = comRing s b := tabGet_tabSet_ne _ _ _ h

@[simp] theorem evRing_setEvRing_self (i : Nat) (x : EvRing) : evRing (setEvRing s i x) i = x := tabGet_tabSet_self _ _ _ _

theorem evRing_setEvRing_ne {a b : Nat} (x : EvRing) (h : b ≠ a) : evRing (setEvRing s a x) b = evRing s b := tabGet_tabSet_ne _ _ _ h

@[simp] theorem getTag_setTag_self (t : Nat) (x : Option Tag) : getTag (setTag s t x) t = x := tabGet_tabSet_self _ _ _ _

theorem getTag_setTag_ne {a b : Nat} (x : Option Tag) (h : b ≠ a) : getTag (setTag s a x) b = getTag s b := tabGet_tabSet_ne _ _ _ h

@[simp] theorem on_wr (a : Nat) (v : Word) (d : Nat) : on (wr s a v) d = on s d := rfl
@[simp] theorem on_resetWords (p : Nat → Bool) (d : Nat) : on (resetWords s p) d = on s d := rfl
@[simp] theorem on_setF (f : Fld) (v : Nat) (d : Nat) : on (setF s f v) d = on s d := rfl
@[simp] theorem on_setI (f : Fld) (v : Int) (d : Nat) : on (setI s f v) d = on s d := rfl
@[simp] theorem on_setFlag (f : Fld) (b : Bool) (d : Nat) : on (setFlag s f b) d = on s d := rfl
@[simp] theorem on_setBitF (f : Fld) (i : Nat) (b : Bool) (d : Nat) : on (setBitF s f i b) d = on s d := rfl
@[simp] theorem on_addSat (f : Fld) (n : Nat) (d : Nat) : on (addSat s f n) d = on s d := rfl
@[simp] theorem on_incSat (f : Fld) (d : Nat) : on (incSat s f) d = on s d := rfl
@[simp] theorem on_incWrap (f : Fld) (d : Nat) : on (incWrap s f) d = on s d := rfl
@[simp] theorem on_advance (t : Nat) (d : Nat) : on (advance s t) d = on s d := rfl
@[simp] theorem on_setSprue (n : Nat) (x : Sprue) (d : Nat) : on (setSprue s n x) d = on s d := rfl
@[simp] theorem on_setTag (t : Nat) (x : Option Tag) (d : Nat) : on (setTag s t x) d = on s d := rfl
@[simp] theorem on_setSubRing (i : Nat) (x : SubRing) (d : Nat) : on (setSubRing s i x) d = on s d := rfl
@[simp] theorem on_setComRing (i : Nat) (x : ComRing) (d : Nat) : on (setComRing s i x) d = on s d := rfl
@[simp] theorem on_setEvRing (i : Nat) (x : EvRing) (d : Nat) : on (setEvRing s i x) d = on s d := rfl
@[simp] theorem on_emit (o : Out) (d : Nat) : on (emit s o) d = on s d := rfl
@[simp] theorem on_setChan (c : Nat) (x : Chan) (d : Nat) : on (setChan s c x) d = on s d := rfl
@[simp] theorem on_modChan (c : Nat) (f : Chan → Chan) (d : Nat) : on (modChan s c f) d = on s d := rfl
@[simp] theorem on_setFlask (c : Nat) (x : Flask) (d : Nat) : on (setFlask s c x) d = on s d := rfl
@[simp] theorem on_modFlask (c : Nat) (f : Flask → Flask) (d : Nat) : on (modFlask s c f) d = on s d := rfl
@[simp] theorem on_setRegion (k : Nat) (x : Region) (d : Nat) : on (setRegion s k x) d = on s d := rfl
@[simp] theorem on_modRegion (k : Nat) (f : Region → Region) (d : Nat) : on (modRegion s k f) d = on s d := rfl
@[simp] theorem on_setEst (c : Nat) (x : Est) (d : Nat) : on (setEst s c x) d = on s d := rfl
@[simp] theorem on_modEst (c : Nat) (f : Est → Est) (d : Nat) : on (modEst s c f) d = on s d := rfl
@[simp] theorem on_setTl (n : Nat) (x : TlPort) (d : Nat) : on (setTl s n x) d = on s d := rfl
@[simp] theorem on_modTl (n : Nat) (f : TlPort → TlPort) (d : Nat) : on (modTl s n f) d = on s d := rfl
@[simp] theorem on_setFaultQ (i : Nat) (q : FaultQueue) (d : Nat) : on (setFaultQ s i q) d = on s d := rfl

end Sys2Proof.Machine
end

