-- ==== Sys2Proof/Laws/Reads.lean ====
section
/-! SUPPORT. What each read of Ops.lean gives after an update of another part of the state. -/

namespace Sys2Proof.Machine

variable (s : State)

@[simp] theorem chan_of_wr (a : Nat) (v : Word) (x0 : Nat) : chan (wr s a v) x0 = chan s x0 := rfl
@[simp] theorem flask_of_wr (a : Nat) (v : Word) (x0 : Nat) : flask (wr s a v) x0 = flask s x0 := rfl
@[simp] theorem region_of_wr (a : Nat) (v : Word) (x0 : Nat) : region (wr s a v) x0 = region s x0 := rfl
@[simp] theorem est_of_wr (a : Nat) (v : Word) (x0 : Nat) : est (wr s a v) x0 = est s x0 := rfl
@[simp] theorem tl_of_wr (a : Nat) (v : Word) (x0 : Nat) : tl (wr s a v) x0 = tl s x0 := rfl
@[simp] theorem sprue_of_wr (a : Nat) (v : Word) (x0 : Nat) : sprue (wr s a v) x0 = sprue s x0 := rfl
@[simp] theorem faultQ_of_wr (a : Nat) (v : Word) (x0 : Nat) : faultQ (wr s a v) x0 = faultQ s x0 := rfl
@[simp] theorem subRing_of_wr (a : Nat) (v : Word) (x0 : Nat) : subRing (wr s a v) x0 = subRing s x0 := rfl
@[simp] theorem comRing_of_wr (a : Nat) (v : Word) (x0 : Nat) : comRing (wr s a v) x0 = comRing s x0 := rfl
@[simp] theorem evRing_of_wr (a : Nat) (v : Word) (x0 : Nat) : evRing (wr s a v) x0 = evRing s x0 := rfl
@[simp] theorem getTag_of_wr (a : Nat) (v : Word) (x0 : Nat) : getTag (wr s a v) x0 = getTag s x0 := rfl
@[simp] theorem chan_of_resetWords (p : Nat → Bool) (x0 : Nat) : chan (resetWords s p) x0 = chan s x0 := rfl
@[simp] theorem flask_of_resetWords (p : Nat → Bool) (x0 : Nat) : flask (resetWords s p) x0 = flask s x0 := rfl
@[simp] theorem region_of_resetWords (p : Nat → Bool) (x0 : Nat) : region (resetWords s p) x0 = region s x0 := rfl
@[simp] theorem est_of_resetWords (p : Nat → Bool) (x0 : Nat) : est (resetWords s p) x0 = est s x0 := rfl
@[simp] theorem tl_of_resetWords (p : Nat → Bool) (x0 : Nat) : tl (resetWords s p) x0 = tl s x0 := rfl
@[simp] theorem sprue_of_resetWords (p : Nat → Bool) (x0 : Nat) : sprue (resetWords s p) x0 = sprue s x0 := rfl
@[simp] theorem faultQ_of_resetWords (p : Nat → Bool) (x0 : Nat) : faultQ (resetWords s p) x0 = faultQ s x0 := rfl
@[simp] theorem subRing_of_resetWords (p : Nat → Bool) (x0 : Nat) : subRing (resetWords s p) x0 = subRing s x0 := rfl
@[simp] theorem comRing_of_resetWords (p : Nat → Bool) (x0 : Nat) : comRing (resetWords s p) x0 = comRing s x0 := rfl
@[simp] theorem evRing_of_resetWords (p : Nat → Bool) (x0 : Nat) : evRing (resetWords s p) x0 = evRing s x0 := rfl
@[simp] theorem getTag_of_resetWords (p : Nat → Bool) (x0 : Nat) : getTag (resetWords s p) x0 = getTag s x0 := rfl
@[simp] theorem chan_of_setF (f : Fld) (v : Nat) (x0 : Nat) : chan (setF s f v) x0 = chan s x0 := rfl
@[simp] theorem flask_of_setF (f : Fld) (v : Nat) (x0 : Nat) : flask (setF s f v) x0 = flask s x0 := rfl
@[simp] theorem region_of_setF (f : Fld) (v : Nat) (x0 : Nat) : region (setF s f v) x0 = region s x0 := rfl
@[simp] theorem est_of_setF (f : Fld) (v : Nat) (x0 : Nat) : est (setF s f v) x0 = est s x0 := rfl
@[simp] theorem tl_of_setF (f : Fld) (v : Nat) (x0 : Nat) : tl (setF s f v) x0 = tl s x0 := rfl
@[simp] theorem sprue_of_setF (f : Fld) (v : Nat) (x0 : Nat) : sprue (setF s f v) x0 = sprue s x0 := rfl
@[simp] theorem faultQ_of_setF (f : Fld) (v : Nat) (x0 : Nat) : faultQ (setF s f v) x0 = faultQ s x0 := rfl
@[simp] theorem subRing_of_setF (f : Fld) (v : Nat) (x0 : Nat) : subRing (setF s f v) x0 = subRing s x0 := rfl
@[simp] theorem comRing_of_setF (f : Fld) (v : Nat) (x0 : Nat) : comRing (setF s f v) x0 = comRing s x0 := rfl
@[simp] theorem evRing_of_setF (f : Fld) (v : Nat) (x0 : Nat) : evRing (setF s f v) x0 = evRing s x0 := rfl
@[simp] theorem getTag_of_setF (f : Fld) (v : Nat) (x0 : Nat) : getTag (setF s f v) x0 = getTag s x0 := rfl
@[simp] theorem chan_of_setI (f : Fld) (v : Int) (x0 : Nat) : chan (setI s f v) x0 = chan s x0 := rfl
@[simp] theorem flask_of_setI (f : Fld) (v : Int) (x0 : Nat) : flask (setI s f v) x0 = flask s x0 := rfl
@[simp] theorem region_of_setI (f : Fld) (v : Int) (x0 : Nat) : region (setI s f v) x0 = region s x0 := rfl
@[simp] theorem est_of_setI (f : Fld) (v : Int) (x0 : Nat) : est (setI s f v) x0 = est s x0 := rfl
@[simp] theorem tl_of_setI (f : Fld) (v : Int) (x0 : Nat) : tl (setI s f v) x0 = tl s x0 := rfl
@[simp] theorem sprue_of_setI (f : Fld) (v : Int) (x0 : Nat) : sprue (setI s f v) x0 = sprue s x0 := rfl
@[simp] theorem faultQ_of_setI (f : Fld) (v : Int) (x0 : Nat) : faultQ (setI s f v) x0 = faultQ s x0 := rfl
@[simp] theorem subRing_of_setI (f : Fld) (v : Int) (x0 : Nat) : subRing (setI s f v) x0 = subRing s x0 := rfl
@[simp] theorem comRing_of_setI (f : Fld) (v : Int) (x0 : Nat) : comRing (setI s f v) x0 = comRing s x0 := rfl
@[simp] theorem evRing_of_setI (f : Fld) (v : Int) (x0 : Nat) : evRing (setI s f v) x0 = evRing s x0 := rfl
@[simp] theorem getTag_of_setI (f : Fld) (v : Int) (x0 : Nat) : getTag (setI s f v) x0 = getTag s x0 := rfl
@[simp] theorem chan_of_setFlag (f : Fld) (b : Bool) (x0 : Nat) : chan (setFlag s f b) x0 = chan s x0 := rfl
@[simp] theorem flask_of_setFlag (f : Fld) (b : Bool) (x0 : Nat) : flask (setFlag s f b) x0 = flask s x0 := rfl
@[simp] theorem region_of_setFlag (f : Fld) (b : Bool) (x0 : Nat) : region (setFlag s f b) x0 = region s x0 := rfl
@[simp] theorem est_of_setFlag (f : Fld) (b : Bool) (x0 : Nat) : est (setFlag s f b) x0 = est s x0 := rfl
@[simp] theorem tl_of_setFlag (f : Fld) (b : Bool) (x0 : Nat) : tl (setFlag s f b) x0 = tl s x0 := rfl
@[simp] theorem sprue_of_setFlag (f : Fld) (b : Bool) (x0 : Nat) : sprue (setFlag s f b) x0 = sprue s x0 := rfl
@[simp] theorem faultQ_of_setFlag (f : Fld) (b : Bool) (x0 : Nat) : faultQ (setFlag s f b) x0 = faultQ s x0 := rfl
@[simp] theorem subRing_of_setFlag (f : Fld) (b : Bool) (x0 : Nat) : subRing (setFlag s f b) x0 = subRing s x0 := rfl
@[simp] theorem comRing_of_setFlag (f : Fld) (b : Bool) (x0 : Nat) : comRing (setFlag s f b) x0 = comRing s x0 := rfl
@[simp] theorem evRing_of_setFlag (f : Fld) (b : Bool) (x0 : Nat) : evRing (setFlag s f b) x0 = evRing s x0 := rfl
@[simp] theorem getTag_of_setFlag (f : Fld) (b : Bool) (x0 : Nat) : getTag (setFlag s f b) x0 = getTag s x0 := rfl
@[simp] theorem chan_of_setBitF (f : Fld) (i : Nat) (b : Bool) (x0 : Nat) : chan (setBitF s f i b) x0 = chan s x0 := rfl
@[simp] theorem flask_of_setBitF (f : Fld) (i : Nat) (b : Bool) (x0 : Nat) : flask (setBitF s f i b) x0 = flask s x0 := rfl
@[simp] theorem region_of_setBitF (f : Fld) (i : Nat) (b : Bool) (x0 : Nat) : region (setBitF s f i b) x0 = region s x0 := rfl
@[simp] theorem est_of_setBitF (f : Fld) (i : Nat) (b : Bool) (x0 : Nat) : est (setBitF s f i b) x0 = est s x0 := rfl
@[simp] theorem tl_of_setBitF (f : Fld) (i : Nat) (b : Bool) (x0 : Nat) : tl (setBitF s f i b) x0 = tl s x0 := rfl
@[simp] theorem sprue_of_setBitF (f : Fld) (i : Nat) (b : Bool) (x0 : Nat) : sprue (setBitF s f i b) x0 = sprue s x0 := rfl
@[simp] theorem faultQ_of_setBitF (f : Fld) (i : Nat) (b : Bool) (x0 : Nat) : faultQ (setBitF s f i b) x0 = faultQ s x0 := rfl
@[simp] theorem subRing_of_setBitF (f : Fld) (i : Nat) (b : Bool) (x0 : Nat) : subRing (setBitF s f i b) x0 = subRing s x0 := rfl
@[simp] theorem comRing_of_setBitF (f : Fld) (i : Nat) (b : Bool) (x0 : Nat) : comRing (setBitF s f i b) x0 = comRing s x0 := rfl
@[simp] theorem evRing_of_setBitF (f : Fld) (i : Nat) (b : Bool) (x0 : Nat) : evRing (setBitF s f i b) x0 = evRing s x0 := rfl
@[simp] theorem getTag_of_setBitF (f : Fld) (i : Nat) (b : Bool) (x0 : Nat) : getTag (setBitF s f i b) x0 = getTag s x0 := rfl
@[simp] theorem chan_of_addSat (f : Fld) (n : Nat) (x0 : Nat) : chan (addSat s f n) x0 = chan s x0 := rfl
@[simp] theorem flask_of_addSat (f : Fld) (n : Nat) (x0 : Nat) : flask (addSat s f n) x0 = flask s x0 := rfl
@[simp] theorem region_of_addSat (f : Fld) (n : Nat) (x0 : Nat) : region (addSat s f n) x0 = region s x0 := rfl
@[simp] theorem est_of_addSat (f : Fld) (n : Nat) (x0 : Nat) : est (addSat s f n) x0 = est s x0 := rfl
@[simp] theorem tl_of_addSat (f : Fld) (n : Nat) (x0 : Nat) : tl (addSat s f n) x0 = tl s x0 := rfl
@[simp] theorem sprue_of_addSat (f : Fld) (n : Nat) (x0 : Nat) : sprue (addSat s f n) x0 = sprue s x0 := rfl
@[simp] theorem faultQ_of_addSat (f : Fld) (n : Nat) (x0 : Nat) : faultQ (addSat s f n) x0 = faultQ s x0 := rfl
@[simp] theorem subRing_of_addSat (f : Fld) (n : Nat) (x0 : Nat) : subRing (addSat s f n) x0 = subRing s x0 := rfl
@[simp] theorem comRing_of_addSat (f : Fld) (n : Nat) (x0 : Nat) : comRing (addSat s f n) x0 = comRing s x0 := rfl
@[simp] theorem evRing_of_addSat (f : Fld) (n : Nat) (x0 : Nat) : evRing (addSat s f n) x0 = evRing s x0 := rfl
@[simp] theorem getTag_of_addSat (f : Fld) (n : Nat) (x0 : Nat) : getTag (addSat s f n) x0 = getTag s x0 := rfl
@[simp] theorem chan_of_incSat (f : Fld) (x0 : Nat) : chan (incSat s f) x0 = chan s x0 := rfl
@[simp] theorem flask_of_incSat (f : Fld) (x0 : Nat) : flask (incSat s f) x0 = flask s x0 := rfl
@[simp] theorem region_of_incSat (f : Fld) (x0 : Nat) : region (incSat s f) x0 = region s x0 := rfl
@[simp] theorem est_of_incSat (f : Fld) (x0 : Nat) : est (incSat s f) x0 = est s x0 := rfl
@[simp] theorem tl_of_incSat (f : Fld) (x0 : Nat) : tl (incSat s f) x0 = tl s x0 := rfl
@[simp] theorem sprue_of_incSat (f : Fld) (x0 : Nat) : sprue (incSat s f) x0 = sprue s x0 := rfl
@[simp] theorem faultQ_of_incSat (f : Fld) (x0 : Nat) : faultQ (incSat s f) x0 = faultQ s x0 := rfl
@[simp] theorem subRing_of_incSat (f : Fld) (x0 : Nat) : subRing (incSat s f) x0 = subRing s x0 := rfl
@[simp] theorem comRing_of_incSat (f : Fld) (x0 : Nat) : comRing (incSat s f) x0 = comRing s x0 := rfl
@[simp] theorem evRing_of_incSat (f : Fld) (x0 : Nat) : evRing (incSat s f) x0 = evRing s x0 := rfl
@[simp] theorem getTag_of_incSat (f : Fld) (x0 : Nat) : getTag (incSat s f) x0 = getTag s x0 := rfl
@[simp] theorem chan_of_incWrap (f : Fld) (x0 : Nat) : chan (incWrap s f) x0 = chan s x0 := rfl
@[simp] theorem flask_of_incWrap (f : Fld) (x0 : Nat) : flask (incWrap s f) x0 = flask s x0 := rfl
@[simp] theorem region_of_incWrap (f : Fld) (x0 : Nat) : region (incWrap s f) x0 = region s x0 := rfl
@[simp] theorem est_of_incWrap (f : Fld) (x0 : Nat) : est (incWrap s f) x0 = est s x0 := rfl
@[simp] theorem tl_of_incWrap (f : Fld) (x0 : Nat) : tl (incWrap s f) x0 = tl s x0 := rfl
@[simp] theorem sprue_of_incWrap (f : Fld) (x0 : Nat) : sprue (incWrap s f) x0 = sprue s x0 := rfl
@[simp] theorem faultQ_of_incWrap (f : Fld) (x0 : Nat) : faultQ (incWrap s f) x0 = faultQ s x0 := rfl
@[simp] theorem subRing_of_incWrap (f : Fld) (x0 : Nat) : subRing (incWrap s f) x0 = subRing s x0 := rfl
@[simp] theorem comRing_of_incWrap (f : Fld) (x0 : Nat) : comRing (incWrap s f) x0 = comRing s x0 := rfl
@[simp] theorem evRing_of_incWrap (f : Fld) (x0 : Nat) : evRing (incWrap s f) x0 = evRing s x0 := rfl
@[simp] theorem getTag_of_incWrap (f : Fld) (x0 : Nat) : getTag (incWrap s f) x0 = getTag s x0 := rfl
@[simp] theorem rd_of_advance (t : Nat) (x0 : Nat) : rd (advance s t) x0 = rd s x0 := rfl
@[simp] theorem getF_of_advance (t : Nat) (x0 : Fld) : getF (advance s t) x0 = getF s x0 := rfl
@[simp] theorem getI_of_advance (t : Nat) (x0 : Fld) : getI (advance s t) x0 = getI s x0 := rfl
@[simp] theorem flag_of_advance (t : Nat) (x0 : Fld) : flag (advance s t) x0 = flag s x0 := rfl
@[simp] theorem bitF_of_advance (t : Nat) (x0 : Fld) (x1 : Nat) : bitF (advance s t) x0 x1 = bitF s x0 x1 := rfl
@[simp] theorem online_of_advance (t : Nat) (x0 : Nat) : online (advance s t) x0 = online s x0 := rfl
@[simp] theorem chan_of_advance (t : Nat) (x0 : Nat) : chan (advance s t) x0 = chan s x0 := rfl
@[simp] theorem flask_of_advance (t : Nat) (x0 : Nat) : flask (advance s t) x0 = flask s x0 := rfl
@[simp] theorem region_of_advance (t : Nat) (x0 : Nat) : region (advance s t) x0 = region s x0 := rfl
@[simp] theorem est_of_advance (t : Nat) (x0 : Nat) : est (advance s t) x0 = est s x0 := rfl
@[simp] theorem tl_of_advance (t : Nat) (x0 : Nat) : tl (advance s t) x0 = tl s x0 := rfl
@[simp] theorem sprue_of_advance (t : Nat) (x0 : Nat) : sprue (advance s t) x0 = sprue s x0 := rfl
@[simp] theorem faultQ_of_advance (t : Nat) (x0 : Nat) : faultQ (advance s t) x0 = faultQ s x0 := rfl
@[simp] theorem subRing_of_advance (t : Nat) (x0 : Nat) : subRing (advance s t) x0 = subRing s x0 := rfl
@[simp] theorem comRing_of_advance (t : Nat) (x0 : Nat) : comRing (advance s t) x0 = comRing s x0 := rfl
@[simp] theorem evRing_of_advance (t : Nat) (x0 : Nat) : evRing (advance s t) x0 = evRing s x0 := rfl
@[simp] theorem getTag_of_advance (t : Nat) (x0 : Nat) : getTag (advance s t) x0 = getTag s x0 := rfl
@[simp] theorem rd_of_setSprue (n : Nat) (x : Sprue) (x0 : Nat) : rd (setSprue s n x) x0 = rd s x0 := rfl
@[simp] theorem getF_of_setSprue (n : Nat) (x : Sprue) (x0 : Fld) : getF (setSprue s n x) x0 = getF s x0 := rfl
@[simp] theorem getI_of_setSprue (n : Nat) (x : Sprue) (x0 : Fld) : getI (setSprue s n x) x0 = getI s x0 := rfl
@[simp] theorem flag_of_setSprue (n : Nat) (x : Sprue) (x0 : Fld) : flag (setSprue s n x) x0 = flag s x0 := rfl
@[simp] theorem bitF_of_setSprue (n : Nat) (x : Sprue) (x0 : Fld) (x1 : Nat) : bitF (setSprue s n x) x0 x1 = bitF s x0 x1 := rfl
@[simp] theorem online_of_setSprue (n : Nat) (x : Sprue) (x0 : Nat) : online (setSprue s n x) x0 = online s x0 := rfl
@[simp] theorem chan_of_setSprue (n : Nat) (x : Sprue) (x0 : Nat) : chan (setSprue s n x) x0 = chan s x0 := rfl
@[simp] theorem flask_of_setSprue (n : Nat) (x : Sprue) (x0 : Nat) : flask (setSprue s n x) x0 = flask s x0 := rfl
@[simp] theorem region_of_setSprue (n : Nat) (x : Sprue) (x0 : Nat) : region (setSprue s n x) x0 = region s x0 := rfl
@[simp] theorem est_of_setSprue (n : Nat) (x : Sprue) (x0 : Nat) : est (setSprue s n x) x0 = est s x0 := rfl
@[simp] theorem tl_of_setSprue (n : Nat) (x : Sprue) (x0 : Nat) : tl (setSprue s n x) x0 = tl s x0 := rfl
@[simp] theorem faultQ_of_setSprue (n : Nat) (x : Sprue) (x0 : Nat) : faultQ (setSprue s n x) x0 = faultQ s x0 := rfl
@[simp] theorem subRing_of_setSprue (n : Nat) (x : Sprue) (x0 : Nat) : subRing (setSprue s n x) x0 = subRing s x0 := rfl
@[simp] theorem comRing_of_setSprue (n : Nat) (x : Sprue) (x0 : Nat) : comRing (setSprue s n x) x0 = comRing s x0 := rfl
@[simp] theorem evRing_of_setSprue (n : Nat) (x : Sprue) (x0 : Nat) : evRing (setSprue s n x) x0 = evRing s x0 := rfl
@[simp] theorem getTag_of_setSprue (n : Nat) (x : Sprue) (x0 : Nat) : getTag (setSprue s n x) x0 = getTag s x0 := rfl
@[simp] theorem rd_of_setTag (t : Nat) (x : Option Tag) (x0 : Nat) : rd (setTag s t x) x0 = rd s x0 := rfl
@[simp] theorem getF_of_setTag (t : Nat) (x : Option Tag) (x0 : Fld) : getF (setTag s t x) x0 = getF s x0 := rfl
@[simp] theorem getI_of_setTag (t : Nat) (x : Option Tag) (x0 : Fld) : getI (setTag s t x) x0 = getI s x0 := rfl
@[simp] theorem flag_of_setTag (t : Nat) (x : Option Tag) (x0 : Fld) : flag (setTag s t x) x0 = flag s x0 := rfl
@[simp] theorem bitF_of_setTag (t : Nat) (x : Option Tag) (x0 : Fld) (x1 : Nat) : bitF (setTag s t x) x0 x1 = bitF s x0 x1 := rfl
@[simp] theorem online_of_setTag (t : Nat) (x : Option Tag) (x0 : Nat) : online (setTag s t x) x0 = online s x0 := rfl
@[simp] theorem chan_of_setTag (t : Nat) (x : Option Tag) (x0 : Nat) : chan (setTag s t x) x0 = chan s x0 := rfl
@[simp] theorem flask_of_setTag (t : Nat) (x : Option Tag) (x0 : Nat) : flask (setTag s t x) x0 = flask s x0 := rfl
@[simp] theorem region_of_setTag (t : Nat) (x : Option Tag) (x0 : Nat) : region (setTag s t x) x0 = region s x0 := rfl
@[simp] theorem est_of_setTag (t : Nat) (x : Option Tag) (x0 : Nat) : est (setTag s t x) x0 = est s x0 := rfl
@[simp] theorem tl_of_setTag (t : Nat) (x : Option Tag) (x0 : Nat) : tl (setTag s t x) x0 = tl s x0 := rfl
@[simp] theorem sprue_of_setTag (t : Nat) (x : Option Tag) (x0 : Nat) : sprue (setTag s t x) x0 = sprue s x0 := rfl
@[simp] theorem faultQ_of_setTag (t : Nat) (x : Option Tag) (x0 : Nat) : faultQ (setTag s t x) x0 = faultQ s x0 := rfl
@[simp] theorem rd_of_setSubRing (i : Nat) (x : SubRing) (x0 : Nat) : rd (setSubRing s i x) x0 = rd s x0 := rfl
@[simp] theorem getF_of_setSubRing (i : Nat) (x : SubRing) (x0 : Fld) : getF (setSubRing s i x) x0 = getF s x0 := rfl
@[simp] theorem getI_of_setSubRing (i : Nat) (x : SubRing) (x0 : Fld) : getI (setSubRing s i x) x0 = getI s x0 := rfl
@[simp] theorem flag_of_setSubRing (i : Nat) (x : SubRing) (x0 : Fld) : flag (setSubRing s i x) x0 = flag s x0 := rfl
@[simp] theorem bitF_of_setSubRing (i : Nat) (x : SubRing) (x0 : Fld) (x1 : Nat) : bitF (setSubRing s i x) x0 x1 = bitF s x0 x1 := rfl
@[simp] theorem online_of_setSubRing (i : Nat) (x : SubRing) (x0 : Nat) : online (setSubRing s i x) x0 = online s x0 := rfl
@[simp] theorem chan_of_setSubRing (i : Nat) (x : SubRing) (x0 : Nat) : chan (setSubRing s i x) x0 = chan s x0 := rfl
@[simp] theorem flask_of_setSubRing (i : Nat) (x : SubRing) (x0 : Nat) : flask (setSubRing s i x) x0 = flask s x0 := rfl
@[simp] theorem region_of_setSubRing (i : Nat) (x : SubRing) (x0 : Nat) : region (setSubRing s i x) x0 = region s x0 := rfl
@[simp] theorem est_of_setSubRing (i : Nat) (x : SubRing) (x0 : Nat) : est (setSubRing s i x) x0 = est s x0 := rfl
@[simp] theorem tl_of_setSubRing (i : Nat) (x : SubRing) (x0 : Nat) : tl (setSubRing s i x) x0 = tl s x0 := rfl
@[simp] theorem sprue_of_setSubRing (i : Nat) (x : SubRing) (x0 : Nat) : sprue (setSubRing s i x) x0 = sprue s x0 := rfl
@[simp] theorem faultQ_of_setSubRing (i : Nat) (x : SubRing) (x0 : Nat) : faultQ (setSubRing s i x) x0 = faultQ s x0 := rfl
@[simp] theorem rd_of_setComRing (i : Nat) (x : ComRing) (x0 : Nat) : rd (setComRing s i x) x0 = rd s x0 := rfl
@[simp] theorem getF_of_setComRing (i : Nat) (x : ComRing) (x0 : Fld) : getF (setComRing s i x) x0 = getF s x0 := rfl
@[simp] theorem getI_of_setComRing (i : Nat) (x : ComRing) (x0 : Fld) : getI (setComRing s i x) x0 = getI s x0 := rfl
@[simp] theorem flag_of_setComRing (i : Nat) (x : ComRing) (x0 : Fld) : flag (setComRing s i x) x0 = flag s x0 := rfl
@[simp] theorem bitF_of_setComRing (i : Nat) (x : ComRing) (x0 : Fld) (x1 : Nat) : bitF (setComRing s i x) x0 x1 = bitF s x0 x1 := rfl
@[simp] theorem online_of_setComRing (i : Nat) (x : ComRing) (x0 : Nat) : online (setComRing s i x) x0 = online s x0 := rfl
@[simp] theorem chan_of_setComRing (i : Nat) (x : ComRing) (x0 : Nat) : chan (setComRing s i x) x0 = chan s x0 := rfl
@[simp] theorem flask_of_setComRing (i : Nat) (x : ComRing) (x0 : Nat) : flask (setComRing s i x) x0 = flask s x0 := rfl
@[simp] theorem region_of_setComRing (i : Nat) (x : ComRing) (x0 : Nat) : region (setComRing s i x) x0 = region s x0 := rfl
@[simp] theorem est_of_setComRing (i : Nat) (x : ComRing) (x0 : Nat) : est (setComRing s i x) x0 = est s x0 := rfl
@[simp] theorem tl_of_setComRing (i : Nat) (x : ComRing) (x0 : Nat) : tl (setComRing s i x) x0 = tl s x0 := rfl
@[simp] theorem sprue_of_setComRing (i : Nat) (x : ComRing) (x0 : Nat) : sprue (setComRing s i x) x0 = sprue s x0 := rfl
@[simp] theorem faultQ_of_setComRing (i : Nat) (x : ComRing) (x0 : Nat) : faultQ (setComRing s i x) x0 = faultQ s x0 := rfl
@[simp] theorem rd_of_setEvRing (i : Nat) (x : EvRing) (x0 : Nat) : rd (setEvRing s i x) x0 = rd s x0 := rfl
@[simp] theorem getF_of_setEvRing (i : Nat) (x : EvRing) (x0 : Fld) : getF (setEvRing s i x) x0 = getF s x0 := rfl
@[simp] theorem getI_of_setEvRing (i : Nat) (x : EvRing) (x0 : Fld) : getI (setEvRing s i x) x0 = getI s x0 := rfl
@[simp] theorem flag_of_setEvRing (i : Nat) (x : EvRing) (x0 : Fld) : flag (setEvRing s i x) x0 = flag s x0 := rfl
@[simp] theorem bitF_of_setEvRing (i : Nat) (x : EvRing) (x0 : Fld) (x1 : Nat) : bitF (setEvRing s i x) x0 x1 = bitF s x0 x1 := rfl
@[simp] theorem online_of_setEvRing (i : Nat) (x : EvRing) (x0 : Nat) : online (setEvRing s i x) x0 = online s x0 := rfl
@[simp] theorem chan_of_setEvRing (i : Nat) (x : EvRing) (x0 : Nat) : chan (setEvRing s i x) x0 = chan s x0 := rfl
@[simp] theorem flask_of_setEvRing (i : Nat) (x : EvRing) (x0 : Nat) : flask (setEvRing s i x) x0 = flask s x0 := rfl
@[simp] theorem region_of_setEvRing (i : Nat) (x : EvRing) (x0 : Nat) : region (setEvRing s i x) x0 = region s x0 := rfl
@[simp] theorem est_of_setEvRing (i : Nat) (x : EvRing) (x0 : Nat) : est (setEvRing s i x) x0 = est s x0 := rfl
@[simp] theorem tl_of_setEvRing (i : Nat) (x : EvRing) (x0 : Nat) : tl (setEvRing s i x) x0 = tl s x0 := rfl
@[simp] theorem sprue_of_setEvRing (i : Nat) (x : EvRing) (x0 : Nat) : sprue (setEvRing s i x) x0 = sprue s x0 := rfl
@[simp] theorem faultQ_of_setEvRing (i : Nat) (x : EvRing) (x0 : Nat) : faultQ (setEvRing s i x) x0 = faultQ s x0 := rfl
@[simp] theorem rd_of_emit (o : Out) (x0 : Nat) : rd (emit s o) x0 = rd s x0 := rfl
@[simp] theorem getF_of_emit (o : Out) (x0 : Fld) : getF (emit s o) x0 = getF s x0 := rfl
@[simp] theorem getI_of_emit (o : Out) (x0 : Fld) : getI (emit s o) x0 = getI s x0 := rfl
@[simp] theorem flag_of_emit (o : Out) (x0 : Fld) : flag (emit s o) x0 = flag s x0 := rfl
@[simp] theorem bitF_of_emit (o : Out) (x0 : Fld) (x1 : Nat) : bitF (emit s o) x0 x1 = bitF s x0 x1 := rfl
@[simp] theorem online_of_emit (o : Out) (x0 : Nat) : online (emit s o) x0 = online s x0 := rfl
@[simp] theorem chan_of_emit (o : Out) (x0 : Nat) : chan (emit s o) x0 = chan s x0 := rfl
@[simp] theorem flask_of_emit (o : Out) (x0 : Nat) : flask (emit s o) x0 = flask s x0 := rfl
@[simp] theorem region_of_emit (o : Out) (x0 : Nat) : region (emit s o) x0 = region s x0 := rfl
@[simp] theorem est_of_emit (o : Out) (x0 : Nat) : est (emit s o) x0 = est s x0 := rfl
@[simp] theorem tl_of_emit (o : Out) (x0 : Nat) : tl (emit s o) x0 = tl s x0 := rfl
@[simp] theorem sprue_of_emit (o : Out) (x0 : Nat) : sprue (emit s o) x0 = sprue s x0 := rfl
@[simp] theorem faultQ_of_emit (o : Out) (x0 : Nat) : faultQ (emit s o) x0 = faultQ s x0 := rfl
@[simp] theorem subRing_of_emit (o : Out) (x0 : Nat) : subRing (emit s o) x0 = subRing s x0 := rfl
@[simp] theorem comRing_of_emit (o : Out) (x0 : Nat) : comRing (emit s o) x0 = comRing s x0 := rfl
@[simp] theorem evRing_of_emit (o : Out) (x0 : Nat) : evRing (emit s o) x0 = evRing s x0 := rfl
@[simp] theorem getTag_of_emit (o : Out) (x0 : Nat) : getTag (emit s o) x0 = getTag s x0 := rfl
@[simp] theorem rd_of_setChan (c : Nat) (x : Chan) (x0 : Nat) : rd (setChan s c x) x0 = rd s x0 := rfl
@[simp] theorem getF_of_setChan (c : Nat) (x : Chan) (x0 : Fld) : getF (setChan s c x) x0 = getF s x0 := rfl
@[simp] theorem getI_of_setChan (c : Nat) (x : Chan) (x0 : Fld) : getI (setChan s c x) x0 = getI s x0 := rfl
@[simp] theorem flag_of_setChan (c : Nat) (x : Chan) (x0 : Fld) : flag (setChan s c x) x0 = flag s x0 := rfl
@[simp] theorem bitF_of_setChan (c : Nat) (x : Chan) (x0 : Fld) (x1 : Nat) : bitF (setChan s c x) x0 x1 = bitF s x0 x1 := rfl
@[simp] theorem online_of_setChan (c : Nat) (x : Chan) (x0 : Nat) : online (setChan s c x) x0 = online s x0 := rfl
@[simp] theorem flask_of_setChan (c : Nat) (x : Chan) (x0 : Nat) : flask (setChan s c x) x0 = flask s x0 := rfl
@[simp] theorem region_of_setChan (c : Nat) (x : Chan) (x0 : Nat) : region (setChan s c x) x0 = region s x0 := rfl
@[simp] theorem est_of_setChan (c : Nat) (x : Chan) (x0 : Nat) : est (setChan s c x) x0 = est s x0 := rfl
@[simp] theorem tl_of_setChan (c : Nat) (x : Chan) (x0 : Nat) : tl (setChan s c x) x0 = tl s x0 := rfl
@[simp] theorem sprue_of_setChan (c : Nat) (x : Chan) (x0 : Nat) : sprue (setChan s c x) x0 = sprue s x0 := rfl
@[simp] theorem faultQ_of_setChan (c : Nat) (x : Chan) (x0 : Nat) : faultQ (setChan s c x) x0 = faultQ s x0 := rfl
@[simp] theorem subRing_of_setChan (c : Nat) (x : Chan) (x0 : Nat) : subRing (setChan s c x) x0 = subRing s x0 := rfl
@[simp] theorem comRing_of_setChan (c : Nat) (x : Chan) (x0 : Nat) : comRing (setChan s c x) x0 = comRing s x0 := rfl
@[simp] theorem evRing_of_setChan (c : Nat) (x : Chan) (x0 : Nat) : evRing (setChan s c x) x0 = evRing s x0 := rfl
@[simp] theorem getTag_of_setChan (c : Nat) (x : Chan) (x0 : Nat) : getTag (setChan s c x) x0 = getTag s x0 := rfl
@[simp] theorem rd_of_modChan (c : Nat) (f : Chan → Chan) (x0 : Nat) : rd (modChan s c f) x0 = rd s x0 := rfl
@[simp] theorem getF_of_modChan (c : Nat) (f : Chan → Chan) (x0 : Fld) : getF (modChan s c f) x0 = getF s x0 := rfl
@[simp] theorem getI_of_modChan (c : Nat) (f : Chan → Chan) (x0 : Fld) : getI (modChan s c f) x0 = getI s x0 := rfl
@[simp] theorem flag_of_modChan (c : Nat) (f : Chan → Chan) (x0 : Fld) : flag (modChan s c f) x0 = flag s x0 := rfl
@[simp] theorem bitF_of_modChan (c : Nat) (f : Chan → Chan) (x0 : Fld) (x1 : Nat) : bitF (modChan s c f) x0 x1 = bitF s x0 x1 := rfl
@[simp] theorem online_of_modChan (c : Nat) (f : Chan → Chan) (x0 : Nat) : online (modChan s c f) x0 = online s x0 := rfl
@[simp] theorem flask_of_modChan (c : Nat) (f : Chan → Chan) (x0 : Nat) : flask (modChan s c f) x0 = flask s x0 := rfl
@[simp] theorem region_of_modChan (c : Nat) (f : Chan → Chan) (x0 : Nat) : region (modChan s c f) x0 = region s x0 := rfl
@[simp] theorem est_of_modChan (c : Nat) (f : Chan → Chan) (x0 : Nat) : est (modChan s c f) x0 = est s x0 := rfl
@[simp] theorem tl_of_modChan (c : Nat) (f : Chan → Chan) (x0 : Nat) : tl (modChan s c f) x0 = tl s x0 := rfl
@[simp] theorem sprue_of_modChan (c : Nat) (f : Chan → Chan) (x0 : Nat) : sprue (modChan s c f) x0 = sprue s x0 := rfl
@[simp] theorem faultQ_of_modChan (c : Nat) (f : Chan → Chan) (x0 : Nat) : faultQ (modChan s c f) x0 = faultQ s x0 := rfl
@[simp] theorem subRing_of_modChan (c : Nat) (f : Chan → Chan) (x0 : Nat) : subRing (modChan s c f) x0 = subRing s x0 := rfl
@[simp] theorem comRing_of_modChan (c : Nat) (f : Chan → Chan) (x0 : Nat) : comRing (modChan s c f) x0 = comRing s x0 := rfl
@[simp] theorem evRing_of_modChan (c : Nat) (f : Chan → Chan) (x0 : Nat) : evRing (modChan s c f) x0 = evRing s x0 := rfl
@[simp] theorem getTag_of_modChan (c : Nat) (f : Chan → Chan) (x0 : Nat) : getTag (modChan s c f) x0 = getTag s x0 := rfl
@[simp] theorem rd_of_setFlask (c : Nat) (x : Flask) (x0 : Nat) : rd (setFlask s c x) x0 = rd s x0 := rfl
@[simp] theorem getF_of_setFlask (c : Nat) (x : Flask) (x0 : Fld) : getF (setFlask s c x) x0 = getF s x0 := rfl
@[simp] theorem getI_of_setFlask (c : Nat) (x : Flask) (x0 : Fld) : getI (setFlask s c x) x0 = getI s x0 := rfl
@[simp] theorem flag_of_setFlask (c : Nat) (x : Flask) (x0 : Fld) : flag (setFlask s c x) x0 = flag s x0 := rfl
@[simp] theorem bitF_of_setFlask (c : Nat) (x : Flask) (x0 : Fld) (x1 : Nat) : bitF (setFlask s c x) x0 x1 = bitF s x0 x1 := rfl
@[simp] theorem online_of_setFlask (c : Nat) (x : Flask) (x0 : Nat) : online (setFlask s c x) x0 = online s x0 := rfl
@[simp] theorem chan_of_setFlask (c : Nat) (x : Flask) (x0 : Nat) : chan (setFlask s c x) x0 = chan s x0 := rfl
@[simp] theorem region_of_setFlask (c : Nat) (x : Flask) (x0 : Nat) : region (setFlask s c x) x0 = region s x0 := rfl
@[simp] theorem est_of_setFlask (c : Nat) (x : Flask) (x0 : Nat) : est (setFlask s c x) x0 = est s x0 := rfl
@[simp] theorem tl_of_setFlask (c : Nat) (x : Flask) (x0 : Nat) : tl (setFlask s c x) x0 = tl s x0 := rfl
@[simp] theorem sprue_of_setFlask (c : Nat) (x : Flask) (x0 : Nat) : sprue (setFlask s c x) x0 = sprue s x0 := rfl
@[simp] theorem faultQ_of_setFlask (c : Nat) (x : Flask) (x0 : Nat) : faultQ (setFlask s c x) x0 = faultQ s x0 := rfl
@[simp] theorem subRing_of_setFlask (c : Nat) (x : Flask) (x0 : Nat) : subRing (setFlask s c x) x0 = subRing s x0 := rfl
@[simp] theorem comRing_of_setFlask (c : Nat) (x : Flask) (x0 : Nat) : comRing (setFlask s c x) x0 = comRing s x0 := rfl
@[simp] theorem evRing_of_setFlask (c : Nat) (x : Flask) (x0 : Nat) : evRing (setFlask s c x) x0 = evRing s x0 := rfl
@[simp] theorem getTag_of_setFlask (c : Nat) (x : Flask) (x0 : Nat) : getTag (setFlask s c x) x0 = getTag s x0 := rfl
@[simp] theorem rd_of_modFlask (c : Nat) (f : Flask → Flask) (x0 : Nat) : rd (modFlask s c f) x0 = rd s x0 := rfl
@[simp] theorem getF_of_modFlask (c : Nat) (f : Flask → Flask) (x0 : Fld) : getF (modFlask s c f) x0 = getF s x0 := rfl
@[simp] theorem getI_of_modFlask (c : Nat) (f : Flask → Flask) (x0 : Fld) : getI (modFlask s c f) x0 = getI s x0 := rfl
@[simp] theorem flag_of_modFlask (c : Nat) (f : Flask → Flask) (x0 : Fld) : flag (modFlask s c f) x0 = flag s x0 := rfl
@[simp] theorem bitF_of_modFlask (c : Nat) (f : Flask → Flask) (x0 : Fld) (x1 : Nat) : bitF (modFlask s c f) x0 x1 = bitF s x0 x1 := rfl
@[simp] theorem online_of_modFlask (c : Nat) (f : Flask → Flask) (x0 : Nat) : online (modFlask s c f) x0 = online s x0 := rfl
@[simp] theorem chan_of_modFlask (c : Nat) (f : Flask → Flask) (x0 : Nat) : chan (modFlask s c f) x0 = chan s x0 := rfl
@[simp] theorem region_of_modFlask (c : Nat) (f : Flask → Flask) (x0 : Nat) : region (modFlask s c f) x0 = region s x0 := rfl
@[simp] theorem est_of_modFlask (c : Nat) (f : Flask → Flask) (x0 : Nat) : est (modFlask s c f) x0 = est s x0 := rfl
@[simp] theorem tl_of_modFlask (c : Nat) (f : Flask → Flask) (x0 : Nat) : tl (modFlask s c f) x0 = tl s x0 := rfl
@[simp] theorem sprue_of_modFlask (c : Nat) (f : Flask → Flask) (x0 : Nat) : sprue (modFlask s c f) x0 = sprue s x0 := rfl
@[simp] theorem faultQ_of_modFlask (c : Nat) (f : Flask → Flask) (x0 : Nat) : faultQ (modFlask s c f) x0 = faultQ s x0 := rfl
@[simp] theorem subRing_of_modFlask (c : Nat) (f : Flask → Flask) (x0 : Nat) : subRing (modFlask s c f) x0 = subRing s x0 := rfl
@[simp] theorem comRing_of_modFlask (c : Nat) (f : Flask → Flask) (x0 : Nat) : comRing (modFlask s c f) x0 = comRing s x0 := rfl
@[simp] theorem evRing_of_modFlask (c : Nat) (f : Flask → Flask) (x0 : Nat) : evRing (modFlask s c f) x0 = evRing s x0 := rfl
@[simp] theorem getTag_of_modFlask (c : Nat) (f : Flask → Flask) (x0 : Nat) : getTag (modFlask s c f) x0 = getTag s x0 := rfl
@[simp] theorem rd_of_setRegion (k : Nat) (x : Region) (x0 : Nat) : rd (setRegion s k x) x0 = rd s x0 := rfl
@[simp] theorem getF_of_setRegion (k : Nat) (x : Region) (x0 : Fld) : getF (setRegion s k x) x0 = getF s x0 := rfl
@[simp] theorem getI_of_setRegion (k : Nat) (x : Region) (x0 : Fld) : getI (setRegion s k x) x0 = getI s x0 := rfl
@[simp] theorem flag_of_setRegion (k : Nat) (x : Region) (x0 : Fld) : flag (setRegion s k x) x0 = flag s x0 := rfl
@[simp] theorem bitF_of_setRegion (k : Nat) (x : Region) (x0 : Fld) (x1 : Nat) : bitF (setRegion s k x) x0 x1 = bitF s x0 x1 := rfl
@[simp] theorem online_of_setRegion (k : Nat) (x : Region) (x0 : Nat) : online (setRegion s k x) x0 = online s x0 := rfl
@[simp] theorem chan_of_setRegion (k : Nat) (x : Region) (x0 : Nat) : chan (setRegion s k x) x0 = chan s x0 := rfl
@[simp] theorem flask_of_setRegion (k : Nat) (x : Region) (x0 : Nat) : flask (setRegion s k x) x0 = flask s x0 := rfl
@[simp] theorem est_of_setRegion (k : Nat) (x : Region) (x0 : Nat) : est (setRegion s k x) x0 = est s x0 := rfl
@[simp] theorem tl_of_setRegion (k : Nat) (x : Region) (x0 : Nat) : tl (setRegion s k x) x0 = tl s x0 := rfl
@[simp] theorem sprue_of_setRegion (k : Nat) (x : Region) (x0 : Nat) : sprue (setRegion s k x) x0 = sprue s x0 := rfl
@[simp] theorem faultQ_of_setRegion (k : Nat) (x : Region) (x0 : Nat) : faultQ (setRegion s k x) x0 = faultQ s x0 := rfl
@[simp] theorem subRing_of_setRegion (k : Nat) (x : Region) (x0 : Nat) : subRing (setRegion s k x) x0 = subRing s x0 := rfl
@[simp] theorem comRing_of_setRegion (k : Nat) (x : Region) (x0 : Nat) : comRing (setRegion s k x) x0 = comRing s x0 := rfl
@[simp] theorem evRing_of_setRegion (k : Nat) (x : Region) (x0 : Nat) : evRing (setRegion s k x) x0 = evRing s x0 := rfl
@[simp] theorem getTag_of_setRegion (k : Nat) (x : Region) (x0 : Nat) : getTag (setRegion s k x) x0 = getTag s x0 := rfl
@[simp] theorem rd_of_modRegion (k : Nat) (f : Region → Region) (x0 : Nat) : rd (modRegion s k f) x0 = rd s x0 := rfl
@[simp] theorem getF_of_modRegion (k : Nat) (f : Region → Region) (x0 : Fld) : getF (modRegion s k f) x0 = getF s x0 := rfl
@[simp] theorem getI_of_modRegion (k : Nat) (f : Region → Region) (x0 : Fld) : getI (modRegion s k f) x0 = getI s x0 := rfl
@[simp] theorem flag_of_modRegion (k : Nat) (f : Region → Region) (x0 : Fld) : flag (modRegion s k f) x0 = flag s x0 := rfl
@[simp] theorem bitF_of_modRegion (k : Nat) (f : Region → Region) (x0 : Fld) (x1 : Nat) : bitF (modRegion s k f) x0 x1 = bitF s x0 x1 := rfl
@[simp] theorem online_of_modRegion (k : Nat) (f : Region → Region) (x0 : Nat) : online (modRegion s k f) x0 = online s x0 := rfl
@[simp] theorem chan_of_modRegion (k : Nat) (f : Region → Region) (x0 : Nat) : chan (modRegion s k f) x0 = chan s x0 := rfl
@[simp] theorem flask_of_modRegion (k : Nat) (f : Region → Region) (x0 : Nat) : flask (modRegion s k f) x0 = flask s x0 := rfl
@[simp] theorem est_of_modRegion (k : Nat) (f : Region → Region) (x0 : Nat) : est (modRegion s k f) x0 = est s x0 := rfl
@[simp] theorem tl_of_modRegion (k : Nat) (f : Region → Region) (x0 : Nat) : tl (modRegion s k f) x0 = tl s x0 := rfl
@[simp] theorem sprue_of_modRegion (k : Nat) (f : Region → Region) (x0 : Nat) : sprue (modRegion s k f) x0 = sprue s x0 := rfl
@[simp] theorem faultQ_of_modRegion (k : Nat) (f : Region → Region) (x0 : Nat) : faultQ (modRegion s k f) x0 = faultQ s x0 := rfl
@[simp] theorem subRing_of_modRegion (k : Nat) (f : Region → Region) (x0 : Nat) : subRing (modRegion s k f) x0 = subRing s x0 := rfl
@[simp] theorem comRing_of_modRegion (k : Nat) (f : Region → Region) (x0 : Nat) : comRing (modRegion s k f) x0 = comRing s x0 := rfl
@[simp] theorem evRing_of_modRegion (k : Nat) (f : Region → Region) (x0 : Nat) : evRing (modRegion s k f) x0 = evRing s x0 := rfl
@[simp] theorem getTag_of_modRegion (k : Nat) (f : Region → Region) (x0 : Nat) : getTag (modRegion s k f) x0 = getTag s x0 := rfl
@[simp] theorem rd_of_setEst (c : Nat) (x : Est) (x0 : Nat) : rd (setEst s c x) x0 = rd s x0 := rfl
@[simp] theorem getF_of_setEst (c : Nat) (x : Est) (x0 : Fld) : getF (setEst s c x) x0 = getF s x0 := rfl
@[simp] theorem getI_of_setEst (c : Nat) (x : Est) (x0 : Fld) : getI (setEst s c x) x0 = getI s x0 := rfl
@[simp] theorem flag_of_setEst (c : Nat) (x : Est) (x0 : Fld) : flag (setEst s c x) x0 = flag s x0 := rfl
@[simp] theorem bitF_of_setEst (c : Nat) (x : Est) (x0 : Fld) (x1 : Nat) : bitF (setEst s c x) x0 x1 = bitF s x0 x1 := rfl
@[simp] theorem online_of_setEst (c : Nat) (x : Est) (x0 : Nat) : online (setEst s c x) x0 = online s x0 := rfl
@[simp] theorem chan_of_setEst (c : Nat) (x : Est) (x0 : Nat) : chan (setEst s c x) x0 = chan s x0 := rfl
@[simp] theorem flask_of_setEst (c : Nat) (x : Est) (x0 : Nat) : flask (setEst s c x) x0 = flask s x0 := rfl
@[simp] theorem region_of_setEst (c : Nat) (x : Est) (x0 : Nat) : region (setEst s c x) x0 = region s x0 := rfl
@[simp] theorem tl_of_setEst (c : Nat) (x : Est) (x0 : Nat) : tl (setEst s c x) x0 = tl s x0 := rfl
@[simp] theorem sprue_of_setEst (c : Nat) (x : Est) (x0 : Nat) : sprue (setEst s c x) x0 = sprue s x0 := rfl
@[simp] theorem faultQ_of_setEst (c : Nat) (x : Est) (x0 : Nat) : faultQ (setEst s c x) x0 = faultQ s x0 := rfl
@[simp] theorem subRing_of_setEst (c : Nat) (x : Est) (x0 : Nat) : subRing (setEst s c x) x0 = subRing s x0 := rfl
@[simp] theorem comRing_of_setEst (c : Nat) (x : Est) (x0 : Nat) : comRing (setEst s c x) x0 = comRing s x0 := rfl
@[simp] theorem evRing_of_setEst (c : Nat) (x : Est) (x0 : Nat) : evRing (setEst s c x) x0 = evRing s x0 := rfl
@[simp] theorem getTag_of_setEst (c : Nat) (x : Est) (x0 : Nat) : getTag (setEst s c x) x0 = getTag s x0 := rfl
@[simp] theorem rd_of_modEst (c : Nat) (f : Est → Est) (x0 : Nat) : rd (modEst s c f) x0 = rd s x0 := rfl
@[simp] theorem getF_of_modEst (c : Nat) (f : Est → Est) (x0 : Fld) : getF (modEst s c f) x0 = getF s x0 := rfl
@[simp] theorem getI_of_modEst (c : Nat) (f : Est → Est) (x0 : Fld) : getI (modEst s c f) x0 = getI s x0 := rfl
@[simp] theorem flag_of_modEst (c : Nat) (f : Est → Est) (x0 : Fld) : flag (modEst s c f) x0 = flag s x0 := rfl
@[simp] theorem bitF_of_modEst (c : Nat) (f : Est → Est) (x0 : Fld) (x1 : Nat) : bitF (modEst s c f) x0 x1 = bitF s x0 x1 := rfl
@[simp] theorem online_of_modEst (c : Nat) (f : Est → Est) (x0 : Nat) : online (modEst s c f) x0 = online s x0 := rfl
@[simp] theorem chan_of_modEst (c : Nat) (f : Est → Est) (x0 : Nat) : chan (modEst s c f) x0 = chan s x0 := rfl
@[simp] theorem flask_of_modEst (c : Nat) (f : Est → Est) (x0 : Nat) : flask (modEst s c f) x0 = flask s x0 := rfl
@[simp] theorem region_of_modEst (c : Nat) (f : Est → Est) (x0 : Nat) : region (modEst s c f) x0 = region s x0 := rfl
@[simp] theorem tl_of_modEst (c : Nat) (f : Est → Est) (x0 : Nat) : tl (modEst s c f) x0 = tl s x0 := rfl
@[simp] theorem sprue_of_modEst (c : Nat) (f : Est → Est) (x0 : Nat) : sprue (modEst s c f) x0 = sprue s x0 := rfl
@[simp] theorem faultQ_of_modEst (c : Nat) (f : Est → Est) (x0 : Nat) : faultQ (modEst s c f) x0 = faultQ s x0 := rfl
@[simp] theorem subRing_of_modEst (c : Nat) (f : Est → Est) (x0 : Nat) : subRing (modEst s c f) x0 = subRing s x0 := rfl
@[simp] theorem comRing_of_modEst (c : Nat) (f : Est → Est) (x0 : Nat) : comRing (modEst s c f) x0 = comRing s x0 := rfl
@[simp] theorem evRing_of_modEst (c : Nat) (f : Est → Est) (x0 : Nat) : evRing (modEst s c f) x0 = evRing s x0 := rfl
@[simp] theorem getTag_of_modEst (c : Nat) (f : Est → Est) (x0 : Nat) : getTag (modEst s c f) x0 = getTag s x0 := rfl
@[simp] theorem rd_of_setTl (n : Nat) (x : TlPort) (x0 : Nat) : rd (setTl s n x) x0 = rd s x0 := rfl
@[simp] theorem getF_of_setTl (n : Nat) (x : TlPort) (x0 : Fld) : getF (setTl s n x) x0 = getF s x0 := rfl
@[simp] theorem getI_of_setTl (n : Nat) (x : TlPort) (x0 : Fld) : getI (setTl s n x) x0 = getI s x0 := rfl
@[simp] theorem flag_of_setTl (n : Nat) (x : TlPort) (x0 : Fld) : flag (setTl s n x) x0 = flag s x0 := rfl
@[simp] theorem bitF_of_setTl (n : Nat) (x : TlPort) (x0 : Fld) (x1 : Nat) : bitF (setTl s n x) x0 x1 = bitF s x0 x1 := rfl
@[simp] theorem online_of_setTl (n : Nat) (x : TlPort) (x0 : Nat) : online (setTl s n x) x0 = online s x0 := rfl
@[simp] theorem chan_of_setTl (n : Nat) (x : TlPort) (x0 : Nat) : chan (setTl s n x) x0 = chan s x0 := rfl
@[simp] theorem flask_of_setTl (n : Nat) (x : TlPort) (x0 : Nat) : flask (setTl s n x) x0 = flask s x0 := rfl
@[simp] theorem region_of_setTl (n : Nat) (x : TlPort) (x0 : Nat) : region (setTl s n x) x0 = region s x0 := rfl
@[simp] theorem est_of_setTl (n : Nat) (x : TlPort) (x0 : Nat) : est (setTl s n x) x0 = est s x0 := rfl
@[simp] theorem sprue_of_setTl (n : Nat) (x : TlPort) (x0 : Nat) : sprue (setTl s n x) x0 = sprue s x0 := rfl
@[simp] theorem faultQ_of_setTl (n : Nat) (x : TlPort) (x0 : Nat) : faultQ (setTl s n x) x0 = faultQ s x0 := rfl
@[simp] theorem subRing_of_setTl (n : Nat) (x : TlPort) (x0 : Nat) : subRing (setTl s n x) x0 = subRing s x0 := rfl
@[simp] theorem comRing_of_setTl (n : Nat) (x : TlPort) (x0 : Nat) : comRing (setTl s n x) x0 = comRing s x0 := rfl
@[simp] theorem evRing_of_setTl (n : Nat) (x : TlPort) (x0 : Nat) : evRing (setTl s n x) x0 = evRing s x0 := rfl
@[simp] theorem getTag_of_setTl (n : Nat) (x : TlPort) (x0 : Nat) : getTag (setTl s n x) x0 = getTag s x0 := rfl
@[simp] theorem rd_of_modTl (n : Nat) (f : TlPort → TlPort) (x0 : Nat) : rd (modTl s n f) x0 = rd s x0 := rfl
@[simp] theorem getF_of_modTl (n : Nat) (f : TlPort → TlPort) (x0 : Fld) : getF (modTl s n f) x0 = getF s x0 := rfl
@[simp] theorem getI_of_modTl (n : Nat) (f : TlPort → TlPort) (x0 : Fld) : getI (modTl s n f) x0 = getI s x0 := rfl
@[simp] theorem flag_of_modTl (n : Nat) (f : TlPort → TlPort) (x0 : Fld) : flag (modTl s n f) x0 = flag s x0 := rfl
@[simp] theorem bitF_of_modTl (n : Nat) (f : TlPort → TlPort) (x0 : Fld) (x1 : Nat) : bitF (modTl s n f) x0 x1 = bitF s x0 x1 := rfl
@[simp] theorem online_of_modTl (n : Nat) (f : TlPort → TlPort) (x0 : Nat) : online (modTl s n f) x0 = online s x0 := rfl
@[simp] theorem chan_of_modTl (n : Nat) (f : TlPort → TlPort) (x0 : Nat) : chan (modTl s n f) x0 = chan s x0 := rfl
@[simp] theorem flask_of_modTl (n : Nat) (f : TlPort → TlPort) (x0 : Nat) : flask (modTl s n f) x0 = flask s x0 := rfl
@[simp] theorem region_of_modTl (n : Nat) (f : TlPort → TlPort) (x0 : Nat) : region (modTl s n f) x0 = region s x0 := rfl
@[simp] theorem est_of_modTl (n : Nat) (f : TlPort → TlPort) (x0 : Nat) : est (modTl s n f) x0 = est s x0 := rfl
@[simp] theorem sprue_of_modTl (n : Nat) (f : TlPort → TlPort) (x0 : Nat) : sprue (modTl s n f) x0 = sprue s x0 := rfl
@[simp] theorem faultQ_of_modTl (n : Nat) (f : TlPort → TlPort) (x0 : Nat) : faultQ (modTl s n f) x0 = faultQ s x0 := rfl
@[simp] theorem subRing_of_modTl (n : Nat) (f : TlPort → TlPort) (x0 : Nat) : subRing (modTl s n f) x0 = subRing s x0 := rfl
@[simp] theorem comRing_of_modTl (n : Nat) (f : TlPort → TlPort) (x0 : Nat) : comRing (modTl s n f) x0 = comRing s x0 := rfl
@[simp] theorem evRing_of_modTl (n : Nat) (f : TlPort → TlPort) (x0 : Nat) : evRing (modTl s n f) x0 = evRing s x0 := rfl
@[simp] theorem getTag_of_modTl (n : Nat) (f : TlPort → TlPort) (x0 : Nat) : getTag (modTl s n f) x0 = getTag s x0 := rfl
@[simp] theorem rd_of_setFaultQ (i : Nat) (q : FaultQueue) (x0 : Nat) : rd (setFaultQ s i q) x0 = rd s x0 := rfl
@[simp] theorem getF_of_setFaultQ (i : Nat) (q : FaultQueue) (x0 : Fld) : getF (setFaultQ s i q) x0 = getF s x0 := rfl
@[simp] theorem getI_of_setFaultQ (i : Nat) (q : FaultQueue) (x0 : Fld) : getI (setFaultQ s i q) x0 = getI s x0 := rfl
@[simp] theorem flag_of_setFaultQ (i : Nat) (q : FaultQueue) (x0 : Fld) : flag (setFaultQ s i q) x0 = flag s x0 := rfl
@[simp] theorem bitF_of_setFaultQ (i : Nat) (q : FaultQueue) (x0 : Fld) (x1 : Nat) : bitF (setFaultQ s i q) x0 x1 = bitF s x0 x1 := rfl
@[simp] theorem online_of_setFaultQ (i : Nat) (q : FaultQueue) (x0 : Nat) : online (setFaultQ s i q) x0 = online s x0 := rfl
@[simp] theorem chan_of_setFaultQ (i : Nat) (q : FaultQueue) (x0 : Nat) : chan (setFaultQ s i q) x0 = chan s x0 := rfl
@[simp] theorem flask_of_setFaultQ (i : Nat) (q : FaultQueue) (x0 : Nat) : flask (setFaultQ s i q) x0 = flask s x0 := rfl
@[simp] theorem region_of_setFaultQ (i : Nat) (q : FaultQueue) (x0 : Nat) : region (setFaultQ s i q) x0 = region s x0 := rfl
@[simp] theorem est_of_setFaultQ (i : Nat) (q : FaultQueue) (x0 : Nat) : est (setFaultQ s i q) x0 = est s x0 := rfl
@[simp] theorem tl_of_setFaultQ (i : Nat) (q : FaultQueue) (x0 : Nat) : tl (setFaultQ s i q) x0 = tl s x0 := rfl
@[simp] theorem sprue_of_setFaultQ (i : Nat) (q : FaultQueue) (x0 : Nat) : sprue (setFaultQ s i q) x0 = sprue s x0 := rfl
@[simp] theorem subRing_of_setFaultQ (i : Nat) (q : FaultQueue) (x0 : Nat) : subRing (setFaultQ s i q) x0 = subRing s x0 := rfl
@[simp] theorem comRing_of_setFaultQ (i : Nat) (q : FaultQueue) (x0 : Nat) : comRing (setFaultQ s i q) x0 = comRing s x0 := rfl
@[simp] theorem evRing_of_setFaultQ (i : Nat) (q : FaultQueue) (x0 : Nat) : evRing (setFaultQ s i q) x0 = evRing s x0 := rfl
@[simp] theorem getTag_of_setFaultQ (i : Nat) (q : FaultQueue) (x0 : Nat) : getTag (setFaultQ s i q) x0 = getTag s x0 := rfl

end Sys2Proof.Machine
end

