-- ==== Sys2Proof/Laws/Frames.lean ====
section
/-! SUPPORT. Everything the operations that report to the outside can change: interrupts, event bits and their records,
trace records, fault messages, and the end of a command. -/

namespace Sys2Proof.Machine

/-! ## Event words -/

theorem not_report {a : Nat} (h : ¬ ReportWord a) : a ≠ HI_EVENT ∧ a ≠ HI_EVLOST ∧ a ≠ bar4 + 0xC000 ∧ a ≠ bar4 + 0xC004 := by
  unfold ReportWord at h
  exact ⟨fun e => h (.inl e), fun e => h (.inr (.inl e)), fun e => h (.inr (.inr (.inl e))), fun e => h (.inr (.inr (.inr (.inl e))))⟩

/-- A word that does not report is the `EV_STATUS` of no ring. -/
theorem not_report_full {a : Nat} (h : ¬ ReportWord a) (n : Nat) : a ≠ EV_STATUS (n % 4) := by
  unfold ReportWord at h
  have : n % 4 = 0 ∨ n % 4 = 1 ∨ n % 4 = 2 ∨ n % 4 = 3 := by omega
  rcases this with e | e | e | e <;> rw [e] <;> intro k <;> exact h (by simp [k])

theorem msix_frame (s : State) (v : Nat) :
    msix s v = { s with words := (msix s v).words, out := (msix s v).out } := by
  unfold msix
  split
  · rfl
  · split <;> rfl

@[simp] theorem msix_part (s : State) (v : Nat) : (msix s v).part = s.part := by
  rw [msix_frame]
@[simp] theorem msix_now (s : State) (v : Nat) : (msix s v).now = s.now := by
  rw [msix_frame]
@[simp] theorem msix_snap (s : State) (v : Nat) : (msix s v).snap = s.snap := by
  rw [msix_frame]
@[simp] theorem msix_tickAt (s : State) (v : Nat) : (msix s v).tickAt = s.tickAt := by
  rw [msix_frame]
@[simp] theorem msix_fabrics (s : State) (v : Nat) : (msix s v).fabrics = s.fabrics := by
  rw [msix_frame]
@[simp] theorem msix_pw (s : State) (v : Nat) : (msix s v).pw = s.pw := by
  rw [msix_frame]
@[simp] theorem msix_pp (s : State) (v : Nat) : (msix s v).pp = s.pp := by
  rw [msix_frame]
@[simp] theorem msix_fq (s : State) (v : Nat) : (msix s v).fq = s.fq := by
  rw [msix_frame]
@[simp] theorem msix_fc (s : State) (v : Nat) : (msix s v).fc = s.fc := by
  rw [msix_frame]
@[simp] theorem msix_bb (s : State) (v : Nat) : (msix s v).bb = s.bb := by
  rw [msix_frame]
@[simp] theorem msix_hi (s : State) (v : Nat) : (msix s v).hi = s.hi := by
  rw [msix_frame]
@[simp] theorem msix_mp (s : State) (v : Nat) : (msix s v).mp = s.mp := by
  rw [msix_frame]
@[simp] theorem msix_trc (s : State) (v : Nat) : (msix s v).trc = s.trc := by
  rw [msix_frame]
@[simp] theorem msix_atst (s : State) (v : Nat) : (msix s v).atst = s.atst := by
  rw [msix_frame]
@[simp] theorem msix_chans (s : State) (v : Nat) : (msix s v).chans = s.chans := by
  rw [msix_frame]
@[simp] theorem msix_flasks (s : State) (v : Nat) : (msix s v).flasks = s.flasks := by
  rw [msix_frame]
@[simp] theorem msix_regs (s : State) (v : Nat) : (msix s v).regs = s.regs := by
  rw [msix_frame]
@[simp] theorem msix_lad (s : State) (v : Nat) : (msix s v).lad = s.lad := by
  rw [msix_frame]
@[simp] theorem msix_tls (s : State) (v : Nat) : (msix s v).tls = s.tls := by
  rw [msix_frame]
@[simp] theorem msix_tlHost (s : State) (v : Nat) : (msix s v).tlHost = s.tlHost := by
  rw [msix_frame]
@[simp] theorem msix_ests (s : State) (v : Nat) : (msix s v).ests = s.ests := by
  rw [msix_frame]
@[simp] theorem msix_recs (s : State) (v : Nat) : (msix s v).recs = s.recs := by
  rw [msix_frame]
@[simp] theorem msix_sweeps (s : State) (v : Nat) : (msix s v).sweeps = s.sweeps := by
  rw [msix_frame]
@[simp] theorem msix_fuses (s : State) (v : Nat) : (msix s v).fuses = s.fuses := by
  rw [msix_frame]
@[simp] theorem msix_wd (s : State) (v : Nat) : (msix s v).wd = s.wd := by
  rw [msix_frame]
@[simp] theorem msix_sv (s : State) (v : Nat) : (msix s v).sv = s.sv := by
  rw [msix_frame]
@[simp] theorem msix_fw (s : State) (v : Nat) : (msix s v).fw = s.fw := by
  rw [msix_frame]
@[simp] theorem msix_site (s : State) (v : Nat) : (msix s v).site = s.site := by
  rw [msix_frame]
@[simp] theorem msix_tel (s : State) (v : Nat) : (msix s v).tel = s.tel := by
  rw [msix_frame]
@[simp] theorem msix_calWaits (s : State) (v : Nat) : (msix s v).calWaits = s.calWaits := by
  rw [msix_frame]
@[simp] theorem msix_legs (s : State) (v : Nat) : (msix s v).legs = s.legs := by
  rw [msix_frame]
@[simp] theorem msix_legCal (s : State) (v : Nat) : (msix s v).legCal = s.legCal := by
  rw [msix_frame]
@[simp] theorem msix_calConvs (s : State) (v : Nat) : (msix s v).calConvs = s.calConvs := by
  rw [msix_frame]
@[simp] theorem msix_free (s : State) (v : Nat) : (msix s v).free = s.free := by
  rw [msix_frame]
@[simp] theorem msix_pending (s : State) (v : Nat) : (msix s v).pending = s.pending := by
  rw [msix_frame]
@[simp] theorem on_msix (s : State) (v : Nat) (d : Nat) : on (msix s v) d = on s d := by
  unfold on
  rw [msix_frame]

theorem raiseHi_frame (s : State) (m : Nat) :
    raiseHi s m = { s with words := (raiseHi s m).words, out := (raiseHi s m).out } := by
  unfold raiseHi
  split
  · rfl
  · dsimp only
    split
    · rfl
    · rw [msix_frame]
      rfl

@[simp] theorem raiseHi_part (s : State) (m : Nat) : (raiseHi s m).part = s.part := by
  rw [raiseHi_frame]
@[simp] theorem raiseHi_now (s : State) (m : Nat) : (raiseHi s m).now = s.now := by
  rw [raiseHi_frame]
@[simp] theorem raiseHi_snap (s : State) (m : Nat) : (raiseHi s m).snap = s.snap := by
  rw [raiseHi_frame]
@[simp] theorem raiseHi_tickAt (s : State) (m : Nat) : (raiseHi s m).tickAt = s.tickAt := by
  rw [raiseHi_frame]
@[simp] theorem raiseHi_fabrics (s : State) (m : Nat) : (raiseHi s m).fabrics = s.fabrics := by
  rw [raiseHi_frame]
@[simp] theorem raiseHi_pw (s : State) (m : Nat) : (raiseHi s m).pw = s.pw := by
  rw [raiseHi_frame]
@[simp] theorem raiseHi_pp (s : State) (m : Nat) : (raiseHi s m).pp = s.pp := by
  rw [raiseHi_frame]
@[simp] theorem raiseHi_fq (s : State) (m : Nat) : (raiseHi s m).fq = s.fq := by
  rw [raiseHi_frame]
@[simp] theorem raiseHi_fc (s : State) (m : Nat) : (raiseHi s m).fc = s.fc := by
  rw [raiseHi_frame]
@[simp] theorem raiseHi_bb (s : State) (m : Nat) : (raiseHi s m).bb = s.bb := by
  rw [raiseHi_frame]
@[simp] theorem raiseHi_hi (s : State) (m : Nat) : (raiseHi s m).hi = s.hi := by
  rw [raiseHi_frame]
@[simp] theorem raiseHi_mp (s : State) (m : Nat) : (raiseHi s m).mp = s.mp := by
  rw [raiseHi_frame]
@[simp] theorem raiseHi_trc (s : State) (m : Nat) : (raiseHi s m).trc = s.trc := by
  rw [raiseHi_frame]
@[simp] theorem raiseHi_atst (s : State) (m : Nat) : (raiseHi s m).atst = s.atst := by
  rw [raiseHi_frame]
@[simp] theorem raiseHi_chans (s : State) (m : Nat) : (raiseHi s m).chans = s.chans := by
  rw [raiseHi_frame]
@[simp] theorem raiseHi_flasks (s : State) (m : Nat) : (raiseHi s m).flasks = s.flasks := by
  rw [raiseHi_frame]
@[simp] theorem raiseHi_regs (s : State) (m : Nat) : (raiseHi s m).regs = s.regs := by
  rw [raiseHi_frame]
@[simp] theorem raiseHi_lad (s : State) (m : Nat) : (raiseHi s m).lad = s.lad := by
  rw [raiseHi_frame]
@[simp] theorem raiseHi_tls (s : State) (m : Nat) : (raiseHi s m).tls = s.tls := by
  rw [raiseHi_frame]
@[simp] theorem raiseHi_tlHost (s : State) (m : Nat) : (raiseHi s m).tlHost = s.tlHost := by
  rw [raiseHi_frame]
@[simp] theorem raiseHi_ests (s : State) (m : Nat) : (raiseHi s m).ests = s.ests := by
  rw [raiseHi_frame]
@[simp] theorem raiseHi_recs (s : State) (m : Nat) : (raiseHi s m).recs = s.recs := by
  rw [raiseHi_frame]
@[simp] theorem raiseHi_sweeps (s : State) (m : Nat) : (raiseHi s m).sweeps = s.sweeps := by
  rw [raiseHi_frame]
@[simp] theorem raiseHi_fuses (s : State) (m : Nat) : (raiseHi s m).fuses = s.fuses := by
  rw [raiseHi_frame]
@[simp] theorem raiseHi_wd (s : State) (m : Nat) : (raiseHi s m).wd = s.wd := by
  rw [raiseHi_frame]
@[simp] theorem raiseHi_sv (s : State) (m : Nat) : (raiseHi s m).sv = s.sv := by
  rw [raiseHi_frame]
@[simp] theorem raiseHi_fw (s : State) (m : Nat) : (raiseHi s m).fw = s.fw := by
  rw [raiseHi_frame]
@[simp] theorem raiseHi_site (s : State) (m : Nat) : (raiseHi s m).site = s.site := by
  rw [raiseHi_frame]
@[simp] theorem raiseHi_tel (s : State) (m : Nat) : (raiseHi s m).tel = s.tel := by
  rw [raiseHi_frame]
@[simp] theorem raiseHi_calWaits (s : State) (m : Nat) : (raiseHi s m).calWaits = s.calWaits := by
  rw [raiseHi_frame]
@[simp] theorem raiseHi_legs (s : State) (m : Nat) : (raiseHi s m).legs = s.legs := by
  rw [raiseHi_frame]
@[simp] theorem raiseHi_legCal (s : State) (m : Nat) : (raiseHi s m).legCal = s.legCal := by
  rw [raiseHi_frame]
@[simp] theorem raiseHi_calConvs (s : State) (m : Nat) : (raiseHi s m).calConvs = s.calConvs := by
  rw [raiseHi_frame]
@[simp] theorem raiseHi_free (s : State) (m : Nat) : (raiseHi s m).free = s.free := by
  rw [raiseHi_frame]
@[simp] theorem raiseHi_pending (s : State) (m : Nat) : (raiseHi s m).pending = s.pending := by
  rw [raiseHi_frame]
@[simp] theorem on_raiseHi (s : State) (m : Nat) (d : Nat) : on (raiseHi s m) d = on s d := by
  unfold on
  rw [raiseHi_frame]

theorem countLost_frame (s : State) (ring : Nat) (tel : Bool) :
    countLost s ring tel = { s with words := (countLost s ring tel).words, hi := (countLost s ring tel).hi, out := (countLost s ring tel).out } := by
  unfold countLost
  dsimp only
  rw [raiseHi_frame]
  rfl

@[simp] theorem countLost_part (s : State) (ring : Nat) (tel : Bool) : (countLost s ring tel).part = s.part := by
  rw [countLost_frame]
@[simp] theorem countLost_now (s : State) (ring : Nat) (tel : Bool) : (countLost s ring tel).now = s.now := by
  rw [countLost_frame]
@[simp] theorem countLost_snap (s : State) (ring : Nat) (tel : Bool) : (countLost s ring tel).snap = s.snap := by
  rw [countLost_frame]
@[simp] theorem countLost_tickAt (s : State) (ring : Nat) (tel : Bool) : (countLost s ring tel).tickAt = s.tickAt := by
  rw [countLost_frame]
@[simp] theorem countLost_fabrics (s : State) (ring : Nat) (tel : Bool) : (countLost s ring tel).fabrics = s.fabrics := by
  rw [countLost_frame]
@[simp] theorem countLost_pw (s : State) (ring : Nat) (tel : Bool) : (countLost s ring tel).pw = s.pw := by
  rw [countLost_frame]
@[simp] theorem countLost_pp (s : State) (ring : Nat) (tel : Bool) : (countLost s ring tel).pp = s.pp := by
  rw [countLost_frame]
@[simp] theorem countLost_fq (s : State) (ring : Nat) (tel : Bool) : (countLost s ring tel).fq = s.fq := by
  rw [countLost_frame]
@[simp] theorem countLost_fc (s : State) (ring : Nat) (tel : Bool) : (countLost s ring tel).fc = s.fc := by
  rw [countLost_frame]
@[simp] theorem countLost_bb (s : State) (ring : Nat) (tel : Bool) : (countLost s ring tel).bb = s.bb := by
  rw [countLost_frame]
@[simp] theorem countLost_mp (s : State) (ring : Nat) (tel : Bool) : (countLost s ring tel).mp = s.mp := by
  rw [countLost_frame]
@[simp] theorem countLost_trc (s : State) (ring : Nat) (tel : Bool) : (countLost s ring tel).trc = s.trc := by
  rw [countLost_frame]
@[simp] theorem countLost_atst (s : State) (ring : Nat) (tel : Bool) : (countLost s ring tel).atst = s.atst := by
  rw [countLost_frame]
@[simp] theorem countLost_chans (s : State) (ring : Nat) (tel : Bool) : (countLost s ring tel).chans = s.chans := by
  rw [countLost_frame]
@[simp] theorem countLost_flasks (s : State) (ring : Nat) (tel : Bool) : (countLost s ring tel).flasks = s.flasks := by
  rw [countLost_frame]
@[simp] theorem countLost_regs (s : State) (ring : Nat) (tel : Bool) : (countLost s ring tel).regs = s.regs := by
  rw [countLost_frame]
@[simp] theorem countLost_lad (s : State) (ring : Nat) (tel : Bool) : (countLost s ring tel).lad = s.lad := by
  rw [countLost_frame]
@[simp] theorem countLost_tls (s : State) (ring : Nat) (tel : Bool) : (countLost s ring tel).tls = s.tls := by
  rw [countLost_frame]
@[simp] theorem countLost_tlHost (s : State) (ring : Nat) (tel : Bool) : (countLost s ring tel).tlHost = s.tlHost := by
  rw [countLost_frame]
@[simp] theorem countLost_ests (s : State) (ring : Nat) (tel : Bool) : (countLost s ring tel).ests = s.ests := by
  rw [countLost_frame]
@[simp] theorem countLost_recs (s : State) (ring : Nat) (tel : Bool) : (countLost s ring tel).recs = s.recs := by
  rw [countLost_frame]
@[simp] theorem countLost_sweeps (s : State) (ring : Nat) (tel : Bool) : (countLost s ring tel).sweeps = s.sweeps := by
  rw [countLost_frame]
@[simp] theorem countLost_fuses (s : State) (ring : Nat) (tel : Bool) : (countLost s ring tel).fuses = s.fuses := by
  rw [countLost_frame]
@[simp] theorem countLost_wd (s : State) (ring : Nat) (tel : Bool) : (countLost s ring tel).wd = s.wd := by
  rw [countLost_frame]
@[simp] theorem countLost_sv (s : State) (ring : Nat) (tel : Bool) : (countLost s ring tel).sv = s.sv := by
  rw [countLost_frame]
@[simp] theorem countLost_fw (s : State) (ring : Nat) (tel : Bool) : (countLost s ring tel).fw = s.fw := by
  rw [countLost_frame]
@[simp] theorem countLost_site (s : State) (ring : Nat) (tel : Bool) : (countLost s ring tel).site = s.site := by
  rw [countLost_frame]
@[simp] theorem countLost_tel (s : State) (ring : Nat) (tel : Bool) : (countLost s ring tel).tel = s.tel := by
  rw [countLost_frame]
@[simp] theorem countLost_calWaits (s : State) (ring : Nat) (tel : Bool) : (countLost s ring tel).calWaits = s.calWaits := by
  rw [countLost_frame]
@[simp] theorem countLost_legs (s : State) (ring : Nat) (tel : Bool) : (countLost s ring tel).legs = s.legs := by
  rw [countLost_frame]
@[simp] theorem countLost_legCal (s : State) (ring : Nat) (tel : Bool) : (countLost s ring tel).legCal = s.legCal := by
  rw [countLost_frame]
@[simp] theorem countLost_calConvs (s : State) (ring : Nat) (tel : Bool) : (countLost s ring tel).calConvs = s.calConvs := by
  rw [countLost_frame]
@[simp] theorem countLost_free (s : State) (ring : Nat) (tel : Bool) : (countLost s ring tel).free = s.free := by
  rw [countLost_frame]
@[simp] theorem countLost_pending (s : State) (ring : Nat) (tel : Bool) : (countLost s ring tel).pending = s.pending := by
  rw [countLost_frame]
@[simp] theorem on_countLost (s : State) (ring : Nat) (tel : Bool) (d : Nat) : on (countLost s ring tel) d = on s d := by
  unfold on
  rw [countLost_frame]

theorem forceKey_frame (s : State) (r : Record) :
    forceKey s r = { s with tel := (forceKey s r).tel } := by
  rfl

@[simp] theorem forceKey_part (s : State) (r : Record) : (forceKey s r).part = s.part := by
  rw [forceKey_frame]
@[simp] theorem forceKey_now (s : State) (r : Record) : (forceKey s r).now = s.now := by
  rw [forceKey_frame]
@[simp] theorem forceKey_snap (s : State) (r : Record) : (forceKey s r).snap = s.snap := by
  rw [forceKey_frame]
@[simp] theorem forceKey_tickAt (s : State) (r : Record) : (forceKey s r).tickAt = s.tickAt := by
  rw [forceKey_frame]
@[simp] theorem forceKey_fabrics (s : State) (r : Record) : (forceKey s r).fabrics = s.fabrics := by
  rw [forceKey_frame]
@[simp] theorem forceKey_words (s : State) (r : Record) : (forceKey s r).words = s.words := by
  rw [forceKey_frame]
@[simp] theorem forceKey_pw (s : State) (r : Record) : (forceKey s r).pw = s.pw := by
  rw [forceKey_frame]
@[simp] theorem forceKey_pp (s : State) (r : Record) : (forceKey s r).pp = s.pp := by
  rw [forceKey_frame]
@[simp] theorem forceKey_fq (s : State) (r : Record) : (forceKey s r).fq = s.fq := by
  rw [forceKey_frame]
@[simp] theorem forceKey_fc (s : State) (r : Record) : (forceKey s r).fc = s.fc := by
  rw [forceKey_frame]
@[simp] theorem forceKey_bb (s : State) (r : Record) : (forceKey s r).bb = s.bb := by
  rw [forceKey_frame]
@[simp] theorem forceKey_hi (s : State) (r : Record) : (forceKey s r).hi = s.hi := by
  rw [forceKey_frame]
@[simp] theorem forceKey_mp (s : State) (r : Record) : (forceKey s r).mp = s.mp := by
  rw [forceKey_frame]
@[simp] theorem forceKey_trc (s : State) (r : Record) : (forceKey s r).trc = s.trc := by
  rw [forceKey_frame]
@[simp] theorem forceKey_atst (s : State) (r : Record) : (forceKey s r).atst = s.atst := by
  rw [forceKey_frame]
@[simp] theorem forceKey_chans (s : State) (r : Record) : (forceKey s r).chans = s.chans := by
  rw [forceKey_frame]
@[simp] theorem forceKey_flasks (s : State) (r : Record) : (forceKey s r).flasks = s.flasks := by
  rw [forceKey_frame]
@[simp] theorem forceKey_regs (s : State) (r : Record) : (forceKey s r).regs = s.regs := by
  rw [forceKey_frame]
@[simp] theorem forceKey_lad (s : State) (r : Record) : (forceKey s r).lad = s.lad := by
  rw [forceKey_frame]
@[simp] theorem forceKey_tls (s : State) (r : Record) : (forceKey s r).tls = s.tls := by
  rw [forceKey_frame]
@[simp] theorem forceKey_tlHost (s : State) (r : Record) : (forceKey s r).tlHost = s.tlHost := by
  rw [forceKey_frame]
@[simp] theorem forceKey_ests (s : State) (r : Record) : (forceKey s r).ests = s.ests := by
  rw [forceKey_frame]
@[simp] theorem forceKey_recs (s : State) (r : Record) : (forceKey s r).recs = s.recs := by
  rw [forceKey_frame]
@[simp] theorem forceKey_sweeps (s : State) (r : Record) : (forceKey s r).sweeps = s.sweeps := by
  rw [forceKey_frame]
@[simp] theorem forceKey_fuses (s : State) (r : Record) : (forceKey s r).fuses = s.fuses := by
  rw [forceKey_frame]
@[simp] theorem forceKey_wd (s : State) (r : Record) : (forceKey s r).wd = s.wd := by
  rw [forceKey_frame]
@[simp] theorem forceKey_sv (s : State) (r : Record) : (forceKey s r).sv = s.sv := by
  rw [forceKey_frame]
@[simp] theorem forceKey_fw (s : State) (r : Record) : (forceKey s r).fw = s.fw := by
  rw [forceKey_frame]
@[simp] theorem forceKey_site (s : State) (r : Record) : (forceKey s r).site = s.site := by
  rw [forceKey_frame]
@[simp] theorem forceKey_calWaits (s : State) (r : Record) : (forceKey s r).calWaits = s.calWaits := by
  rw [forceKey_frame]
@[simp] theorem forceKey_legs (s : State) (r : Record) : (forceKey s r).legs = s.legs := by
  rw [forceKey_frame]
@[simp] theorem forceKey_legCal (s : State) (r : Record) : (forceKey s r).legCal = s.legCal := by
  rw [forceKey_frame]
@[simp] theorem forceKey_calConvs (s : State) (r : Record) : (forceKey s r).calConvs = s.calConvs := by
  rw [forceKey_frame]
@[simp] theorem forceKey_free (s : State) (r : Record) : (forceKey s r).free = s.free := by
  rw [forceKey_frame]
@[simp] theorem forceKey_out (s : State) (r : Record) : (forceKey s r).out = s.out := by
  rw [forceKey_frame]
@[simp] theorem forceKey_pending (s : State) (r : Record) : (forceKey s r).pending = s.pending := by
  rw [forceKey_frame]
@[simp] theorem on_forceKey (s : State) (r : Record) (d : Nat) : on (forceKey s r) d = on s d := by
  unfold on
  rw [forceKey_frame]

theorem displace_frame (s : State) (ring : Nat) (r : Record) (n : Nat) :
    displace s ring r n = { s with words := (displace s ring r n).words, hi := (displace s ring r n).hi, out := (displace s ring r n).out, tel := (displace s ring r n).tel } := by
  cases n with
  | zero => rfl
  | succ n =>
    simp only [displace]
    split
    · rfl
    · split
      · rw [displace_frame _ ring r n]
        dsimp only [forceKey]
        rw [countLost_frame]
        rfl
      · rfl

@[simp] theorem displace_part (s : State) (ring : Nat) (r : Record) (n : Nat) : (displace s ring r n).part = s.part := by
  rw [displace_frame]
@[simp] theorem displace_now (s : State) (ring : Nat) (r : Record) (n : Nat) : (displace s ring r n).now = s.now := by
  rw [displace_frame]
@[simp] theorem displace_snap (s : State) (ring : Nat) (r : Record) (n : Nat) : (displace s ring r n).snap = s.snap := by
  rw [displace_frame]
@[simp] theorem displace_tickAt (s : State) (ring : Nat) (r : Record) (n : Nat) : (displace s ring r n).tickAt = s.tickAt := by
  rw [displace_frame]
@[simp] theorem displace_fabrics (s : State) (ring : Nat) (r : Record) (n : Nat) : (displace s ring r n).fabrics = s.fabrics := by
  rw [displace_frame]
@[simp] theorem displace_pw (s : State) (ring : Nat) (r : Record) (n : Nat) : (displace s ring r n).pw = s.pw := by
  rw [displace_frame]
@[simp] theorem displace_pp (s : State) (ring : Nat) (r : Record) (n : Nat) : (displace s ring r n).pp = s.pp := by
  rw [displace_frame]
@[simp] theorem displace_fq (s : State) (ring : Nat) (r : Record) (n : Nat) : (displace s ring r n).fq = s.fq := by
  rw [displace_frame]
@[simp] theorem displace_fc (s : State) (ring : Nat) (r : Record) (n : Nat) : (displace s ring r n).fc = s.fc := by
  rw [displace_frame]
@[simp] theorem displace_bb (s : State) (ring : Nat) (r : Record) (n : Nat) : (displace s ring r n).bb = s.bb := by
  rw [displace_frame]
@[simp] theorem displace_mp (s : State) (ring : Nat) (r : Record) (n : Nat) : (displace s ring r n).mp = s.mp := by
  rw [displace_frame]
@[simp] theorem displace_trc (s : State) (ring : Nat) (r : Record) (n : Nat) : (displace s ring r n).trc = s.trc := by
  rw [displace_frame]
@[simp] theorem displace_atst (s : State) (ring : Nat) (r : Record) (n : Nat) : (displace s ring r n).atst = s.atst := by
  rw [displace_frame]
@[simp] theorem displace_chans (s : State) (ring : Nat) (r : Record) (n : Nat) : (displace s ring r n).chans = s.chans := by
  rw [displace_frame]
@[simp] theorem displace_flasks (s : State) (ring : Nat) (r : Record) (n : Nat) : (displace s ring r n).flasks = s.flasks := by
  rw [displace_frame]
@[simp] theorem displace_regs (s : State) (ring : Nat) (r : Record) (n : Nat) : (displace s ring r n).regs = s.regs := by
  rw [displace_frame]
@[simp] theorem displace_lad (s : State) (ring : Nat) (r : Record) (n : Nat) : (displace s ring r n).lad = s.lad := by
  rw [displace_frame]
@[simp] theorem displace_tls (s : State) (ring : Nat) (r : Record) (n : Nat) : (displace s ring r n).tls = s.tls := by
  rw [displace_frame]
@[simp] theorem displace_tlHost (s : State) (ring : Nat) (r : Record) (n : Nat) : (displace s ring r n).tlHost = s.tlHost := by
  rw [displace_frame]
@[simp] theorem displace_ests (s : State) (ring : Nat) (r : Record) (n : Nat) : (displace s ring r n).ests = s.ests := by
  rw [displace_frame]
@[simp] theorem displace_recs (s : State) (ring : Nat) (r : Record) (n : Nat) : (displace s ring r n).recs = s.recs := by
  rw [displace_frame]
@[simp] theorem displace_sweeps (s : State) (ring : Nat) (r : Record) (n : Nat) : (displace s ring r n).sweeps = s.sweeps := by
  rw [displace_frame]
@[simp] theorem displace_fuses (s : State) (ring : Nat) (r : Record) (n : Nat) : (displace s ring r n).fuses = s.fuses := by
  rw [displace_frame]
@[simp] theorem displace_wd (s : State) (ring : Nat) (r : Record) (n : Nat) : (displace s ring r n).wd = s.wd := by
  rw [displace_frame]
@[simp] theorem displace_sv (s : State) (ring : Nat) (r : Record) (n : Nat) : (displace s ring r n).sv = s.sv := by
  rw [displace_frame]
@[simp] theorem displace_fw (s : State) (ring : Nat) (r : Record) (n : Nat) : (displace s ring r n).fw = s.fw := by
  rw [displace_frame]
@[simp] theorem displace_site (s : State) (ring : Nat) (r : Record) (n : Nat) : (displace s ring r n).site = s.site := by
  rw [displace_frame]
@[simp] theorem displace_calWaits (s : State) (ring : Nat) (r : Record) (n : Nat) : (displace s ring r n).calWaits = s.calWaits := by
  rw [displace_frame]
@[simp] theorem displace_legs (s : State) (ring : Nat) (r : Record) (n : Nat) : (displace s ring r n).legs = s.legs := by
  rw [displace_frame]
@[simp] theorem displace_legCal (s : State) (ring : Nat) (r : Record) (n : Nat) : (displace s ring r n).legCal = s.legCal := by
  rw [displace_frame]
@[simp] theorem displace_calConvs (s : State) (ring : Nat) (r : Record) (n : Nat) : (displace s ring r n).calConvs = s.calConvs := by
  rw [displace_frame]
@[simp] theorem displace_free (s : State) (ring : Nat) (r : Record) (n : Nat) : (displace s ring r n).free = s.free := by
  rw [displace_frame]
@[simp] theorem displace_pending (s : State) (ring : Nat) (r : Record) (n : Nat) : (displace s ring r n).pending = s.pending := by
  rw [displace_frame]
@[simp] theorem on_displace (s : State) (ring : Nat) (r : Record) (n : Nat) (d : Nat) : on (displace s ring r n) d = on s d := by
  unfold on
  rw [displace_frame]

theorem stage_frame (s : State) (ring : Nat) (r : Record) :
    stage s ring r = { s with words := (stage s ring r).words, hi := (stage s ring r).hi, out := (stage s ring r).out, tel := (stage s ring r).tel } := by
  unfold stage stageRecord
  split
  · rfl
  · dsimp only
    have hd : ∀ u : State, u = s ∨ (∃ n, u = displace s ring r n) → ∃ w h o tl, u = { s with words := w, hi := h, out := o, tel := tl } := by
      rintro u (rfl | ⟨n, rfl⟩)
      · exact ⟨_, _, _, _, rfl⟩
      · exact ⟨_, _, _, _, displace_frame _ _ _ _⟩
    obtain ⟨w, h, o, tl, e⟩ := hd (if isTel r = true then s else displace s ring r (evRing s ring).staging.length)
      (by split; exact .inl rfl; exact .inr ⟨_, rfl⟩)
    rw [e]
    split
    · dsimp only
      split <;> rfl
    · split
      · dsimp only [forceKey]
        rw [countLost_frame]
      · rw [countLost_frame]

@[simp] theorem stage_part (s : State) (ring : Nat) (r : Record) : (stage s ring r).part = s.part := by
  rw [stage_frame]
@[simp] theorem stage_now (s : State) (ring : Nat) (r : Record) : (stage s ring r).now = s.now := by
  rw [stage_frame]
@[simp] theorem stage_snap (s : State) (ring : Nat) (r : Record) : (stage s ring r).snap = s.snap := by
  rw [stage_frame]
@[simp] theorem stage_tickAt (s : State) (ring : Nat) (r : Record) : (stage s ring r).tickAt = s.tickAt := by
  rw [stage_frame]
@[simp] theorem stage_fabrics (s : State) (ring : Nat) (r : Record) : (stage s ring r).fabrics = s.fabrics := by
  rw [stage_frame]
@[simp] theorem stage_pw (s : State) (ring : Nat) (r : Record) : (stage s ring r).pw = s.pw := by
  rw [stage_frame]
@[simp] theorem stage_pp (s : State) (ring : Nat) (r : Record) : (stage s ring r).pp = s.pp := by
  rw [stage_frame]
@[simp] theorem stage_fq (s : State) (ring : Nat) (r : Record) : (stage s ring r).fq = s.fq := by
  rw [stage_frame]
@[simp] theorem stage_fc (s : State) (ring : Nat) (r : Record) : (stage s ring r).fc = s.fc := by
  rw [stage_frame]
@[simp] theorem stage_bb (s : State) (ring : Nat) (r : Record) : (stage s ring r).bb = s.bb := by
  rw [stage_frame]
@[simp] theorem stage_mp (s : State) (ring : Nat) (r : Record) : (stage s ring r).mp = s.mp := by
  rw [stage_frame]
@[simp] theorem stage_trc (s : State) (ring : Nat) (r : Record) : (stage s ring r).trc = s.trc := by
  rw [stage_frame]
@[simp] theorem stage_atst (s : State) (ring : Nat) (r : Record) : (stage s ring r).atst = s.atst := by
  rw [stage_frame]
@[simp] theorem stage_chans (s : State) (ring : Nat) (r : Record) : (stage s ring r).chans = s.chans := by
  rw [stage_frame]
@[simp] theorem stage_flasks (s : State) (ring : Nat) (r : Record) : (stage s ring r).flasks = s.flasks := by
  rw [stage_frame]
@[simp] theorem stage_regs (s : State) (ring : Nat) (r : Record) : (stage s ring r).regs = s.regs := by
  rw [stage_frame]
@[simp] theorem stage_lad (s : State) (ring : Nat) (r : Record) : (stage s ring r).lad = s.lad := by
  rw [stage_frame]
@[simp] theorem stage_tls (s : State) (ring : Nat) (r : Record) : (stage s ring r).tls = s.tls := by
  rw [stage_frame]
@[simp] theorem stage_tlHost (s : State) (ring : Nat) (r : Record) : (stage s ring r).tlHost = s.tlHost := by
  rw [stage_frame]
@[simp] theorem stage_ests (s : State) (ring : Nat) (r : Record) : (stage s ring r).ests = s.ests := by
  rw [stage_frame]
@[simp] theorem stage_recs (s : State) (ring : Nat) (r : Record) : (stage s ring r).recs = s.recs := by
  rw [stage_frame]
@[simp] theorem stage_sweeps (s : State) (ring : Nat) (r : Record) : (stage s ring r).sweeps = s.sweeps := by
  rw [stage_frame]
@[simp] theorem stage_fuses (s : State) (ring : Nat) (r : Record) : (stage s ring r).fuses = s.fuses := by
  rw [stage_frame]
@[simp] theorem stage_wd (s : State) (ring : Nat) (r : Record) : (stage s ring r).wd = s.wd := by
  rw [stage_frame]
@[simp] theorem stage_sv (s : State) (ring : Nat) (r : Record) : (stage s ring r).sv = s.sv := by
  rw [stage_frame]
@[simp] theorem stage_fw (s : State) (ring : Nat) (r : Record) : (stage s ring r).fw = s.fw := by
  rw [stage_frame]
@[simp] theorem stage_site (s : State) (ring : Nat) (r : Record) : (stage s ring r).site = s.site := by
  rw [stage_frame]
@[simp] theorem stage_calWaits (s : State) (ring : Nat) (r : Record) : (stage s ring r).calWaits = s.calWaits := by
  rw [stage_frame]
@[simp] theorem stage_legs (s : State) (ring : Nat) (r : Record) : (stage s ring r).legs = s.legs := by
  rw [stage_frame]
@[simp] theorem stage_legCal (s : State) (ring : Nat) (r : Record) : (stage s ring r).legCal = s.legCal := by
  rw [stage_frame]
@[simp] theorem stage_calConvs (s : State) (ring : Nat) (r : Record) : (stage s ring r).calConvs = s.calConvs := by
  rw [stage_frame]
@[simp] theorem stage_free (s : State) (ring : Nat) (r : Record) : (stage s ring r).free = s.free := by
  rw [stage_frame]
@[simp] theorem stage_pending (s : State) (ring : Nat) (r : Record) : (stage s ring r).pending = s.pending := by
  rw [stage_frame]
@[simp] theorem on_stage (s : State) (ring : Nat) (r : Record) (d : Nat) : on (stage s ring r) d = on s d := by
  unfold on
  rw [stage_frame]

theorem blockRecord_frame (s : State) (ev m : Nat) :
    blockRecord s ev m = { s with words := (blockRecord s ev m).words, hi := (blockRecord s ev m).hi, out := (blockRecord s ev m).out, tel := (blockRecord s ev m).tel } := by
  unfold blockRecord
  dsimp only
  split
  · rfl
  · rw [stage_frame]

@[simp] theorem blockRecord_part (s : State) (ev m : Nat) : (blockRecord s ev m).part = s.part := by
  rw [blockRecord_frame]
@[simp] theorem blockRecord_now (s : State) (ev m : Nat) : (blockRecord s ev m).now = s.now := by
  rw [blockRecord_frame]
@[simp] theorem blockRecord_snap (s : State) (ev m : Nat) : (blockRecord s ev m).snap = s.snap := by
  rw [blockRecord_frame]
@[simp] theorem blockRecord_tickAt (s : State) (ev m : Nat) : (blockRecord s ev m).tickAt = s.tickAt := by
  rw [blockRecord_frame]
@[simp] theorem blockRecord_fabrics (s : State) (ev m : Nat) : (blockRecord s ev m).fabrics = s.fabrics := by
  rw [blockRecord_frame]
@[simp] theorem blockRecord_pw (s : State) (ev m : Nat) : (blockRecord s ev m).pw = s.pw := by
  rw [blockRecord_frame]
@[simp] theorem blockRecord_pp (s : State) (ev m : Nat) : (blockRecord s ev m).pp = s.pp := by
  rw [blockRecord_frame]
@[simp] theorem blockRecord_fq (s : State) (ev m : Nat) : (blockRecord s ev m).fq = s.fq := by
  rw [blockRecord_frame]
@[simp] theorem blockRecord_fc (s : State) (ev m : Nat) : (blockRecord s ev m).fc = s.fc := by
  rw [blockRecord_frame]
@[simp] theorem blockRecord_bb (s : State) (ev m : Nat) : (blockRecord s ev m).bb = s.bb := by
  rw [blockRecord_frame]
@[simp] theorem blockRecord_mp (s : State) (ev m : Nat) : (blockRecord s ev m).mp = s.mp := by
  rw [blockRecord_frame]
@[simp] theorem blockRecord_trc (s : State) (ev m : Nat) : (blockRecord s ev m).trc = s.trc := by
  rw [blockRecord_frame]
@[simp] theorem blockRecord_atst (s : State) (ev m : Nat) : (blockRecord s ev m).atst = s.atst := by
  rw [blockRecord_frame]
@[simp] theorem blockRecord_chans (s : State) (ev m : Nat) : (blockRecord s ev m).chans = s.chans := by
  rw [blockRecord_frame]
@[simp] theorem blockRecord_flasks (s : State) (ev m : Nat) : (blockRecord s ev m).flasks = s.flasks := by
  rw [blockRecord_frame]
@[simp] theorem blockRecord_regs (s : State) (ev m : Nat) : (blockRecord s ev m).regs = s.regs := by
  rw [blockRecord_frame]
@[simp] theorem blockRecord_lad (s : State) (ev m : Nat) : (blockRecord s ev m).lad = s.lad := by
  rw [blockRecord_frame]
@[simp] theorem blockRecord_tls (s : State) (ev m : Nat) : (blockRecord s ev m).tls = s.tls := by
  rw [blockRecord_frame]
@[simp] theorem blockRecord_tlHost (s : State) (ev m : Nat) : (blockRecord s ev m).tlHost = s.tlHost := by
  rw [blockRecord_frame]
@[simp] theorem blockRecord_ests (s : State) (ev m : Nat) : (blockRecord s ev m).ests = s.ests := by
  rw [blockRecord_frame]
@[simp] theorem blockRecord_recs (s : State) (ev m : Nat) : (blockRecord s ev m).recs = s.recs := by
  rw [blockRecord_frame]
@[simp] theorem blockRecord_sweeps (s : State) (ev m : Nat) : (blockRecord s ev m).sweeps = s.sweeps := by
  rw [blockRecord_frame]
@[simp] theorem blockRecord_fuses (s : State) (ev m : Nat) : (blockRecord s ev m).fuses = s.fuses := by
  rw [blockRecord_frame]
@[simp] theorem blockRecord_wd (s : State) (ev m : Nat) : (blockRecord s ev m).wd = s.wd := by
  rw [blockRecord_frame]
@[simp] theorem blockRecord_sv (s : State) (ev m : Nat) : (blockRecord s ev m).sv = s.sv := by
  rw [blockRecord_frame]
@[simp] theorem blockRecord_fw (s : State) (ev m : Nat) : (blockRecord s ev m).fw = s.fw := by
  rw [blockRecord_frame]
@[simp] theorem blockRecord_site (s : State) (ev m : Nat) : (blockRecord s ev m).site = s.site := by
  rw [blockRecord_frame]
@[simp] theorem blockRecord_calWaits (s : State) (ev m : Nat) : (blockRecord s ev m).calWaits = s.calWaits := by
  rw [blockRecord_frame]
@[simp] theorem blockRecord_legs (s : State) (ev m : Nat) : (blockRecord s ev m).legs = s.legs := by
  rw [blockRecord_frame]
@[simp] theorem blockRecord_legCal (s : State) (ev m : Nat) : (blockRecord s ev m).legCal = s.legCal := by
  rw [blockRecord_frame]
@[simp] theorem blockRecord_calConvs (s : State) (ev m : Nat) : (blockRecord s ev m).calConvs = s.calConvs := by
  rw [blockRecord_frame]
@[simp] theorem blockRecord_free (s : State) (ev m : Nat) : (blockRecord s ev m).free = s.free := by
  rw [blockRecord_frame]
@[simp] theorem blockRecord_pending (s : State) (ev m : Nat) : (blockRecord s ev m).pending = s.pending := by
  rw [blockRecord_frame]
@[simp] theorem on_blockRecord (s : State) (ev m : Nat) (d : Nat) : on (blockRecord s ev m) d = on s d := by
  unfold on
  rw [blockRecord_frame]

theorem raise_frame (s : State) (ev m : Nat) :
    raise s ev m = { s with words := (raise s ev m).words, hi := (raise s ev m).hi, out := (raise s ev m).out, tel := (raise s ev m).tel } := by
  unfold raise
  dsimp only
  split
  · rfl
  · rw [blockRecord_frame]
    rfl

@[simp] theorem raise_part (s : State) (ev m : Nat) : (raise s ev m).part = s.part := by
  rw [raise_frame]
@[simp] theorem raise_now (s : State) (ev m : Nat) : (raise s ev m).now = s.now := by
  rw [raise_frame]
@[simp] theorem raise_snap (s : State) (ev m : Nat) : (raise s ev m).snap = s.snap := by
  rw [raise_frame]
@[simp] theorem raise_tickAt (s : State) (ev m : Nat) : (raise s ev m).tickAt = s.tickAt := by
  rw [raise_frame]
@[simp] theorem raise_fabrics (s : State) (ev m : Nat) : (raise s ev m).fabrics = s.fabrics := by
  rw [raise_frame]
@[simp] theorem raise_pw (s : State) (ev m : Nat) : (raise s ev m).pw = s.pw := by
  rw [raise_frame]
@[simp] theorem raise_pp (s : State) (ev m : Nat) : (raise s ev m).pp = s.pp := by
  rw [raise_frame]
@[simp] theorem raise_fq (s : State) (ev m : Nat) : (raise s ev m).fq = s.fq := by
  rw [raise_frame]
@[simp] theorem raise_fc (s : State) (ev m : Nat) : (raise s ev m).fc = s.fc := by
  rw [raise_frame]
@[simp] theorem raise_bb (s : State) (ev m : Nat) : (raise s ev m).bb = s.bb := by
  rw [raise_frame]
@[simp] theorem raise_mp (s : State) (ev m : Nat) : (raise s ev m).mp = s.mp := by
  rw [raise_frame]
@[simp] theorem raise_trc (s : State) (ev m : Nat) : (raise s ev m).trc = s.trc := by
  rw [raise_frame]
@[simp] theorem raise_atst (s : State) (ev m : Nat) : (raise s ev m).atst = s.atst := by
  rw [raise_frame]
@[simp] theorem raise_chans (s : State) (ev m : Nat) : (raise s ev m).chans = s.chans := by
  rw [raise_frame]
@[simp] theorem raise_flasks (s : State) (ev m : Nat) : (raise s ev m).flasks = s.flasks := by
  rw [raise_frame]
@[simp] theorem raise_regs (s : State) (ev m : Nat) : (raise s ev m).regs = s.regs := by
  rw [raise_frame]
@[simp] theorem raise_lad (s : State) (ev m : Nat) : (raise s ev m).lad = s.lad := by
  rw [raise_frame]
@[simp] theorem raise_tls (s : State) (ev m : Nat) : (raise s ev m).tls = s.tls := by
  rw [raise_frame]
@[simp] theorem raise_tlHost (s : State) (ev m : Nat) : (raise s ev m).tlHost = s.tlHost := by
  rw [raise_frame]
@[simp] theorem raise_ests (s : State) (ev m : Nat) : (raise s ev m).ests = s.ests := by
  rw [raise_frame]
@[simp] theorem raise_recs (s : State) (ev m : Nat) : (raise s ev m).recs = s.recs := by
  rw [raise_frame]
@[simp] theorem raise_sweeps (s : State) (ev m : Nat) : (raise s ev m).sweeps = s.sweeps := by
  rw [raise_frame]
@[simp] theorem raise_fuses (s : State) (ev m : Nat) : (raise s ev m).fuses = s.fuses := by
  rw [raise_frame]
@[simp] theorem raise_wd (s : State) (ev m : Nat) : (raise s ev m).wd = s.wd := by
  rw [raise_frame]
@[simp] theorem raise_sv (s : State) (ev m : Nat) : (raise s ev m).sv = s.sv := by
  rw [raise_frame]
@[simp] theorem raise_fw (s : State) (ev m : Nat) : (raise s ev m).fw = s.fw := by
  rw [raise_frame]
@[simp] theorem raise_site (s : State) (ev m : Nat) : (raise s ev m).site = s.site := by
  rw [raise_frame]
@[simp] theorem raise_calWaits (s : State) (ev m : Nat) : (raise s ev m).calWaits = s.calWaits := by
  rw [raise_frame]
@[simp] theorem raise_legs (s : State) (ev m : Nat) : (raise s ev m).legs = s.legs := by
  rw [raise_frame]
@[simp] theorem raise_legCal (s : State) (ev m : Nat) : (raise s ev m).legCal = s.legCal := by
  rw [raise_frame]
@[simp] theorem raise_calConvs (s : State) (ev m : Nat) : (raise s ev m).calConvs = s.calConvs := by
  rw [raise_frame]
@[simp] theorem raise_free (s : State) (ev m : Nat) : (raise s ev m).free = s.free := by
  rw [raise_frame]
@[simp] theorem raise_pending (s : State) (ev m : Nat) : (raise s ev m).pending = s.pending := by
  rw [raise_frame]
@[simp] theorem on_raise (s : State) (ev m : Nat) (d : Nat) : on (raise s ev m) d = on s d := by
  unfold on
  rw [raise_frame]

theorem traceLose_frame (s : State)  :
    traceLose s  = { s with words := (traceLose s).words, hi := (traceLose s).hi, out := (traceLose s).out, tel := (traceLose s).tel, trc := (traceLose s).trc } := by
  unfold traceLose
  rw [raise_frame]
  rfl

@[simp] theorem traceLose_part (s : State)  : (traceLose s ).part = s.part := by
  rw [traceLose_frame]
@[simp] theorem traceLose_now (s : State)  : (traceLose s ).now = s.now := by
  rw [traceLose_frame]
@[simp] theorem traceLose_snap (s : State)  : (traceLose s ).snap = s.snap := by
  rw [traceLose_frame]
@[simp] theorem traceLose_tickAt (s : State)  : (traceLose s ).tickAt = s.tickAt := by
  rw [traceLose_frame]
@[simp] theorem traceLose_fabrics (s : State)  : (traceLose s ).fabrics = s.fabrics := by
  rw [traceLose_frame]
@[simp] theorem traceLose_pw (s : State)  : (traceLose s ).pw = s.pw := by
  rw [traceLose_frame]
@[simp] theorem traceLose_pp (s : State)  : (traceLose s ).pp = s.pp := by
  rw [traceLose_frame]
@[simp] theorem traceLose_fq (s : State)  : (traceLose s ).fq = s.fq := by
  rw [traceLose_frame]
@[simp] theorem traceLose_fc (s : State)  : (traceLose s ).fc = s.fc := by
  rw [traceLose_frame]
@[simp] theorem traceLose_bb (s : State)  : (traceLose s ).bb = s.bb := by
  rw [traceLose_frame]
@[simp] theorem traceLose_mp (s : State)  : (traceLose s ).mp = s.mp := by
  rw [traceLose_frame]
@[simp] theorem traceLose_atst (s : State)  : (traceLose s ).atst = s.atst := by
  rw [traceLose_frame]
@[simp] theorem traceLose_chans (s : State)  : (traceLose s ).chans = s.chans := by
  rw [traceLose_frame]
@[simp] theorem traceLose_flasks (s : State)  : (traceLose s ).flasks = s.flasks := by
  rw [traceLose_frame]
@[simp] theorem traceLose_regs (s : State)  : (traceLose s ).regs = s.regs := by
  rw [traceLose_frame]
@[simp] theorem traceLose_lad (s : State)  : (traceLose s ).lad = s.lad := by
  rw [traceLose_frame]
@[simp] theorem traceLose_tls (s : State)  : (traceLose s ).tls = s.tls := by
  rw [traceLose_frame]
@[simp] theorem traceLose_tlHost (s : State)  : (traceLose s ).tlHost = s.tlHost := by
  rw [traceLose_frame]
@[simp] theorem traceLose_ests (s : State)  : (traceLose s ).ests = s.ests := by
  rw [traceLose_frame]
@[simp] theorem traceLose_recs (s : State)  : (traceLose s ).recs = s.recs := by
  rw [traceLose_frame]
@[simp] theorem traceLose_sweeps (s : State)  : (traceLose s ).sweeps = s.sweeps := by
  rw [traceLose_frame]
@[simp] theorem traceLose_fuses (s : State)  : (traceLose s ).fuses = s.fuses := by
  rw [traceLose_frame]
@[simp] theorem traceLose_wd (s : State)  : (traceLose s ).wd = s.wd := by
  rw [traceLose_frame]
@[simp] theorem traceLose_sv (s : State)  : (traceLose s ).sv = s.sv := by
  rw [traceLose_frame]
@[simp] theorem traceLose_fw (s : State)  : (traceLose s ).fw = s.fw := by
  rw [traceLose_frame]
@[simp] theorem traceLose_site (s : State)  : (traceLose s ).site = s.site := by
  rw [traceLose_frame]
@[simp] theorem traceLose_calWaits (s : State)  : (traceLose s ).calWaits = s.calWaits := by
  rw [traceLose_frame]
@[simp] theorem traceLose_legs (s : State)  : (traceLose s ).legs = s.legs := by
  rw [traceLose_frame]
@[simp] theorem traceLose_legCal (s : State)  : (traceLose s ).legCal = s.legCal := by
  rw [traceLose_frame]
@[simp] theorem traceLose_calConvs (s : State)  : (traceLose s ).calConvs = s.calConvs := by
  rw [traceLose_frame]
@[simp] theorem traceLose_free (s : State)  : (traceLose s ).free = s.free := by
  rw [traceLose_frame]
@[simp] theorem traceLose_pending (s : State)  : (traceLose s ).pending = s.pending := by
  rw [traceLose_frame]
@[simp] theorem on_traceLose (s : State)  (d : Nat) : on (traceLose s ) d = on s d := by
  unfold on
  rw [traceLose_frame]

theorem offer_frame (s : State) (kind subj : Nat) (data : Word) :
    offer s kind subj data = { s with words := (offer s kind subj data).words, hi := (offer s kind subj data).hi, out := (offer s kind subj data).out, tel := (offer s kind subj data).tel, trc := (offer s kind subj data).trc } := by
  unfold offer
  dsimp only
  split
  · rfl
  · split
    · split
      · rfl
      · split
        · rfl
        · split
          · rw [traceLose_frame]
          · split
            · rw [traceLose_frame]
            · rfl
    · split
      · split <;> rfl
      · split <;> rfl

@[simp] theorem offer_part (s : State) (kind subj : Nat) (data : Word) : (offer s kind subj data).part = s.part := by
  rw [offer_frame]
@[simp] theorem offer_now (s : State) (kind subj : Nat) (data : Word) : (offer s kind subj data).now = s.now := by
  rw [offer_frame]
@[simp] theorem offer_snap (s : State) (kind subj : Nat) (data : Word) : (offer s kind subj data).snap = s.snap := by
  rw [offer_frame]
@[simp] theorem offer_tickAt (s : State) (kind subj : Nat) (data : Word) : (offer s kind subj data).tickAt = s.tickAt := by
  rw [offer_frame]
@[simp] theorem offer_fabrics (s : State) (kind subj : Nat) (data : Word) : (offer s kind subj data).fabrics = s.fabrics := by
  rw [offer_frame]
@[simp] theorem offer_pw (s : State) (kind subj : Nat) (data : Word) : (offer s kind subj data).pw = s.pw := by
  rw [offer_frame]
@[simp] theorem offer_pp (s : State) (kind subj : Nat) (data : Word) : (offer s kind subj data).pp = s.pp := by
  rw [offer_frame]
@[simp] theorem offer_fq (s : State) (kind subj : Nat) (data : Word) : (offer s kind subj data).fq = s.fq := by
  rw [offer_frame]
@[simp] theorem offer_fc (s : State) (kind subj : Nat) (data : Word) : (offer s kind subj data).fc = s.fc := by
  rw [offer_frame]
@[simp] theorem offer_bb (s : State) (kind subj : Nat) (data : Word) : (offer s kind subj data).bb = s.bb := by
  rw [offer_frame]
@[simp] theorem offer_mp (s : State) (kind subj : Nat) (data : Word) : (offer s kind subj data).mp = s.mp := by
  rw [offer_frame]
@[simp] theorem offer_atst (s : State) (kind subj : Nat) (data : Word) : (offer s kind subj data).atst = s.atst := by
  rw [offer_frame]
@[simp] theorem offer_chans (s : State) (kind subj : Nat) (data : Word) : (offer s kind subj data).chans = s.chans := by
  rw [offer_frame]
@[simp] theorem offer_flasks (s : State) (kind subj : Nat) (data : Word) : (offer s kind subj data).flasks = s.flasks := by
  rw [offer_frame]
@[simp] theorem offer_regs (s : State) (kind subj : Nat) (data : Word) : (offer s kind subj data).regs = s.regs := by
  rw [offer_frame]
@[simp] theorem offer_lad (s : State) (kind subj : Nat) (data : Word) : (offer s kind subj data).lad = s.lad := by
  rw [offer_frame]
@[simp] theorem offer_tls (s : State) (kind subj : Nat) (data : Word) : (offer s kind subj data).tls = s.tls := by
  rw [offer_frame]
@[simp] theorem offer_tlHost (s : State) (kind subj : Nat) (data : Word) : (offer s kind subj data).tlHost = s.tlHost := by
  rw [offer_frame]
@[simp] theorem offer_ests (s : State) (kind subj : Nat) (data : Word) : (offer s kind subj data).ests = s.ests := by
  rw [offer_frame]
@[simp] theorem offer_recs (s : State) (kind subj : Nat) (data : Word) : (offer s kind subj data).recs = s.recs := by
  rw [offer_frame]
@[simp] theorem offer_sweeps (s : State) (kind subj : Nat) (data : Word) : (offer s kind subj data).sweeps = s.sweeps := by
  rw [offer_frame]
@[simp] theorem offer_fuses (s : State) (kind subj : Nat) (data : Word) : (offer s kind subj data).fuses = s.fuses := by
  rw [offer_frame]
@[simp] theorem offer_wd (s : State) (kind subj : Nat) (data : Word) : (offer s kind subj data).wd = s.wd := by
  rw [offer_frame]
@[simp] theorem offer_sv (s : State) (kind subj : Nat) (data : Word) : (offer s kind subj data).sv = s.sv := by
  rw [offer_frame]
@[simp] theorem offer_fw (s : State) (kind subj : Nat) (data : Word) : (offer s kind subj data).fw = s.fw := by
  rw [offer_frame]
@[simp] theorem offer_site (s : State) (kind subj : Nat) (data : Word) : (offer s kind subj data).site = s.site := by
  rw [offer_frame]
@[simp] theorem offer_calWaits (s : State) (kind subj : Nat) (data : Word) : (offer s kind subj data).calWaits = s.calWaits := by
  rw [offer_frame]
@[simp] theorem offer_legs (s : State) (kind subj : Nat) (data : Word) : (offer s kind subj data).legs = s.legs := by
  rw [offer_frame]
@[simp] theorem offer_legCal (s : State) (kind subj : Nat) (data : Word) : (offer s kind subj data).legCal = s.legCal := by
  rw [offer_frame]
@[simp] theorem offer_calConvs (s : State) (kind subj : Nat) (data : Word) : (offer s kind subj data).calConvs = s.calConvs := by
  rw [offer_frame]
@[simp] theorem offer_free (s : State) (kind subj : Nat) (data : Word) : (offer s kind subj data).free = s.free := by
  rw [offer_frame]
@[simp] theorem offer_pending (s : State) (kind subj : Nat) (data : Word) : (offer s kind subj data).pending = s.pending := by
  rw [offer_frame]
@[simp] theorem on_offer (s : State) (kind subj : Nat) (data : Word) (d : Nat) : on (offer s kind subj data) d = on s d := by
  unfold on
  rw [offer_frame]

theorem raisePP_frame (s : State) (m : Nat) :
    raisePP s m = { s with words := (raisePP s m).words, hi := (raisePP s m).hi, out := (raisePP s m).out, tel := (raisePP s m).tel, trc := (raisePP s m).trc } := by
  unfold raisePP
  dsimp only
  rw [offer_frame, raise_frame]

@[simp] theorem raisePP_part (s : State) (m : Nat) : (raisePP s m).part = s.part := by
  rw [raisePP_frame]
@[simp] theorem raisePP_now (s : State) (m : Nat) : (raisePP s m).now = s.now := by
  rw [raisePP_frame]
@[simp] theorem raisePP_snap (s : State) (m : Nat) : (raisePP s m).snap = s.snap := by
  rw [raisePP_frame]
@[simp] theorem raisePP_tickAt (s : State) (m : Nat) : (raisePP s m).tickAt = s.tickAt := by
  rw [raisePP_frame]
@[simp] theorem raisePP_fabrics (s : State) (m : Nat) : (raisePP s m).fabrics = s.fabrics := by
  rw [raisePP_frame]
@[simp] theorem raisePP_pw (s : State) (m : Nat) : (raisePP s m).pw = s.pw := by
  rw [raisePP_frame]
@[simp] theorem raisePP_pp (s : State) (m : Nat) : (raisePP s m).pp = s.pp := by
  rw [raisePP_frame]
@[simp] theorem raisePP_fq (s : State) (m : Nat) : (raisePP s m).fq = s.fq := by
  rw [raisePP_frame]
@[simp] theorem raisePP_fc (s : State) (m : Nat) : (raisePP s m).fc = s.fc := by
  rw [raisePP_frame]
@[simp] theorem raisePP_bb (s : State) (m : Nat) : (raisePP s m).bb = s.bb := by
  rw [raisePP_frame]
@[simp] theorem raisePP_mp (s : State) (m : Nat) : (raisePP s m).mp = s.mp := by
  rw [raisePP_frame]
@[simp] theorem raisePP_atst (s : State) (m : Nat) : (raisePP s m).atst = s.atst := by
  rw [raisePP_frame]
@[simp] theorem raisePP_chans (s : State) (m : Nat) : (raisePP s m).chans = s.chans := by
  rw [raisePP_frame]
@[simp] theorem raisePP_flasks (s : State) (m : Nat) : (raisePP s m).flasks = s.flasks := by
  rw [raisePP_frame]
@[simp] theorem raisePP_regs (s : State) (m : Nat) : (raisePP s m).regs = s.regs := by
  rw [raisePP_frame]
@[simp] theorem raisePP_lad (s : State) (m : Nat) : (raisePP s m).lad = s.lad := by
  rw [raisePP_frame]
@[simp] theorem raisePP_tls (s : State) (m : Nat) : (raisePP s m).tls = s.tls := by
  rw [raisePP_frame]
@[simp] theorem raisePP_tlHost (s : State) (m : Nat) : (raisePP s m).tlHost = s.tlHost := by
  rw [raisePP_frame]
@[simp] theorem raisePP_ests (s : State) (m : Nat) : (raisePP s m).ests = s.ests := by
  rw [raisePP_frame]
@[simp] theorem raisePP_recs (s : State) (m : Nat) : (raisePP s m).recs = s.recs := by
  rw [raisePP_frame]
@[simp] theorem raisePP_sweeps (s : State) (m : Nat) : (raisePP s m).sweeps = s.sweeps := by
  rw [raisePP_frame]
@[simp] theorem raisePP_fuses (s : State) (m : Nat) : (raisePP s m).fuses = s.fuses := by
  rw [raisePP_frame]
@[simp] theorem raisePP_wd (s : State) (m : Nat) : (raisePP s m).wd = s.wd := by
  rw [raisePP_frame]
@[simp] theorem raisePP_sv (s : State) (m : Nat) : (raisePP s m).sv = s.sv := by
  rw [raisePP_frame]
@[simp] theorem raisePP_fw (s : State) (m : Nat) : (raisePP s m).fw = s.fw := by
  rw [raisePP_frame]
@[simp] theorem raisePP_site (s : State) (m : Nat) : (raisePP s m).site = s.site := by
  rw [raisePP_frame]
@[simp] theorem raisePP_calWaits (s : State) (m : Nat) : (raisePP s m).calWaits = s.calWaits := by
  rw [raisePP_frame]
@[simp] theorem raisePP_legs (s : State) (m : Nat) : (raisePP s m).legs = s.legs := by
  rw [raisePP_frame]
@[simp] theorem raisePP_legCal (s : State) (m : Nat) : (raisePP s m).legCal = s.legCal := by
  rw [raisePP_frame]
@[simp] theorem raisePP_calConvs (s : State) (m : Nat) : (raisePP s m).calConvs = s.calConvs := by
  rw [raisePP_frame]
@[simp] theorem raisePP_free (s : State) (m : Nat) : (raisePP s m).free = s.free := by
  rw [raisePP_frame]
@[simp] theorem raisePP_pending (s : State) (m : Nat) : (raisePP s m).pending = s.pending := by
  rw [raisePP_frame]
@[simp] theorem on_raisePP (s : State) (m : Nat) (d : Nat) : on (raisePP s m) d = on s d := by
  unfold on
  rw [raisePP_frame]

theorem modTag_frame (s : State) (t : Nat) (f : Tag → Tag) :
    modTag s t f = { s with hi := (modTag s t f).hi } := by
  unfold modTag
  split <;> rfl

@[simp] theorem modTag_part (s : State) (t : Nat) (f : Tag → Tag) : (modTag s t f).part = s.part := by
  rw [modTag_frame]
@[simp] theorem modTag_now (s : State) (t : Nat) (f : Tag → Tag) : (modTag s t f).now = s.now := by
  rw [modTag_frame]
@[simp] theorem modTag_snap (s : State) (t : Nat) (f : Tag → Tag) : (modTag s t f).snap = s.snap := by
  rw [modTag_frame]
@[simp] theorem modTag_tickAt (s : State) (t : Nat) (f : Tag → Tag) : (modTag s t f).tickAt = s.tickAt := by
  rw [modTag_frame]
@[simp] theorem modTag_fabrics (s : State) (t : Nat) (f : Tag → Tag) : (modTag s t f).fabrics = s.fabrics := by
  rw [modTag_frame]
@[simp] theorem modTag_words (s : State) (t : Nat) (f : Tag → Tag) : (modTag s t f).words = s.words := by
  rw [modTag_frame]
@[simp] theorem modTag_pw (s : State) (t : Nat) (f : Tag → Tag) : (modTag s t f).pw = s.pw := by
  rw [modTag_frame]
@[simp] theorem modTag_pp (s : State) (t : Nat) (f : Tag → Tag) : (modTag s t f).pp = s.pp := by
  rw [modTag_frame]
@[simp] theorem modTag_fq (s : State) (t : Nat) (f : Tag → Tag) : (modTag s t f).fq = s.fq := by
  rw [modTag_frame]
@[simp] theorem modTag_fc (s : State) (t : Nat) (f : Tag → Tag) : (modTag s t f).fc = s.fc := by
  rw [modTag_frame]
@[simp] theorem modTag_bb (s : State) (t : Nat) (f : Tag → Tag) : (modTag s t f).bb = s.bb := by
  rw [modTag_frame]
@[simp] theorem modTag_mp (s : State) (t : Nat) (f : Tag → Tag) : (modTag s t f).mp = s.mp := by
  rw [modTag_frame]
@[simp] theorem modTag_trc (s : State) (t : Nat) (f : Tag → Tag) : (modTag s t f).trc = s.trc := by
  rw [modTag_frame]
@[simp] theorem modTag_atst (s : State) (t : Nat) (f : Tag → Tag) : (modTag s t f).atst = s.atst := by
  rw [modTag_frame]
@[simp] theorem modTag_chans (s : State) (t : Nat) (f : Tag → Tag) : (modTag s t f).chans = s.chans := by
  rw [modTag_frame]
@[simp] theorem modTag_flasks (s : State) (t : Nat) (f : Tag → Tag) : (modTag s t f).flasks = s.flasks := by
  rw [modTag_frame]
@[simp] theorem modTag_regs (s : State) (t : Nat) (f : Tag → Tag) : (modTag s t f).regs = s.regs := by
  rw [modTag_frame]
@[simp] theorem modTag_lad (s : State) (t : Nat) (f : Tag → Tag) : (modTag s t f).lad = s.lad := by
  rw [modTag_frame]
@[simp] theorem modTag_tls (s : State) (t : Nat) (f : Tag → Tag) : (modTag s t f).tls = s.tls := by
  rw [modTag_frame]
@[simp] theorem modTag_tlHost (s : State) (t : Nat) (f : Tag → Tag) : (modTag s t f).tlHost = s.tlHost := by
  rw [modTag_frame]
@[simp] theorem modTag_ests (s : State) (t : Nat) (f : Tag → Tag) : (modTag s t f).ests = s.ests := by
  rw [modTag_frame]
@[simp] theorem modTag_recs (s : State) (t : Nat) (f : Tag → Tag) : (modTag s t f).recs = s.recs := by
  rw [modTag_frame]
@[simp] theorem modTag_sweeps (s : State) (t : Nat) (f : Tag → Tag) : (modTag s t f).sweeps = s.sweeps := by
  rw [modTag_frame]
@[simp] theorem modTag_fuses (s : State) (t : Nat) (f : Tag → Tag) : (modTag s t f).fuses = s.fuses := by
  rw [modTag_frame]
@[simp] theorem modTag_wd (s : State) (t : Nat) (f : Tag → Tag) : (modTag s t f).wd = s.wd := by
  rw [modTag_frame]
@[simp] theorem modTag_sv (s : State) (t : Nat) (f : Tag → Tag) : (modTag s t f).sv = s.sv := by
  rw [modTag_frame]
@[simp] theorem modTag_fw (s : State) (t : Nat) (f : Tag → Tag) : (modTag s t f).fw = s.fw := by
  rw [modTag_frame]
@[simp] theorem modTag_site (s : State) (t : Nat) (f : Tag → Tag) : (modTag s t f).site = s.site := by
  rw [modTag_frame]
@[simp] theorem modTag_tel (s : State) (t : Nat) (f : Tag → Tag) : (modTag s t f).tel = s.tel := by
  rw [modTag_frame]
@[simp] theorem modTag_calWaits (s : State) (t : Nat) (f : Tag → Tag) : (modTag s t f).calWaits = s.calWaits := by
  rw [modTag_frame]
@[simp] theorem modTag_legs (s : State) (t : Nat) (f : Tag → Tag) : (modTag s t f).legs = s.legs := by
  rw [modTag_frame]
@[simp] theorem modTag_legCal (s : State) (t : Nat) (f : Tag → Tag) : (modTag s t f).legCal = s.legCal := by
  rw [modTag_frame]
@[simp] theorem modTag_calConvs (s : State) (t : Nat) (f : Tag → Tag) : (modTag s t f).calConvs = s.calConvs := by
  rw [modTag_frame]
@[simp] theorem modTag_free (s : State) (t : Nat) (f : Tag → Tag) : (modTag s t f).free = s.free := by
  rw [modTag_frame]
@[simp] theorem modTag_out (s : State) (t : Nat) (f : Tag → Tag) : (modTag s t f).out = s.out := by
  rw [modTag_frame]
@[simp] theorem modTag_pending (s : State) (t : Nat) (f : Tag → Tag) : (modTag s t f).pending = s.pending := by
  rw [modTag_frame]
@[simp] theorem on_modTag (s : State) (t : Nat) (f : Tag → Tag) (d : Nat) : on (modTag s t f) d = on s d := by
  unfold on
  rw [modTag_frame]

theorem endTag_frame (s : State) (t st : Nat) (r0 r1 : Word) :
    endTag s t st r0 r1 = { s with hi := (endTag s t st r0 r1).hi } := by
  unfold endTag
  dsimp only
  rw [modTag_frame]

@[simp] theorem endTag_part (s : State) (t st : Nat) (r0 r1 : Word) : (endTag s t st r0 r1).part = s.part := by
  rw [endTag_frame]
@[simp] theorem endTag_now (s : State) (t st : Nat) (r0 r1 : Word) : (endTag s t st r0 r1).now = s.now := by
  rw [endTag_frame]
@[simp] theorem endTag_snap (s : State) (t st : Nat) (r0 r1 : Word) : (endTag s t st r0 r1).snap = s.snap := by
  rw [endTag_frame]
@[simp] theorem endTag_tickAt (s : State) (t st : Nat) (r0 r1 : Word) : (endTag s t st r0 r1).tickAt = s.tickAt := by
  rw [endTag_frame]
@[simp] theorem endTag_fabrics (s : State) (t st : Nat) (r0 r1 : Word) : (endTag s t st r0 r1).fabrics = s.fabrics := by
  rw [endTag_frame]
@[simp] theorem endTag_words (s : State) (t st : Nat) (r0 r1 : Word) : (endTag s t st r0 r1).words = s.words := by
  rw [endTag_frame]
@[simp] theorem endTag_pw (s : State) (t st : Nat) (r0 r1 : Word) : (endTag s t st r0 r1).pw = s.pw := by
  rw [endTag_frame]
@[simp] theorem endTag_pp (s : State) (t st : Nat) (r0 r1 : Word) : (endTag s t st r0 r1).pp = s.pp := by
  rw [endTag_frame]
@[simp] theorem endTag_fq (s : State) (t st : Nat) (r0 r1 : Word) : (endTag s t st r0 r1).fq = s.fq := by
  rw [endTag_frame]
@[simp] theorem endTag_fc (s : State) (t st : Nat) (r0 r1 : Word) : (endTag s t st r0 r1).fc = s.fc := by
  rw [endTag_frame]
@[simp] theorem endTag_bb (s : State) (t st : Nat) (r0 r1 : Word) : (endTag s t st r0 r1).bb = s.bb := by
  rw [endTag_frame]
@[simp] theorem endTag_mp (s : State) (t st : Nat) (r0 r1 : Word) : (endTag s t st r0 r1).mp = s.mp := by
  rw [endTag_frame]
@[simp] theorem endTag_trc (s : State) (t st : Nat) (r0 r1 : Word) : (endTag s t st r0 r1).trc = s.trc := by
  rw [endTag_frame]
@[simp] theorem endTag_atst (s : State) (t st : Nat) (r0 r1 : Word) : (endTag s t st r0 r1).atst = s.atst := by
  rw [endTag_frame]
@[simp] theorem endTag_chans (s : State) (t st : Nat) (r0 r1 : Word) : (endTag s t st r0 r1).chans = s.chans := by
  rw [endTag_frame]
@[simp] theorem endTag_flasks (s : State) (t st : Nat) (r0 r1 : Word) : (endTag s t st r0 r1).flasks = s.flasks := by
  rw [endTag_frame]
@[simp] theorem endTag_regs (s : State) (t st : Nat) (r0 r1 : Word) : (endTag s t st r0 r1).regs = s.regs := by
  rw [endTag_frame]
@[simp] theorem endTag_lad (s : State) (t st : Nat) (r0 r1 : Word) : (endTag s t st r0 r1).lad = s.lad := by
  rw [endTag_frame]
@[simp] theorem endTag_tls (s : State) (t st : Nat) (r0 r1 : Word) : (endTag s t st r0 r1).tls = s.tls := by
  rw [endTag_frame]
@[simp] theorem endTag_tlHost (s : State) (t st : Nat) (r0 r1 : Word) : (endTag s t st r0 r1).tlHost = s.tlHost := by
  rw [endTag_frame]
@[simp] theorem endTag_ests (s : State) (t st : Nat) (r0 r1 : Word) : (endTag s t st r0 r1).ests = s.ests := by
  rw [endTag_frame]
@[simp] theorem endTag_recs (s : State) (t st : Nat) (r0 r1 : Word) : (endTag s t st r0 r1).recs = s.recs := by
  rw [endTag_frame]
@[simp] theorem endTag_sweeps (s : State) (t st : Nat) (r0 r1 : Word) : (endTag s t st r0 r1).sweeps = s.sweeps := by
  rw [endTag_frame]
@[simp] theorem endTag_fuses (s : State) (t st : Nat) (r0 r1 : Word) : (endTag s t st r0 r1).fuses = s.fuses := by
  rw [endTag_frame]
@[simp] theorem endTag_wd (s : State) (t st : Nat) (r0 r1 : Word) : (endTag s t st r0 r1).wd = s.wd := by
  rw [endTag_frame]
@[simp] theorem endTag_sv (s : State) (t st : Nat) (r0 r1 : Word) : (endTag s t st r0 r1).sv = s.sv := by
  rw [endTag_frame]
@[simp] theorem endTag_fw (s : State) (t st : Nat) (r0 r1 : Word) : (endTag s t st r0 r1).fw = s.fw := by
  rw [endTag_frame]
@[simp] theorem endTag_site (s : State) (t st : Nat) (r0 r1 : Word) : (endTag s t st r0 r1).site = s.site := by
  rw [endTag_frame]
@[simp] theorem endTag_tel (s : State) (t st : Nat) (r0 r1 : Word) : (endTag s t st r0 r1).tel = s.tel := by
  rw [endTag_frame]
@[simp] theorem endTag_calWaits (s : State) (t st : Nat) (r0 r1 : Word) : (endTag s t st r0 r1).calWaits = s.calWaits := by
  rw [endTag_frame]
@[simp] theorem endTag_legs (s : State) (t st : Nat) (r0 r1 : Word) : (endTag s t st r0 r1).legs = s.legs := by
  rw [endTag_frame]
@[simp] theorem endTag_legCal (s : State) (t st : Nat) (r0 r1 : Word) : (endTag s t st r0 r1).legCal = s.legCal := by
  rw [endTag_frame]
@[simp] theorem endTag_calConvs (s : State) (t st : Nat) (r0 r1 : Word) : (endTag s t st r0 r1).calConvs = s.calConvs := by
  rw [endTag_frame]
@[simp] theorem endTag_free (s : State) (t st : Nat) (r0 r1 : Word) : (endTag s t st r0 r1).free = s.free := by
  rw [endTag_frame]
@[simp] theorem endTag_out (s : State) (t st : Nat) (r0 r1 : Word) : (endTag s t st r0 r1).out = s.out := by
  rw [endTag_frame]
@[simp] theorem endTag_pending (s : State) (t st : Nat) (r0 r1 : Word) : (endTag s t st r0 r1).pending = s.pending := by
  rw [endTag_frame]
@[simp] theorem on_endTag (s : State) (t st : Nat) (r0 r1 : Word) (d : Nat) : on (endTag s t st r0 r1) d = on s d := by
  unfold on
  rw [endTag_frame]

theorem endSt_frame (s : State) (t st : Nat) :
    endSt s t st = { s with hi := (endSt s t st).hi } := by
  exact endTag_frame _ _ _ _ _

@[simp] theorem endSt_part (s : State) (t st : Nat) : (endSt s t st).part = s.part := by
  rw [endSt_frame]
@[simp] theorem endSt_now (s : State) (t st : Nat) : (endSt s t st).now = s.now := by
  rw [endSt_frame]
@[simp] theorem endSt_snap (s : State) (t st : Nat) : (endSt s t st).snap = s.snap := by
  rw [endSt_frame]
@[simp] theorem endSt_tickAt (s : State) (t st : Nat) : (endSt s t st).tickAt = s.tickAt := by
  rw [endSt_frame]
@[simp] theorem endSt_fabrics (s : State) (t st : Nat) : (endSt s t st).fabrics = s.fabrics := by
  rw [endSt_frame]
@[simp] theorem endSt_words (s : State) (t st : Nat) : (endSt s t st).words = s.words := by
  rw [endSt_frame]
@[simp] theorem endSt_pw (s : State) (t st : Nat) : (endSt s t st).pw = s.pw := by
  rw [endSt_frame]
@[simp] theorem endSt_pp (s : State) (t st : Nat) : (endSt s t st).pp = s.pp := by
  rw [endSt_frame]
@[simp] theorem endSt_fq (s : State) (t st : Nat) : (endSt s t st).fq = s.fq := by
  rw [endSt_frame]
@[simp] theorem endSt_fc (s : State) (t st : Nat) : (endSt s t st).fc = s.fc := by
  rw [endSt_frame]
@[simp] theorem endSt_bb (s : State) (t st : Nat) : (endSt s t st).bb = s.bb := by
  rw [endSt_frame]
@[simp] theorem endSt_mp (s : State) (t st : Nat) : (endSt s t st).mp = s.mp := by
  rw [endSt_frame]
@[simp] theorem endSt_trc (s : State) (t st : Nat) : (endSt s t st).trc = s.trc := by
  rw [endSt_frame]
@[simp] theorem endSt_atst (s : State) (t st : Nat) : (endSt s t st).atst = s.atst := by
  rw [endSt_frame]
@[simp] theorem endSt_chans (s : State) (t st : Nat) : (endSt s t st).chans = s.chans := by
  rw [endSt_frame]
@[simp] theorem endSt_flasks (s : State) (t st : Nat) : (endSt s t st).flasks = s.flasks := by
  rw [endSt_frame]
@[simp] theorem endSt_regs (s : State) (t st : Nat) : (endSt s t st).regs = s.regs := by
  rw [endSt_frame]
@[simp] theorem endSt_lad (s : State) (t st : Nat) : (endSt s t st).lad = s.lad := by
  rw [endSt_frame]
@[simp] theorem endSt_tls (s : State) (t st : Nat) : (endSt s t st).tls = s.tls := by
  rw [endSt_frame]
@[simp] theorem endSt_tlHost (s : State) (t st : Nat) : (endSt s t st).tlHost = s.tlHost := by
  rw [endSt_frame]
@[simp] theorem endSt_ests (s : State) (t st : Nat) : (endSt s t st).ests = s.ests := by
  rw [endSt_frame]
@[simp] theorem endSt_recs (s : State) (t st : Nat) : (endSt s t st).recs = s.recs := by
  rw [endSt_frame]
@[simp] theorem endSt_sweeps (s : State) (t st : Nat) : (endSt s t st).sweeps = s.sweeps := by
  rw [endSt_frame]
@[simp] theorem endSt_fuses (s : State) (t st : Nat) : (endSt s t st).fuses = s.fuses := by
  rw [endSt_frame]
@[simp] theorem endSt_wd (s : State) (t st : Nat) : (endSt s t st).wd = s.wd := by
  rw [endSt_frame]
@[simp] theorem endSt_sv (s : State) (t st : Nat) : (endSt s t st).sv = s.sv := by
  rw [endSt_frame]
@[simp] theorem endSt_fw (s : State) (t st : Nat) : (endSt s t st).fw = s.fw := by
  rw [endSt_frame]
@[simp] theorem endSt_site (s : State) (t st : Nat) : (endSt s t st).site = s.site := by
  rw [endSt_frame]
@[simp] theorem endSt_tel (s : State) (t st : Nat) : (endSt s t st).tel = s.tel := by
  rw [endSt_frame]
@[simp] theorem endSt_calWaits (s : State) (t st : Nat) : (endSt s t st).calWaits = s.calWaits := by
  rw [endSt_frame]
@[simp] theorem endSt_legs (s : State) (t st : Nat) : (endSt s t st).legs = s.legs := by
  rw [endSt_frame]
@[simp] theorem endSt_legCal (s : State) (t st : Nat) : (endSt s t st).legCal = s.legCal := by
  rw [endSt_frame]
@[simp] theorem endSt_calConvs (s : State) (t st : Nat) : (endSt s t st).calConvs = s.calConvs := by
  rw [endSt_frame]
@[simp] theorem endSt_free (s : State) (t st : Nat) : (endSt s t st).free = s.free := by
  rw [endSt_frame]
@[simp] theorem endSt_out (s : State) (t st : Nat) : (endSt s t st).out = s.out := by
  rw [endSt_frame]
@[simp] theorem endSt_pending (s : State) (t st : Nat) : (endSt s t st).pending = s.pending := by
  rw [endSt_frame]
@[simp] theorem on_endSt (s : State) (t st : Nat) (d : Nat) : on (endSt s t st) d = on s d := by
  unfold on
  rw [endSt_frame]

theorem runTag_frame (s : State) (t : Nat) :
    runTag s t = { s with hi := (runTag s t).hi } := by
  exact modTag_frame _ _ _

@[simp] theorem runTag_part (s : State) (t : Nat) : (runTag s t).part = s.part := by
  rw [runTag_frame]
@[simp] theorem runTag_now (s : State) (t : Nat) : (runTag s t).now = s.now := by
  rw [runTag_frame]
@[simp] theorem runTag_snap (s : State) (t : Nat) : (runTag s t).snap = s.snap := by
  rw [runTag_frame]
@[simp] theorem runTag_tickAt (s : State) (t : Nat) : (runTag s t).tickAt = s.tickAt := by
  rw [runTag_frame]
@[simp] theorem runTag_fabrics (s : State) (t : Nat) : (runTag s t).fabrics = s.fabrics := by
  rw [runTag_frame]
@[simp] theorem runTag_words (s : State) (t : Nat) : (runTag s t).words = s.words := by
  rw [runTag_frame]
@[simp] theorem runTag_pw (s : State) (t : Nat) : (runTag s t).pw = s.pw := by
  rw [runTag_frame]
@[simp] theorem runTag_pp (s : State) (t : Nat) : (runTag s t).pp = s.pp := by
  rw [runTag_frame]
@[simp] theorem runTag_fq (s : State) (t : Nat) : (runTag s t).fq = s.fq := by
  rw [runTag_frame]
@[simp] theorem runTag_fc (s : State) (t : Nat) : (runTag s t).fc = s.fc := by
  rw [runTag_frame]
@[simp] theorem runTag_bb (s : State) (t : Nat) : (runTag s t).bb = s.bb := by
  rw [runTag_frame]
@[simp] theorem runTag_mp (s : State) (t : Nat) : (runTag s t).mp = s.mp := by
  rw [runTag_frame]
@[simp] theorem runTag_trc (s : State) (t : Nat) : (runTag s t).trc = s.trc := by
  rw [runTag_frame]
@[simp] theorem runTag_atst (s : State) (t : Nat) : (runTag s t).atst = s.atst := by
  rw [runTag_frame]
@[simp] theorem runTag_chans (s : State) (t : Nat) : (runTag s t).chans = s.chans := by
  rw [runTag_frame]
@[simp] theorem runTag_flasks (s : State) (t : Nat) : (runTag s t).flasks = s.flasks := by
  rw [runTag_frame]
@[simp] theorem runTag_regs (s : State) (t : Nat) : (runTag s t).regs = s.regs := by
  rw [runTag_frame]
@[simp] theorem runTag_lad (s : State) (t : Nat) : (runTag s t).lad = s.lad := by
  rw [runTag_frame]
@[simp] theorem runTag_tls (s : State) (t : Nat) : (runTag s t).tls = s.tls := by
  rw [runTag_frame]
@[simp] theorem runTag_tlHost (s : State) (t : Nat) : (runTag s t).tlHost = s.tlHost := by
  rw [runTag_frame]
@[simp] theorem runTag_ests (s : State) (t : Nat) : (runTag s t).ests = s.ests := by
  rw [runTag_frame]
@[simp] theorem runTag_recs (s : State) (t : Nat) : (runTag s t).recs = s.recs := by
  rw [runTag_frame]
@[simp] theorem runTag_sweeps (s : State) (t : Nat) : (runTag s t).sweeps = s.sweeps := by
  rw [runTag_frame]
@[simp] theorem runTag_fuses (s : State) (t : Nat) : (runTag s t).fuses = s.fuses := by
  rw [runTag_frame]
@[simp] theorem runTag_wd (s : State) (t : Nat) : (runTag s t).wd = s.wd := by
  rw [runTag_frame]
@[simp] theorem runTag_sv (s : State) (t : Nat) : (runTag s t).sv = s.sv := by
  rw [runTag_frame]
@[simp] theorem runTag_fw (s : State) (t : Nat) : (runTag s t).fw = s.fw := by
  rw [runTag_frame]
@[simp] theorem runTag_site (s : State) (t : Nat) : (runTag s t).site = s.site := by
  rw [runTag_frame]
@[simp] theorem runTag_tel (s : State) (t : Nat) : (runTag s t).tel = s.tel := by
  rw [runTag_frame]
@[simp] theorem runTag_calWaits (s : State) (t : Nat) : (runTag s t).calWaits = s.calWaits := by
  rw [runTag_frame]
@[simp] theorem runTag_legs (s : State) (t : Nat) : (runTag s t).legs = s.legs := by
  rw [runTag_frame]
@[simp] theorem runTag_legCal (s : State) (t : Nat) : (runTag s t).legCal = s.legCal := by
  rw [runTag_frame]
@[simp] theorem runTag_calConvs (s : State) (t : Nat) : (runTag s t).calConvs = s.calConvs := by
  rw [runTag_frame]
@[simp] theorem runTag_free (s : State) (t : Nat) : (runTag s t).free = s.free := by
  rw [runTag_frame]
@[simp] theorem runTag_out (s : State) (t : Nat) : (runTag s t).out = s.out := by
  rw [runTag_frame]
@[simp] theorem runTag_pending (s : State) (t : Nat) : (runTag s t).pending = s.pending := by
  rw [runTag_frame]
@[simp] theorem on_runTag (s : State) (t : Nat) (d : Nat) : on (runTag s t) d = on s d := by
  unfold on
  rw [runTag_frame]

theorem pendTag_frame (s : State) (t : Nat) :
    pendTag s t = { s with hi := (pendTag s t).hi } := by
  exact modTag_frame _ _ _

@[simp] theorem pendTag_part (s : State) (t : Nat) : (pendTag s t).part = s.part := by
  rw [pendTag_frame]
@[simp] theorem pendTag_now (s : State) (t : Nat) : (pendTag s t).now = s.now := by
  rw [pendTag_frame]
@[simp] theorem pendTag_snap (s : State) (t : Nat) : (pendTag s t).snap = s.snap := by
  rw [pendTag_frame]
@[simp] theorem pendTag_tickAt (s : State) (t : Nat) : (pendTag s t).tickAt = s.tickAt := by
  rw [pendTag_frame]
@[simp] theorem pendTag_fabrics (s : State) (t : Nat) : (pendTag s t).fabrics = s.fabrics := by
  rw [pendTag_frame]
@[simp] theorem pendTag_words (s : State) (t : Nat) : (pendTag s t).words = s.words := by
  rw [pendTag_frame]
@[simp] theorem pendTag_pw (s : State) (t : Nat) : (pendTag s t).pw = s.pw := by
  rw [pendTag_frame]
@[simp] theorem pendTag_pp (s : State) (t : Nat) : (pendTag s t).pp = s.pp := by
  rw [pendTag_frame]
@[simp] theorem pendTag_fq (s : State) (t : Nat) : (pendTag s t).fq = s.fq := by
  rw [pendTag_frame]
@[simp] theorem pendTag_fc (s : State) (t : Nat) : (pendTag s t).fc = s.fc := by
  rw [pendTag_frame]
@[simp] theorem pendTag_bb (s : State) (t : Nat) : (pendTag s t).bb = s.bb := by
  rw [pendTag_frame]
@[simp] theorem pendTag_mp (s : State) (t : Nat) : (pendTag s t).mp = s.mp := by
  rw [pendTag_frame]
@[simp] theorem pendTag_trc (s : State) (t : Nat) : (pendTag s t).trc = s.trc := by
  rw [pendTag_frame]
@[simp] theorem pendTag_atst (s : State) (t : Nat) : (pendTag s t).atst = s.atst := by
  rw [pendTag_frame]
@[simp] theorem pendTag_chans (s : State) (t : Nat) : (pendTag s t).chans = s.chans := by
  rw [pendTag_frame]
@[simp] theorem pendTag_flasks (s : State) (t : Nat) : (pendTag s t).flasks = s.flasks := by
  rw [pendTag_frame]
@[simp] theorem pendTag_regs (s : State) (t : Nat) : (pendTag s t).regs = s.regs := by
  rw [pendTag_frame]
@[simp] theorem pendTag_lad (s : State) (t : Nat) : (pendTag s t).lad = s.lad := by
  rw [pendTag_frame]
@[simp] theorem pendTag_tls (s : State) (t : Nat) : (pendTag s t).tls = s.tls := by
  rw [pendTag_frame]
@[simp] theorem pendTag_tlHost (s : State) (t : Nat) : (pendTag s t).tlHost = s.tlHost := by
  rw [pendTag_frame]
@[simp] theorem pendTag_ests (s : State) (t : Nat) : (pendTag s t).ests = s.ests := by
  rw [pendTag_frame]
@[simp] theorem pendTag_recs (s : State) (t : Nat) : (pendTag s t).recs = s.recs := by
  rw [pendTag_frame]
@[simp] theorem pendTag_sweeps (s : State) (t : Nat) : (pendTag s t).sweeps = s.sweeps := by
  rw [pendTag_frame]
@[simp] theorem pendTag_fuses (s : State) (t : Nat) : (pendTag s t).fuses = s.fuses := by
  rw [pendTag_frame]
@[simp] theorem pendTag_wd (s : State) (t : Nat) : (pendTag s t).wd = s.wd := by
  rw [pendTag_frame]
@[simp] theorem pendTag_sv (s : State) (t : Nat) : (pendTag s t).sv = s.sv := by
  rw [pendTag_frame]
@[simp] theorem pendTag_fw (s : State) (t : Nat) : (pendTag s t).fw = s.fw := by
  rw [pendTag_frame]
@[simp] theorem pendTag_site (s : State) (t : Nat) : (pendTag s t).site = s.site := by
  rw [pendTag_frame]
@[simp] theorem pendTag_tel (s : State) (t : Nat) : (pendTag s t).tel = s.tel := by
  rw [pendTag_frame]
@[simp] theorem pendTag_calWaits (s : State) (t : Nat) : (pendTag s t).calWaits = s.calWaits := by
  rw [pendTag_frame]
@[simp] theorem pendTag_legs (s : State) (t : Nat) : (pendTag s t).legs = s.legs := by
  rw [pendTag_frame]
@[simp] theorem pendTag_legCal (s : State) (t : Nat) : (pendTag s t).legCal = s.legCal := by
  rw [pendTag_frame]
@[simp] theorem pendTag_calConvs (s : State) (t : Nat) : (pendTag s t).calConvs = s.calConvs := by
  rw [pendTag_frame]
@[simp] theorem pendTag_free (s : State) (t : Nat) : (pendTag s t).free = s.free := by
  rw [pendTag_frame]
@[simp] theorem pendTag_out (s : State) (t : Nat) : (pendTag s t).out = s.out := by
  rw [pendTag_frame]
@[simp] theorem pendTag_pending (s : State) (t : Nat) : (pendTag s t).pending = s.pending := by
  rw [pendTag_frame]
@[simp] theorem on_pendTag (s : State) (t : Nat) (d : Nat) : on (pendTag s t) d = on s d := by
  unfold on
  rw [pendTag_frame]

theorem giveResult_frame (s : State) (t : Nat) (r0 r1 : Word) (l : List Word) :
    giveResult s t r0 r1 l = { s with hi := (giveResult s t r0 r1 l).hi } := by
  exact modTag_frame _ _ _

@[simp] theorem giveResult_part (s : State) (t : Nat) (r0 r1 : Word) (l : List Word) : (giveResult s t r0 r1 l).part = s.part := by
  rw [giveResult_frame]
@[simp] theorem giveResult_now (s : State) (t : Nat) (r0 r1 : Word) (l : List Word) : (giveResult s t r0 r1 l).now = s.now := by
  rw [giveResult_frame]
@[simp] theorem giveResult_snap (s : State) (t : Nat) (r0 r1 : Word) (l : List Word) : (giveResult s t r0 r1 l).snap = s.snap := by
  rw [giveResult_frame]
@[simp] theorem giveResult_tickAt (s : State) (t : Nat) (r0 r1 : Word) (l : List Word) : (giveResult s t r0 r1 l).tickAt = s.tickAt := by
  rw [giveResult_frame]
@[simp] theorem giveResult_fabrics (s : State) (t : Nat) (r0 r1 : Word) (l : List Word) : (giveResult s t r0 r1 l).fabrics = s.fabrics := by
  rw [giveResult_frame]
@[simp] theorem giveResult_words (s : State) (t : Nat) (r0 r1 : Word) (l : List Word) : (giveResult s t r0 r1 l).words = s.words := by
  rw [giveResult_frame]
@[simp] theorem giveResult_pw (s : State) (t : Nat) (r0 r1 : Word) (l : List Word) : (giveResult s t r0 r1 l).pw = s.pw := by
  rw [giveResult_frame]
@[simp] theorem giveResult_pp (s : State) (t : Nat) (r0 r1 : Word) (l : List Word) : (giveResult s t r0 r1 l).pp = s.pp := by
  rw [giveResult_frame]
@[simp] theorem giveResult_fq (s : State) (t : Nat) (r0 r1 : Word) (l : List Word) : (giveResult s t r0 r1 l).fq = s.fq := by
  rw [giveResult_frame]
@[simp] theorem giveResult_fc (s : State) (t : Nat) (r0 r1 : Word) (l : List Word) : (giveResult s t r0 r1 l).fc = s.fc := by
  rw [giveResult_frame]
@[simp] theorem giveResult_bb (s : State) (t : Nat) (r0 r1 : Word) (l : List Word) : (giveResult s t r0 r1 l).bb = s.bb := by
  rw [giveResult_frame]
@[simp] theorem giveResult_mp (s : State) (t : Nat) (r0 r1 : Word) (l : List Word) : (giveResult s t r0 r1 l).mp = s.mp := by
  rw [giveResult_frame]
@[simp] theorem giveResult_trc (s : State) (t : Nat) (r0 r1 : Word) (l : List Word) : (giveResult s t r0 r1 l).trc = s.trc := by
  rw [giveResult_frame]
@[simp] theorem giveResult_atst (s : State) (t : Nat) (r0 r1 : Word) (l : List Word) : (giveResult s t r0 r1 l).atst = s.atst := by
  rw [giveResult_frame]
@[simp] theorem giveResult_chans (s : State) (t : Nat) (r0 r1 : Word) (l : List Word) : (giveResult s t r0 r1 l).chans = s.chans := by
  rw [giveResult_frame]
@[simp] theorem giveResult_flasks (s : State) (t : Nat) (r0 r1 : Word) (l : List Word) : (giveResult s t r0 r1 l).flasks = s.flasks := by
  rw [giveResult_frame]
@[simp] theorem giveResult_regs (s : State) (t : Nat) (r0 r1 : Word) (l : List Word) : (giveResult s t r0 r1 l).regs = s.regs := by
  rw [giveResult_frame]
@[simp] theorem giveResult_lad (s : State) (t : Nat) (r0 r1 : Word) (l : List Word) : (giveResult s t r0 r1 l).lad = s.lad := by
  rw [giveResult_frame]
@[simp] theorem giveResult_tls (s : State) (t : Nat) (r0 r1 : Word) (l : List Word) : (giveResult s t r0 r1 l).tls = s.tls := by
  rw [giveResult_frame]
@[simp] theorem giveResult_tlHost (s : State) (t : Nat) (r0 r1 : Word) (l : List Word) : (giveResult s t r0 r1 l).tlHost = s.tlHost := by
  rw [giveResult_frame]
@[simp] theorem giveResult_ests (s : State) (t : Nat) (r0 r1 : Word) (l : List Word) : (giveResult s t r0 r1 l).ests = s.ests := by
  rw [giveResult_frame]
@[simp] theorem giveResult_recs (s : State) (t : Nat) (r0 r1 : Word) (l : List Word) : (giveResult s t r0 r1 l).recs = s.recs := by
  rw [giveResult_frame]
@[simp] theorem giveResult_sweeps (s : State) (t : Nat) (r0 r1 : Word) (l : List Word) : (giveResult s t r0 r1 l).sweeps = s.sweeps := by
  rw [giveResult_frame]
@[simp] theorem giveResult_fuses (s : State) (t : Nat) (r0 r1 : Word) (l : List Word) : (giveResult s t r0 r1 l).fuses = s.fuses := by
  rw [giveResult_frame]
@[simp] theorem giveResult_wd (s : State) (t : Nat) (r0 r1 : Word) (l : List Word) : (giveResult s t r0 r1 l).wd = s.wd := by
  rw [giveResult_frame]
@[simp] theorem giveResult_sv (s : State) (t : Nat) (r0 r1 : Word) (l : List Word) : (giveResult s t r0 r1 l).sv = s.sv := by
  rw [giveResult_frame]
@[simp] theorem giveResult_fw (s : State) (t : Nat) (r0 r1 : Word) (l : List Word) : (giveResult s t r0 r1 l).fw = s.fw := by
  rw [giveResult_frame]
@[simp] theorem giveResult_site (s : State) (t : Nat) (r0 r1 : Word) (l : List Word) : (giveResult s t r0 r1 l).site = s.site := by
  rw [giveResult_frame]
@[simp] theorem giveResult_tel (s : State) (t : Nat) (r0 r1 : Word) (l : List Word) : (giveResult s t r0 r1 l).tel = s.tel := by
  rw [giveResult_frame]
@[simp] theorem giveResult_calWaits (s : State) (t : Nat) (r0 r1 : Word) (l : List Word) : (giveResult s t r0 r1 l).calWaits = s.calWaits := by
  rw [giveResult_frame]
@[simp] theorem giveResult_legs (s : State) (t : Nat) (r0 r1 : Word) (l : List Word) : (giveResult s t r0 r1 l).legs = s.legs := by
  rw [giveResult_frame]
@[simp] theorem giveResult_legCal (s : State) (t : Nat) (r0 r1 : Word) (l : List Word) : (giveResult s t r0 r1 l).legCal = s.legCal := by
  rw [giveResult_frame]
@[simp] theorem giveResult_calConvs (s : State) (t : Nat) (r0 r1 : Word) (l : List Word) : (giveResult s t r0 r1 l).calConvs = s.calConvs := by
  rw [giveResult_frame]
@[simp] theorem giveResult_free (s : State) (t : Nat) (r0 r1 : Word) (l : List Word) : (giveResult s t r0 r1 l).free = s.free := by
  rw [giveResult_frame]
@[simp] theorem giveResult_out (s : State) (t : Nat) (r0 r1 : Word) (l : List Word) : (giveResult s t r0 r1 l).out = s.out := by
  rw [giveResult_frame]
@[simp] theorem giveResult_pending (s : State) (t : Nat) (r0 r1 : Word) (l : List Word) : (giveResult s t r0 r1 l).pending = s.pending := by
  rw [giveResult_frame]
@[simp] theorem on_giveResult (s : State) (t : Nat) (r0 r1 : Word) (l : List Word) (d : Nat) : on (giveResult s t r0 r1 l) d = on s d := by
  unfold on
  rw [giveResult_frame]

theorem flaskPortArrive_frame (s : State) (f : Nat) (m : FaultMsg) :
    flaskPortArrive s f m = { s with fq := (flaskPortArrive s f m).fq, flasks := (flaskPortArrive s f m).flasks } := by
  unfold flaskPortArrive
  split
  · dsimp only
    split <;> rfl
  · rfl

@[simp] theorem flaskPortArrive_part (s : State) (f : Nat) (m : FaultMsg) : (flaskPortArrive s f m).part = s.part := by
  rw [flaskPortArrive_frame]
@[simp] theorem flaskPortArrive_now (s : State) (f : Nat) (m : FaultMsg) : (flaskPortArrive s f m).now = s.now := by
  rw [flaskPortArrive_frame]
@[simp] theorem flaskPortArrive_snap (s : State) (f : Nat) (m : FaultMsg) : (flaskPortArrive s f m).snap = s.snap := by
  rw [flaskPortArrive_frame]
@[simp] theorem flaskPortArrive_tickAt (s : State) (f : Nat) (m : FaultMsg) : (flaskPortArrive s f m).tickAt = s.tickAt := by
  rw [flaskPortArrive_frame]
@[simp] theorem flaskPortArrive_fabrics (s : State) (f : Nat) (m : FaultMsg) : (flaskPortArrive s f m).fabrics = s.fabrics := by
  rw [flaskPortArrive_frame]
@[simp] theorem flaskPortArrive_words (s : State) (f : Nat) (m : FaultMsg) : (flaskPortArrive s f m).words = s.words := by
  rw [flaskPortArrive_frame]
@[simp] theorem flaskPortArrive_pw (s : State) (f : Nat) (m : FaultMsg) : (flaskPortArrive s f m).pw = s.pw := by
  rw [flaskPortArrive_frame]
@[simp] theorem flaskPortArrive_pp (s : State) (f : Nat) (m : FaultMsg) : (flaskPortArrive s f m).pp = s.pp := by
  rw [flaskPortArrive_frame]
@[simp] theorem flaskPortArrive_fc (s : State) (f : Nat) (m : FaultMsg) : (flaskPortArrive s f m).fc = s.fc := by
  rw [flaskPortArrive_frame]
@[simp] theorem flaskPortArrive_bb (s : State) (f : Nat) (m : FaultMsg) : (flaskPortArrive s f m).bb = s.bb := by
  rw [flaskPortArrive_frame]
@[simp] theorem flaskPortArrive_hi (s : State) (f : Nat) (m : FaultMsg) : (flaskPortArrive s f m).hi = s.hi := by
  rw [flaskPortArrive_frame]
@[simp] theorem flaskPortArrive_mp (s : State) (f : Nat) (m : FaultMsg) : (flaskPortArrive s f m).mp = s.mp := by
  rw [flaskPortArrive_frame]
@[simp] theorem flaskPortArrive_trc (s : State) (f : Nat) (m : FaultMsg) : (flaskPortArrive s f m).trc = s.trc := by
  rw [flaskPortArrive_frame]
@[simp] theorem flaskPortArrive_atst (s : State) (f : Nat) (m : FaultMsg) : (flaskPortArrive s f m).atst = s.atst := by
  rw [flaskPortArrive_frame]
@[simp] theorem flaskPortArrive_chans (s : State) (f : Nat) (m : FaultMsg) : (flaskPortArrive s f m).chans = s.chans := by
  rw [flaskPortArrive_frame]
@[simp] theorem flaskPortArrive_regs (s : State) (f : Nat) (m : FaultMsg) : (flaskPortArrive s f m).regs = s.regs := by
  rw [flaskPortArrive_frame]
@[simp] theorem flaskPortArrive_lad (s : State) (f : Nat) (m : FaultMsg) : (flaskPortArrive s f m).lad = s.lad := by
  rw [flaskPortArrive_frame]
@[simp] theorem flaskPortArrive_tls (s : State) (f : Nat) (m : FaultMsg) : (flaskPortArrive s f m).tls = s.tls := by
  rw [flaskPortArrive_frame]
@[simp] theorem flaskPortArrive_tlHost (s : State) (f : Nat) (m : FaultMsg) : (flaskPortArrive s f m).tlHost = s.tlHost := by
  rw [flaskPortArrive_frame]
@[simp] theorem flaskPortArrive_ests (s : State) (f : Nat) (m : FaultMsg) : (flaskPortArrive s f m).ests = s.ests := by
  rw [flaskPortArrive_frame]
@[simp] theorem flaskPortArrive_recs (s : State) (f : Nat) (m : FaultMsg) : (flaskPortArrive s f m).recs = s.recs := by
  rw [flaskPortArrive_frame]
@[simp] theorem flaskPortArrive_sweeps (s : State) (f : Nat) (m : FaultMsg) : (flaskPortArrive s f m).sweeps = s.sweeps := by
  rw [flaskPortArrive_frame]
@[simp] theorem flaskPortArrive_fuses (s : State) (f : Nat) (m : FaultMsg) : (flaskPortArrive s f m).fuses = s.fuses := by
  rw [flaskPortArrive_frame]
@[simp] theorem flaskPortArrive_wd (s : State) (f : Nat) (m : FaultMsg) : (flaskPortArrive s f m).wd = s.wd := by
  rw [flaskPortArrive_frame]
@[simp] theorem flaskPortArrive_sv (s : State) (f : Nat) (m : FaultMsg) : (flaskPortArrive s f m).sv = s.sv := by
  rw [flaskPortArrive_frame]
@[simp] theorem flaskPortArrive_fw (s : State) (f : Nat) (m : FaultMsg) : (flaskPortArrive s f m).fw = s.fw := by
  rw [flaskPortArrive_frame]
@[simp] theorem flaskPortArrive_site (s : State) (f : Nat) (m : FaultMsg) : (flaskPortArrive s f m).site = s.site := by
  rw [flaskPortArrive_frame]
@[simp] theorem flaskPortArrive_tel (s : State) (f : Nat) (m : FaultMsg) : (flaskPortArrive s f m).tel = s.tel := by
  rw [flaskPortArrive_frame]
@[simp] theorem flaskPortArrive_calWaits (s : State) (f : Nat) (m : FaultMsg) : (flaskPortArrive s f m).calWaits = s.calWaits := by
  rw [flaskPortArrive_frame]
@[simp] theorem flaskPortArrive_legs (s : State) (f : Nat) (m : FaultMsg) : (flaskPortArrive s f m).legs = s.legs := by
  rw [flaskPortArrive_frame]
@[simp] theorem flaskPortArrive_legCal (s : State) (f : Nat) (m : FaultMsg) : (flaskPortArrive s f m).legCal = s.legCal := by
  rw [flaskPortArrive_frame]
@[simp] theorem flaskPortArrive_calConvs (s : State) (f : Nat) (m : FaultMsg) : (flaskPortArrive s f m).calConvs = s.calConvs := by
  rw [flaskPortArrive_frame]
@[simp] theorem flaskPortArrive_free (s : State) (f : Nat) (m : FaultMsg) : (flaskPortArrive s f m).free = s.free := by
  rw [flaskPortArrive_frame]
@[simp] theorem flaskPortArrive_out (s : State) (f : Nat) (m : FaultMsg) : (flaskPortArrive s f m).out = s.out := by
  rw [flaskPortArrive_frame]
@[simp] theorem flaskPortArrive_pending (s : State) (f : Nat) (m : FaultMsg) : (flaskPortArrive s f m).pending = s.pending := by
  rw [flaskPortArrive_frame]
@[simp] theorem on_flaskPortArrive (s : State) (f : Nat) (m : FaultMsg) (d : Nat) : on (flaskPortArrive s f m) d = on s d := by
  unfold on
  rw [flaskPortArrive_frame]

theorem aggregatorArrive_frame (s : State) (k : Nat) (m : FaultMsg) :
    aggregatorArrive s k m = { s with fq := (aggregatorArrive s k m).fq } := by
  unfold aggregatorArrive
  split <;> rfl

@[simp] theorem aggregatorArrive_part (s : State) (k : Nat) (m : FaultMsg) : (aggregatorArrive s k m).part = s.part := by
  rw [aggregatorArrive_frame]
@[simp] theorem aggregatorArrive_now (s : State) (k : Nat) (m : FaultMsg) : (aggregatorArrive s k m).now = s.now := by
  rw [aggregatorArrive_frame]
@[simp] theorem aggregatorArrive_snap (s : State) (k : Nat) (m : FaultMsg) : (aggregatorArrive s k m).snap = s.snap := by
  rw [aggregatorArrive_frame]
@[simp] theorem aggregatorArrive_tickAt (s : State) (k : Nat) (m : FaultMsg) : (aggregatorArrive s k m).tickAt = s.tickAt := by
  rw [aggregatorArrive_frame]
@[simp] theorem aggregatorArrive_fabrics (s : State) (k : Nat) (m : FaultMsg) : (aggregatorArrive s k m).fabrics = s.fabrics := by
  rw [aggregatorArrive_frame]
@[simp] theorem aggregatorArrive_words (s : State) (k : Nat) (m : FaultMsg) : (aggregatorArrive s k m).words = s.words := by
  rw [aggregatorArrive_frame]
@[simp] theorem aggregatorArrive_pw (s : State) (k : Nat) (m : FaultMsg) : (aggregatorArrive s k m).pw = s.pw := by
  rw [aggregatorArrive_frame]
@[simp] theorem aggregatorArrive_pp (s : State) (k : Nat) (m : FaultMsg) : (aggregatorArrive s k m).pp = s.pp := by
  rw [aggregatorArrive_frame]
@[simp] theorem aggregatorArrive_fc (s : State) (k : Nat) (m : FaultMsg) : (aggregatorArrive s k m).fc = s.fc := by
  rw [aggregatorArrive_frame]
@[simp] theorem aggregatorArrive_bb (s : State) (k : Nat) (m : FaultMsg) : (aggregatorArrive s k m).bb = s.bb := by
  rw [aggregatorArrive_frame]
@[simp] theorem aggregatorArrive_hi (s : State) (k : Nat) (m : FaultMsg) : (aggregatorArrive s k m).hi = s.hi := by
  rw [aggregatorArrive_frame]
@[simp] theorem aggregatorArrive_mp (s : State) (k : Nat) (m : FaultMsg) : (aggregatorArrive s k m).mp = s.mp := by
  rw [aggregatorArrive_frame]
@[simp] theorem aggregatorArrive_trc (s : State) (k : Nat) (m : FaultMsg) : (aggregatorArrive s k m).trc = s.trc := by
  rw [aggregatorArrive_frame]
@[simp] theorem aggregatorArrive_atst (s : State) (k : Nat) (m : FaultMsg) : (aggregatorArrive s k m).atst = s.atst := by
  rw [aggregatorArrive_frame]
@[simp] theorem aggregatorArrive_chans (s : State) (k : Nat) (m : FaultMsg) : (aggregatorArrive s k m).chans = s.chans := by
  rw [aggregatorArrive_frame]
@[simp] theorem aggregatorArrive_flasks (s : State) (k : Nat) (m : FaultMsg) : (aggregatorArrive s k m).flasks = s.flasks := by
  rw [aggregatorArrive_frame]
@[simp] theorem aggregatorArrive_regs (s : State) (k : Nat) (m : FaultMsg) : (aggregatorArrive s k m).regs = s.regs := by
  rw [aggregatorArrive_frame]
@[simp] theorem aggregatorArrive_lad (s : State) (k : Nat) (m : FaultMsg) : (aggregatorArrive s k m).lad = s.lad := by
  rw [aggregatorArrive_frame]
@[simp] theorem aggregatorArrive_tls (s : State) (k : Nat) (m : FaultMsg) : (aggregatorArrive s k m).tls = s.tls := by
  rw [aggregatorArrive_frame]
@[simp] theorem aggregatorArrive_tlHost (s : State) (k : Nat) (m : FaultMsg) : (aggregatorArrive s k m).tlHost = s.tlHost := by
  rw [aggregatorArrive_frame]
@[simp] theorem aggregatorArrive_ests (s : State) (k : Nat) (m : FaultMsg) : (aggregatorArrive s k m).ests = s.ests := by
  rw [aggregatorArrive_frame]
@[simp] theorem aggregatorArrive_recs (s : State) (k : Nat) (m : FaultMsg) : (aggregatorArrive s k m).recs = s.recs := by
  rw [aggregatorArrive_frame]
@[simp] theorem aggregatorArrive_sweeps (s : State) (k : Nat) (m : FaultMsg) : (aggregatorArrive s k m).sweeps = s.sweeps := by
  rw [aggregatorArrive_frame]
@[simp] theorem aggregatorArrive_fuses (s : State) (k : Nat) (m : FaultMsg) : (aggregatorArrive s k m).fuses = s.fuses := by
  rw [aggregatorArrive_frame]
@[simp] theorem aggregatorArrive_wd (s : State) (k : Nat) (m : FaultMsg) : (aggregatorArrive s k m).wd = s.wd := by
  rw [aggregatorArrive_frame]
@[simp] theorem aggregatorArrive_sv (s : State) (k : Nat) (m : FaultMsg) : (aggregatorArrive s k m).sv = s.sv := by
  rw [aggregatorArrive_frame]
@[simp] theorem aggregatorArrive_fw (s : State) (k : Nat) (m : FaultMsg) : (aggregatorArrive s k m).fw = s.fw := by
  rw [aggregatorArrive_frame]
@[simp] theorem aggregatorArrive_site (s : State) (k : Nat) (m : FaultMsg) : (aggregatorArrive s k m).site = s.site := by
  rw [aggregatorArrive_frame]
@[simp] theorem aggregatorArrive_tel (s : State) (k : Nat) (m : FaultMsg) : (aggregatorArrive s k m).tel = s.tel := by
  rw [aggregatorArrive_frame]
@[simp] theorem aggregatorArrive_calWaits (s : State) (k : Nat) (m : FaultMsg) : (aggregatorArrive s k m).calWaits = s.calWaits := by
  rw [aggregatorArrive_frame]
@[simp] theorem aggregatorArrive_legs (s : State) (k : Nat) (m : FaultMsg) : (aggregatorArrive s k m).legs = s.legs := by
  rw [aggregatorArrive_frame]
@[simp] theorem aggregatorArrive_legCal (s : State) (k : Nat) (m : FaultMsg) : (aggregatorArrive s k m).legCal = s.legCal := by
  rw [aggregatorArrive_frame]
@[simp] theorem aggregatorArrive_calConvs (s : State) (k : Nat) (m : FaultMsg) : (aggregatorArrive s k m).calConvs = s.calConvs := by
  rw [aggregatorArrive_frame]
@[simp] theorem aggregatorArrive_free (s : State) (k : Nat) (m : FaultMsg) : (aggregatorArrive s k m).free = s.free := by
  rw [aggregatorArrive_frame]
@[simp] theorem aggregatorArrive_out (s : State) (k : Nat) (m : FaultMsg) : (aggregatorArrive s k m).out = s.out := by
  rw [aggregatorArrive_frame]
@[simp] theorem aggregatorArrive_pending (s : State) (k : Nat) (m : FaultMsg) : (aggregatorArrive s k m).pending = s.pending := by
  rw [aggregatorArrive_frame]
@[simp] theorem on_aggregatorArrive (s : State) (k : Nat) (m : FaultMsg) (d : Nat) : on (aggregatorArrive s k m) d = on s d := by
  unfold on
  rw [aggregatorArrive_frame]

theorem collectorArrive_frame (s : State) (i : Nat) (m : FaultMsg) :
    collectorArrive s i m = { s with fc := (collectorArrive s i m).fc } := by
  unfold collectorArrive
  split <;> rfl

@[simp] theorem collectorArrive_part (s : State) (i : Nat) (m : FaultMsg) : (collectorArrive s i m).part = s.part := by
  rw [collectorArrive_frame]
@[simp] theorem collectorArrive_now (s : State) (i : Nat) (m : FaultMsg) : (collectorArrive s i m).now = s.now := by
  rw [collectorArrive_frame]
@[simp] theorem collectorArrive_snap (s : State) (i : Nat) (m : FaultMsg) : (collectorArrive s i m).snap = s.snap := by
  rw [collectorArrive_frame]
@[simp] theorem collectorArrive_tickAt (s : State) (i : Nat) (m : FaultMsg) : (collectorArrive s i m).tickAt = s.tickAt := by
  rw [collectorArrive_frame]
@[simp] theorem collectorArrive_fabrics (s : State) (i : Nat) (m : FaultMsg) : (collectorArrive s i m).fabrics = s.fabrics := by
  rw [collectorArrive_frame]
@[simp] theorem collectorArrive_words (s : State) (i : Nat) (m : FaultMsg) : (collectorArrive s i m).words = s.words := by
  rw [collectorArrive_frame]
@[simp] theorem collectorArrive_pw (s : State) (i : Nat) (m : FaultMsg) : (collectorArrive s i m).pw = s.pw := by
  rw [collectorArrive_frame]
@[simp] theorem collectorArrive_pp (s : State) (i : Nat) (m : FaultMsg) : (collectorArrive s i m).pp = s.pp := by
  rw [collectorArrive_frame]
@[simp] theorem collectorArrive_fq (s : State) (i : Nat) (m : FaultMsg) : (collectorArrive s i m).fq = s.fq := by
  rw [collectorArrive_frame]
@[simp] theorem collectorArrive_bb (s : State) (i : Nat) (m : FaultMsg) : (collectorArrive s i m).bb = s.bb := by
  rw [collectorArrive_frame]
@[simp] theorem collectorArrive_hi (s : State) (i : Nat) (m : FaultMsg) : (collectorArrive s i m).hi = s.hi := by
  rw [collectorArrive_frame]
@[simp] theorem collectorArrive_mp (s : State) (i : Nat) (m : FaultMsg) : (collectorArrive s i m).mp = s.mp := by
  rw [collectorArrive_frame]
@[simp] theorem collectorArrive_trc (s : State) (i : Nat) (m : FaultMsg) : (collectorArrive s i m).trc = s.trc := by
  rw [collectorArrive_frame]
@[simp] theorem collectorArrive_atst (s : State) (i : Nat) (m : FaultMsg) : (collectorArrive s i m).atst = s.atst := by
  rw [collectorArrive_frame]
@[simp] theorem collectorArrive_chans (s : State) (i : Nat) (m : FaultMsg) : (collectorArrive s i m).chans = s.chans := by
  rw [collectorArrive_frame]
@[simp] theorem collectorArrive_flasks (s : State) (i : Nat) (m : FaultMsg) : (collectorArrive s i m).flasks = s.flasks := by
  rw [collectorArrive_frame]
@[simp] theorem collectorArrive_regs (s : State) (i : Nat) (m : FaultMsg) : (collectorArrive s i m).regs = s.regs := by
  rw [collectorArrive_frame]
@[simp] theorem collectorArrive_lad (s : State) (i : Nat) (m : FaultMsg) : (collectorArrive s i m).lad = s.lad := by
  rw [collectorArrive_frame]
@[simp] theorem collectorArrive_tls (s : State) (i : Nat) (m : FaultMsg) : (collectorArrive s i m).tls = s.tls := by
  rw [collectorArrive_frame]
@[simp] theorem collectorArrive_tlHost (s : State) (i : Nat) (m : FaultMsg) : (collectorArrive s i m).tlHost = s.tlHost := by
  rw [collectorArrive_frame]
@[simp] theorem collectorArrive_ests (s : State) (i : Nat) (m : FaultMsg) : (collectorArrive s i m).ests = s.ests := by
  rw [collectorArrive_frame]
@[simp] theorem collectorArrive_recs (s : State) (i : Nat) (m : FaultMsg) : (collectorArrive s i m).recs = s.recs := by
  rw [collectorArrive_frame]
@[simp] theorem collectorArrive_sweeps (s : State) (i : Nat) (m : FaultMsg) : (collectorArrive s i m).sweeps = s.sweeps := by
  rw [collectorArrive_frame]
@[simp] theorem collectorArrive_fuses (s : State) (i : Nat) (m : FaultMsg) : (collectorArrive s i m).fuses = s.fuses := by
  rw [collectorArrive_frame]
@[simp] theorem collectorArrive_wd (s : State) (i : Nat) (m : FaultMsg) : (collectorArrive s i m).wd = s.wd := by
  rw [collectorArrive_frame]
@[simp] theorem collectorArrive_sv (s : State) (i : Nat) (m : FaultMsg) : (collectorArrive s i m).sv = s.sv := by
  rw [collectorArrive_frame]
@[simp] theorem collectorArrive_fw (s : State) (i : Nat) (m : FaultMsg) : (collectorArrive s i m).fw = s.fw := by
  rw [collectorArrive_frame]
@[simp] theorem collectorArrive_site (s : State) (i : Nat) (m : FaultMsg) : (collectorArrive s i m).site = s.site := by
  rw [collectorArrive_frame]
@[simp] theorem collectorArrive_tel (s : State) (i : Nat) (m : FaultMsg) : (collectorArrive s i m).tel = s.tel := by
  rw [collectorArrive_frame]
@[simp] theorem collectorArrive_calWaits (s : State) (i : Nat) (m : FaultMsg) : (collectorArrive s i m).calWaits = s.calWaits := by
  rw [collectorArrive_frame]
@[simp] theorem collectorArrive_legs (s : State) (i : Nat) (m : FaultMsg) : (collectorArrive s i m).legs = s.legs := by
  rw [collectorArrive_frame]
@[simp] theorem collectorArrive_legCal (s : State) (i : Nat) (m : FaultMsg) : (collectorArrive s i m).legCal = s.legCal := by
  rw [collectorArrive_frame]
@[simp] theorem collectorArrive_calConvs (s : State) (i : Nat) (m : FaultMsg) : (collectorArrive s i m).calConvs = s.calConvs := by
  rw [collectorArrive_frame]
@[simp] theorem collectorArrive_free (s : State) (i : Nat) (m : FaultMsg) : (collectorArrive s i m).free = s.free := by
  rw [collectorArrive_frame]
@[simp] theorem collectorArrive_out (s : State) (i : Nat) (m : FaultMsg) : (collectorArrive s i m).out = s.out := by
  rw [collectorArrive_frame]
@[simp] theorem collectorArrive_pending (s : State) (i : Nat) (m : FaultMsg) : (collectorArrive s i m).pending = s.pending := by
  rw [collectorArrive_frame]
@[simp] theorem on_collectorArrive (s : State) (i : Nat) (m : FaultMsg) (d : Nat) : on (collectorArrive s i m) d = on s d := by
  unfold on
  rw [collectorArrive_frame]

theorem sendFault_frame (s : State) (m : FaultMsg) :
    sendFault s m = { s with fq := (sendFault s m).fq, flasks := (sendFault s m).flasks, fc := (sendFault s m).fc } := by
  unfold sendFault
  split
  · rw [flaskPortArrive_frame]
  · split
    · rw [aggregatorArrive_frame]
    · rw [collectorArrive_frame]

@[simp] theorem sendFault_part (s : State) (m : FaultMsg) : (sendFault s m).part = s.part := by
  rw [sendFault_frame]
@[simp] theorem sendFault_now (s : State) (m : FaultMsg) : (sendFault s m).now = s.now := by
  rw [sendFault_frame]
@[simp] theorem sendFault_snap (s : State) (m : FaultMsg) : (sendFault s m).snap = s.snap := by
  rw [sendFault_frame]
@[simp] theorem sendFault_tickAt (s : State) (m : FaultMsg) : (sendFault s m).tickAt = s.tickAt := by
  rw [sendFault_frame]
@[simp] theorem sendFault_fabrics (s : State) (m : FaultMsg) : (sendFault s m).fabrics = s.fabrics := by
  rw [sendFault_frame]
@[simp] theorem sendFault_words (s : State) (m : FaultMsg) : (sendFault s m).words = s.words := by
  rw [sendFault_frame]
@[simp] theorem sendFault_pw (s : State) (m : FaultMsg) : (sendFault s m).pw = s.pw := by
  rw [sendFault_frame]
@[simp] theorem sendFault_pp (s : State) (m : FaultMsg) : (sendFault s m).pp = s.pp := by
  rw [sendFault_frame]
@[simp] theorem sendFault_bb (s : State) (m : FaultMsg) : (sendFault s m).bb = s.bb := by
  rw [sendFault_frame]
@[simp] theorem sendFault_hi (s : State) (m : FaultMsg) : (sendFault s m).hi = s.hi := by
  rw [sendFault_frame]
@[simp] theorem sendFault_mp (s : State) (m : FaultMsg) : (sendFault s m).mp = s.mp := by
  rw [sendFault_frame]
@[simp] theorem sendFault_trc (s : State) (m : FaultMsg) : (sendFault s m).trc = s.trc := by
  rw [sendFault_frame]
@[simp] theorem sendFault_atst (s : State) (m : FaultMsg) : (sendFault s m).atst = s.atst := by
  rw [sendFault_frame]
@[simp] theorem sendFault_chans (s : State) (m : FaultMsg) : (sendFault s m).chans = s.chans := by
  rw [sendFault_frame]
@[simp] theorem sendFault_regs (s : State) (m : FaultMsg) : (sendFault s m).regs = s.regs := by
  rw [sendFault_frame]
@[simp] theorem sendFault_lad (s : State) (m : FaultMsg) : (sendFault s m).lad = s.lad := by
  rw [sendFault_frame]
@[simp] theorem sendFault_tls (s : State) (m : FaultMsg) : (sendFault s m).tls = s.tls := by
  rw [sendFault_frame]
@[simp] theorem sendFault_tlHost (s : State) (m : FaultMsg) : (sendFault s m).tlHost = s.tlHost := by
  rw [sendFault_frame]
@[simp] theorem sendFault_ests (s : State) (m : FaultMsg) : (sendFault s m).ests = s.ests := by
  rw [sendFault_frame]
@[simp] theorem sendFault_recs (s : State) (m : FaultMsg) : (sendFault s m).recs = s.recs := by
  rw [sendFault_frame]
@[simp] theorem sendFault_sweeps (s : State) (m : FaultMsg) : (sendFault s m).sweeps = s.sweeps := by
  rw [sendFault_frame]
@[simp] theorem sendFault_fuses (s : State) (m : FaultMsg) : (sendFault s m).fuses = s.fuses := by
  rw [sendFault_frame]
@[simp] theorem sendFault_wd (s : State) (m : FaultMsg) : (sendFault s m).wd = s.wd := by
  rw [sendFault_frame]
@[simp] theorem sendFault_sv (s : State) (m : FaultMsg) : (sendFault s m).sv = s.sv := by
  rw [sendFault_frame]
@[simp] theorem sendFault_fw (s : State) (m : FaultMsg) : (sendFault s m).fw = s.fw := by
  rw [sendFault_frame]
@[simp] theorem sendFault_site (s : State) (m : FaultMsg) : (sendFault s m).site = s.site := by
  rw [sendFault_frame]
@[simp] theorem sendFault_tel (s : State) (m : FaultMsg) : (sendFault s m).tel = s.tel := by
  rw [sendFault_frame]
@[simp] theorem sendFault_calWaits (s : State) (m : FaultMsg) : (sendFault s m).calWaits = s.calWaits := by
  rw [sendFault_frame]
@[simp] theorem sendFault_legs (s : State) (m : FaultMsg) : (sendFault s m).legs = s.legs := by
  rw [sendFault_frame]
@[simp] theorem sendFault_legCal (s : State) (m : FaultMsg) : (sendFault s m).legCal = s.legCal := by
  rw [sendFault_frame]
@[simp] theorem sendFault_calConvs (s : State) (m : FaultMsg) : (sendFault s m).calConvs = s.calConvs := by
  rw [sendFault_frame]
@[simp] theorem sendFault_free (s : State) (m : FaultMsg) : (sendFault s m).free = s.free := by
  rw [sendFault_frame]
@[simp] theorem sendFault_out (s : State) (m : FaultMsg) : (sendFault s m).out = s.out := by
  rw [sendFault_frame]
@[simp] theorem sendFault_pending (s : State) (m : FaultMsg) : (sendFault s m).pending = s.pending := by
  rw [sendFault_frame]
@[simp] theorem on_sendFault (s : State) (m : FaultMsg) (d : Nat) : on (sendFault s m) d = on s d := by
  unfold on
  rw [sendFault_frame]

theorem fault_frame (s : State) (kind sev src : Nat) (ctx : Word) :
    fault s kind sev src ctx = { s with fq := (fault s kind sev src ctx).fq, flasks := (fault s kind sev src ctx).flasks, fc := (fault s kind sev src ctx).fc } := by
  exact sendFault_frame _ _

@[simp] theorem fault_part (s : State) (kind sev src : Nat) (ctx : Word) : (fault s kind sev src ctx).part = s.part := by
  rw [fault_frame]
@[simp] theorem fault_now (s : State) (kind sev src : Nat) (ctx : Word) : (fault s kind sev src ctx).now = s.now := by
  rw [fault_frame]
@[simp] theorem fault_snap (s : State) (kind sev src : Nat) (ctx : Word) : (fault s kind sev src ctx).snap = s.snap := by
  rw [fault_frame]
@[simp] theorem fault_tickAt (s : State) (kind sev src : Nat) (ctx : Word) : (fault s kind sev src ctx).tickAt = s.tickAt := by
  rw [fault_frame]
@[simp] theorem fault_fabrics (s : State) (kind sev src : Nat) (ctx : Word) : (fault s kind sev src ctx).fabrics = s.fabrics := by
  rw [fault_frame]
@[simp] theorem fault_words (s : State) (kind sev src : Nat) (ctx : Word) : (fault s kind sev src ctx).words = s.words := by
  rw [fault_frame]
@[simp] theorem fault_pw (s : State) (kind sev src : Nat) (ctx : Word) : (fault s kind sev src ctx).pw = s.pw := by
  rw [fault_frame]
@[simp] theorem fault_pp (s : State) (kind sev src : Nat) (ctx : Word) : (fault s kind sev src ctx).pp = s.pp := by
  rw [fault_frame]
@[simp] theorem fault_bb (s : State) (kind sev src : Nat) (ctx : Word) : (fault s kind sev src ctx).bb = s.bb := by
  rw [fault_frame]
@[simp] theorem fault_hi (s : State) (kind sev src : Nat) (ctx : Word) : (fault s kind sev src ctx).hi = s.hi := by
  rw [fault_frame]
@[simp] theorem fault_mp (s : State) (kind sev src : Nat) (ctx : Word) : (fault s kind sev src ctx).mp = s.mp := by
  rw [fault_frame]
@[simp] theorem fault_trc (s : State) (kind sev src : Nat) (ctx : Word) : (fault s kind sev src ctx).trc = s.trc := by
  rw [fault_frame]
@[simp] theorem fault_atst (s : State) (kind sev src : Nat) (ctx : Word) : (fault s kind sev src ctx).atst = s.atst := by
  rw [fault_frame]
@[simp] theorem fault_chans (s : State) (kind sev src : Nat) (ctx : Word) : (fault s kind sev src ctx).chans = s.chans := by
  rw [fault_frame]
@[simp] theorem fault_regs (s : State) (kind sev src : Nat) (ctx : Word) : (fault s kind sev src ctx).regs = s.regs := by
  rw [fault_frame]
@[simp] theorem fault_lad (s : State) (kind sev src : Nat) (ctx : Word) : (fault s kind sev src ctx).lad = s.lad := by
  rw [fault_frame]
@[simp] theorem fault_tls (s : State) (kind sev src : Nat) (ctx : Word) : (fault s kind sev src ctx).tls = s.tls := by
  rw [fault_frame]
@[simp] theorem fault_tlHost (s : State) (kind sev src : Nat) (ctx : Word) : (fault s kind sev src ctx).tlHost = s.tlHost := by
  rw [fault_frame]
@[simp] theorem fault_ests (s : State) (kind sev src : Nat) (ctx : Word) : (fault s kind sev src ctx).ests = s.ests := by
  rw [fault_frame]
@[simp] theorem fault_recs (s : State) (kind sev src : Nat) (ctx : Word) : (fault s kind sev src ctx).recs = s.recs := by
  rw [fault_frame]
@[simp] theorem fault_sweeps (s : State) (kind sev src : Nat) (ctx : Word) : (fault s kind sev src ctx).sweeps = s.sweeps := by
  rw [fault_frame]
@[simp] theorem fault_fuses (s : State) (kind sev src : Nat) (ctx : Word) : (fault s kind sev src ctx).fuses = s.fuses := by
  rw [fault_frame]
@[simp] theorem fault_wd (s : State) (kind sev src : Nat) (ctx : Word) : (fault s kind sev src ctx).wd = s.wd := by
  rw [fault_frame]
@[simp] theorem fault_sv (s : State) (kind sev src : Nat) (ctx : Word) : (fault s kind sev src ctx).sv = s.sv := by
  rw [fault_frame]
@[simp] theorem fault_fw (s : State) (kind sev src : Nat) (ctx : Word) : (fault s kind sev src ctx).fw = s.fw := by
  rw [fault_frame]
@[simp] theorem fault_site (s : State) (kind sev src : Nat) (ctx : Word) : (fault s kind sev src ctx).site = s.site := by
  rw [fault_frame]
@[simp] theorem fault_tel (s : State) (kind sev src : Nat) (ctx : Word) : (fault s kind sev src ctx).tel = s.tel := by
  rw [fault_frame]
@[simp] theorem fault_calWaits (s : State) (kind sev src : Nat) (ctx : Word) : (fault s kind sev src ctx).calWaits = s.calWaits := by
  rw [fault_frame]
@[simp] theorem fault_legs (s : State) (kind sev src : Nat) (ctx : Word) : (fault s kind sev src ctx).legs = s.legs := by
  rw [fault_frame]
@[simp] theorem fault_legCal (s : State) (kind sev src : Nat) (ctx : Word) : (fault s kind sev src ctx).legCal = s.legCal := by
  rw [fault_frame]
@[simp] theorem fault_calConvs (s : State) (kind sev src : Nat) (ctx : Word) : (fault s kind sev src ctx).calConvs = s.calConvs := by
  rw [fault_frame]
@[simp] theorem fault_free (s : State) (kind sev src : Nat) (ctx : Word) : (fault s kind sev src ctx).free = s.free := by
  rw [fault_frame]
@[simp] theorem fault_out (s : State) (kind sev src : Nat) (ctx : Word) : (fault s kind sev src ctx).out = s.out := by
  rw [fault_frame]
@[simp] theorem fault_pending (s : State) (kind sev src : Nat) (ctx : Word) : (fault s kind sev src ctx).pending = s.pending := by
  rw [fault_frame]
@[simp] theorem on_fault (s : State) (kind sev src : Nat) (ctx : Word) (d : Nat) : on (fault s kind sev src ctx) d = on s d := by
  unfold on
  rw [fault_frame]

/-! ## What they do to words -/

theorem rd_msix (s : State) {v a : Nat} (hv : v < 64) (h1 : a ≠ bar4 + 0xC000) (h2 : a ≠ bar4 + 0xC004) :
    rd (msix s v) a = rd s a := by
  unfold msix
  split
  · rfl
  · split
    · refine rd_setF_ne s _ _ _ ?_
      have : v / 32 = 0 ∨ v / 32 = 1 := by omega
      rcases this with e | e <;> rw [e]
      · exact h1
      · exact h2
    · rfl

theorem getF_lt (s : State) (f : Fld) : getF s f < 2 ^ f.wid := by
  unfold getF bits
  exact BitVec.isLt _

/-- Raising host-interface events changes only the words that report. -/
theorem rd_raiseHi (s : State) (m : Nat) {a : Nat} (h : ¬ ReportWord a) : rd (raiseHi s m) a = rd s a := by
  obtain ⟨h1, h2, h3, h4⟩ := not_report h
  unfold raiseHi
  split
  · rfl
  · dsimp only
    split
    · exact rd_wr_ne s _ h1
    · rw [rd_msix _ (getF_lt _ _) h3 h4]
      exact rd_wr_ne s _ h1

theorem rd_countLost (s : State) (ring : Nat) (tel : Bool) {a : Nat} (h : ¬ ReportWord a) :
    rd (countLost s ring tel) a = rd s a := by
  unfold countLost
  dsimp only
  rw [rd_raiseHi _ _ h]
  refine (rd_setF_ne _ _ _ _ ?_).trans rfl
  obtain ⟨-, h2, -, -⟩ := not_report h
  split <;> exact h2

theorem rd_displace (ring : Nat) (r : Record) {a : Nat} (h : ¬ ReportWord a) : ∀ (n : Nat) (s : State), rd (displace s ring r n) a = rd s a
  | 0, _ => rfl
  | n + 1, s => by
    simp only [displace]
    split
    · rfl
    · split
      · rw [rd_displace ring r h n]
        exact (rd_countLost _ _ _ h).trans rfl
      · rfl

theorem rd_stage (s : State) (ring : Nat) (r : Record) {a : Nat} (h : ¬ ReportWord a) : rd (stage s ring r) a = rd s a := by
  unfold stage stageRecord
  split
  · rfl
  · dsimp only
    have e : rd (if isTel r = true then s else displace s ring r (evRing s ring).staging.length) a = rd s a := by
      split
      · rfl
      · exact rd_displace ring r h _ s
    rw [← e]
    generalize (if isTel r = true then s else displace s ring r (evRing s ring).staging.length) = u
    split
    · dsimp only
      split
      · exact (rd_setF_ne _ _ _ _ (not_report_full h ring)).trans rfl
      · rfl
    · split
      · exact rd_countLost u _ _ h
      · exact rd_countLost u _ _ h

theorem rd_blockRecord (s : State) (ev m : Nat) {a : Nat} (h : ¬ ReportWord a) : rd (blockRecord s ev m) a = rd s a := by
  unfold blockRecord
  dsimp only
  split
  · rfl
  · exact rd_stage s _ _ h

/-- Raising events of a register sets their bits in it. -/
theorem rd_raise_self (s : State) (ev m : Nat) (h : ¬ ReportWord ev) : rd (raise s ev m) ev = rd s ev ||| BitVec.ofNat 32 m := by
  unfold raise
  dsimp only
  split
  · exact rd_wr_self s _ _
  · rw [rd_blockRecord _ _ _ h]
    exact rd_wr_self s _ _

/-- Raising events of a register changes no other word but those that report. -/
theorem rd_raise_ne (s : State) (ev m : Nat) {a : Nat} (h : ¬ ReportWord a) (he : a ≠ ev) : rd (raise s ev m) a = rd s a := by
  unfold raise
  dsimp only
  split
  · exact rd_wr_ne s _ he
  · rw [rd_blockRecord _ _ _ h]
    exact rd_wr_ne s _ he

theorem rd_traceLose (s : State) {a : Nat} (h : ¬ ReportWord a) (h1 : a ≠ TRC_LOST) (h2 : a ≠ TRC_EVENT) :
    rd (traceLose s) a = rd s a := by
  unfold traceLose
  rw [rd_raise_ne _ _ _ h h2]
  exact (rd_setF_ne _ _ _ _ h1).trans rfl

/-- Offering a trace record changes only the words that report and the count of lost records. -/
theorem rd_offer (s : State) (kind subj : Nat) (data : Word) {a : Nat} (h : ¬ ReportWord a) (h1 : a ≠ TRC_LOST)
    (h2 : a ≠ TRC_EVENT) : rd (offer s kind subj data) a = rd s a := by
  unfold offer
  dsimp only
  split
  · rfl
  · split
    · split
      · rfl
      · split
        · rfl
        · split
          · exact rd_traceLose s h h1 h2
          · split
            · exact (rd_traceLose _ h h1 h2).trans rfl
            · rfl
    · split
      · split <;> rfl
      · split <;> rfl

theorem rd_raisePP (s : State) (m : Nat) {a : Nat} (h : ¬ ReportWord a) (h1 : a ≠ TRC_LOST) (h2 : a ≠ TRC_EVENT)
    (h3 : a ≠ PP_EVENT) : rd (raisePP s m) a = rd s a := by
  unfold raisePP
  dsimp only
  rw [rd_offer _ _ _ _ h h1 h2, rd_raise_ne _ _ _ h h3]

@[simp] theorem rd_modTag (s : State) (t : Nat) (f : Tag → Tag) (a : Nat) : rd (modTag s t f) a = rd s a := by
  unfold rd
  rw [modTag_frame]
@[simp] theorem getF_modTag (s : State) (t : Nat) (f : Tag → Tag) (g : Fld) : getF (modTag s t f) g = getF s g := by
  unfold getF
  rw [rd_modTag]

@[simp] theorem rd_endTag (s : State) (t st : Nat) (r0 r1 : Word) (a : Nat) : rd (endTag s t st r0 r1) a = rd s a := by
  unfold rd
  rw [endTag_frame]
@[simp] theorem getF_endTag (s : State) (t st : Nat) (r0 r1 : Word) (g : Fld) : getF (endTag s t st r0 r1) g = getF s g := by
  unfold getF
  rw [rd_endTag]

@[simp] theorem rd_endSt (s : State) (t st : Nat) (a : Nat) : rd (endSt s t st) a = rd s a := by
  unfold rd
  rw [endSt_frame]
@[simp] theorem getF_endSt (s : State) (t st : Nat) (g : Fld) : getF (endSt s t st) g = getF s g := by
  unfold getF
  rw [rd_endSt]

@[simp] theorem rd_runTag (s : State) (t : Nat) (a : Nat) : rd (runTag s t) a = rd s a := by
  unfold rd
  rw [runTag_frame]
@[simp] theorem getF_runTag (s : State) (t : Nat) (g : Fld) : getF (runTag s t) g = getF s g := by
  unfold getF
  rw [rd_runTag]

@[simp] theorem rd_pendTag (s : State) (t : Nat) (a : Nat) : rd (pendTag s t) a = rd s a := by
  unfold rd
  rw [pendTag_frame]
@[simp] theorem getF_pendTag (s : State) (t : Nat) (g : Fld) : getF (pendTag s t) g = getF s g := by
  unfold getF
  rw [rd_pendTag]

@[simp] theorem rd_giveResult (s : State) (t : Nat) (r0 r1 : Word) (l : List Word) (a : Nat) : rd (giveResult s t r0 r1 l) a = rd s a := by
  unfold rd
  rw [giveResult_frame]
@[simp] theorem getF_giveResult (s : State) (t : Nat) (r0 r1 : Word) (l : List Word) (g : Fld) : getF (giveResult s t r0 r1 l) g = getF s g := by
  unfold getF
  rw [rd_giveResult]

@[simp] theorem rd_flaskPortArrive (s : State) (f : Nat) (m : FaultMsg) (a : Nat) : rd (flaskPortArrive s f m) a = rd s a := by
  unfold rd
  rw [flaskPortArrive_frame]
@[simp] theorem getF_flaskPortArrive (s : State) (f : Nat) (m : FaultMsg) (g : Fld) : getF (flaskPortArrive s f m) g = getF s g := by
  unfold getF
  rw [rd_flaskPortArrive]

@[simp] theorem rd_aggregatorArrive (s : State) (k : Nat) (m : FaultMsg) (a : Nat) : rd (aggregatorArrive s k m) a = rd s a := by
  unfold rd
  rw [aggregatorArrive_frame]
@[simp] theorem getF_aggregatorArrive (s : State) (k : Nat) (m : FaultMsg) (g : Fld) : getF (aggregatorArrive s k m) g = getF s g := by
  unfold getF
  rw [rd_aggregatorArrive]

@[simp] theorem rd_collectorArrive (s : State) (i : Nat) (m : FaultMsg) (a : Nat) : rd (collectorArrive s i m) a = rd s a := by
  unfold rd
  rw [collectorArrive_frame]
@[simp] theorem getF_collectorArrive (s : State) (i : Nat) (m : FaultMsg) (g : Fld) : getF (collectorArrive s i m) g = getF s g := by
  unfold getF
  rw [rd_collectorArrive]

@[simp] theorem rd_sendFault (s : State) (m : FaultMsg) (a : Nat) : rd (sendFault s m) a = rd s a := by
  unfold rd
  rw [sendFault_frame]
@[simp] theorem getF_sendFault (s : State) (m : FaultMsg) (g : Fld) : getF (sendFault s m) g = getF s g := by
  unfold getF
  rw [rd_sendFault]

@[simp] theorem rd_fault (s : State) (kind sev src : Nat) (ctx : Word) (a : Nat) : rd (fault s kind sev src ctx) a = rd s a := by
  unfold rd
  rw [fault_frame]
@[simp] theorem getF_fault (s : State) (kind sev src : Nat) (ctx : Word) (g : Fld) : getF (fault s kind sev src ctx) g = getF s g := by
  unfold getF
  rw [rd_fault]

/-! ## The end of a command -/

@[simp] theorem getTag_endTag (s : State) (t st : Nat) (r0 r1 : Word) (x : Tag) (h : getTag s t = some x) (hd : x.state ≠ .done) :
    getTag (endTag s t st r0 r1) t =
      some { x with state := .done, status := st, r0, r1, applied := true, ended := s.hi.nextEnd, endAt := stamp s } := by
  unfold endTag modTag
  rw [h]
  unfold getTag setTag
  dsimp only
  rw [tabGet_tabSet_self, if_neg hd]

theorem getTag_endTag_ne (s : State) {t u st : Nat} (r0 r1 : Word) (h : u ≠ t) : getTag (endTag s t st r0 r1) u = getTag s u := by
  unfold endTag modTag
  dsimp only
  split
  · unfold getTag setTag
    dsimp only
    rw [tabGet_tabSet_ne _ _ _ h]
  · rfl

end Sys2Proof.Machine
end

