-- ==== Sys2Proof/Laws/Keep.lean ====
section
/-! SUPPORT. What no meaning touches: the part, the fuses and the queue of waiting commands stay, and the word store
stays canonical. One lemma per operation says so; this file has the relation and the operations of Ops.lean. -/

namespace Sys2Proof.Machine

/-- The part, the fuses and the queue a state is compared with. -/
structure Key where
  part : Part
  fuses : Fuses
  pending : List Instr

/-- The state has the key's part, fuses and queue, and its word store is canonical. -/
def Keep (k : Key) (s : State) : Prop :=
  s.part = k.part ∧ s.fuses = k.fuses ∧ s.pending = k.pending ∧ wordsOk s = true

/-- The outcome is a next state that has the key's part, fuses and queue and a canonical word store. -/
def KeepO (k : Key) (o : Host.Outcome State Fault Refusal) : Prop := ∃ t, o = .next t ∧ Keep k t

theorem next_keeps {k : Key} {t : State} (h : Keep k t) : KeepO k (.next t) := ⟨t, rfl, h⟩

/-- A change of the fields the relation does not speak of. -/
theorem mk_keeps {k : Key} {s : State} {now snap tickAt : Nat} {fabrics : Tab Fabric} {pw : Power} {pp : PowerPath} {fq : Tab FaultQueue}
    {fc : Collector} {bb : BlackBox} {hi : HostIf} {mp : Port} {trc : Trace} {atst : Atest} {chans : Tab Chan}
    {flasks : Tab Flask} {regs : Tab Region} {lad : Ladle} {tls : Tab TlPort} {tlHost : TlHost} {ests : Tab Est}
    {recs : Tab (Option RecCopy)} {sweeps : Sweeps} {wd : Watchdog} {sv : Supervisors} {fw : Firmware} {site : Site}
    {tel : Tab Telemetry} {legs : Tab Conv} {legCal : Tab (List Word)} {calConvs : Tab CalConv} {calWaits : List CalWait} {free : Nat}
    {out : List Out} :
    Keep k { part := s.part, words := s.words, fuses := s.fuses, pending := s.pending, now, snap, tickAt, fabrics, pw, pp, fq, fc, bb, hi,
             mp, trc, atst, chans, flasks, regs, lad, tls, tlHost, ests, recs, sweeps, wd, sv, fw, site, tel, legs,
             legCal, calConvs, calWaits, free, out } ↔ Keep k s := Iff.rfl

theorem wr_keeps {k : Key} {s : State} (h : Keep k s) (a : Nat) (v : Word) : Keep k (wr s a v) :=
  ⟨h.1, h.2.1, h.2.2.1, tabWf_tabSet _ _ _ _ h.2.2.2⟩

theorem resetWords_keeps {k : Key} {s : State} (h : Keep k s) (p : Nat → Bool) : Keep k (resetWords s p) :=
  ⟨h.1, h.2.1, h.2.2.1, tabWf_filter _ _ _ h.2.2.2⟩

theorem ite_keeps {k : Key} {c : Prop} [Decidable c] {a b : State} (ha : Keep k a) (hb : Keep k b) :
    Keep k (if c then a else b) := by
  split
  · exact ha
  · exact hb

theorem foldl_keeps {k : Key} {α : Type} {f : State → α → State} {l : List α} {s : State}
    (hf : ∀ t x, Keep k t → Keep k (f t x)) (h : Keep k s) : Keep k (l.foldl f s) := by
  induction l generalizing s with
  | nil => exact h
  | cons a l ih => exact ih (hf s a h)

theorem foldl_snd_keeps {k : Key} {α β : Type} {f : α × State → β → α × State}
    (hf : ∀ a t x, Keep k t → Keep k (f (a, t) x).2) (l : List β) (a : α) (s : State) (h : Keep k s) :
    Keep k (l.foldl f (a, s)).2 := by
  induction l generalizing a s with
  | nil => exact h
  | cons x l ih => exact ih _ _ (hf a s x h)

theorem forEach_keeps {k : Key} {α : Type} {l : List α} {f : α → State → State} {s : State}
    (hf : ∀ x t, Keep k t → Keep k (f x t)) (h : Keep k s) : Keep k (forEach l f s) :=
  foldl_keeps (fun t x ht => hf x t ht) h

theorem when_keeps {k : Key} {c : Bool} {f : State → State} {s : State} (hf : ∀ (_ : Unit) t, Keep k t → Keep k (f t))
    (h : Keep k s) : Keep k (when c f s) := by
  unfold when
  split
  · exact hf () s h
  · exact h

end Sys2Proof.Machine
end

