-- ==== Sys2Proof/Laws/KeepOps.lean ====
section
/-! SUPPORT. The operations of Ops.lean keep the part, the fuses, the queue and a canonical word store. -/

namespace Sys2Proof.Machine

set_option linter.all false

theorem setF_keeps {k : Key} {s : State} (h : Keep k s) (a0 : Fld) (a1 : Nat) : Keep k (setF s a0 a1) := by
  unfold setF
  repeat' first | with_reducible assumption | with_reducible apply wr_keeps | intro _ _ _ | split | dsimp -zeta only | simp only [mk_keeps]

theorem setI_keeps {k : Key} {s : State} (h : Keep k s) (a0 : Fld) (a1 : Int) : Keep k (setI s a0 a1) := by
  unfold setI
  repeat' first | with_reducible assumption | with_reducible apply setF_keeps | intro _ _ _ | split | dsimp -zeta only | simp only [mk_keeps]

theorem setFlag_keeps {k : Key} {s : State} (h : Keep k s) (a0 : Fld) (a1 : Bool) : Keep k (setFlag s a0 a1) := by
  unfold setFlag
  repeat' first | with_reducible assumption | with_reducible apply setF_keeps | intro _ _ _ | split | dsimp -zeta only | simp only [mk_keeps]

theorem setBitF_keeps {k : Key} {s : State} (h : Keep k s) (a0 : Fld) (a1 : Nat) (a2 : Bool) : Keep k (setBitF s a0 a1 a2) := by
  unfold setBitF
  repeat' first | with_reducible assumption | with_reducible apply setFlag_keeps | intro _ _ _ | split | dsimp -zeta only | simp only [mk_keeps]

theorem addSat_keeps {k : Key} {s : State} (h : Keep k s) (a0 : Fld) (a1 : Nat) : Keep k (addSat s a0 a1) := by
  unfold addSat
  repeat' first | with_reducible assumption | with_reducible apply setF_keeps | intro _ _ _ | split | dsimp -zeta only | simp only [mk_keeps]

theorem incSat_keeps {k : Key} {s : State} (h : Keep k s) (a0 : Fld) : Keep k (incSat s a0) := by
  unfold incSat
  repeat' first | with_reducible assumption | with_reducible apply addSat_keeps | intro _ _ _ | split | dsimp -zeta only | simp only [mk_keeps]

theorem incWrap_keeps {k : Key} {s : State} (h : Keep k s) (a0 : Fld) : Keep k (incWrap s a0) := by
  unfold incWrap
  repeat' first | with_reducible assumption | with_reducible apply setF_keeps | intro _ _ _ | split | dsimp -zeta only | simp only [mk_keeps]

theorem advance_keeps {k : Key} {s : State} (h : Keep k s) (a0 : Nat) : Keep k (advance s a0) := by
  unfold advance
  repeat' first | with_reducible assumption | intro _ _ _ | split | dsimp -zeta only | simp only [mk_keeps]

theorem setSprue_keeps {k : Key} {s : State} (h : Keep k s) (a0 : Nat) (a1 : Sprue) : Keep k (setSprue s a0 a1) := by
  unfold setSprue
  repeat' first | with_reducible assumption | intro _ _ _ | split | dsimp -zeta only | simp only [mk_keeps]

theorem setTag_keeps {k : Key} {s : State} (h : Keep k s) (a0 : Nat) (a1 : Option Tag) : Keep k (setTag s a0 a1) := by
  unfold setTag
  repeat' first | with_reducible assumption | intro _ _ _ | split | dsimp -zeta only | simp only [mk_keeps]

theorem setSubRing_keeps {k : Key} {s : State} (h : Keep k s) (a0 : Nat) (a1 : SubRing) : Keep k (setSubRing s a0 a1) := by
  unfold setSubRing
  repeat' first | with_reducible assumption | intro _ _ _ | split | dsimp -zeta only | simp only [mk_keeps]

theorem setComRing_keeps {k : Key} {s : State} (h : Keep k s) (a0 : Nat) (a1 : ComRing) : Keep k (setComRing s a0 a1) := by
  unfold setComRing
  repeat' first | with_reducible assumption | intro _ _ _ | split | dsimp -zeta only | simp only [mk_keeps]

theorem setEvRing_keeps {k : Key} {s : State} (h : Keep k s) (a0 : Nat) (a1 : EvRing) : Keep k (setEvRing s a0 a1) := by
  unfold setEvRing
  repeat' first | with_reducible assumption | intro _ _ _ | split | dsimp -zeta only | simp only [mk_keeps]

theorem emit_keeps {k : Key} {s : State} (h : Keep k s) (a0 : Out) : Keep k (emit s a0) := by
  unfold emit
  repeat' first | with_reducible assumption | intro _ _ _ | split | dsimp -zeta only | simp only [mk_keeps]

theorem draw_keeps {k : Key} {s t : State} {n : Nat} (h : Keep k s) (e : draw s = (n, t)) : Keep k t := by
  cases e
  exact h
theorem draw_keeps_snd {k : Key} {s : State} (h : Keep k s) : Keep k (draw s).2 := h

theorem setChan_keeps {k : Key} {s : State} (h : Keep k s) (a0 : Nat) (a1 : Chan) : Keep k (setChan s a0 a1) := by
  unfold setChan
  repeat' first | with_reducible assumption | intro _ _ _ | split | dsimp -zeta only | simp only [mk_keeps]

theorem modChan_keeps {k : Key} {s : State} (h : Keep k s) (a0 : Nat) (a1 : Chan → Chan) : Keep k (modChan s a0 a1) := by
  unfold modChan
  repeat' first | with_reducible assumption | with_reducible apply setChan_keeps | intro _ _ _ | split | dsimp -zeta only | simp only [mk_keeps]

theorem setFlask_keeps {k : Key} {s : State} (h : Keep k s) (a0 : Nat) (a1 : Flask) : Keep k (setFlask s a0 a1) := by
  unfold setFlask
  repeat' first | with_reducible assumption | intro _ _ _ | split | dsimp -zeta only | simp only [mk_keeps]

theorem modFlask_keeps {k : Key} {s : State} (h : Keep k s) (a0 : Nat) (a1 : Flask → Flask) : Keep k (modFlask s a0 a1) := by
  unfold modFlask
  repeat' first | with_reducible assumption | with_reducible apply setFlask_keeps | intro _ _ _ | split | dsimp -zeta only | simp only [mk_keeps]

theorem setRegion_keeps {k : Key} {s : State} (h : Keep k s) (a0 : Nat) (a1 : Region) : Keep k (setRegion s a0 a1) := by
  unfold setRegion
  repeat' first | with_reducible assumption | intro _ _ _ | split | dsimp -zeta only | simp only [mk_keeps]

theorem modRegion_keeps {k : Key} {s : State} (h : Keep k s) (a0 : Nat) (a1 : Region → Region) : Keep k (modRegion s a0 a1) := by
  unfold modRegion
  repeat' first | with_reducible assumption | with_reducible apply setRegion_keeps | intro _ _ _ | split | dsimp -zeta only | simp only [mk_keeps]

theorem setEst_keeps {k : Key} {s : State} (h : Keep k s) (a0 : Nat) (a1 : Est) : Keep k (setEst s a0 a1) := by
  unfold setEst
  repeat' first | with_reducible assumption | intro _ _ _ | split | dsimp -zeta only | simp only [mk_keeps]

theorem modEst_keeps {k : Key} {s : State} (h : Keep k s) (a0 : Nat) (a1 : Est → Est) : Keep k (modEst s a0 a1) := by
  unfold modEst
  repeat' first | with_reducible assumption | with_reducible apply setEst_keeps | intro _ _ _ | split | dsimp -zeta only | simp only [mk_keeps]

theorem setTl_keeps {k : Key} {s : State} (h : Keep k s) (a0 : Nat) (a1 : TlPort) : Keep k (setTl s a0 a1) := by
  unfold setTl
  repeat' first | with_reducible assumption | intro _ _ _ | split | dsimp -zeta only | simp only [mk_keeps]

theorem modTl_keeps {k : Key} {s : State} (h : Keep k s) (a0 : Nat) (a1 : TlPort → TlPort) : Keep k (modTl s a0 a1) := by
  unfold modTl
  repeat' first | with_reducible assumption | with_reducible apply setTl_keeps | intro _ _ _ | split | dsimp -zeta only | simp only [mk_keeps]

theorem setFaultQ_keeps {k : Key} {s : State} (h : Keep k s) (a0 : Nat) (a1 : FaultQueue) : Keep k (setFaultQ s a0 a1) := by
  unfold setFaultQ
  repeat' first | with_reducible assumption | intro _ _ _ | split | dsimp -zeta only | simp only [mk_keeps]

theorem flaskPortArrive_keeps {k : Key} {s : State} (h : Keep k s) (a0 : Nat) (a1 : FaultMsg) : Keep k (flaskPortArrive s a0 a1) := by
  unfold flaskPortArrive
  repeat' first | (intro v; first | (refine (fun (_ : Keep k v) => ?_) ?_; rotate_left; simp only [v]; rotate_left; clear_value v) | (have hv : v = v := rfl; simp only [v] at hv; clear hv)) | with_reducible assumption | with_reducible apply modFlask_keeps | with_reducible apply setFaultQ_keeps | lift_lets -underBinder | intro _ _ _ | split | dsimp -zeta only | simp only [mk_keeps]

theorem aggregatorArrive_keeps {k : Key} {s : State} (h : Keep k s) (a0 : Nat) (a1 : FaultMsg) : Keep k (aggregatorArrive s a0 a1) := by
  unfold aggregatorArrive
  repeat' first | (intro v; first | (refine (fun (_ : Keep k v) => ?_) ?_; rotate_left; simp only [v]; rotate_left; clear_value v) | (have hv : v = v := rfl; simp only [v] at hv; clear hv)) | with_reducible assumption | with_reducible apply setFaultQ_keeps | lift_lets -underBinder | intro _ _ _ | split | dsimp -zeta only | simp only [mk_keeps]

theorem collectorArrive_keeps {k : Key} {s : State} (h : Keep k s) (a0 : Nat) (a1 : FaultMsg) : Keep k (collectorArrive s a0 a1) := by
  unfold collectorArrive
  repeat' first | with_reducible assumption | intro _ _ _ | split | dsimp -zeta only | simp only [mk_keeps]

theorem sendFault_keeps {k : Key} {s : State} (h : Keep k s) (a0 : FaultMsg) : Keep k (sendFault s a0) := by
  unfold sendFault
  repeat' first | with_reducible assumption | with_reducible apply flaskPortArrive_keeps | with_reducible apply aggregatorArrive_keeps | with_reducible apply collectorArrive_keeps | intro _ _ _ | split | dsimp -zeta only | simp only [mk_keeps]

theorem fault_keeps {k : Key} {s : State} (h : Keep k s) (a0 : Nat) (a1 : Nat) (a2 : Nat) (a3 : Word) : Keep k (fault s a0 a1 a2 a3) := by
  unfold fault
  repeat' first | with_reducible assumption | with_reducible apply sendFault_keeps | intro _ _ _ | split | dsimp -zeta only | simp only [mk_keeps]

theorem eccReport_keeps {k : Key} {s : State} (h : Keep k s) (a0 : EccErr) : Keep k (eccReport s a0) := by
  unfold eccReport
  repeat' first | with_reducible assumption | with_reducible apply fault_keeps | intro _ _ _ | split | dsimp -zeta only | simp only [mk_keeps]

theorem eccReports_keeps {k : Key} {s : State} (h : Keep k s) (a0 : List EccErr) : Keep k (eccReports s a0) := by
  unfold eccReports
  repeat' first | with_reducible assumption | with_reducible apply forEach_keeps | with_reducible apply eccReport_keeps | with_reducible apply forEach_keeps | intro _ _ _ | split | dsimp -zeta only | simp only [mk_keeps]

end Sys2Proof.Machine
end

