-- ==== Sys2Proof/Laws/KeepFabric.lean ====
section
/-! SUPPORT. The operations of Fabric.lean keep the part, the fuses, the queue and a canonical word store. -/

namespace Sys2Proof.Machine

set_option linter.all false

theorem setFabric_keeps {k : Key} {s : State} (h : Keep k s) (a0 : Nat) (a1 : Fabric) : Keep k (setFabric s a0 a1) := by
  unfold setFabric
  repeat' first | with_reducible assumption | intro _ _ _ | split | dsimp -zeta only | simp only [mk_keeps]

theorem fabricsRun_keeps {k : Key} {s : State} (h : Keep k s)  : Keep k (fabricsRun s) := by
  unfold fabricsRun
  repeat' first | with_reducible assumption | with_reducible apply forEach_keeps | with_reducible apply setFabric_keeps | with_reducible apply forEach_keeps | intro _ _ _ | split | dsimp -zeta only | simp only [mk_keeps]

theorem xfer_keeps {k : Key} {s : State} (h : Keep k s) (a0 : Nat) (a1 : Nat) (a2 : Nat) (a3 : Nat) : Keep k (xfer s a0 a1 a2 a3) := by
  unfold xfer
  repeat' first | (intro v; first | (refine (fun (_ : Keep k v) => ?_) ?_; rotate_left; simp only [v]; rotate_left; clear_value v) | (have hv : v = v := rfl; simp only [v] at hv; clear hv)) | with_reducible assumption | with_reducible apply setFabric_keeps | lift_lets -underBinder | intro _ _ _ | split | dsimp -zeta only | simp only [mk_keeps]

theorem dropXfers_keeps {k : Key} {s : State} (h : Keep k s) (a0 : Nat) (a1 : Nat) : Keep k (dropXfers s a0 a1) := by
  unfold dropXfers
  repeat' first | (intro v; first | (refine (fun (_ : Keep k v) => ?_) ?_; rotate_left; simp only [v]; rotate_left; clear_value v) | (have hv : v = v := rfl; simp only [v] at hv; clear hv)) | with_reducible assumption | with_reducible apply setFabric_keeps | lift_lets -underBinder | intro _ _ _ | split | dsimp -zeta only | simp only [mk_keeps]

theorem fabricOff_keeps {k : Key} {s : State} (h : Keep k s) (a0 : Nat) : Keep k (fabricOff s a0) := by
  unfold fabricOff
  repeat' first | with_reducible assumption | with_reducible apply setFabric_keeps | intro _ _ _ | split | dsimp -zeta only | simp only [mk_keeps]

end Sys2Proof.Machine
end

