-- ==== Sys2Proof/Laws/KeepFlags.lean ====
section
/-! SUPPORT. The operations of Flags.lean keep the part, the fuses, the queue and a canonical word store. -/

namespace Sys2Proof.Machine

set_option linter.all false

-- REC msix
theorem msix_keeps {k : Key} {s : State} (h : Keep k s) (a0 : Nat) : Keep k (msix s a0) := by
  unfold msix
  repeat' first | with_reducible assumption | with_reducible apply setF_keeps | with_reducible apply emit_keeps | intro _ _ _ | split | dsimp -zeta only | simp only [mk_keeps]

theorem raiseHi_keeps {k : Key} {s : State} (h : Keep k s) (a0 : Nat) : Keep k (raiseHi s a0) := by
  unfold raiseHi
  repeat' first | (intro v; first | (refine (fun (_ : Keep k v) => ?_) ?_; rotate_left; simp only [v]; rotate_left; clear_value v) | (have hv : v = v := rfl; simp only [v] at hv; clear hv)) | with_reducible assumption | with_reducible apply wr_keeps | with_reducible apply msix_keeps | lift_lets -underBinder | intro _ _ _ | split | dsimp -zeta only | simp only [mk_keeps]

theorem countLost_keeps {k : Key} {s : State} (h : Keep k s) (a0 : Nat) (a1 : Bool) : Keep k (countLost s a0 a1) := by
  unfold countLost
  repeat' first | (intro v; first | (refine (fun (_ : Keep k v) => ?_) ?_; rotate_left; simp only [v]; rotate_left; clear_value v) | (have hv : v = v := rfl; simp only [v] at hv; clear hv)) | with_reducible assumption | with_reducible apply incSat_keeps | with_reducible apply setEvRing_keeps | with_reducible apply raiseHi_keeps | lift_lets -underBinder | intro _ _ _ | split | dsimp -zeta only | simp only [mk_keeps]

theorem forceKey_keeps {k : Key} {s : State} (h : Keep k s) (a0 : Record) : Keep k (forceKey s a0) := by
  unfold forceKey
  repeat' first | with_reducible assumption | intro _ _ _ | split | dsimp -zeta only | simp only [mk_keeps]

theorem displace_keeps {k : Key} {s : State} (h : Keep k s) (a0 : Nat) (r : Record) (n : Nat) : Keep k (displace s a0 r n) := by
  induction n generalizing s with
  | zero => exact h
  | succ n ih =>
    unfold displace
    split
    · exact h
    · split
      · exact ih (forceKey_keeps (countLost_keeps (setEvRing_keeps h _ _) _ _) _)
      · exact h

theorem stageRecord_keeps_snd {k : Key} {s : State} (h : Keep k s) (a0 : Nat) (a1 : Record) : Keep k (stageRecord s a0 a1).2 := by
  unfold stageRecord
  repeat' first | (intro v; first | (refine (fun (_ : Keep k v) => ?_) ?_; rotate_left; simp only [v]; rotate_left; clear_value v) | (have hv : v = v := rfl; simp only [v] at hv; clear hv)) | with_reducible assumption | with_reducible apply setFlag_keeps | with_reducible apply setEvRing_keeps | with_reducible apply countLost_keeps | with_reducible apply forceKey_keeps | with_reducible apply displace_keeps | lift_lets -underBinder | intro _ _ _ | split | dsimp -zeta only | simp only [mk_keeps]
theorem stageRecord_keeps {k : Key} {s t : State} {x : Bool} {a0 : Nat} {a1 : Record} (h : Keep k s) (e : stageRecord s a0 a1 = (x, t)) : Keep k t := by
  have := stageRecord_keeps_snd h a0 a1
  rwa [e] at this

theorem stage_keeps {k : Key} {s : State} (h : Keep k s) (a0 : Nat) (a1 : Record) : Keep k (stage s a0 a1) := by
  unfold stage
  repeat' first | with_reducible assumption | with_reducible refine stageRecord_keeps ?_ ‹_› | with_reducible apply stageRecord_keeps_snd | intro _ _ _ | split | dsimp -zeta only | simp only [mk_keeps]

theorem blockRecord_keeps {k : Key} {s : State} (h : Keep k s) (a0 : Nat) (a1 : Nat) : Keep k (blockRecord s a0 a1) := by
  unfold blockRecord
  repeat' first | (intro v; first | (refine (fun (_ : Keep k v) => ?_) ?_; rotate_left; simp only [v]; rotate_left; clear_value v) | (have hv : v = v := rfl; simp only [v] at hv; clear hv)) | with_reducible assumption | with_reducible apply setEvRing_keeps | with_reducible apply stage_keeps | lift_lets -underBinder | intro _ _ _ | split | dsimp -zeta only | simp only [mk_keeps]

theorem raise_keeps {k : Key} {s : State} (h : Keep k s) (a0 : Nat) (a1 : Nat) : Keep k (raise s a0 a1) := by
  unfold raise
  repeat' first | (intro v; first | (refine (fun (_ : Keep k v) => ?_) ?_; rotate_left; simp only [v]; rotate_left; clear_value v) | (have hv : v = v := rfl; simp only [v] at hv; clear hv)) | with_reducible assumption | with_reducible apply wr_keeps | with_reducible apply blockRecord_keeps | lift_lets -underBinder | intro _ _ _ | split | dsimp -zeta only | simp only [mk_keeps]

theorem traceLose_keeps {k : Key} {s : State} (h : Keep k s)  : Keep k (traceLose s) := by
  unfold traceLose
  repeat' first | with_reducible assumption | with_reducible apply incSat_keeps | with_reducible apply raise_keeps | intro _ _ _ | split | dsimp -zeta only | simp only [mk_keeps]

theorem freezeTrace_keeps {k : Key} {s : State} (h : Keep k s)  : Keep k (freezeTrace s) := by
  unfold freezeTrace
  repeat' first | (intro v; first | (refine (fun (_ : Keep k v) => ?_) ?_; rotate_left; simp only [v]; rotate_left; clear_value v) | (have hv : v = v := rfl; simp only [v] at hv; clear hv)) | with_reducible assumption | with_reducible apply setFlag_keeps | with_reducible apply forEach_keeps | with_reducible apply raise_keeps | with_reducible apply traceLose_keeps | with_reducible apply forEach_keeps | lift_lets -underBinder | intro _ _ _ | split | dsimp -zeta only | simp only [mk_keeps]

theorem offer_keeps {k : Key} {s : State} (h : Keep k s) (a0 : Nat) (a1 : Nat) (a2 : Word) : Keep k (offer s a0 a1 a2) := by
  unfold offer
  repeat' first | (intro v; first | (refine (fun (_ : Keep k v) => ?_) ?_; rotate_left; simp only [v]; rotate_left; clear_value v) | (have hv : v = v := rfl; simp only [v] at hv; clear hv)) | with_reducible assumption | with_reducible apply traceLose_keeps | lift_lets -underBinder | intro _ _ _ | split | dsimp -zeta only | simp only [mk_keeps]

theorem raisePP_keeps {k : Key} {s : State} (h : Keep k s) (a0 : Nat) : Keep k (raisePP s a0) := by
  unfold raisePP
  repeat' first | (intro v; first | (refine (fun (_ : Keep k v) => ?_) ?_; rotate_left; simp only [v]; rotate_left; clear_value v) | (have hv : v = v := rfl; simp only [v] at hv; clear hv)) | with_reducible assumption | with_reducible apply raise_keeps | with_reducible apply offer_keeps | lift_lets -underBinder | intro _ _ _ | split | dsimp -zeta only | simp only [mk_keeps]

theorem modTag_keeps {k : Key} {s : State} (h : Keep k s) (a0 : Nat) (a1 : Tag → Tag) : Keep k (modTag s a0 a1) := by
  unfold modTag
  repeat' first | with_reducible assumption | with_reducible apply setTag_keeps | intro _ _ _ | split | dsimp -zeta only | simp only [mk_keeps]

theorem endTag_keeps {k : Key} {s : State} (h : Keep k s) (a0 : Nat) (a1 : Nat) (a2 : Word) (a3 : Word) : Keep k (endTag s a0 a1 a2 a3) := by
  unfold endTag
  repeat' first | (intro v; first | (refine (fun (_ : Keep k v) => ?_) ?_; rotate_left; simp only [v]; rotate_left; clear_value v) | (have hv : v = v := rfl; simp only [v] at hv; clear hv)) | with_reducible assumption | with_reducible apply modTag_keeps | lift_lets -underBinder | intro _ _ _ | split | dsimp -zeta only | simp only [mk_keeps]

theorem endSt_keeps {k : Key} {s : State} (h : Keep k s) (a0 : Nat) (a1 : Nat) : Keep k (endSt s a0 a1) := by
  unfold endSt
  repeat' first | with_reducible assumption | with_reducible apply endTag_keeps | intro _ _ _ | split | dsimp -zeta only | simp only [mk_keeps]

theorem runTag_keeps {k : Key} {s : State} (h : Keep k s) (a0 : Nat) : Keep k (runTag s a0) := by
  unfold runTag
  repeat' first | with_reducible assumption | with_reducible apply modTag_keeps | intro _ _ _ | split | dsimp -zeta only | simp only [mk_keeps]

theorem pendTag_keeps {k : Key} {s : State} (h : Keep k s) (a0 : Nat) : Keep k (pendTag s a0) := by
  unfold pendTag
  repeat' first | with_reducible assumption | with_reducible apply modTag_keeps | intro _ _ _ | split | dsimp -zeta only | simp only [mk_keeps]

theorem giveResult_keeps {k : Key} {s : State} (h : Keep k s) (a0 : Nat) (a1 : Word) (a2 : Word) (a3 : List Word) : Keep k (giveResult s a0 a1 a2 a3) := by
  unfold giveResult
  repeat' first | with_reducible assumption | with_reducible apply modTag_keeps | intro _ _ _ | split | dsimp -zeta only | simp only [mk_keeps]

theorem setDigPart_keeps {k : Key} {s : State} (h : Keep k s) (a0 : Nat) (a1 : DigPart) : Keep k (setDigPart s a0 a1) := by
  unfold setDigPart
  repeat' first | with_reducible assumption | intro _ _ _ | split | dsimp -zeta only | simp only [mk_keeps]

theorem noteCfg_keeps {k : Key} {s u : State} (h : Keep k u) : Keep k (noteCfg s u) := by
  unfold noteCfg
  exact forEach_keeps (fun _ _ ht => setDigPart_keeps ht _ _) h

end Sys2Proof.Machine
end

