-- ==== Sys2Proof/Laws/KeepRings.lean ====
section
/-! SUPPORT. The operations of Rings.lean keep the part, the fuses, the queue and a canonical word store. -/

namespace Sys2Proof.Machine

set_option linter.all false

theorem ringError_keeps {k : Key} {s : State} (h : Keep k s) (a0 : RingKind) (a1 : Nat) (a2 : Nat) : Keep k (ringError s a0 a1 a2) := by
  unfold ringError
  repeat' first | (intro v; first | (refine (fun (_ : Keep k v) => ?_) ?_; rotate_left; simp only [v]; rotate_left; clear_value v) | (have hv : v = v := rfl; simp only [v] at hv; clear hv)) | with_reducible assumption | with_reducible apply setF_keeps | with_reducible apply raiseHi_keeps | lift_lets -underBinder | intro _ _ _ | split | dsimp -zeta only | simp only [mk_keeps]

theorem updIdle_keeps {k : Key} {s : State} (h : Keep k s) (a0 : Nat) : Keep k (updIdle s a0) := by
  unfold updIdle
  repeat' first | with_reducible assumption | with_reducible apply setFlag_keeps | intro _ _ _ | split | dsimp -zeta only | simp only [mk_keeps]

theorem freeTag_keeps {k : Key} {s : State} (h : Keep k s) (a0 : Nat) : Keep k (freeTag s a0) := by
  unfold freeTag
  repeat' first | with_reducible assumption | with_reducible apply setTag_keeps | with_reducible apply updIdle_keeps | intro _ _ _ | split | dsimp -zeta only | simp only [mk_keeps]

theorem updEvFull_keeps {k : Key} {s : State} (h : Keep k s) (a0 : Nat) : Keep k (updEvFull s a0) := by
  unfold updEvFull
  repeat' first | with_reducible assumption | with_reducible apply setFlag_keeps | intro _ _ _ | split | dsimp -zeta only | simp only [mk_keeps]

theorem ringStart_keeps {k : Key} {s : State} (h : Keep k s) (a0 : RingKind) (a1 : Nat) : Keep k (ringStart s a0 a1) := by
  unfold ringStart
  repeat' first | (intro v; first | (refine (fun (_ : Keep k v) => ?_) ?_; rotate_left; simp only [v]; rotate_left; clear_value v) | (have hv : v = v := rfl; simp only [v] at hv; clear hv)) | with_reducible assumption | with_reducible apply wr_keeps | with_reducible apply setSubRing_keeps | with_reducible apply setComRing_keeps | with_reducible apply setEvRing_keeps | with_reducible apply ringError_keeps | with_reducible apply updIdle_keeps | with_reducible apply updEvFull_keeps | lift_lets -underBinder | intro _ _ _ | split | dsimp -zeta only | simp only [mk_keeps]

theorem ringStop_keeps {k : Key} {s : State} (h : Keep k s) (a0 : RingKind) (a1 : Nat) : Keep k (ringStop s a0 a1) := by
  unfold ringStop
  repeat' first | (intro v; first | (refine (fun (_ : Keep k v) => ?_) ?_; rotate_left; simp only [v]; rotate_left; clear_value v) | (have hv : v = v := rfl; simp only [v] at hv; clear hv)) | with_reducible assumption | with_reducible apply setF_keeps | with_reducible apply setSubRing_keeps | with_reducible apply updIdle_keeps | lift_lets -underBinder | intro _ _ _ | split | dsimp -zeta only | simp only [mk_keeps]

theorem ringCfgWrite_keeps {k : Key} {s : State} (h : Keep k s) (a0 : RingKind) (a1 : Nat) (a2 : Word) : Keep k (ringCfgWrite s a0 a1 a2) := by
  unfold ringCfgWrite
  repeat' first | (intro v; first | (refine (fun (_ : Keep k v) => ?_) ?_; rotate_left; simp only [v]; rotate_left; clear_value v) | (have hv : v = v := rfl; simp only [v] at hv; clear hv)) | with_reducible assumption | with_reducible apply wr_keeps | with_reducible apply ringStart_keeps | with_reducible apply ringStop_keeps | lift_lets -underBinder | intro _ _ _ | split | dsimp -zeta only | simp only [mk_keeps]

theorem execRingEnable_keeps {k : Key} {s : State} (h : Keep k s) (a0 : RingKind) (a1 : Nat) (a2 : Word) : KeepO k (execRingEnable a0 a1 a2 s) := by
  unfold execRingEnable
  repeat' first | with_reducible assumption | with_reducible apply ringCfgWrite_keeps | with_reducible apply next_keeps | intro _ _ _ | split | dsimp -zeta only | simp only [mk_keeps]

theorem execRingDisable_keeps {k : Key} {s : State} (h : Keep k s) (a0 : RingKind) (a1 : Nat) (a2 : Word) : KeepO k (execRingDisable a0 a1 a2 s) := by
  unfold execRingDisable
  repeat' first | with_reducible assumption | with_reducible apply ringCfgWrite_keeps | with_reducible apply next_keeps | intro _ _ _ | split | dsimp -zeta only | simp only [mk_keeps]

theorem hiCtrlWrite_keeps {k : Key} {s : State} (h : Keep k s) (a0 : Word) : Keep k (hiCtrlWrite s a0) := by
  unfold hiCtrlWrite
  repeat' first | (intro v; first | (refine (fun (_ : Keep k v) => ?_) ?_; rotate_left; simp only [v]; rotate_left; clear_value v) | (have hv : v = v := rfl; simp only [v] at hv; clear hv)) | with_reducible assumption | with_reducible apply wr_keeps | with_reducible apply setFlag_keeps | lift_lets -underBinder | intro _ _ _ | split | dsimp -zeta only | simp only [mk_keeps]

theorem execEngineEnable_keeps {k : Key} {s : State} (h : Keep k s) (a0 : Word) : KeepO k (execEngineEnable a0 s) := by
  unfold execEngineEnable
  repeat' first | with_reducible assumption | with_reducible apply hiCtrlWrite_keeps | with_reducible apply next_keeps | intro _ _ _ | split | dsimp -zeta only | simp only [mk_keeps]

theorem dbSqTail_keeps {k : Key} {s : State} (h : Keep k s) (a0 : Nat) (a1 : Nat) : Keep k (dbSqTail s a0 a1) := by
  unfold dbSqTail
  repeat' first | (intro v; first | (refine (fun (_ : Keep k v) => ?_) ?_; rotate_left; simp only [v]; rotate_left; clear_value v) | (have hv : v = v := rfl; simp only [v] at hv; clear hv)) | with_reducible assumption | with_reducible apply setF_keeps | with_reducible apply setSubRing_keeps | with_reducible apply ringError_keeps | lift_lets -underBinder | intro _ _ _ | split | dsimp -zeta only | simp only [mk_keeps]

theorem execDbSqTail_keeps {k : Key} {s : State} (h : Keep k s) (a0 : Nat) (a1 : Nat) : KeepO k (execDbSqTail a0 a1 s) := by
  unfold execDbSqTail
  repeat' first | with_reducible assumption | with_reducible apply dbSqTail_keeps | with_reducible apply next_keeps | intro _ _ _ | split | dsimp -zeta only | simp only [mk_keeps]

theorem execDbCqHead_keeps {k : Key} {s : State} (h : Keep k s) (a0 : Nat) (a1 : Nat) : KeepO k (execDbCqHead a0 a1 s) := by
  unfold execDbCqHead
  repeat' first | (intro v; first | (refine (fun (_ : Keep k v) => ?_) ?_; rotate_left; simp only [v]; rotate_left; clear_value v) | (have hv : v = v := rfl; simp only [v] at hv; clear hv)) | with_reducible assumption | with_reducible apply setF_keeps | with_reducible apply setFlag_keeps | with_reducible apply setComRing_keeps | with_reducible apply ringError_keeps | with_reducible apply next_keeps | lift_lets -underBinder | intro _ _ _ | split | dsimp -zeta only | simp only [mk_keeps]

theorem execDbEvHead_keeps {k : Key} {s : State} (h : Keep k s) (a0 : Nat) (a1 : Nat) : KeepO k (execDbEvHead a0 a1 s) := by
  unfold execDbEvHead
  repeat' first | (intro v; first | (refine (fun (_ : Keep k v) => ?_) ?_; rotate_left; simp only [v]; rotate_left; clear_value v) | (have hv : v = v := rfl; simp only [v] at hv; clear hv)) | with_reducible assumption | with_reducible apply setF_keeps | with_reducible apply setEvRing_keeps | with_reducible apply ringError_keeps | with_reducible apply updEvFull_keeps | with_reducible apply next_keeps | lift_lets -underBinder | intro _ _ _ | split | dsimp -zeta only | simp only [mk_keeps]

theorem takeTag_keeps_snd {k : Key} {s : State} (h : Keep k s) (a0 : Tag) : Keep k (takeTag s a0).2 := by
  unfold takeTag
  repeat' first | (intro v; first | (refine (fun (_ : Keep k v) => ?_) ?_; rotate_left; simp only [v]; rotate_left; clear_value v) | (have hv : v = v := rfl; simp only [v] at hv; clear hv)) | with_reducible assumption | with_reducible apply setF_keeps | with_reducible apply setTag_keeps | with_reducible apply updIdle_keeps | lift_lets -underBinder | intro _ _ _ | split | dsimp -zeta only | simp only [mk_keeps]
theorem takeTag_keeps {k : Key} {s t : State} {x : Option Nat} {a0 : Tag} (h : Keep k s) (e : takeTag s a0 = (x, t)) : Keep k t := by
  have := takeTag_keeps_snd h a0
  rwa [e] at this

theorem injectOne_keeps_snd {k : Key} {s : State} (h : Keep k s) (a0 : Nat) : Keep k (injectOne s a0).2 := by
  unfold injectOne
  repeat' first | with_reducible assumption | intro _ _ _ | split | dsimp -zeta only | simp only [mk_keeps]
theorem injectOne_keeps {k : Key} {s t : State} {x : Bool} {a0 : Nat} (h : Keep k s) (e : injectOne s a0 = (x, t)) : Keep k t := by
  have := injectOne_keeps_snd h a0
  rwa [e] at this

theorem injectOne_keeps_ite {k : Key} {s t : State} {x y : Bool} {a0 : Nat} {c : Prop} [Decidable c] (h : Keep k s)
    (e : (if c then injectOne s a0 else (y, s)) = (x, t)) : Keep k t := by
  split at e
  · exact injectOne_keeps h e
  · cases e
    exact h

theorem updInj_keeps {k : Key} {s : State} (h : Keep k s)  : Keep k (updInj s) := by
  unfold updInj
  repeat' first | (intro v; first | (refine (fun (_ : Keep k v) => ?_) ?_; rotate_left; simp only [v]; rotate_left; clear_value v) | (have hv : v = v := rfl; simp only [v] at hv; clear hv)) | with_reducible assumption | with_reducible apply wr_keeps | with_reducible apply setF_keeps | with_reducible apply setFlag_keeps | lift_lets -underBinder | intro _ _ _ | split | dsimp -zeta only | simp only [mk_keeps]

theorem injectSettle_keeps {k : Key} {s : State} (h : Keep k s)  : Keep k (injectSettle s) := by
  unfold injectSettle
  repeat' first | (intro v; first | (refine (fun (_ : Keep k v) => ?_) ?_; rotate_left; simp only [v]; rotate_left; clear_value v) | (have hv : v = v := rfl; simp only [v] at hv; clear hv)) | with_reducible assumption | with_reducible apply forEach_keeps | with_reducible apply raise_keeps | with_reducible apply endTag_keeps | with_reducible apply updInj_keeps | with_reducible apply forEach_keeps | lift_lets -underBinder | intro _ _ _ | split | dsimp -zeta only | simp only [mk_keeps]

theorem crcFails_keeps_snd {k : Key} {s : State} (h : Keep k s) (a0 : Desc) : Keep k (crcFails s a0).2 := by
  unfold crcFails
  repeat' first | (intro v; first | (refine (fun (_ : Keep k v) => ?_) ?_; rotate_left; simp only [v]; rotate_left; clear_value v) | (have hv : v = v := rfl; simp only [v] at hv; clear hv)) | with_reducible assumption | with_reducible refine injectOne_keeps_ite ?_ ‹_› | with_reducible refine injectOne_keeps ?_ ‹_› | with_reducible apply injectOne_keeps_snd | lift_lets -underBinder | intro _ _ _ | split | dsimp -zeta only | simp only [mk_keeps]
theorem crcFails_keeps {k : Key} {s t : State} {x : Bool} {a0 : Desc} (h : Keep k s) (e : crcFails s a0 = (x, t)) : Keep k t := by
  have := crcFails_keeps_snd h a0
  rwa [e] at this

theorem continueAct_keeps {k : Key} {s t : State} {a0 : Nat} {a1 : Tag} (h : Keep k s) (e : continueAct s a0 a1 = some t) :
    Keep k t := by
  unfold continueAct at e
  split at e
  · cases e
    exact modTag_keeps h _ _
  · cases e

theorem continueAct_keeps_ite {k : Key} {s t : State} {a0 : Nat} {a1 : Tag} {c : Prop} [Decidable c] (h : Keep k s)
    (e : (if c then continueAct s a0 a1 else none) = some t) : Keep k t := by
  split at e
  · exact continueAct_keeps h e
  · cases e

theorem checkDesc_keeps_snd {k : Key} {s : State} (h : Keep k s) (a0 : Nat) (a1 : Nat) (a2 : Nat) (a3 : Desc) : Keep k (checkDesc s a0 a1 a2 a3).2 := by
  unfold checkDesc
  repeat' first | (intro v; first | (refine (fun (_ : Keep k v) => ?_) ?_; rotate_left; simp only [v]; rotate_left; clear_value v) | (have hv : v = v := rfl; simp only [v] at hv; clear hv)) | with_reducible assumption | with_reducible apply incSat_keeps | with_reducible apply raiseHi_keeps | with_reducible apply injectSettle_keeps | with_reducible refine crcFails_keeps ?_ ‹_› | with_reducible apply crcFails_keeps_snd | with_reducible refine continueAct_keeps ?_ ‹_› | with_reducible refine continueAct_keeps_ite ?_ ‹_› | lift_lets -underBinder | intro _ _ _ | split | dsimp -zeta only | simp only [mk_keeps]
theorem checkDesc_keeps {k : Key} {s t : State} {x : Option Staged} {a0 : Nat} {a1 : Nat} {a2 : Nat} {a3 : Desc} (h : Keep k s) (e : checkDesc s a0 a1 a2 a3 = (x, t)) : Keep k t := by
  have := checkDesc_keeps_snd h a0 a1 a2 a3
  rwa [e] at this

theorem placeDesc_keeps {k : Key} {s : State} (h : Keep k s) (a0 : Nat) (a1 : Staged) : Keep k (placeDesc s a0 a1) := by
  unfold placeDesc
  repeat' first | with_reducible assumption | with_reducible apply endSt_keeps | with_reducible refine takeTag_keeps ?_ ‹_› | with_reducible apply takeTag_keeps_snd | intro _ _ _ | split | dsimp -zeta only | simp only [mk_keeps]

theorem stepHead_keeps {k : Key} {s : State} (h : Keep k s) (a0 : Nat) : Keep k (stepHead s a0) := by
  unfold stepHead
  repeat' first | (intro v; first | (refine (fun (_ : Keep k v) => ?_) ?_; rotate_left; simp only [v]; rotate_left; clear_value v) | (have hv : v = v := rfl; simp only [v] at hv; clear hv)) | with_reducible assumption | with_reducible apply setF_keeps | with_reducible apply incWrap_keeps | with_reducible apply setSubRing_keeps | lift_lets -underBinder | intro _ _ _ | split | dsimp -zeta only | simp only [mk_keeps]

theorem drainStaging_keeps {k : Key} {s : State} (h : Keep k s) (a0 : Nat) : Keep k (drainStaging s a0) := by
  unfold drainStaging
  repeat' first | with_reducible assumption | with_reducible apply setSubRing_keeps | with_reducible apply updIdle_keeps | with_reducible apply placeDesc_keeps | intro _ _ _ | split | dsimp -zeta only | simp only [mk_keeps]

theorem fetchOne_keeps {k : Key} {s : State} (h : Keep k s) (a0 : Nat) (a1 : Desc) : Keep k (fetchOne s a0 a1) := by
  unfold fetchOne
  repeat' first | (intro v; first | (refine (fun (_ : Keep k v) => ?_) ?_; rotate_left; simp only [v]; rotate_left; clear_value v) | (have hv : v = v := rfl; simp only [v] at hv; clear hv)) | with_reducible assumption | with_reducible apply setSubRing_keeps | with_reducible apply raiseHi_keeps | with_reducible apply updIdle_keeps | with_reducible refine checkDesc_keeps ?_ ‹_› | with_reducible apply checkDesc_keeps_snd | with_reducible apply placeDesc_keeps | with_reducible apply stepHead_keeps | lift_lets -underBinder | intro _ _ _ | split | dsimp -zeta only | simp only [mk_keeps]

theorem fetchTurn_keeps {k : Key} {s : State} (h : Keep k s) (a0 : Nat) (a1 : List Desc) : Keep k (fetchTurn s a0 a1) := by
  unfold fetchTurn
  repeat' first | (intro v; first | (refine (fun (_ : Keep k v) => ?_) ?_; rotate_left; simp only [v]; rotate_left; clear_value v) | (have hv : v = v := rfl; simp only [v] at hv; clear hv)) | with_reducible assumption | with_reducible apply forEach_keeps | with_reducible apply drainStaging_keeps | with_reducible apply fetchOne_keeps | with_reducible apply forEach_keeps | lift_lets -underBinder | intro _ _ _ | split | dsimp -zeta only | simp only [mk_keeps]

theorem execDescriptorFetch_keeps {k : Key} {s : State} (h : Keep k s) (a0 : Nat) (a1 : List Desc) : KeepO k (execDescriptorFetch a0 a1 s) := by
  unfold execDescriptorFetch
  repeat' first | with_reducible assumption | with_reducible apply fetchTurn_keeps | with_reducible apply next_keeps | intro _ _ _ | split | dsimp -zeta only | simp only [mk_keeps]

theorem execContinue_keeps {k : Key} {s : State} (h : Keep k s) (a0 : Nat) (a1 : Desc) : KeepO k (execContinue a0 a1 s) := by
  unfold execContinue
  repeat' first | with_reducible assumption | with_reducible apply fetchTurn_keeps | with_reducible apply next_keeps | intro _ _ _ | split | dsimp -zeta only | simp only [mk_keeps]

theorem traceCmd_keeps {k : Key} {s : State} (h : Keep k s) (a0 : Nat) (a1 : Tag) : Keep k (traceCmd s a0 a1) := by
  unfold traceCmd
  repeat' first | with_reducible assumption | with_reducible apply offer_keeps | intro _ _ _ | split | dsimp -zeta only | simp only [mk_keeps]

theorem execCommandStart_keeps {k : Key} {s : State} (h : Keep k s) (a0 : Nat) (a1 : List Byte) (a2 : Bool) : KeepO k (execCommandStart a0 a1 a2 s) := by
  unfold execCommandStart
  repeat' first | (intro v; first | (refine (fun (_ : Keep k v) => ?_) ?_; rotate_left; simp only [v]; rotate_left; clear_value v) | (have hv : v = v := rfl; simp only [v] at hv; clear hv)) | with_reducible assumption | with_reducible apply setTag_keeps | with_reducible apply endSt_keeps | with_reducible apply traceCmd_keeps | with_reducible apply next_keeps | lift_lets -underBinder | intro _ _ _ | split | dsimp -zeta only | simp only [mk_keeps]

theorem execFence_keeps {k : Key} {s : State} (h : Keep k s) (a0 : Nat) : KeepO k (execFence a0 s) := by
  unfold execFence
  repeat' first | with_reducible assumption | with_reducible apply endSt_keeps | with_reducible apply next_keeps | intro _ _ _ | split | dsimp -zeta only | simp only [mk_keeps]

theorem signalCq_keeps {k : Key} {s : State} (h : Keep k s) (a0 : Nat) : Keep k (signalCq s a0) := by
  unfold signalCq
  repeat' first | (intro v; first | (refine (fun (_ : Keep k v) => ?_) ?_; rotate_left; simp only [v]; rotate_left; clear_value v) | (have hv : v = v := rfl; simp only [v] at hv; clear hv)) | with_reducible assumption | with_reducible apply setComRing_keeps | with_reducible apply msix_keeps | lift_lets -underBinder | intro _ _ _ | split | dsimp -zeta only | simp only [mk_keeps]

theorem coalesceCq_keeps {k : Key} {s : State} (h : Keep k s) (a0 : Nat) (a1 : Bool) (a2 : Bool) : Keep k (coalesceCq s a0 a1 a2) := by
  unfold coalesceCq
  repeat' first | (intro v; first | (refine (fun (_ : Keep k v) => ?_) ?_; rotate_left; simp only [v]; rotate_left; clear_value v) | (have hv : v = v := rfl; simp only [v] at hv; clear hv)) | with_reducible assumption | with_reducible apply setComRing_keeps | with_reducible apply signalCq_keeps | lift_lets -underBinder | intro _ _ _ | split | dsimp -zeta only | simp only [mk_keeps]

theorem writeCompletion_keeps {k : Key} {s : State} (h : Keep k s) (a0 : Tag) (a1 : Bool) (a2 : Bool) (a3 : Nat) (a4 : Nat) : Keep k (writeCompletion s a0 a1 a2 a3 a4) := by
  unfold writeCompletion
  repeat' first | (intro v; first | (refine (fun (_ : Keep k v) => ?_) ?_; rotate_left; simp only [v]; rotate_left; clear_value v) | (have hv : v = v := rfl; simp only [v] at hv; clear hv)) | with_reducible assumption | with_reducible apply setF_keeps | with_reducible apply setFlag_keeps | with_reducible apply setComRing_keeps | with_reducible apply emit_keeps | with_reducible apply coalesceCq_keeps | lift_lets -underBinder | intro _ _ _ | split | dsimp -zeta only | simp only [mk_keeps]

theorem execCompletionWrite_keeps {k : Key} {s : State} (h : Keep k s) (a0 : Nat) : KeepO k (execCompletionWrite a0 s) := by
  unfold execCompletionWrite
  repeat' first | (intro v; first | (refine (fun (_ : Keep k v) => ?_) ?_; rotate_left; simp only [v]; rotate_left; clear_value v) | (have hv : v = v := rfl; simp only [v] at hv; clear hv)) | with_reducible assumption | with_reducible apply freeTag_keeps | with_reducible apply traceCmd_keeps | with_reducible apply writeCompletion_keeps | with_reducible apply next_keeps | lift_lets -underBinder | intro _ _ _ | split | dsimp -zeta only | simp only [mk_keeps]

theorem execResultFragment_keeps {k : Key} {s : State} (h : Keep k s) (a0 : Nat) : KeepO k (execResultFragment a0 s) := by
  unfold execResultFragment
  repeat' first | (intro v; first | (refine (fun (_ : Keep k v) => ?_) ?_; rotate_left; simp only [v]; rotate_left; clear_value v) | (have hv : v = v := rfl; simp only [v] at hv; clear hv)) | with_reducible assumption | with_reducible apply setTag_keeps | with_reducible apply emit_keeps | with_reducible apply xfer_keeps | with_reducible apply freeTag_keeps | with_reducible apply traceCmd_keeps | with_reducible apply writeCompletion_keeps | with_reducible apply next_keeps | lift_lets -underBinder | intro _ _ _ | split | dsimp -zeta only | simp only [mk_keeps]

theorem writeEntries_keeps {k : Key} {s : State} (h : Keep k s) (a0 : Nat) (a1 : Nat) (a2 : Nat) (a3 : List Word) (a4 : Nat) : Keep k (writeEntries s a0 a1 a2 a3 a4) := by
  unfold writeEntries
  repeat' first | with_reducible assumption | with_reducible apply forEach_keeps | with_reducible apply emit_keeps | with_reducible apply forEach_keeps | intro _ _ _ | split | dsimp -zeta only | simp only [mk_keeps]

theorem evAdvance_keeps {k : Key} {s : State} (h : Keep k s) (a0 : Nat) (a1 : Nat) : Keep k (evAdvance s a0 a1) := by
  unfold evAdvance
  repeat' first | (intro v; first | (refine (fun (_ : Keep k v) => ?_) ?_; rotate_left; simp only [v]; rotate_left; clear_value v) | (have hv : v = v := rfl; simp only [v] at hv; clear hv)) | with_reducible assumption | with_reducible apply setF_keeps | with_reducible apply setEvRing_keeps | lift_lets -underBinder | intro _ _ _ | split | dsimp -zeta only | simp only [mk_keeps]

theorem signalEv_keeps {k : Key} {s : State} (h : Keep k s) (a0 : Nat) : Keep k (signalEv s a0) := by
  unfold signalEv
  repeat' first | (intro v; first | (refine (fun (_ : Keep k v) => ?_) ?_; rotate_left; simp only [v]; rotate_left; clear_value v) | (have hv : v = v := rfl; simp only [v] at hv; clear hv)) | with_reducible assumption | with_reducible apply setEvRing_keeps | with_reducible apply msix_keeps | lift_lets -underBinder | intro _ _ _ | split | dsimp -zeta only | simp only [mk_keeps]

theorem coalesceEv_keeps {k : Key} {s : State} (h : Keep k s) (a0 : Nat) : Keep k (coalesceEv s a0) := by
  unfold coalesceEv
  repeat' first | (intro v; first | (refine (fun (_ : Keep k v) => ?_) ?_; rotate_left; simp only [v]; rotate_left; clear_value v) | (have hv : v = v := rfl; simp only [v] at hv; clear hv)) | with_reducible assumption | with_reducible apply setEvRing_keeps | with_reducible apply signalEv_keeps | lift_lets -underBinder | intro _ _ _ | split | dsimp -zeta only | simp only [mk_keeps]

theorem writeRecord_keeps {k : Key} {s : State} (h : Keep k s) (a0 : Nat) (a1 : Record) : Keep k (writeRecord s a0 a1) := by
  unfold writeRecord
  repeat' first | (intro v; first | (refine (fun (_ : Keep k v) => ?_) ?_; rotate_left; simp only [v]; rotate_left; clear_value v) | (have hv : v = v := rfl; simp only [v] at hv; clear hv)) | with_reducible assumption | with_reducible apply forEach_keeps | with_reducible apply writeEntries_keeps | with_reducible apply evAdvance_keeps | with_reducible apply coalesceEv_keeps | with_reducible apply forEach_keeps | lift_lets -underBinder | intro _ _ _ | split | dsimp -zeta only | simp only [mk_keeps]

theorem execEventRecordWrite_keeps {k : Key} {s : State} (h : Keep k s) (a0 : Nat) : KeepO k (execEventRecordWrite a0 s) := by
  unfold execEventRecordWrite
  repeat' first | (intro v; first | (refine (fun (_ : Keep k v) => ?_) ?_; rotate_left; simp only [v]; rotate_left; clear_value v) | (have hv : v = v := rfl; simp only [v] at hv; clear hv)) | with_reducible assumption | with_reducible apply advance_keeps | with_reducible apply setEvRing_keeps | with_reducible apply updEvFull_keeps | with_reducible apply writeRecord_keeps | with_reducible apply next_keeps | lift_lets -underBinder | intro _ _ _ | split | dsimp -zeta only | simp only [mk_keeps]

theorem execIrqCoalesceTimeout_keeps {k : Key} {s : State} (h : Keep k s) (a0 : RingKind) (a1 : Nat) : KeepO k (execIrqCoalesceTimeout a0 a1 s) := by
  unfold execIrqCoalesceTimeout
  repeat' first | (intro v; first | (refine (fun (_ : Keep k v) => ?_) ?_; rotate_left; simp only [v]; rotate_left; clear_value v) | (have hv : v = v := rfl; simp only [v] at hv; clear hv)) | with_reducible assumption | with_reducible apply advance_keeps | with_reducible apply signalCq_keeps | with_reducible apply signalEv_keeps | with_reducible apply next_keeps | lift_lets -underBinder | intro _ _ _ | split | dsimp -zeta only | simp only [mk_keeps]

theorem execHostMemoryError_keeps {k : Key} {s : State} (h : Keep k s) (a0 : MemAccess) : KeepO k (execHostMemoryError a0 s) := by
  unfold execHostMemoryError
  repeat' first | with_reducible assumption | with_reducible apply endTag_keeps | with_reducible apply ringError_keeps | with_reducible apply next_keeps | intro _ _ _ | split | dsimp -zeta only | simp only [mk_keeps]

theorem execPeakClr_keeps {k : Key} {s : State} (h : Keep k s)  : KeepO k (execPeakClr s) := by
  unfold execPeakClr
  repeat' first | with_reducible assumption | with_reducible apply setF_keeps | with_reducible apply next_keeps | intro _ _ _ | split | dsimp -zeta only | simp only [mk_keeps]

theorem execOrphanAck_keeps {k : Key} {s : State} (h : Keep k s)  : KeepO k (execOrphanAck s) := by
  unfold execOrphanAck
  repeat' first | with_reducible assumption | with_reducible apply setF_keeps | with_reducible apply next_keeps | intro _ _ _ | split | dsimp -zeta only | simp only [mk_keeps]

theorem execD3hotEntry_keeps {k : Key} {s : State} (h : Keep k s)  : KeepO k (execD3hotEntry s) := by
  unfold execD3hotEntry
  repeat' first | with_reducible assumption | with_reducible apply next_keeps | intro _ _ _ | split | dsimp -zeta only | simp only [mk_keeps]

theorem execLinkL1Entry_keeps {k : Key} {s : State} (h : Keep k s)  : KeepO k (execLinkL1Entry s) := by
  unfold execLinkL1Entry
  repeat' first | (intro v; first | (refine (fun (_ : Keep k v) => ?_) ?_; rotate_left; simp only [v]; rotate_left; clear_value v) | (have hv : v = v := rfl; simp only [v] at hv; clear hv)) | with_reducible assumption | with_reducible apply setF_keeps | with_reducible apply next_keeps | lift_lets -underBinder | intro _ _ _ | split | dsimp -zeta only | simp only [mk_keeps]

theorem execLinkL1Exit_keeps {k : Key} {s : State} (h : Keep k s)  : KeepO k (execLinkL1Exit s) := by
  unfold execLinkL1Exit
  repeat' first | (intro v; first | (refine (fun (_ : Keep k v) => ?_) ?_; rotate_left; simp only [v]; rotate_left; clear_value v) | (have hv : v = v := rfl; simp only [v] at hv; clear hv)) | with_reducible assumption | with_reducible apply setF_keeps | with_reducible apply next_keeps | lift_lets -underBinder | intro _ _ _ | split | dsimp -zeta only | simp only [mk_keeps]

theorem execLinkUp_keeps {k : Key} {s : State} (h : Keep k s)  : KeepO k (execLinkUp s) := by
  unfold execLinkUp
  repeat' first | with_reducible assumption | with_reducible apply next_keeps | intro _ _ _ | split | dsimp -zeta only | simp only [mk_keeps]

end Sys2Proof.Machine
end

