-- ==== Sys2Proof/Laws/KeepRegions.lean ====
section
/-! SUPPORT. The operations of Regions.lean keep the part, the fuses, the queue and a canonical word store. -/

namespace Sys2Proof.Machine

set_option linter.all false

theorem modPour_keeps {k : Key} {s : State} (h : Keep k s) (a0 : Pour → Pour) : Keep k (modPour s a0) := by
  unfold modPour
  repeat' first | with_reducible assumption | intro _ _ _ | split | dsimp -zeta only | simp only [mk_keeps]

theorem issueSwap_keeps {k : Key} {s : State} (h : Keep k s)  : Keep k (issueSwap s) := by
  unfold issueSwap
  repeat' first | with_reducible assumption | with_reducible apply modPour_keeps | intro _ _ _ | split | dsimp -zeta only | simp only [mk_keeps]

theorem loseLoads_keeps {k : Key} {s : State} (h : Keep k s) (a0 : Nat) : Keep k (loseLoads s a0) := by
  unfold loseLoads
  repeat' first | (intro v; first | (refine (fun (_ : Keep k v) => ?_) ?_; rotate_left; simp only [v]; rotate_left; clear_value v) | (have hv : v = v := rfl; simp only [v] at hv; clear hv)) | with_reducible assumption | with_reducible apply forEach_keeps | with_reducible apply endSt_keeps | with_reducible apply modPour_keeps | with_reducible apply forEach_keeps | lift_lets -underBinder | intro _ _ _ | split | dsimp -zeta only | simp only [mk_keeps]

theorem telStop_keeps {k : Key} {s : State} (h : Keep k s) (a0 : Nat) : Keep k (telStop s a0) := by
  unfold telStop
  repeat' first | with_reducible assumption | intro _ _ _ | split | dsimp -zeta only | simp only [mk_keeps]

theorem goOffline_keeps {k : Key} {s : State} (h : Keep k s) (a0 : Nat) : Keep k (goOffline s a0) := by
  unfold goOffline
  repeat' first | with_reducible assumption | with_reducible apply setBitF_keeps | with_reducible apply forEach_keeps | with_reducible apply issueSwap_keeps | with_reducible apply loseLoads_keeps | with_reducible apply telStop_keeps | with_reducible apply forEach_keeps | intro _ _ _ | split | dsimp -zeta only | simp only [mk_keeps]

end Sys2Proof.Machine
end

