-- ==== Sys2Proof/Laws/KeepConvert.lean ====
section
/-! SUPPORT. The operations of Convert.lean keep the part, the fuses, the queue and a canonical word store. -/

namespace Sys2Proof.Machine

set_option linter.all false

theorem setLeg_keeps {k : Key} {s : State} (h : Keep k s) (a0 : Nat) (a1 : Conv) : Keep k (setLeg s a0 a1) := by
  unfold setLeg
  repeat' first | with_reducible assumption | intro _ _ _ | split | dsimp -zeta only | simp only [mk_keeps]

theorem takeLegCal_keeps {k : Key} {s : State} (h : Keep k s) (a0 : Nat) : Keep k (takeLegCal s a0) := by
  unfold takeLegCal
  repeat' first | with_reducible assumption | intro _ _ _ | split | dsimp -zeta only | simp only [mk_keeps]

end Sys2Proof.Machine
end

