-- ==== Sys2Proof/Laws/KeepChannels.lean ====
section
/-! SUPPORT. The operations of Channels.lean keep the part, the fuses, the queue and a canonical word store. -/

namespace Sys2Proof.Machine

set_option linter.all false

theorem traceChan_keeps {k : Key} {s : State} (h : Keep k s) (a0 : Nat) : Keep k (traceChan s a0) := by
  unfold traceChan
  repeat' first | with_reducible assumption | with_reducible apply offer_keeps | intro _ _ _ | split | dsimp -zeta only | simp only [mk_keeps]

theorem traceFlask_keeps {k : Key} {s : State} (h : Keep k s) (a0 : Nat) : Keep k (traceFlask s a0) := by
  unfold traceFlask
  repeat' first | with_reducible assumption | with_reducible apply offer_keeps | intro _ _ _ | split | dsimp -zeta only | simp only [mk_keeps]

theorem tracePhase_keeps {k : Key} {s : State} (h : Keep k s) (a0 : Nat) (a1 : Nat) : Keep k (tracePhase s a0 a1) := by
  unfold tracePhase
  repeat' first | with_reducible assumption | with_reducible apply offer_keeps | intro _ _ _ | split | dsimp -zeta only | simp only [mk_keeps]

theorem rejectPhase_keeps {k : Key} {s : State} (h : Keep k s) (a0 : Nat) : Keep k (rejectPhase s a0) := by
  unfold rejectPhase
  repeat' first | (intro v; first | (refine (fun (_ : Keep k v) => ?_) ?_; rotate_left; simp only [v]; rotate_left; clear_value v) | (have hv : v = v := rfl; simp only [v] at hv; clear hv)) | with_reducible assumption | with_reducible apply forEach_keeps | with_reducible apply modChan_keeps | with_reducible apply endTag_keeps | with_reducible apply forEach_keeps | lift_lets -underBinder | intro _ _ _ | split | dsimp -zeta only | simp only [mk_keeps]

theorem endLearn_keeps {k : Key} {s : State} (h : Keep k s) (a0 : Nat) (a1 : Nat) : Keep k (endLearn s a0 a1) := by
  unfold endLearn
  repeat' first | with_reducible assumption | with_reducible apply modEst_keeps | intro _ _ _ | split | dsimp -zeta only | simp only [mk_keeps]

theorem setCalRun_keeps {k : Key} {s : State} (h : Keep k s) (a0 : Nat) (a1 : CalRun) : Keep k (setCalRun s a0 a1) := by
  unfold setCalRun
  repeat' first | with_reducible assumption | intro _ _ _ | split | dsimp -zeta only | simp only [mk_keeps]

theorem updCalActive_keeps {k : Key} {s : State} (h : Keep k s)  : Keep k (updCalActive s) := by
  unfold updCalActive
  repeat' first | with_reducible assumption | with_reducible apply setF_keeps | intro _ _ _ | split | dsimp -zeta only | simp only [mk_keeps]

theorem endCalRun_keeps {k : Key} {s : State} (h : Keep k s) (a0 : Nat) (a1 : Nat) : Keep k (endCalRun s a0 a1) := by
  unfold endCalRun
  repeat' first | with_reducible assumption | with_reducible apply raise_keeps | with_reducible apply setCalRun_keeps | with_reducible apply updCalActive_keeps | intro _ _ _ | split | dsimp -zeta only | simp only [mk_keeps]

theorem setChState_keeps {k : Key} {s : State} (h : Keep k s) (a0 : Nat) (a1 : ChState) (a2 : Nat) : Keep k (setChState s a0 a1 a2) := by
  unfold setChState
  extract_lets x p1 p2 y s1 s2 s3 s4 s5 s6
  have h1 : Keep k s1 := setChan_keeps h _ _
  clear_value s1
  have h2 : Keep k s2 := ite_keeps (modEst_keeps h1 _ _) h1
  clear_value s2
  have h3 : Keep k s3 := ite_keeps (modEst_keeps h2 _ _) h2
  clear_value s3
  have h4 : Keep k s4 := ite_keeps (endCalRun_keeps h3 _ _) h3
  clear_value s4
  have h5 : Keep k s5 := ite_keeps (rejectPhase_keeps h4 _) h4
  clear_value s5
  exact traceChan_keeps (ite_keeps h5 (tracePhase_keeps h5 _ _)) _

theorem settleRampCmd_keeps {k : Key} {s : State} (h : Keep k s) (a0 : Nat) : Keep k (settleRampCmd s a0) := by
  unfold settleRampCmd
  repeat' first | with_reducible assumption | with_reducible apply endSt_keeps | intro _ _ _ | split | dsimp -zeta only | simp only [mk_keeps]

theorem settleRamp_keeps {k : Key} {s : State} (h : Keep k s) (a0 : Ramp) : Keep k (settleRamp s a0) := by
  unfold settleRamp
  repeat' first | (intro v; first | (refine (fun (_ : Keep k v) => ?_) ?_; rotate_left; simp only [v]; rotate_left; clear_value v) | (have hv : v = v := rfl; simp only [v] at hv; clear hv)) | with_reducible assumption | with_reducible apply forEach_keeps | with_reducible apply modTag_keeps | with_reducible apply settleRampCmd_keeps | with_reducible apply forEach_keeps | lift_lets -underBinder | intro _ _ _ | split | dsimp -zeta only | simp only [mk_keeps]

theorem endRamp_keeps {k : Key} {s : State} (h : Keep k s) (a0 : Nat) : Keep k (endRamp s a0) := by
  unfold endRamp
  repeat' first | (intro v; first | (refine (fun (_ : Keep k v) => ?_) ?_; rotate_left; simp only [v]; rotate_left; clear_value v) | (have hv : v = v := rfl; simp only [v] at hv; clear hv)) | with_reducible assumption | with_reducible apply modChan_keeps | with_reducible apply setChState_keeps | with_reducible apply settleRamp_keeps | lift_lets -underBinder | intro _ _ _ | split | dsimp -zeta only | simp only [mk_keeps]

theorem holdChan_keeps {k : Key} {s : State} (h : Keep k s) (a0 : Nat) (a1 : Nat) : Keep k (holdChan s a0 a1) := by
  unfold holdChan
  repeat' first | with_reducible assumption | with_reducible apply setChState_keeps | with_reducible apply endRamp_keeps | intro _ _ _ | split | dsimp -zeta only | simp only [mk_keeps]

theorem startRamp_keeps {k : Key} {s : State} (h : Keep k s) (a0 : Nat) (a1 : ChState) (a2 : Nat) : Keep k (startRamp s a0 a1 a2) := by
  unfold startRamp
  repeat' first | (intro v; first | (refine (fun (_ : Keep k v) => ?_) ?_; rotate_left; simp only [v]; rotate_left; clear_value v) | (have hv : v = v := rfl; simp only [v] at hv; clear hv)) | with_reducible assumption | with_reducible apply setChan_keeps | with_reducible apply setChState_keeps | lift_lets -underBinder | intro _ _ _ | split | dsimp -zeta only | simp only [mk_keeps]

theorem execHoldRampEnd_keeps {k : Key} {s : State} (h : Keep k s) (a0 : Nat) : KeepO k (execHoldRampEnd a0 s) := by
  unfold execHoldRampEnd
  repeat' first | with_reducible assumption | with_reducible apply advance_keeps | with_reducible apply endRamp_keeps | with_reducible apply next_keeps | intro _ _ _ | split | dsimp -zeta only | simp only [mk_keeps]

theorem execChannelTrip_keeps {k : Key} {s : State} (h : Keep k s) (a0 : Nat) : KeepO k (execChannelTrip a0 s) := by
  unfold execChannelTrip
  repeat' first | (intro v; first | (refine (fun (_ : Keep k v) => ?_) ?_; rotate_left; simp only [v]; rotate_left; clear_value v) | (have hv : v = v := rfl; simp only [v] at hv; clear hv)) | with_reducible assumption | with_reducible apply setChan_keeps | with_reducible apply fault_keeps | with_reducible apply holdChan_keeps | with_reducible apply next_keeps | lift_lets -underBinder | intro _ _ _ | split | dsimp -zeta only | simp only [mk_keeps]

theorem flaskHold_keeps {k : Key} {s : State} (h : Keep k s) (a0 : Nat) (a1 : Nat) : Keep k (flaskHold s a0 a1) := by
  unfold flaskHold
  repeat' first | (intro v; first | (refine (fun (_ : Keep k v) => ?_) ?_; rotate_left; simp only [v]; rotate_left; clear_value v) | (have hv : v = v := rfl; simp only [v] at hv; clear hv)) | with_reducible assumption | with_reducible apply forEach_keeps | with_reducible apply modChan_keeps | with_reducible apply setFlask_keeps | with_reducible apply traceFlask_keeps | with_reducible apply rejectPhase_keeps | with_reducible apply forEach_keeps | lift_lets -underBinder | intro _ _ _ | split | dsimp -zeta only | simp only [mk_keeps]

theorem setHolds_keeps {k : Key} {s : State} (h : Keep k s) (a0 : Nat) (a1 : List Nat) : Keep k (setHolds s a0 a1) := by
  unfold setHolds
  repeat' first | (intro v; first | (refine (fun (_ : Keep k v) => ?_) ?_; rotate_left; simp only [v]; rotate_left; clear_value v) | (have hv : v = v := rfl; simp only [v] at hv; clear hv)) | with_reducible assumption | with_reducible apply setFlask_keeps | with_reducible apply traceFlask_keeps | lift_lets -underBinder | intro _ _ _ | split | dsimp -zeta only | simp only [mk_keeps]

theorem paramXfer_keeps {k : Key} {s : State} (h : Keep k s) (a0 : Tag) : Keep k (paramXfer s a0) := by
  unfold paramXfer
  repeat' first | with_reducible assumption | with_reducible apply forEach_keeps | with_reducible apply xfer_keeps | with_reducible apply forEach_keeps | intro _ _ _ | split | dsimp -zeta only | simp only [mk_keeps]

theorem applyCmd_keeps {k : Key} {s : State} (h : Keep k s) (a0 : Nat) (a1 : Nat) (a2 : Tag → State → State) (ha2 : ∀ (x : Tag) t, Keep k t → Keep k (a2 x t)) : Keep k (applyCmd s a0 a1 a2) := by
  unfold applyCmd
  repeat' first | with_reducible assumption | with_reducible apply endSt_keeps | with_reducible apply paramXfer_keeps | with_reducible refine ha2 _ _ ?_ | intro _ _ _ | split | dsimp -zeta only | simp only [mk_keeps]

theorem firstFail_keeps {k : Key} {s : State} (h : Keep k s) (a0 : Nat) (a1 : Nat) (a2 : List Nat) (a3 : Nat → Bool) (a4 : State → State) (ha4 : ∀ (_ : Unit) t, Keep k t → Keep k (a4 t)) : Keep k (firstFail s a0 a1 a2 a3 a4) := by
  unfold firstFail
  repeat' first | with_reducible assumption | with_reducible apply endTag_keeps | with_reducible refine ha4 () _ ?_ | intro _ _ _ | split | dsimp -zeta only | simp only [mk_keeps]

theorem wrList_keeps {k : Key} {s : State} (h : Keep k s) (a : Nat) (l : List Word) : Keep k (wrList s a l) := by
  induction l generalizing s a with
  | nil => exact h
  | cons w l ih => exact ih (wr_keeps h _ _) _


theorem applyChanParam_keeps {k : Key} {s : State} (h : Keep k s) (a0 : Nat) (a1 : Nat) (a2 : List Word) : Keep k (applyChanParam s a0 a1 a2) := by
  unfold applyChanParam
  repeat' first | (intro v; first | (refine (fun (_ : Keep k v) => ?_) ?_; rotate_left; simp only [v]; rotate_left; clear_value v) | (have hv : v = v := rfl; simp only [v] at hv; clear hv)) | with_reducible assumption | with_reducible apply setChan_keeps | with_reducible apply modChan_keeps | with_reducible apply modEst_keeps | with_reducible apply setChState_keeps | with_reducible apply startRamp_keeps | with_reducible apply classify_keeps | with_reducible apply wrList_keeps | lift_lets -underBinder | intro _ _ _ | split | dsimp -zeta only | simp only [mk_keeps]

theorem afterRamps_keeps {k : Key} {s : State} (h : Keep k s) (a0 : Nat) : Keep k (afterRamps s a0) := by
  unfold afterRamps
  repeat' first | with_reducible assumption | with_reducible apply runTag_keeps | with_reducible apply settleRampCmd_keeps | intro _ _ _ | split | dsimp -zeta only | simp only [mk_keeps]

theorem execChanParam_keeps {k : Key} {s : State} (h : Keep k s) (a0 : Nat) : KeepO k (execChanParam a0 s) := by
  unfold execChanParam
  repeat' first | (intro v; first | (refine (fun (_ : Keep k v) => ?_) ?_; rotate_left; simp only [v]; rotate_left; clear_value v) | (have hv : v = v := rfl; simp only [v] at hv; clear hv)) | with_reducible assumption | with_reducible apply forEach_keeps | with_reducible apply noteCfg_keeps | with_reducible apply applyCmd_keeps | with_reducible apply firstFail_keeps | with_reducible apply applyChanParam_keeps | with_reducible apply afterRamps_keeps | with_reducible apply forEach_keeps | with_reducible apply next_keeps | lift_lets -underBinder | intro _ _ _ | split | dsimp -zeta only | simp only [mk_keeps]

theorem execChanWindows_keeps {k : Key} {s : State} (h : Keep k s) (a0 : Nat) : KeepO k (execChanWindows a0 s) := by
  unfold execChanWindows
  repeat' first | (intro v; first | (refine (fun (_ : Keep k v) => ?_) ?_; rotate_left; simp only [v]; rotate_left; clear_value v) | (have hv : v = v := rfl; simp only [v] at hv; clear hv)) | with_reducible assumption | with_reducible apply forEach_keeps | with_reducible apply endSt_keeps | with_reducible apply noteCfg_keeps | with_reducible apply applyCmd_keeps | with_reducible apply firstFail_keeps | with_reducible apply wrList_keeps | with_reducible apply forEach_keeps | with_reducible apply next_keeps | lift_lets -underBinder | intro _ _ _ | split | dsimp -zeta only | simp only [mk_keeps]

theorem chanStateAct_keeps {k : Key} {s : State} (h : Keep k s) (a0 : Nat) (a1 : Nat) (a2 : Nat) : Keep k (chanStateAct s a0 a1 a2) := by
  unfold chanStateAct
  repeat' first | with_reducible assumption | with_reducible apply setChState_keeps | with_reducible apply startRamp_keeps | intro _ _ _ | split | dsimp -zeta only | simp only [mk_keeps]

theorem execChanState_keeps {k : Key} {s : State} (h : Keep k s) (a0 : Nat) : KeepO k (execChanState a0 s) := by
  unfold execChanState
  repeat' first | (intro v; first | (refine (fun (_ : Keep k v) => ?_) ?_; rotate_left; simp only [v]; rotate_left; clear_value v) | (have hv : v = v := rfl; simp only [v] at hv; clear hv)) | with_reducible assumption | with_reducible apply forEach_keeps | with_reducible apply applyCmd_keeps | with_reducible apply firstFail_keeps | with_reducible apply afterRamps_keeps | with_reducible apply chanStateAct_keeps | with_reducible apply forEach_keeps | with_reducible apply next_keeps | lift_lets -underBinder | intro _ _ _ | split | dsimp -zeta only | simp only [mk_keeps]

theorem execFlaskParam_keeps {k : Key} {s : State} (h : Keep k s) (a0 : Nat) : KeepO k (execFlaskParam a0 s) := by
  unfold execFlaskParam
  repeat' first | (intro v; first | (refine (fun (_ : Keep k v) => ?_) ?_; rotate_left; simp only [v]; rotate_left; clear_value v) | (have hv : v = v := rfl; simp only [v] at hv; clear hv)) | with_reducible assumption | with_reducible apply wr_keeps | with_reducible apply forEach_keeps | with_reducible apply endSt_keeps | with_reducible apply noteCfg_keeps | with_reducible apply applyCmd_keeps | with_reducible apply firstFail_keeps | with_reducible apply forEach_keeps | with_reducible apply next_keeps | lift_lets -underBinder | intro _ _ _ | split | dsimp -zeta only | simp only [mk_keeps]

theorem execFlaskState_keeps {k : Key} {s : State} (h : Keep k s) (a0 : Nat) : KeepO k (execFlaskState a0 s) := by
  unfold execFlaskState
  repeat' first | (intro v; first | (refine (fun (_ : Keep k v) => ?_) ?_; rotate_left; simp only [v]; rotate_left; clear_value v) | (have hv : v = v := rfl; simp only [v] at hv; clear hv)) | with_reducible assumption | with_reducible apply forEach_keeps | with_reducible apply endSt_keeps | with_reducible apply pendTag_keeps | with_reducible apply flaskHold_keeps | with_reducible apply setHolds_keeps | with_reducible apply applyCmd_keeps | with_reducible apply firstFail_keeps | with_reducible apply forEach_keeps | with_reducible apply next_keeps | lift_lets -underBinder | intro _ _ _ | split | dsimp -zeta only | simp only [mk_keeps]

theorem stopSequencer_keeps {k : Key} {s : State} (h : Keep k s) (a0 : Nat) (a1 : Bool) : Keep k (stopSequencer s a0 a1) := by
  unfold stopSequencer
  repeat' first | (intro v; first | (refine (fun (_ : Keep k v) => ?_) ?_; rotate_left; simp only [v]; rotate_left; clear_value v) | (have hv : v = v := rfl; simp only [v] at hv; clear hv)) | with_reducible assumption | with_reducible apply forEach_keeps | with_reducible apply modChan_keeps | with_reducible apply modFlask_keeps | with_reducible apply traceFlask_keeps | with_reducible apply rejectPhase_keeps | with_reducible apply failed_keeps | with_reducible apply forEach_keeps | lift_lets -underBinder | intro _ _ _ | split | dsimp -zeta only | simp only [mk_keeps]

theorem holdBankMates_keeps {k : Key} {s : State} (h : Keep k s) (a0 : Nat) : Keep k (holdBankMates s a0) := by
  unfold holdBankMates
  repeat' first | with_reducible assumption | with_reducible apply forEach_keeps | with_reducible apply flaskHold_keeps | with_reducible apply forEach_keeps | intro _ _ _ | split | dsimp -zeta only | simp only [mk_keeps]

theorem execSequencerSelfcheckFail_keeps {k : Key} {s : State} (h : Keep k s) (a0 : Nat) (a1 : Word) : KeepO k (execSequencerSelfcheckFail a0 a1 s) := by
  unfold execSequencerSelfcheckFail
  repeat' first | with_reducible assumption | with_reducible apply fault_keeps | with_reducible apply stopSequencer_keeps | with_reducible apply holdBankMates_keeps | with_reducible apply next_keeps | intro _ _ _ | split | dsimp -zeta only | simp only [mk_keeps]

theorem retryOrHold_keeps {k : Key} {s : State} (h : Keep k s) (a0 : Nat) : Keep k (retryOrHold s a0) := by
  unfold retryOrHold
  repeat' first | (intro v; first | (refine (fun (_ : Keep k v) => ?_) ?_; rotate_left; simp only [v]; rotate_left; clear_value v) | (have hv : v = v := rfl; simp only [v] at hv; clear hv)) | with_reducible assumption | with_reducible apply setFlask_keeps | with_reducible apply fault_keeps | with_reducible apply traceFlask_keeps | with_reducible apply flaskHold_keeps | lift_lets -underBinder | intro _ _ _ | split | dsimp -zeta only | simp only [mk_keeps]

theorem attribute__keeps {k : Key} {s : State} (h : Keep k s) (a0 : Nat) (a1 : Nat) : Keep k (attribute_ s a0 a1) := by
  unfold attribute_
  repeat' first | (intro v; first | (refine (fun (_ : Keep k v) => ?_) ?_; rotate_left; simp only [v]; rotate_left; clear_value v) | (have hv : v = v := rfl; simp only [v] at hv; clear hv)) | with_reducible assumption | with_reducible apply modFlask_keeps | with_reducible apply fault_keeps | with_reducible apply traceFlask_keeps | with_reducible apply holdChan_keeps | lift_lets -underBinder | intro _ _ _ | split | dsimp -zeta only | simp only [mk_keeps]

theorem execFaultReturnAssert_keeps {k : Key} {s : State} (h : Keep k s) (a0 : Nat) : KeepO k (execFaultReturnAssert a0 s) := by
  unfold execFaultReturnAssert
  repeat' first | (intro v; first | (refine (fun (_ : Keep k v) => ?_) ?_; rotate_left; simp only [v]; rotate_left; clear_value v) | (have hv : v = v := rfl; simp only [v] at hv; clear hv)) | with_reducible assumption | with_reducible apply forEach_keeps | with_reducible apply modChan_keeps | with_reducible apply setFlask_keeps | with_reducible apply fault_keeps | with_reducible apply retryOrHold_keeps | with_reducible apply attribute__keeps | with_reducible apply forEach_keeps | with_reducible apply next_keeps | lift_lets -underBinder | intro _ _ _ | split | dsimp -zeta only | simp only [mk_keeps]

theorem restartNext_keeps {k : Key} {s : State} (h : Keep k s) (a0 : Nat) : Keep k (restartNext s a0) := by
  unfold restartNext
  repeat' first | (intro v; first | (refine (fun (_ : Keep k v) => ?_) ?_; rotate_left; simp only [v]; rotate_left; clear_value v) | (have hv : v = v := rfl; simp only [v] at hv; clear hv)) | with_reducible assumption | with_reducible apply modChan_keeps | with_reducible apply modFlask_keeps | lift_lets -underBinder | intro _ _ _ | split | dsimp -zeta only | simp only [mk_keeps]

theorem retryDone_keeps {k : Key} {s : State} (h : Keep k s) (a0 : Nat) : Keep k (retryDone s a0) := by
  unfold retryDone
  repeat' first | with_reducible assumption | with_reducible apply modFlask_keeps | with_reducible apply traceFlask_keeps | intro _ _ _ | split | dsimp -zeta only | simp only [mk_keeps]

theorem execRetryDelayExpire_keeps {k : Key} {s : State} (h : Keep k s) (a0 : Nat) : KeepO k (execRetryDelayExpire a0 s) := by
  unfold execRetryDelayExpire
  repeat' first | (intro v; first | (refine (fun (_ : Keep k v) => ?_) ?_; rotate_left; simp only [v]; rotate_left; clear_value v) | (have hv : v = v := rfl; simp only [v] at hv; clear hv)) | with_reducible assumption | with_reducible apply advance_keeps | with_reducible apply setFlask_keeps | with_reducible apply restartNext_keeps | with_reducible apply retryDone_keeps | with_reducible apply next_keeps | lift_lets -underBinder | intro _ _ _ | split | dsimp -zeta only | simp only [mk_keeps]

theorem execRetryChannelRestart_keeps {k : Key} {s : State} (h : Keep k s) (a0 : Nat) : KeepO k (execRetryChannelRestart a0 s) := by
  unfold execRetryChannelRestart
  repeat' first | (intro v; first | (refine (fun (_ : Keep k v) => ?_) ?_; rotate_left; simp only [v]; rotate_left; clear_value v) | (have hv : v = v := rfl; simp only [v] at hv; clear hv)) | with_reducible assumption | with_reducible apply advance_keeps | with_reducible apply restartNext_keeps | with_reducible apply next_keeps | lift_lets -underBinder | intro _ _ _ | split | dsimp -zeta only | simp only [mk_keeps]

theorem execFaultReturnStuck_keeps {k : Key} {s : State} (h : Keep k s) (a0 : Nat) : KeepO k (execFaultReturnStuck a0 s) := by
  unfold execFaultReturnStuck
  repeat' first | (intro v; first | (refine (fun (_ : Keep k v) => ?_) ?_; rotate_left; simp only [v]; rotate_left; clear_value v) | (have hv : v = v := rfl; simp only [v] at hv; clear hv)) | with_reducible assumption | with_reducible apply advance_keeps | with_reducible apply fault_keeps | with_reducible apply flaskHold_keeps | with_reducible apply next_keeps | lift_lets -underBinder | intro _ _ _ | split | dsimp -zeta only | simp only [mk_keeps]

theorem execRetryComplete_keeps {k : Key} {s : State} (h : Keep k s) (a0 : Nat) : KeepO k (execRetryComplete a0 s) := by
  unfold execRetryComplete
  repeat' first | (intro v; first | (refine (fun (_ : Keep k v) => ?_) ?_; rotate_left; simp only [v]; rotate_left; clear_value v) | (have hv : v = v := rfl; simp only [v] at hv; clear hv)) | with_reducible assumption | with_reducible apply advance_keeps | with_reducible apply retryDone_keeps | with_reducible apply next_keeps | lift_lets -underBinder | intro _ _ _ | split | dsimp -zeta only | simp only [mk_keeps]

theorem execRetryCountReset_keeps {k : Key} {s : State} (h : Keep k s) (a0 : Nat) : KeepO k (execRetryCountReset a0 s) := by
  unfold execRetryCountReset
  repeat' first | (intro v; first | (refine (fun (_ : Keep k v) => ?_) ?_; rotate_left; simp only [v]; rotate_left; clear_value v) | (have hv : v = v := rfl; simp only [v] at hv; clear hv)) | with_reducible assumption | with_reducible apply advance_keeps | with_reducible apply modFlask_keeps | with_reducible apply next_keeps | lift_lets -underBinder | intro _ _ _ | split | dsimp -zeta only | simp only [mk_keeps]

end Sys2Proof.Machine
end

