-- ==== Sys2Proof/Laws/KeepPhases.lean ====
section
/-! SUPPORT. The operations of Phases.lean keep the part, the fuses, the queue and a canonical word store. -/

namespace Sys2Proof.Machine

set_option linter.all false

theorem setWindows_keeps {k : Key} {s : State} (h : Keep k s) (a0 : Nat) (a1 : Windows) : Keep k (setWindows s a0 a1) := by
  unfold setWindows
  repeat' first | (intro v; first | (refine (fun (_ : Keep k v) => ?_) ?_; rotate_left; simp only [v]; rotate_left; clear_value v) | (have hv : v = v := rfl; simp only [v] at hv; clear hv)) | with_reducible assumption | with_reducible apply setChan_keeps | with_reducible apply offer_keeps | lift_lets -underBinder | intro _ _ _ | split | dsimp -zeta only | simp only [mk_keeps]

theorem tickWindows_keeps {k : Key} {s : State} (h : Keep k s) (a0 : Nat) : Keep k (tickWindows s a0) := by
  unfold tickWindows
  repeat' first | with_reducible assumption | with_reducible apply setWindows_keeps | intro _ _ _ | split | dsimp -zeta only | simp only [mk_keeps]

theorem execTempInvalid_keeps {k : Key} {s : State} (h : Keep k s) (a0 : Nat) : KeepO k (execTempInvalid a0 s) := by
  unfold execTempInvalid
  repeat' first | (intro v; first | (refine (fun (_ : Keep k v) => ?_) ?_; rotate_left; simp only [v]; rotate_left; clear_value v) | (have hv : v = v := rfl; simp only [v] at hv; clear hv)) | with_reducible assumption | with_reducible apply setFlag_keeps | with_reducible apply setChan_keeps | with_reducible apply fault_keeps | with_reducible apply setWindows_keeps | with_reducible apply next_keeps | lift_lets -underBinder | intro _ _ _ | split | dsimp -zeta only | simp only [mk_keeps]

theorem execTempValidRestored_keeps {k : Key} {s : State} (h : Keep k s) (a0 : Nat) : KeepO k (execTempValidRestored a0 s) := by
  unfold execTempValidRestored
  repeat' first | (intro v; first | (refine (fun (_ : Keep k v) => ?_) ?_; rotate_left; simp only [v]; rotate_left; clear_value v) | (have hv : v = v := rfl; simp only [v] at hv; clear hv)) | with_reducible assumption | with_reducible apply advance_keeps | with_reducible apply setWindows_keeps | with_reducible apply next_keeps | lift_lets -underBinder | intro _ _ _ | split | dsimp -zeta only | simp only [mk_keeps]

theorem enterPhase_keeps {k : Key} {s : State} (h : Keep k s) (a0 : Nat) (a1 : Nat) : Keep k (enterPhase s a0 a1) := by
  unfold enterPhase
  repeat' first | (intro v; first | (refine (fun (_ : Keep k v) => ?_) ?_; rotate_left; simp only [v]; rotate_left; clear_value v) | (have hv : v = v := rfl; simp only [v] at hv; clear hv)) | with_reducible assumption | with_reducible apply setChan_keeps | with_reducible apply tracePhase_keeps | lift_lets -underBinder | intro _ _ _ | split | dsimp -zeta only | simp only [mk_keeps]

theorem modPhase_keeps {k : Key} {s : State} (h : Keep k s) (a0 : Nat) (a1 : Phase → Phase) : Keep k (modPhase s a0 a1) := by
  unfold modPhase
  repeat' first | with_reducible assumption | with_reducible apply modChan_keeps | intro _ _ _ | split | dsimp -zeta only | simp only [mk_keeps]

-- REC classify
theorem classify_keeps {k : Key} {s : State} (h : Keep k s) (a0 : Nat) : Keep k (classify s a0) := by
  unfold classify
  repeat' first | (intro v; first | (refine (fun (_ : Keep k v) => ?_) ?_; rotate_left; simp only [v]; rotate_left; clear_value v) | (have hv : v = v := rfl; simp only [v] at hv; clear hv)) | with_reducible assumption | with_reducible apply enterPhase_keeps | with_reducible apply modPhase_keeps | lift_lets -underBinder | intro _ _ _ | split | dsimp -zeta only | simp only [mk_keeps]

theorem phaseFault_keeps {k : Key} {s : State} (h : Keep k s) (a0 : Nat) (a1 : Nat) : Keep k (phaseFault s a0 a1) := by
  unfold phaseFault
  repeat' first | with_reducible assumption | with_reducible apply fault_keeps | with_reducible apply modPhase_keeps | intro _ _ _ | split | dsimp -zeta only | simp only [mk_keeps]

theorem takeAction_keeps {k : Key} {s : State} (h : Keep k s) (a0 : Nat) (a1 : Nat) (a2 : Nat) : Keep k (takeAction s a0 a1 a2) := by
  unfold takeAction
  repeat' first | (intro v; first | (refine (fun (_ : Keep k v) => ?_) ?_; rotate_left; simp only [v]; rotate_left; clear_value v) | (have hv : v = v := rfl; simp only [v] at hv; clear hv)) | with_reducible assumption | with_reducible apply fault_keeps | with_reducible apply endTag_keeps | with_reducible apply enterPhase_keeps | with_reducible apply modPhase_keeps | with_reducible apply classify_keeps | lift_lets -underBinder | intro _ _ _ | split | dsimp -zeta only | simp only [mk_keeps]

theorem evalPhase_keeps {k : Key} {s : State} (h : Keep k s) (a0 : Nat) : Keep k (evalPhase s a0) := by
  unfold evalPhase
  repeat' first | (intro v; first | (refine (fun (_ : Keep k v) => ?_) ?_; rotate_left; simp only [v]; rotate_left; clear_value v) | (have hv : v = v := rfl; simp only [v] at hv; clear hv)) | with_reducible assumption | with_reducible apply forEach_keeps | with_reducible apply modPhase_keeps | with_reducible apply classify_keeps | with_reducible apply takeAction_keeps | with_reducible apply forEach_keeps | lift_lets -underBinder | intro _ _ _ | split | dsimp -zeta only | simp only [mk_keeps]

theorem chanEvent_keeps {k : Key} {s : State} (h : Keep k s) (a0 : Nat) (a1 : Nat) (a2 : Bool) : Keep k (chanEvent s a0 a1 a2) := by
  unfold chanEvent
  repeat' first | with_reducible assumption | with_reducible apply stage_keeps | intro _ _ _ | split | dsimp -zeta only | simp only [mk_keeps]

theorem fullPoint_keeps {k : Key} {s : State} (h : Keep k s) (a0 : Nat) : Keep k (fullPoint s a0) := by
  unfold fullPoint
  repeat' first | with_reducible assumption | with_reducible apply modEst_keeps | intro _ _ _ | split | dsimp -zeta only | simp only [mk_keeps]

theorem sustainMet_keeps {k : Key} {s : State} (h : Keep k s) (a0 : Nat) : Keep k (sustainMet s a0) := by
  unfold sustainMet
  repeat' first | (intro v; first | (refine (fun (_ : Keep k v) => ?_) ?_; rotate_left; simp only [v]; rotate_left; clear_value v) | (have hv : v = v := rfl; simp only [v] at hv; clear hv)) | with_reducible assumption | with_reducible apply enterPhase_keeps | with_reducible apply modPhase_keeps | with_reducible apply chanEvent_keeps | with_reducible apply fullPoint_keeps | lift_lets -underBinder | intro _ _ _ | split | dsimp -zeta only | simp only [mk_keeps]

theorem execPhaseSustainMet_keeps {k : Key} {s : State} (h : Keep k s) (a0 : Nat) : KeepO k (execPhaseSustainMet a0 s) := by
  unfold execPhaseSustainMet
  repeat' first | with_reducible assumption | with_reducible apply sustainMet_keeps | with_reducible apply next_keeps | intro _ _ _ | split | dsimp -zeta only | simp only [mk_keeps]

theorem execPulseTrainDone_keeps {k : Key} {s : State} (h : Keep k s) (a0 : Nat) : KeepO k (execPulseTrainDone a0 s) := by
  unfold execPulseTrainDone
  repeat' first | (intro v; first | (refine (fun (_ : Keep k v) => ?_) ?_; rotate_left; simp only [v]; rotate_left; clear_value v) | (have hv : v = v := rfl; simp only [v] at hv; clear hv)) | with_reducible assumption | with_reducible apply modPhase_keeps | with_reducible apply next_keeps | lift_lets -underBinder | intro _ _ _ | split | dsimp -zeta only | simp only [mk_keeps]

theorem execRelaxTimerExpire_keeps {k : Key} {s : State} (h : Keep k s) (a0 : Nat) : KeepO k (execRelaxTimerExpire a0 s) := by
  unfold execRelaxTimerExpire
  repeat' first | (intro v; first | (refine (fun (_ : Keep k v) => ?_) ?_; rotate_left; simp only [v]; rotate_left; clear_value v) | (have hv : v = v := rfl; simp only [v] at hv; clear hv)) | with_reducible assumption | with_reducible apply enterPhase_keeps | with_reducible apply modPhase_keeps | with_reducible apply phaseFault_keeps | with_reducible apply next_keeps | lift_lets -underBinder | intro _ _ _ | split | dsimp -zeta only | simp only [mk_keeps]

theorem execPrechargeTimeout_keeps {k : Key} {s : State} (h : Keep k s) (a0 : Nat) : KeepO k (execPrechargeTimeout a0 s) := by
  unfold execPrechargeTimeout
  repeat' first | (intro v; first | (refine (fun (_ : Keep k v) => ?_) ?_; rotate_left; simp only [v]; rotate_left; clear_value v) | (have hv : v = v := rfl; simp only [v] at hv; clear hv)) | with_reducible assumption | with_reducible apply phaseFault_keeps | with_reducible apply next_keeps | lift_lets -underBinder | intro _ _ _ | split | dsimp -zeta only | simp only [mk_keeps]

theorem execCvTimeout_keeps {k : Key} {s : State} (h : Keep k s) (a0 : Nat) : KeepO k (execCvTimeout a0 s) := by
  unfold execCvTimeout
  repeat' first | (intro v; first | (refine (fun (_ : Keep k v) => ?_) ?_; rotate_left; simp only [v]; rotate_left; clear_value v) | (have hv : v = v := rfl; simp only [v] at hv; clear hv)) | with_reducible assumption | with_reducible apply enterPhase_keeps | with_reducible apply next_keeps | lift_lets -underBinder | intro _ _ _ | split | dsimp -zeta only | simp only [mk_keeps]

theorem execTopoffTimeout_keeps {k : Key} {s : State} (h : Keep k s) (a0 : Nat) : KeepO k (execTopoffTimeout a0 s) := by
  unfold execTopoffTimeout
  repeat' first | (intro v; first | (refine (fun (_ : Keep k v) => ?_) ?_; rotate_left; simp only [v]; rotate_left; clear_value v) | (have hv : v = v := rfl; simp only [v] at hv; clear hv)) | with_reducible assumption | with_reducible apply enterPhase_keeps | with_reducible apply modPhase_keeps | with_reducible apply chanEvent_keeps | with_reducible apply next_keeps | lift_lets -underBinder | intro _ _ _ | split | dsimp -zeta only | simp only [mk_keeps]

theorem execRestTimerExpire_keeps {k : Key} {s : State} (h : Keep k s) (a0 : Nat) : KeepO k (execRestTimerExpire a0 s) := by
  unfold execRestTimerExpire
  repeat' first | (intro v; first | (refine (fun (_ : Keep k v) => ?_) ?_; rotate_left; simp only [v]; rotate_left; clear_value v) | (have hv : v = v := rfl; simp only [v] at hv; clear hv)) | with_reducible assumption | with_reducible apply enterPhase_keeps | with_reducible apply next_keeps | lift_lets -underBinder | intro _ _ _ | split | dsimp -zeta only | simp only [mk_keeps]

theorem execPhase_keeps {k : Key} {s : State} (h : Keep k s) (a0 : Nat) : KeepO k (execPhase a0 s) := by
  unfold execPhase
  repeat' first | (intro v; first | (refine (fun (_ : Keep k v) => ?_) ?_; rotate_left; simp only [v]; rotate_left; clear_value v) | (have hv : v = v := rfl; simp only [v] at hv; clear hv)) | with_reducible assumption | with_reducible apply endTag_keeps | with_reducible apply runTag_keeps | with_reducible apply applyCmd_keeps | with_reducible apply modPhase_keeps | with_reducible apply next_keeps | lift_lets -underBinder | intro _ _ _ | split | dsimp -zeta only | simp only [mk_keeps]

end Sys2Proof.Machine
end

