-- ==== Sys2Proof/Laws/KeepPowerPath.lean ====
section
/-! SUPPORT. The operations of PowerPath.lean keep the part, the fuses, the queue and a canonical word store. -/

namespace Sys2Proof.Machine

set_option linter.all false

theorem setGate_keeps {k : Key} {s : State} (h : Keep k s) (a0 : Nat) : Keep k (setGate s a0) := by
  unfold setGate
  repeat' first | (intro v; first | (refine (fun (_ : Keep k v) => ?_) ?_; rotate_left; simp only [v]; rotate_left; clear_value v) | (have hv : v = v := rfl; simp only [v] at hv; clear hv)) | with_reducible assumption | with_reducible apply setBitF_keeps | with_reducible apply setSprue_keeps | lift_lets -underBinder | intro _ _ _ | split | dsimp -zeta only | simp only [mk_keeps]

theorem updGates_keeps {k : Key} {s : State} (h : Keep k s)  : Keep k (updGates s) := by
  unfold updGates
  repeat' first | with_reducible assumption | with_reducible apply forEach_keeps | with_reducible apply setGate_keeps | with_reducible apply forEach_keeps | intro _ _ _ | split | dsimp -zeta only | simp only [mk_keeps]

theorem setCapability_keeps {k : Key} {s : State} (h : Keep k s) (a0 : Nat) : Keep k (setCapability s a0) := by
  unfold setCapability
  repeat' first | with_reducible assumption | intro _ _ _ | split | dsimp -zeta only | simp only [mk_keeps]

theorem updCapability_keeps {k : Key} {s : State} (h : Keep k s)  : Keep k (updCapability s) := by
  unfold updCapability
  repeat' first | with_reducible assumption | with_reducible apply setCapability_keeps | intro _ _ _ | split | dsimp -zeta only | simp only [mk_keeps]

theorem enterReference_keeps {k : Key} {s : State} (h : Keep k s) (a0 : Nat) : Keep k (enterReference s a0) := by
  unfold enterReference
  repeat' first | (intro v; first | (refine (fun (_ : Keep k v) => ?_) ?_; rotate_left; simp only [v]; rotate_left; clear_value v) | (have hv : v = v := rfl; simp only [v] at hv; clear hv)) | with_reducible assumption | with_reducible apply setF_keeps | with_reducible apply setSprue_keeps | with_reducible apply updCapability_keeps | lift_lets -underBinder | intro _ _ _ | split | dsimp -zeta only | simp only [mk_keeps]

theorem enterRamp_keeps {k : Key} {s : State} (h : Keep k s) (a0 : Nat) : Keep k (enterRamp s a0) := by
  unfold enterRamp
  repeat' first | (intro v; first | (refine (fun (_ : Keep k v) => ?_) ?_; rotate_left; simp only [v]; rotate_left; clear_value v) | (have hv : v = v := rfl; simp only [v] at hv; clear hv)) | with_reducible assumption | with_reducible apply setF_keeps | with_reducible apply setSprue_keeps | with_reducible apply updCapability_keeps | lift_lets -underBinder | intro _ _ _ | split | dsimp -zeta only | simp only [mk_keeps]

theorem activate_keeps {k : Key} {s : State} (h : Keep k s) (a0 : Nat) : Keep k (activate s a0) := by
  unfold activate
  repeat' first | (intro v; first | (refine (fun (_ : Keep k v) => ?_) ?_; rotate_left; simp only [v]; rotate_left; clear_value v) | (have hv : v = v := rfl; simp only [v] at hv; clear hv)) | with_reducible assumption | with_reducible apply setF_keeps | with_reducible apply setFlag_keeps | with_reducible apply setSprue_keeps | with_reducible apply raisePP_keeps | with_reducible apply updGates_keeps | with_reducible apply updCapability_keeps | with_reducible apply enterReference_keeps | with_reducible apply enterRamp_keeps | lift_lets -underBinder | intro _ _ _ | split | dsimp -zeta only | simp only [mk_keeps]

theorem deactivate_keeps {k : Key} {s : State} (h : Keep k s)  : Keep k (deactivate s) := by
  unfold deactivate
  repeat' first | (intro v; first | (refine (fun (_ : Keep k v) => ?_) ?_; rotate_left; simp only [v]; rotate_left; clear_value v) | (have hv : v = v := rfl; simp only [v] at hv; clear hv)) | with_reducible assumption | with_reducible apply setF_keeps | with_reducible apply setFlag_keeps | with_reducible apply setSprue_keeps | lift_lets -underBinder | intro _ _ _ | split | dsimp -zeta only | simp only [mk_keeps]

theorem chooseActive_keeps {k : Key} {s : State} (h : Keep k s)  : Keep k (chooseActive s) := by
  unfold chooseActive
  repeat' first | with_reducible assumption | with_reducible apply updGates_keeps | with_reducible apply updCapability_keeps | with_reducible apply activate_keeps | intro _ _ _ | split | dsimp -zeta only | simp only [mk_keeps]

theorem updLeg_keeps {k : Key} {s : State} (h : Keep k s) (a0 : Nat) : Keep k (updLeg s a0) := by
  unfold updLeg
  repeat' first | with_reducible assumption | with_reducible apply setF_keeps | intro _ _ _ | split | dsimp -zeta only | simp only [mk_keeps]

theorem shedExport_keeps {k : Key} {s : State} (h : Keep k s) (a0 : Bool) : Keep k (shedExport s a0) := by
  unfold shedExport
  repeat' first | with_reducible assumption | with_reducible apply setFlag_keeps | with_reducible apply forEach_keeps | with_reducible apply updLeg_keeps | with_reducible apply forEach_keeps | intro _ _ _ | split | dsimp -zeta only | simp only [mk_keeps]

theorem suspendCalRuns_keeps {k : Key} {s : State} (h : Keep k s)  : Keep k (suspendCalRuns s) := by
  unfold suspendCalRuns
  repeat' first | (intro v; first | (refine (fun (_ : Keep k v) => ?_) ?_; rotate_left; simp only [v]; rotate_left; clear_value v) | (have hv : v = v := rfl; simp only [v] at hv; clear hv)) | with_reducible assumption | with_reducible apply setF_keeps | with_reducible apply raise_keeps | lift_lets -underBinder | intro _ _ _ | split | dsimp -zeta only | simp only [mk_keeps]

theorem engageDroop_keeps {k : Key} {s : State} (h : Keep k s)  : Keep k (engageDroop s) := by
  unfold engageDroop
  repeat' first | (intro v; first | (refine (fun (_ : Keep k v) => ?_) ?_; rotate_left; simp only [v]; rotate_left; clear_value v) | (have hv : v = v := rfl; simp only [v] at hv; clear hv)) | with_reducible assumption | with_reducible apply setFlag_keeps | with_reducible apply offer_keeps | with_reducible apply shedExport_keeps | with_reducible apply suspendCalRuns_keeps | lift_lets -underBinder | intro _ _ _ | split | dsimp -zeta only | simp only [mk_keeps]

theorem endDroop_keeps {k : Key} {s : State} (h : Keep k s)  : Keep k (endDroop s) := by
  unfold endDroop
  repeat' first | (intro v; first | (refine (fun (_ : Keep k v) => ?_) ?_; rotate_left; simp only [v]; rotate_left; clear_value v) | (have hv : v = v := rfl; simp only [v] at hv; clear hv)) | with_reducible assumption | with_reducible apply setFlag_keeps | with_reducible apply offer_keeps | with_reducible apply endTag_keeps | with_reducible apply shedExport_keeps | lift_lets -underBinder | intro _ _ _ | split | dsimp -zeta only | simp only [mk_keeps]

theorem disarm_keeps {k : Key} {s : State} (h : Keep k s)  : Keep k (disarm s) := by
  unfold disarm
  repeat' first | (intro v; first | (refine (fun (_ : Keep k v) => ?_) ?_; rotate_left; simp only [v]; rotate_left; clear_value v) | (have hv : v = v := rfl; simp only [v] at hv; clear hv)) | with_reducible assumption | with_reducible apply setFlag_keeps | with_reducible apply updGates_keeps | with_reducible apply updCapability_keeps | with_reducible apply deactivate_keeps | lift_lets -underBinder | intro _ _ _ | split | dsimp -zeta only | simp only [mk_keeps]

theorem ppArm_keeps {k : Key} {s : State} (h : Keep k s)  : Keep k (ppArm s) := by
  unfold ppArm
  repeat' first | (intro v; first | (refine (fun (_ : Keep k v) => ?_) ?_; rotate_left; simp only [v]; rotate_left; clear_value v) | (have hv : v = v := rfl; simp only [v] at hv; clear hv)) | with_reducible assumption | with_reducible apply setF_keeps | with_reducible apply setFlag_keeps | with_reducible apply chooseActive_keeps | with_reducible apply disarm_keeps | lift_lets -underBinder | intro _ _ _ | split | dsimp -zeta only | simp only [mk_keeps]

theorem execPpArm_keeps {k : Key} {s : State} (h : Keep k s)  : KeepO k (execPpArm s) := by
  unfold execPpArm
  repeat' first | with_reducible assumption | with_reducible apply ppArm_keeps | with_reducible apply next_keeps | intro _ _ _ | split | dsimp -zeta only | simp only [mk_keeps]

theorem ppDisarm_keeps {k : Key} {s : State} (h : Keep k s)  : Keep k (ppDisarm s) := by
  unfold ppDisarm
  repeat' first | with_reducible assumption | with_reducible apply disarm_keeps | intro _ _ _ | split | dsimp -zeta only | simp only [mk_keeps]

theorem execPpDisarm_keeps {k : Key} {s : State} (h : Keep k s)  : KeepO k (execPpDisarm s) := by
  unfold execPpDisarm
  repeat' first | with_reducible assumption | with_reducible apply ppDisarm_keeps | with_reducible apply next_keeps | intro _ _ _ | split | dsimp -zeta only | simp only [mk_keeps]

theorem startDead_keeps {k : Key} {s : State} (h : Keep k s) (a0 : DeadKind) (a1 : Nat) (a2 : Option Nat) : Keep k (startDead s a0 a1 a2) := by
  unfold startDead
  repeat' first | (intro v; first | (refine (fun (_ : Keep k v) => ?_) ?_; rotate_left; simp only [v]; rotate_left; clear_value v) | (have hv : v = v := rfl; simp only [v] at hv; clear hv)) | with_reducible assumption | with_reducible apply deactivate_keeps | lift_lets -underBinder | intro _ _ _ | split | dsimp -zeta only | simp only [mk_keeps]

theorem plannedTransfer_keeps {k : Key} {s : State} (h : Keep k s) (a0 : Nat) (a1 : Nat) : Keep k (plannedTransfer s a0 a1) := by
  unfold plannedTransfer
  repeat' first | (intro v; first | (refine (fun (_ : Keep k v) => ?_) ?_; rotate_left; simp only [v]; rotate_left; clear_value v) | (have hv : v = v := rfl; simp only [v] at hv; clear hv)) | with_reducible assumption | with_reducible apply incSat_keeps | with_reducible apply raisePP_keeps | with_reducible apply updGates_keeps | with_reducible apply setCapability_keeps | with_reducible apply startDead_keeps | lift_lets -underBinder | intro _ _ _ | split | dsimp -zeta only | simp only [mk_keeps]

-- REC fallback
theorem fallback_keeps {k : Key} {s : State} (h : Keep k s) (a0 : Nat) (a1 : Nat) : Keep k (fallback s a0 a1) := by
  unfold fallback
  repeat' first | (intro v; first | (refine (fun (_ : Keep k v) => ?_) ?_; rotate_left; simp only [v]; rotate_left; clear_value v) | (have hv : v = v := rfl; simp only [v] at hv; clear hv)) | with_reducible assumption | with_reducible apply setFlag_keeps | with_reducible apply incSat_keeps | with_reducible apply setSprue_keeps | with_reducible apply fault_keeps | with_reducible apply raisePP_keeps | with_reducible apply updGates_keeps | with_reducible apply setCapability_keeps | with_reducible apply engageDroop_keeps | with_reducible apply startDead_keeps | lift_lets -underBinder | intro _ _ _ | split | dsimp -zeta only | simp only [mk_keeps]

theorem setVs_keeps {k : Key} {s : State} (h : Keep k s) (a0 : Nat) (a1 : Nat) : Keep k (setVs s a0 a1) := by
  unfold setVs
  repeat' first | (intro v; first | (refine (fun (_ : Keep k v) => ?_) ?_; rotate_left; simp only [v]; rotate_left; clear_value v) | (have hv : v = v := rfl; simp only [v] at hv; clear hv)) | with_reducible assumption | with_reducible apply setFlag_keeps | with_reducible apply setSprue_keeps | lift_lets -underBinder | intro _ _ _ | split | dsimp -zeta only | simp only [mk_keeps]

theorem execSprueCollapse_keeps {k : Key} {s : State} (h : Keep k s) (a0 : Nat) (a1 : Nat) : KeepO k (execSprueCollapse a0 a1 s) := by
  unfold execSprueCollapse
  repeat' first | with_reducible assumption | with_reducible apply fallback_keeps | with_reducible apply setVs_keeps | with_reducible apply next_keeps | intro _ _ _ | split | dsimp -zeta only | simp only [mk_keeps]

theorem execSprueReverse_keeps {k : Key} {s : State} (h : Keep k s) (a0 : Nat) (a1 : Int) : KeepO k (execSprueReverse a0 a1 s) := by
  unfold execSprueReverse
  repeat' first | with_reducible assumption | with_reducible apply setFlag_keeps | with_reducible apply fallback_keeps | with_reducible apply next_keeps | intro _ _ _ | split | dsimp -zeta only | simp only [mk_keeps]

theorem execSprueOvervoltage_keeps {k : Key} {s : State} (h : Keep k s) (a0 : Nat) (a1 : Nat) : KeepO k (execSprueOvervoltage a0 a1 s) := by
  unfold execSprueOvervoltage
  repeat' first | (intro v; first | (refine (fun (_ : Keep k v) => ?_) ?_; rotate_left; simp only [v]; rotate_left; clear_value v) | (have hv : v = v := rfl; simp only [v] at hv; clear hv)) | with_reducible assumption | with_reducible apply advance_keeps | with_reducible apply fallback_keeps | with_reducible apply setVs_keeps | with_reducible apply next_keeps | lift_lets -underBinder | intro _ _ _ | split | dsimp -zeta only | simp only [mk_keeps]

theorem execDeadTimeEnd_keeps {k : Key} {s : State} (h : Keep k s)  : KeepO k (execDeadTimeEnd s) := by
  unfold execDeadTimeEnd
  repeat' first | (intro v; first | (refine (fun (_ : Keep k v) => ?_) ?_; rotate_left; simp only [v]; rotate_left; clear_value v) | (have hv : v = v := rfl; simp only [v] at hv; clear hv)) | with_reducible assumption | with_reducible apply advance_keeps | with_reducible apply chooseActive_keeps | with_reducible apply next_keeps | lift_lets -underBinder | intro _ _ _ | split | dsimp -zeta only | simp only [mk_keeps]

theorem setReady_keeps {k : Key} {s : State} (h : Keep k s) (a0 : Nat) (a1 : Bool) : Keep k (setReady s a0 a1) := by
  unfold setReady
  repeat' first | with_reducible assumption | with_reducible apply setFlag_keeps | with_reducible apply setBitF_keeps | intro _ _ _ | split | dsimp -zeta only | simp only [mk_keeps]

theorem becomeReady_keeps {k : Key} {s : State} (h : Keep k s) (a0 : Nat) : Keep k (becomeReady s a0) := by
  unfold becomeReady
  repeat' first | (intro v; first | (refine (fun (_ : Keep k v) => ?_) ?_; rotate_left; simp only [v]; rotate_left; clear_value v) | (have hv : v = v := rfl; simp only [v] at hv; clear hv)) | with_reducible assumption | with_reducible apply setFlag_keeps | with_reducible apply setSprue_keeps | with_reducible apply chooseActive_keeps | with_reducible apply setReady_keeps | lift_lets -underBinder | intro _ _ _ | split | dsimp -zeta only | simp only [mk_keeps]

theorem execSprueReady_keeps {k : Key} {s : State} (h : Keep k s) (a0 : Nat) (a1 : Nat) : KeepO k (execSprueReady a0 a1 s) := by
  unfold execSprueReady
  repeat' first | (intro v; first | (refine (fun (_ : Keep k v) => ?_) ?_; rotate_left; simp only [v]; rotate_left; clear_value v) | (have hv : v = v := rfl; simp only [v] at hv; clear hv)) | with_reducible assumption | with_reducible apply advance_keeps | with_reducible apply setVs_keeps | with_reducible apply becomeReady_keeps | with_reducible apply next_keeps | lift_lets -underBinder | intro _ _ _ | split | dsimp -zeta only | simp only [mk_keeps]

theorem sampleVs_keeps {k : Key} {s : State} (h : Keep k s) (a0 : Nat) (a1 : Nat) : Keep k (sampleVs s a0 a1) := by
  unfold sampleVs
  repeat' first | (intro v; first | (refine (fun (_ : Keep k v) => ?_) ?_; rotate_left; simp only [v]; rotate_left; clear_value v) | (have hv : v = v := rfl; simp only [v] at hv; clear hv)) | with_reducible assumption | with_reducible apply updGates_keeps | with_reducible apply setVs_keeps | with_reducible apply setReady_keeps | lift_lets -underBinder | intro _ _ _ | split | dsimp -zeta only | simp only [mk_keeps]

theorem execSprueNotReady_keeps {k : Key} {s : State} (h : Keep k s) (a0 : Nat) (a1 : Nat) : KeepO k (execSprueNotReady a0 a1 s) := by
  unfold execSprueNotReady
  repeat' first | with_reducible assumption | with_reducible apply sampleVs_keeps | with_reducible apply next_keeps | intro _ _ _ | split | dsimp -zeta only | simp only [mk_keeps]

theorem execPlannedReturn_keeps {k : Key} {s : State} (h : Keep k s) (a0 : Nat) : KeepO k (execPlannedReturn a0 s) := by
  unfold execPlannedReturn
  repeat' first | (intro v; first | (refine (fun (_ : Keep k v) => ?_) ?_; rotate_left; simp only [v]; rotate_left; clear_value v) | (have hv : v = v := rfl; simp only [v] at hv; clear hv)) | with_reducible assumption | with_reducible apply advance_keeps | with_reducible apply plannedTransfer_keeps | with_reducible apply next_keeps | lift_lets -underBinder | intro _ _ _ | split | dsimp -zeta only | simp only [mk_keeps]

theorem searchEnChange_keeps {k : Key} {s : State} (h : Keep k s) (a0 : State) (a1 : Nat) : Keep k (searchEnChange a0 s a1) := by
  unfold searchEnChange
  repeat' first | (intro v; first | (refine (fun (_ : Keep k v) => ?_) ?_; rotate_left; simp only [v]; rotate_left; clear_value v) | (have hv : v = v := rfl; simp only [v] at hv; clear hv)) | with_reducible assumption | with_reducible apply setF_keeps | with_reducible apply setSprue_keeps | with_reducible apply raisePP_keeps | with_reducible apply updCapability_keeps | with_reducible apply enterReference_keeps | lift_lets -underBinder | intro _ _ _ | split | dsimp -zeta only | simp only [mk_keeps]

theorem ppSettle_keeps {k : Key} {s : State} (h : Keep k s) (a0 : State) : Keep k (ppSettle a0 s) := by
  unfold ppSettle
  repeat' first | (intro v; first | (refine (fun (_ : Keep k v) => ?_) ?_; rotate_left; simp only [v]; rotate_left; clear_value v) | (have hv : v = v := rfl; simp only [v] at hv; clear hv)) | with_reducible assumption | with_reducible apply setF_keeps | with_reducible apply forEach_keeps | with_reducible apply updGates_keeps | with_reducible apply deactivate_keeps | with_reducible apply chooseActive_keeps | with_reducible apply disarm_keeps | with_reducible apply plannedTransfer_keeps | with_reducible apply searchEnChange_keeps | with_reducible apply forEach_keeps | lift_lets -underBinder | intro _ _ _ | split | dsimp -zeta only | simp only [mk_keeps]

theorem wrMask_keeps {k : Key} {s : State} (h : Keep k s) (a0 : Nat) (a1 : Word) (a2 : Word) : Keep k (wrMask s a0 a1 a2) := by
  unfold wrMask
  repeat' first | with_reducible assumption | with_reducible apply wr_keeps | intro _ _ _ | split | dsimp -zeta only | simp only [mk_keeps]

theorem ppPriorityWrite_keeps {k : Key} {s : State} (h : Keep k s) (a0 : Word) : Keep k (ppPriorityWrite s a0) := by
  unfold ppPriorityWrite
  repeat' first | with_reducible assumption | with_reducible apply ppSettle_keeps | with_reducible apply wrMask_keeps | intro _ _ _ | split | dsimp -zeta only | simp only [mk_keeps]

theorem execPpPriorityWrite_keeps {k : Key} {s : State} (h : Keep k s) (a0 : Word) : KeepO k (execPpPriorityWrite a0 s) := by
  unfold execPpPriorityWrite
  repeat' first | with_reducible assumption | with_reducible apply noteCfg_keeps | with_reducible apply ppPriorityWrite_keeps | with_reducible apply next_keeps | intro _ _ _ | split | dsimp -zeta only | simp only [mk_keeps]

theorem spConfigWrite_keeps {k : Key} {s : State} (h : Keep k s) (a0 : Nat) (a1 : Nat) (a2 : Word) : Keep k (spConfigWrite s a0 a1 a2) := by
  unfold spConfigWrite
  repeat' first | with_reducible assumption | with_reducible apply ppSettle_keeps | with_reducible apply wrMask_keeps | intro _ _ _ | split | dsimp -zeta only | simp only [mk_keeps]

theorem execSpConfigWrite_keeps {k : Key} {s : State} (h : Keep k s) (a0 : Nat) (a1 : Nat) (a2 : Word) : KeepO k (execSpConfigWrite a0 a1 a2 s) := by
  unfold execSpConfigWrite
  repeat' first | with_reducible assumption | with_reducible apply noteCfg_keeps | with_reducible apply spConfigWrite_keeps | with_reducible apply next_keeps | intro _ _ _ | split | dsimp -zeta only | simp only [mk_keeps]

theorem ppSet_keeps {k : Key} {s : State} (h : Keep k s) (a0 : Tag) : Keep k (ppSet s a0) := by
  unfold ppSet
  repeat' first | (intro v; first | (refine (fun (_ : Keep k v) => ?_) ?_; rotate_left; simp only [v]; rotate_left; clear_value v) | (have hv : v = v := rfl; simp only [v] at hv; clear hv)) | with_reducible assumption | with_reducible apply forEach_keeps | with_reducible apply noteCfg_keeps | with_reducible apply ppSettle_keeps | with_reducible apply wrMask_keeps | with_reducible apply forEach_keeps | lift_lets -underBinder | intro _ _ _ | split | dsimp -zeta only | simp only [mk_keeps]

theorem execPpSet_keeps {k : Key} {s : State} (h : Keep k s) (a0 : Nat) : KeepO k (execPpSet a0 s) := by
  unfold execPpSet
  repeat' first | (intro v; first | (refine (fun (_ : Keep k v) => ?_) ?_; rotate_left; simp only [v]; rotate_left; clear_value v) | (have hv : v = v := rfl; simp only [v] at hv; clear hv)) | with_reducible assumption | with_reducible apply endTag_keeps | with_reducible apply endSt_keeps | with_reducible apply applyCmd_keeps | with_reducible apply ppSet_keeps | with_reducible apply next_keeps | lift_lets -underBinder | intro _ _ _ | split | dsimp -zeta only | simp only [mk_keeps]

theorem setCbus_keeps {k : Key} {s : State} (h : Keep k s) (a0 : Nat) : Keep k (setCbus s a0) := by
  unfold setCbus
  repeat' first | with_reducible assumption | intro _ _ _ | split | dsimp -zeta only | simp only [mk_keeps]

theorem execCbusUndervoltage_keeps {k : Key} {s : State} (h : Keep k s) (a0 : Nat) : KeepO k (execCbusUndervoltage a0 s) := by
  unfold execCbusUndervoltage
  repeat' first | with_reducible assumption | with_reducible apply raisePP_keeps | with_reducible apply engageDroop_keeps | with_reducible apply setCbus_keeps | with_reducible apply next_keeps | intro _ _ _ | split | dsimp -zeta only | simp only [mk_keeps]

theorem execCbusOvervoltage_keeps {k : Key} {s : State} (h : Keep k s) (a0 : Nat) : KeepO k (execCbusOvervoltage a0 s) := by
  unfold execCbusOvervoltage
  repeat' first | (intro v; first | (refine (fun (_ : Keep k v) => ?_) ?_; rotate_left; simp only [v]; rotate_left; clear_value v) | (have hv : v = v := rfl; simp only [v] at hv; clear hv)) | with_reducible assumption | with_reducible apply setFlag_keeps | with_reducible apply raisePP_keeps | with_reducible apply setCbus_keeps | with_reducible apply next_keeps | lift_lets -underBinder | intro _ _ _ | split | dsimp -zeta only | simp only [mk_keeps]

theorem execCbusOvRelease_keeps {k : Key} {s : State} (h : Keep k s) (a0 : Nat) : KeepO k (execCbusOvRelease a0 s) := by
  unfold execCbusOvRelease
  repeat' first | (intro v; first | (refine (fun (_ : Keep k v) => ?_) ?_; rotate_left; simp only [v]; rotate_left; clear_value v) | (have hv : v = v := rfl; simp only [v] at hv; clear hv)) | with_reducible assumption | with_reducible apply setFlag_keeps | with_reducible apply advance_keeps | with_reducible apply setCbus_keeps | with_reducible apply next_keeps | lift_lets -underBinder | intro _ _ _ | split | dsimp -zeta only | simp only [mk_keeps]

theorem execDroopTest_keeps {k : Key} {s : State} (h : Keep k s) (a0 : Nat) : KeepO k (execDroopTest a0 s) := by
  unfold execDroopTest
  repeat' first | (intro v; first | (refine (fun (_ : Keep k v) => ?_) ?_; rotate_left; simp only [v]; rotate_left; clear_value v) | (have hv : v = v := rfl; simp only [v] at hv; clear hv)) | with_reducible assumption | with_reducible apply endSt_keeps | with_reducible apply runTag_keeps | with_reducible apply applyCmd_keeps | with_reducible apply engageDroop_keeps | with_reducible apply next_keeps | lift_lets -underBinder | intro _ _ _ | split | dsimp -zeta only | simp only [mk_keeps]

theorem execVnlTracked_keeps {k : Key} {s : State} (h : Keep k s) (a0 : Nat) (a1 : Nat) : KeepO k (execVnlTracked a0 a1 s) := by
  unfold execVnlTracked
  repeat' first | (intro v; first | (refine (fun (_ : Keep k v) => ?_) ?_; rotate_left; simp only [v]; rotate_left; clear_value v) | (have hv : v = v := rfl; simp only [v] at hv; clear hv)) | with_reducible assumption | with_reducible apply setF_keeps | with_reducible apply advance_keeps | with_reducible apply setSprue_keeps | with_reducible apply next_keeps | lift_lets -underBinder | intro _ _ _ | split | dsimp -zeta only | simp only [mk_keeps]

theorem backOff_keeps {k : Key} {s : State} (h : Keep k s) (a0 : Nat) : Keep k (backOff s a0) := by
  unfold backOff
  repeat' first | (intro v; first | (refine (fun (_ : Keep k v) => ?_) ?_; rotate_left; simp only [v]; rotate_left; clear_value v) | (have hv : v = v := rfl; simp only [v] at hv; clear hv)) | with_reducible assumption | with_reducible apply setF_keeps | with_reducible apply setSprue_keeps | with_reducible apply raisePP_keeps | with_reducible apply updCapability_keeps | lift_lets -underBinder | intro _ _ _ | split | dsimp -zeta only | simp only [mk_keeps]

theorem evaluate_keeps {k : Key} {s : State} (h : Keep k s) (a0 : Nat) (a1 : Nat) (a2 : Int) (a3 : Bool) : Keep k (evaluate s a0 a1 a2 a3) := by
  unfold evaluate
  repeat' first | (intro v; first | (refine (fun (_ : Keep k v) => ?_) ?_; rotate_left; simp only [v]; rotate_left; clear_value v) | (have hv : v = v := rfl; simp only [v] at hv; clear hv)) | with_reducible assumption | with_reducible apply setF_keeps | with_reducible apply setSprue_keeps | with_reducible apply updCapability_keeps | with_reducible apply backOff_keeps | with_reducible apply step_keeps | lift_lets -underBinder | intro _ _ _ | split | dsimp -zeta only | simp only [mk_keeps]

theorem execSearchEvaluation_keeps {k : Key} {s : State} (h : Keep k s) (a0 : Nat) (a1 : Nat) (a2 : Int) : KeepO k (execSearchEvaluation a0 a1 a2 s) := by
  unfold execSearchEvaluation
  repeat' first | (intro v; first | (refine (fun (_ : Keep k v) => ?_) ?_; rotate_left; simp only [v]; rotate_left; clear_value v) | (have hv : v = v := rfl; simp only [v] at hv; clear hv)) | with_reducible assumption | with_reducible apply advance_keeps | with_reducible apply setSprue_keeps | with_reducible apply raisePP_keeps | with_reducible apply enterReference_keeps | with_reducible apply evaluate_keeps | with_reducible apply next_keeps | lift_lets -underBinder | intro _ _ _ | split | dsimp -zeta only | simp only [mk_keeps]

theorem execSearchReferenceDone_keeps {k : Key} {s : State} (h : Keep k s) (a0 : Nat) (a1 : Nat) : KeepO k (execSearchReferenceDone a0 a1 s) := by
  unfold execSearchReferenceDone
  repeat' first | with_reducible assumption | with_reducible apply setF_keeps | with_reducible apply advance_keeps | with_reducible apply enterRamp_keeps | with_reducible apply next_keeps | intro _ _ _ | split | dsimp -zeta only | simp only [mk_keeps]

theorem execSearchHoldExpire_keeps {k : Key} {s : State} (h : Keep k s) (a0 : Nat) : KeepO k (execSearchHoldExpire a0 s) := by
  unfold execSearchHoldExpire
  repeat' first | with_reducible assumption | with_reducible apply setF_keeps | with_reducible apply advance_keeps | with_reducible apply next_keeps | intro _ _ _ | split | dsimp -zeta only | simp only [mk_keeps]

theorem reprobe_keeps {k : Key} {s : State} (h : Keep k s) (a0 : Nat) : Keep k (reprobe s a0) := by
  unfold reprobe
  repeat' first | (intro v; first | (refine (fun (_ : Keep k v) => ?_) ?_; rotate_left; simp only [v]; rotate_left; clear_value v) | (have hv : v = v := rfl; simp only [v] at hv; clear hv)) | with_reducible assumption | with_reducible apply raisePP_keeps | with_reducible apply enterReference_keeps | lift_lets -underBinder | intro _ _ _ | split | dsimp -zeta only | simp only [mk_keeps]

theorem execReprobe_keeps {k : Key} {s : State} (h : Keep k s) (a0 : Nat) : KeepO k (execReprobe a0 s) := by
  unfold execReprobe
  repeat' first | with_reducible assumption | with_reducible apply reprobe_keeps | with_reducible apply next_keeps | intro _ _ _ | split | dsimp -zeta only | simp only [mk_keeps]

theorem searchRestart_keeps {k : Key} {s : State} (h : Keep k s) (a0 : Nat) : Keep k (searchRestart s a0) := by
  unfold searchRestart
  repeat' first | (intro v; first | (refine (fun (_ : Keep k v) => ?_) ?_; rotate_left; simp only [v]; rotate_left; clear_value v) | (have hv : v = v := rfl; simp only [v] at hv; clear hv)) | with_reducible assumption | with_reducible apply setF_keeps | with_reducible apply enterReference_keeps | lift_lets -underBinder | intro _ _ _ | split | dsimp -zeta only | simp only [mk_keeps]

theorem execSearchRestart_keeps {k : Key} {s : State} (h : Keep k s) (a0 : Nat) : KeepO k (execSearchRestart a0 s) := by
  unfold execSearchRestart
  repeat' first | with_reducible assumption | with_reducible apply searchRestart_keeps | with_reducible apply next_keeps | intro _ _ _ | split | dsimp -zeta only | simp only [mk_keeps]

theorem setTleg_keeps {k : Key} {s : State} (h : Keep k s) (a0 : Nat) (a1 : TlLeg) : Keep k (setTleg s a0 a1) := by
  unfold setTleg
  repeat' first | with_reducible assumption | intro _ _ _ | split | dsimp -zeta only | simp only [mk_keeps]

theorem legRest_keeps {k : Key} {s : State} (h : Keep k s) (a0 : Nat) : Keep k (legRest s a0) := by
  unfold legRest
  repeat' first | with_reducible assumption | with_reducible apply setTleg_keeps | intro _ _ _ | split | dsimp -zeta only | simp only [mk_keeps]

theorem legOff_keeps {k : Key} {s : State} (h : Keep k s) (a0 : Nat) : Keep k (legOff s a0) := by
  unfold legOff
  repeat' first | with_reducible assumption | with_reducible apply setF_keeps | with_reducible apply setFlag_keeps | with_reducible apply updLeg_keeps | with_reducible apply legRest_keeps | intro _ _ _ | split | dsimp -zeta only | simp only [mk_keeps]

theorem traceContract_keeps {k : Key} {s : State} (h : Keep k s) (a0 : Nat) : Keep k (traceContract s a0) := by
  unfold traceContract
  repeat' first | with_reducible assumption | with_reducible apply offer_keeps | intro _ _ _ | split | dsimp -zeta only | simp only [mk_keeps]

theorem showContract_keeps {k : Key} {s : State} (h : Keep k s) (a0 : Nat) : Keep k (showContract s a0) := by
  unfold showContract
  repeat' first | (intro v; first | (refine (fun (_ : Keep k v) => ?_) ?_; rotate_left; simp only [v]; rotate_left; clear_value v) | (have hv : v = v := rfl; simp only [v] at hv; clear hv)) | with_reducible assumption | with_reducible apply setF_keeps | lift_lets -underBinder | intro _ _ _ | split | dsimp -zeta only | simp only [mk_keeps]

theorem endRequests_keeps {k : Key} {s : State} (h : Keep k s) (a0 : Nat) (a1 : Nat) (a2 : Word → Bool) : Keep k (endRequests s a0 a1 a2) := by
  unfold endRequests
  repeat' first | (intro v; first | (refine (fun (_ : Keep k v) => ?_) ?_; rotate_left; simp only [v]; rotate_left; clear_value v) | (have hv : v = v := rfl; simp only [v] at hv; clear hv)) | with_reducible assumption | with_reducible apply forEach_keeps | with_reducible apply modTl_keeps | with_reducible apply endTag_keeps | with_reducible apply forEach_keeps | lift_lets -underBinder | intro _ _ _ | split | dsimp -zeta only | simp only [mk_keeps]

theorem settleRequests_keeps {k : Key} {s : State} (h : Keep k s) (a0 : Nat) : Keep k (settleRequests s a0) := by
  unfold settleRequests
  repeat' first | with_reducible assumption | with_reducible apply endRequests_keeps | intro _ _ _ | split | dsimp -zeta only | simp only [mk_keeps]

theorem contractDefault_keeps {k : Key} {s : State} (h : Keep k s) (a0 : Nat) : Keep k (contractDefault s a0) := by
  unfold contractDefault
  repeat' first | (intro v; first | (refine (fun (_ : Keep k v) => ?_) ?_; rotate_left; simp only [v]; rotate_left; clear_value v) | (have hv : v = v := rfl; simp only [v] at hv; clear hv)) | with_reducible assumption | with_reducible apply wr_keeps | with_reducible apply modTl_keeps | with_reducible apply raise_keeps | with_reducible apply legOff_keeps | with_reducible apply traceContract_keeps | with_reducible apply showContract_keeps | with_reducible apply settleRequests_keeps | lift_lets -underBinder | intro _ _ _ | split | dsimp -zeta only | simp only [mk_keeps]

theorem enterSafe_keeps {k : Key} {s : State} (h : Keep k s)  : Keep k (enterSafe s) := by
  unfold enterSafe
  repeat' first | (intro v; first | (refine (fun (_ : Keep k v) => ?_) ?_; rotate_left; simp only [v]; rotate_left; clear_value v) | (have hv : v = v := rfl; simp only [v] at hv; clear hv)) | with_reducible assumption | with_reducible apply setF_keeps | with_reducible apply setFlag_keeps | with_reducible apply forEach_keeps | with_reducible apply raisePP_keeps | with_reducible apply updGates_keeps | with_reducible apply updCapability_keeps | with_reducible apply contractDefault_keeps | with_reducible apply forEach_keeps | lift_lets -underBinder | intro _ _ _ | split | dsimp -zeta only | simp only [mk_keeps]

theorem safeExit_keeps {k : Key} {s : State} (h : Keep k s)  : Keep k (safeExit s) := by
  unfold safeExit
  repeat' first | with_reducible assumption | with_reducible apply setF_keeps | with_reducible apply setFlag_keeps | with_reducible apply forEach_keeps | with_reducible apply updGates_keeps | with_reducible apply forEach_keeps | intro _ _ _ | split | dsimp -zeta only | simp only [mk_keeps]

theorem execSafeExit_keeps {k : Key} {s : State} (h : Keep k s)  : KeepO k (execSafeExit s) := by
  unfold execSafeExit
  repeat' first | with_reducible assumption | with_reducible apply safeExit_keeps | with_reducible apply next_keeps | intro _ _ _ | split | dsimp -zeta only | simp only [mk_keeps]

end Sys2Proof.Machine
end

