-- ==== Sys2Proof/Laws/KeepTieBase.lean ====
section
/-! SUPPORT. The operations of TieBase.lean keep the part, the fuses, the queue and a canonical word store. -/

namespace Sys2Proof.Machine

set_option linter.all false

theorem raiseTl_keeps {k : Key} {s : State} (h : Keep k s) (a0 : Nat) (a1 : Nat) : Keep k (raiseTl s a0 a1) := by
  unfold raiseTl
  repeat' first | with_reducible assumption | with_reducible apply raise_keeps | intro _ _ _ | split | dsimp -zeta only | simp only [mk_keeps]

theorem raiseTlc_keeps {k : Key} {s : State} (h : Keep k s) (a0 : Nat) (a1 : Nat) : Keep k (raiseTlc s a0 a1) := by
  unfold raiseTlc
  repeat' first | with_reducible assumption | with_reducible apply raise_keeps | intro _ _ _ | split | dsimp -zeta only | simp only [mk_keeps]

theorem traceAttach_keeps {k : Key} {s : State} (h : Keep k s) (a0 : Nat) : Keep k (traceAttach s a0) := by
  unfold traceAttach
  repeat' first | with_reducible assumption | with_reducible apply offer_keeps | intro _ _ _ | split | dsimp -zeta only | simp only [mk_keeps]

theorem dueThen_keeps {k : Key} {s : State} (h : Keep k s) (a0 : Option Nat) (a1 : State → State) (ha1 : ∀ (_ : Unit) t, Keep k t → Keep k (a1 t)) : Keep k (dueThen s a0 a1) := by
  unfold dueThen
  repeat' first | with_reducible assumption | with_reducible apply advance_keeps | with_reducible refine ha1 () _ ?_ | intro _ _ _ | split | dsimp -zeta only | simp only [mk_keeps]

theorem answer_keeps {k : Key} {s : State} (h : Keep k s) (a0 : Nat) (a1 : Nat) (a2 : List Word := []) (a3 : TlAct := .none) : Keep k (answer s a0 a1 a2 a3) := by
  unfold answer
  repeat' first | with_reducible assumption | with_reducible apply modTl_keeps | intro _ _ _ | split | dsimp -zeta only | simp only [mk_keeps]

theorem send_keeps {k : Key} {s : State} (h : Keep k s) (a0 : Nat) (a1 : Nat) (a2 : List Word := []) (a3 : TlAct := .none) : Keep k (send s a0 a1 a2 a3) := by
  unfold send
  repeat' first | with_reducible assumption | with_reducible apply modTl_keeps | intro _ _ _ | split | dsimp -zeta only | simp only [mk_keeps]

theorem notSupported_keeps {k : Key} {s : State} (h : Keep k s) (a0 : Nat) : Keep k (notSupported s a0) := by
  unfold notSupported
  repeat' first | with_reducible assumption | with_reducible apply answer_keeps | intro _ _ _ | split | dsimp -zeta only | simp only [mk_keeps]

theorem setCs_keeps {k : Key} {s : State} (h : Keep k s) (a0 : Nat) (a1 : Nat) : Keep k (setCs s a0 a1) := by
  unfold setCs
  repeat' first | with_reducible assumption | with_reducible apply modTl_keeps | with_reducible apply showContract_keeps | intro _ _ _ | split | dsimp -zeta only | simp only [mk_keeps]

theorem contractDc_keeps {k : Key} {s : State} (h : Keep k s) (a0 : Nat) (a1 : Nat) (a2 : Nat) : Keep k (contractDc s a0 a1 a2) := by
  unfold contractDc
  repeat' first | (intro v; first | (refine (fun (_ : Keep k v) => ?_) ?_; rotate_left; simp only [v]; rotate_left; clear_value v) | (have hv : v = v := rfl; simp only [v] at hv; clear hv)) | with_reducible assumption | with_reducible apply wr_keeps | with_reducible apply setF_keeps | with_reducible apply setFlag_keeps | with_reducible apply modTl_keeps | with_reducible apply updLeg_keeps | with_reducible apply legRest_keeps | with_reducible apply traceContract_keeps | with_reducible apply settleRequests_keeps | with_reducible apply raiseTlc_keeps | with_reducible apply setCs_keeps | lift_lets -underBinder | intro _ _ _ | split | dsimp -zeta only | simp only [mk_keeps]

theorem updStanding_keeps {k : Key} {s : State} (h : Keep k s) (a0 : Nat) : Keep k (updStanding s a0) := by
  unfold updStanding
  repeat' first | with_reducible assumption | with_reducible apply setFlag_keeps | intro _ _ _ | split | dsimp -zeta only | simp only [mk_keeps]

theorem sendRequest_keeps {k : Key} {s : State} (h : Keep k s) (a0 : Nat) (a1 : Word) : Keep k (sendRequest s a0 a1) := by
  unfold sendRequest
  repeat' first | (intro v; first | (refine (fun (_ : Keep k v) => ?_) ?_; rotate_left; simp only [v]; rotate_left; clear_value v) | (have hv : v = v := rfl; simp only [v] at hv; clear hv)) | with_reducible assumption | with_reducible apply modTl_keeps | with_reducible apply send_keeps | with_reducible apply setCs_keeps | lift_lets -underBinder | intro _ _ _ | split | dsimp -zeta only | simp only [mk_keeps]

theorem formRequest_keeps {k : Key} {s : State} (h : Keep k s) (a0 : Nat) (a1 : Nat) (a2 : Nat) : Keep k (formRequest s a0 a1 a2) := by
  unfold formRequest
  repeat' first | (intro v; first | (refine (fun (_ : Keep k v) => ?_) ?_; rotate_left; simp only [v]; rotate_left; clear_value v) | (have hv : v = v := rfl; simp only [v] at hv; clear hv)) | with_reducible assumption | with_reducible apply modTl_keeps | with_reducible apply endRequests_keeps | with_reducible apply contractDefault_keeps | with_reducible apply raiseTlc_keeps | with_reducible apply setCs_keeps | with_reducible apply sendRequest_keeps | lift_lets -underBinder | intro _ _ _ | split | dsimp -zeta only | simp only [mk_keeps]

theorem sendOwn_keeps {k : Key} {s : State} (h : Keep k s) (a0 : Nat) (a1 : TlOwn) : Keep k (sendOwn s a0 a1) := by
  unfold sendOwn
  repeat' first | (intro v; first | (refine (fun (_ : Keep k v) => ?_) ?_; rotate_left; simp only [v]; rotate_left; clear_value v) | (have hv : v = v := rfl; simp only [v] at hv; clear hv)) | with_reducible assumption | with_reducible apply modTl_keeps | with_reducible apply showContract_keeps | with_reducible apply send_keeps | with_reducible apply setCs_keeps | with_reducible apply formRequest_keeps | lift_lets -underBinder | intro _ _ _ | split | dsimp -zeta only | simp only [mk_keeps]

theorem ask_keeps {k : Key} {s : State} (h : Keep k s) (a0 : Nat) (a1 : TlOwn) : Keep k (ask s a0 a1) := by
  unfold ask
  repeat' first | with_reducible assumption | with_reducible apply modTl_keeps | with_reducible apply sendOwn_keeps | intro _ _ _ | split | dsimp -zeta only | simp only [mk_keeps]

theorem sendWants_keeps {k : Key} {s : State} (h : Keep k s) (a0 : Nat) (l : List TlOwn) : Keep k (sendWants s a0 l) := by
  induction l generalizing s with
  | nil => exact modTl_keeps h _ _
  | cons x l ih =>
    unfold sendWants
    split
    · exact ih (sendOwn_keeps h _ _)
    · exact modTl_keeps h _ _


theorem clearOwn_keeps {k : Key} {s : State} (h : Keep k s) (a0 : Nat) : Keep k (clearOwn s a0) := by
  unfold clearOwn
  repeat' first | (intro v; first | (refine (fun (_ : Keep k v) => ?_) ?_; rotate_left; simp only [v]; rotate_left; clear_value v) | (have hv : v = v := rfl; simp only [v] at hv; clear hv)) | with_reducible assumption | with_reducible apply modTl_keeps | with_reducible apply showContract_keeps | with_reducible apply sendWants_keeps | lift_lets -underBinder | intro _ _ _ | split | dsimp -zeta only | simp only [mk_keeps]

theorem requestChanged_keeps {k : Key} {s : State} (h : Keep k s) (a0 : Nat) : Keep k (requestChanged s a0) := by
  unfold requestChanged
  repeat' first | (intro v; first | (refine (fun (_ : Keep k v) => ?_) ?_; rotate_left; simp only [v]; rotate_left; clear_value v) | (have hv : v = v := rfl; simp only [v] at hv; clear hv)) | with_reducible assumption | with_reducible apply modTl_keeps | with_reducible apply ask_keeps | lift_lets -underBinder | intro _ _ _ | split | dsimp -zeta only | simp only [mk_keeps]

theorem sendDue_keeps {k : Key} {s : State} (h : Keep k s) (a0 : Nat) : Keep k (sendDue s a0) := by
  unfold sendDue
  repeat' first | with_reducible assumption | with_reducible apply ask_keeps | intro _ _ _ | split | dsimp -zeta only | simp only [mk_keeps]

theorem holdOff_keeps {k : Key} {s : State} (h : Keep k s) (a0 : Nat) (a1 : Nat) : Keep k (holdOff s a0 a1) := by
  unfold holdOff
  repeat' first | with_reducible assumption | with_reducible apply modTl_keeps | with_reducible apply updLeg_keeps | with_reducible apply setCs_keeps | intro _ _ _ | split | dsimp -zeta only | simp only [mk_keeps]

theorem updLesIn_keeps {k : Key} {s : State} (h : Keep k s) (a0 : Nat) : Keep k (updLesIn s a0) := by
  unfold updLesIn
  repeat' first | (intro v; first | (refine (fun (_ : Keep k v) => ?_) ?_; rotate_left; simp only [v]; rotate_left; clear_value v) | (have hv : v = v := rfl; simp only [v] at hv; clear hv)) | with_reducible assumption | with_reducible apply setFlag_keeps | lift_lets -underBinder | intro _ _ _ | split | dsimp -zeta only | simp only [mk_keeps]

theorem lesOff_keeps {k : Key} {s : State} (h : Keep k s) (a0 : Nat) : Keep k (lesOff s a0) := by
  unfold lesOff
  repeat' first | (intro v; first | (refine (fun (_ : Keep k v) => ?_) ?_; rotate_left; simp only [v]; rotate_left; clear_value v) | (have hv : v = v := rfl; simp only [v] at hv; clear hv)) | with_reducible assumption | with_reducible apply setF_keeps | with_reducible apply setFlag_keeps | with_reducible apply updLesIn_keeps | lift_lets -underBinder | intro _ _ _ | split | dsimp -zeta only | simp only [mk_keeps]

theorem lesSwitchOn_keeps {k : Key} {s : State} (h : Keep k s) (a0 : Nat) : Keep k (lesSwitchOn s a0) := by
  unfold lesSwitchOn
  repeat' first | (intro v; first | (refine (fun (_ : Keep k v) => ?_) ?_; rotate_left; simp only [v]; rotate_left; clear_value v) | (have hv : v = v := rfl; simp only [v] at hv; clear hv)) | with_reducible assumption | with_reducible apply setF_keeps | with_reducible apply setFlag_keeps | with_reducible apply modTl_keeps | with_reducible apply raiseTl_keeps | with_reducible apply updLesIn_keeps | lift_lets -underBinder | intro _ _ _ | split | dsimp -zeta only | simp only [mk_keeps]

theorem lesReview_keeps {k : Key} {s : State} (h : Keep k s) (a0 : Nat) : Keep k (lesReview s a0) := by
  unfold lesReview
  repeat' first | with_reducible assumption | with_reducible apply lesOff_keeps | with_reducible apply lesSwitchOn_keeps | intro _ _ _ | split | dsimp -zeta only | simp only [mk_keeps]

theorem closeTunnel_keeps {k : Key} {s : State} (h : Keep k s) (a0 : Nat) : Keep k (closeTunnel s a0) := by
  unfold closeTunnel
  repeat' first | (intro v; first | (refine (fun (_ : Keep k v) => ?_) ?_; rotate_left; simp only [v]; rotate_left; clear_value v) | (have hv : v = v := rfl; simp only [v] at hv; clear hv)) | with_reducible assumption | with_reducible apply forEach_keeps | with_reducible apply modTl_keeps | with_reducible apply endSt_keeps | with_reducible apply forEach_keeps | lift_lets -underBinder | intro _ _ _ | split | dsimp -zeta only | simp only [mk_keeps]

theorem exitMode_keeps {k : Key} {s : State} (h : Keep k s) (a0 : Nat) (a1 : Nat) : Keep k (exitMode s a0 a1) := by
  unfold exitMode
  repeat' first | (intro v; first | (refine (fun (_ : Keep k v) => ?_) ?_; rotate_left; simp only [v]; rotate_left; clear_value v) | (have hv : v = v := rfl; simp only [v] at hv; clear hv)) | with_reducible assumption | with_reducible apply setBitF_keeps | with_reducible apply modTl_keeps | with_reducible apply updLeg_keeps | with_reducible apply raiseTlc_keeps | with_reducible apply closeTunnel_keeps | lift_lets -underBinder | intro _ _ _ | split | dsimp -zeta only | simp only [mk_keeps]

theorem exitModes_keeps {k : Key} {s : State} (h : Keep k s) (a0 : Nat) : Keep k (exitModes s a0) := by
  unfold exitModes
  repeat' first | with_reducible assumption | with_reducible apply forEach_keeps | with_reducible apply exitMode_keeps | with_reducible apply forEach_keeps | intro _ _ _ | split | dsimp -zeta only | simp only [mk_keeps]

theorem enterMode_keeps {k : Key} {s : State} (h : Keep k s) (a0 : Nat) (a1 : Nat) : Keep k (enterMode s a0 a1) := by
  unfold enterMode
  repeat' first | (intro v; first | (refine (fun (_ : Keep k v) => ?_) ?_; rotate_left; simp only [v]; rotate_left; clear_value v) | (have hv : v = v := rfl; simp only [v] at hv; clear hv)) | with_reducible assumption | with_reducible apply setBitF_keeps | with_reducible apply modTl_keeps | with_reducible apply raiseTlc_keeps | lift_lets -underBinder | intro _ _ _ | split | dsimp -zeta only | simp only [mk_keeps]

theorem discover_keeps {k : Key} {s : State} (h : Keep k s) (a0 : Nat) : Keep k (discover s a0) := by
  unfold discover
  repeat' first | with_reducible assumption | with_reducible apply ask_keeps | intro _ _ _ | split | dsimp -zeta only | simp only [mk_keeps]

theorem endSwapCmd_keeps {k : Key} {s : State} (h : Keep k s) (a0 : Nat) (a1 : Nat) : Keep k (endSwapCmd s a0 a1) := by
  unfold endSwapCmd
  repeat' first | (intro v; first | (refine (fun (_ : Keep k v) => ?_) ?_; rotate_left; simp only [v]; rotate_left; clear_value v) | (have hv : v = v := rfl; simp only [v] at hv; clear hv)) | with_reducible assumption | with_reducible apply modTl_keeps | with_reducible apply endTag_keeps | lift_lets -underBinder | intro _ _ _ | split | dsimp -zeta only | simp only [mk_keeps]

theorem endReattachCmd_keeps {k : Key} {s : State} (h : Keep k s) (a0 : Nat) (a1 : Nat) : Keep k (endReattachCmd s a0 a1) := by
  unfold endReattachCmd
  repeat' first | with_reducible assumption | with_reducible apply modTl_keeps | with_reducible apply endTag_keeps | intro _ _ _ | split | dsimp -zeta only | simp only [mk_keeps]

theorem abortSwap_keeps {k : Key} {s : State} (h : Keep k s) (a0 : Nat) : Keep k (abortSwap s a0) := by
  unfold abortSwap
  repeat' first | (intro v; first | (refine (fun (_ : Keep k v) => ?_) ?_; rotate_left; simp only [v]; rotate_left; clear_value v) | (have hv : v = v := rfl; simp only [v] at hv; clear hv)) | with_reducible assumption | with_reducible apply setF_keeps | with_reducible apply modTl_keeps | with_reducible apply lesOff_keeps | with_reducible apply lesReview_keeps | with_reducible apply endSwapCmd_keeps | lift_lets -underBinder | intro _ _ _ | split | dsimp -zeta only | simp only [mk_keeps]

theorem failVendors_keeps {k : Key} {s : State} (h : Keep k s) (a0 : Nat) (a1 : Nat) : Keep k (failVendors s a0 a1) := by
  unfold failVendors
  repeat' first | (intro v; first | (refine (fun (_ : Keep k v) => ?_) ?_; rotate_left; simp only [v]; rotate_left; clear_value v) | (have hv : v = v := rfl; simp only [v] at hv; clear hv)) | with_reducible assumption | with_reducible apply forEach_keeps | with_reducible apply endSt_keeps | with_reducible apply forEach_keeps | lift_lets -underBinder | intro _ _ _ | split | dsimp -zeta only | simp only [mk_keeps]

theorem resetProtocol_keeps {k : Key} {s : State} (h : Keep k s) (a0 : Nat) : Keep k (resetProtocol s a0) := by
  unfold resetProtocol
  repeat' first | (intro v; first | (refine (fun (_ : Keep k v) => ?_) ?_; rotate_left; simp only [v]; rotate_left; clear_value v) | (have hv : v = v := rfl; simp only [v] at hv; clear hv)) | with_reducible assumption | with_reducible apply modTl_keeps | with_reducible apply exitModes_keeps | with_reducible apply endReattachCmd_keeps | with_reducible apply abortSwap_keeps | with_reducible apply failVendors_keeps | lift_lets -underBinder | intro _ _ _ | split | dsimp -zeta only | simp only [mk_keeps]

theorem sendSoftReset_keeps {k : Key} {s : State} (h : Keep k s) (a0 : Nat) : Keep k (sendSoftReset s a0) := by
  unfold sendSoftReset
  repeat' first | (intro v; first | (refine (fun (_ : Keep k v) => ?_) ?_; rotate_left; simp only [v]; rotate_left; clear_value v) | (have hv : v = v := rfl; simp only [v] at hv; clear hv)) | with_reducible assumption | with_reducible apply showContract_keeps | with_reducible apply raiseTl_keeps | with_reducible apply answer_keeps | with_reducible apply resetProtocol_keeps | lift_lets -underBinder | intro _ _ _ | split | dsimp -zeta only | simp only [mk_keeps]

theorem softHoldOff_keeps {k : Key} {s : State} (h : Keep k s) (a0 : Nat) : Keep k (softHoldOff s a0) := by
  unfold softHoldOff
  repeat' first | with_reducible assumption | with_reducible apply modTl_keeps | with_reducible apply holdOff_keeps | with_reducible apply sendSoftReset_keeps | intro _ _ _ | split | dsimp -zeta only | simp only [mk_keeps]

theorem identAgain_keeps {k : Key} {s : State} (h : Keep k s) (a0 : Nat) : Keep k (identAgain s a0) := by
  unfold identAgain
  repeat' first | (intro v; first | (refine (fun (_ : Keep k v) => ?_) ?_; rotate_left; simp only [v]; rotate_left; clear_value v) | (have hv : v = v := rfl; simp only [v] at hv; clear hv)) | with_reducible assumption | with_reducible apply modTl_keeps | with_reducible apply answer_keeps | with_reducible apply send_keeps | lift_lets -underBinder | intro _ _ _ | split | dsimp -zeta only | simp only [mk_keeps]

theorem afterSoftReset_keeps {k : Key} {s : State} (h : Keep k s) (a0 : Nat) : Keep k (afterSoftReset s a0) := by
  unfold afterSoftReset
  repeat' first | (intro v; first | (refine (fun (_ : Keep k v) => ?_) ?_; rotate_left; simp only [v]; rotate_left; clear_value v) | (have hv : v = v := rfl; simp only [v] at hv; clear hv)) | with_reducible assumption | with_reducible apply ask_keeps | with_reducible apply discover_keeps | lift_lets -underBinder | intro _ _ _ | split | dsimp -zeta only | simp only [mk_keeps]

end Sys2Proof.Machine
end

