-- ==== Sys2Proof/Laws/KeepTieAttach.lean ====
section
/-! SUPPORT. The operations of TieAttach.lean keep the part, the fuses, the queue and a canonical word store. -/

namespace Sys2Proof.Machine

set_option linter.all false

theorem lcwReading_keeps {k : Key} {s : State} (h : Keep k s) (a0 : Nat) (a1 : Nat) : Keep k (lcwReading s a0 a1) := by
  unfold lcwReading
  repeat' first | (intro v; first | (refine (fun (_ : Keep k v) => ?_) ?_; rotate_left; simp only [v]; rotate_left; clear_value v) | (have hv : v = v := rfl; simp only [v] at hv; clear hv)) | with_reducible assumption | with_reducible apply setF_keeps | with_reducible apply modTl_keeps | lift_lets -underBinder | intro _ _ _ | split | dsimp -zeta only | simp only [mk_keeps]

theorem lineEdge_keeps {k : Key} {s : State} (h : Keep k s) (a0 : Nat) (a1 : Nat) : Keep k (lineEdge s a0 a1) := by
  unfold lineEdge
  repeat' first | (intro v; first | (refine (fun (_ : Keep k v) => ?_) ?_; rotate_left; simp only [v]; rotate_left; clear_value v) | (have hv : v = v := rfl; simp only [v] at hv; clear hv)) | with_reducible assumption | with_reducible apply modTl_keeps | lift_lets -underBinder | intro _ _ _ | split | dsimp -zeta only | simp only [mk_keeps]

theorem lcwMs_keeps {k : Key} {s : State} (h : Keep k s) (a0 : Nat) (a1 : Nat) (a2 : Option Nat) : Keep k (lcwMs s a0 a1 a2) := by
  unfold lcwMs
  repeat' first | (intro v; first | (refine (fun (_ : Keep k v) => ?_) ?_; rotate_left; simp only [v]; rotate_left; clear_value v) | (have hv : v = v := rfl; simp only [v] at hv; clear hv)) | with_reducible assumption | with_reducible apply setF_keeps | with_reducible apply modTl_keeps | with_reducible apply lcwReading_keeps | with_reducible apply lineEdge_keeps | lift_lets -underBinder | intro _ _ _ | split | dsimp -zeta only | simp only [mk_keeps]

theorem heldMs_keeps {k : Key} {s : State} (h : Keep k s) (a0 : Nat) (a1 : Nat) : Keep k (heldMs s a0 a1) := by
  unfold heldMs
  repeat' first | with_reducible assumption | with_reducible apply advance_keeps | intro _ _ _ | split | dsimp -zeta only | simp only [mk_keeps]

theorem enterA_keeps {k : Key} {s : State} (h : Keep k s) (a0 : Nat) (a1 : Nat) : Keep k (enterA s a0 a1) := by
  unfold enterA
  repeat' first | (intro v; first | (refine (fun (_ : Keep k v) => ?_) ?_; rotate_left; simp only [v]; rotate_left; clear_value v) | (have hv : v = v := rfl; simp only [v] at hv; clear hv)) | with_reducible assumption | with_reducible apply setF_keeps | with_reducible apply modTl_keeps | lift_lets -underBinder | intro _ _ _ | split | dsimp -zeta only | simp only [mk_keeps]

theorem enterUnatt_keeps {k : Key} {s : State} (h : Keep k s) (a0 : Nat) (a1 : Bool) : Keep k (enterUnatt s a0 a1) := by
  unfold enterUnatt
  repeat' first | (intro v; first | (refine (fun (_ : Keep k v) => ?_) ?_; rotate_left; simp only [v]; rotate_left; clear_value v) | (have hv : v = v := rfl; simp only [v] at hv; clear hv)) | with_reducible assumption | with_reducible apply modTl_keeps | with_reducible apply enterA_keeps | lift_lets -underBinder | intro _ _ _ | split | dsimp -zeta only | simp only [mk_keeps]

theorem unattached_keeps {k : Key} {s : State} (h : Keep k s) (a0 : Nat) : Keep k (unattached s a0) := by
  unfold unattached
  repeat' first | with_reducible assumption | with_reducible apply enterUnatt_keeps | intro _ _ _ | split | dsimp -zeta only | simp only [mk_keeps]

theorem attach_keeps {k : Key} {s : State} (h : Keep k s) (a0 : Nat) (a1 : Bool) : Keep k (attach s a0 a1) := by
  unfold attach
  repeat' first | (intro v; first | (refine (fun (_ : Keep k v) => ?_) ?_; rotate_left; simp only [v]; rotate_left; clear_value v) | (have hv : v = v := rfl; simp only [v] at hv; clear hv)) | with_reducible assumption | with_reducible apply wr_keeps | with_reducible apply setF_keeps | with_reducible apply setFlag_keeps | with_reducible apply incSat_keeps | with_reducible apply resetWords_keeps | with_reducible apply modTl_keeps | with_reducible apply showContract_keeps | with_reducible apply contractDefault_keeps | with_reducible apply raiseTl_keeps | with_reducible apply traceAttach_keeps | with_reducible apply updStanding_keeps | with_reducible apply ask_keeps | with_reducible apply lesOff_keeps | with_reducible apply lesSwitchOn_keeps | with_reducible apply endReattachCmd_keeps | with_reducible apply enterA_keeps | lift_lets -underBinder | intro _ _ _ | split | dsimp -zeta only | simp only [mk_keeps]

theorem failPending_keeps {k : Key} {s : State} (h : Keep k s) (a0 : Nat) : Keep k (failPending s a0) := by
  unfold failPending
  repeat' first | with_reducible assumption | with_reducible apply incSat_keeps | with_reducible apply raiseTl_keeps | intro _ _ _ | split | dsimp -zeta only | simp only [mk_keeps]

theorem leaveAttached_keeps {k : Key} {s : State} (h : Keep k s) (a0 : Nat) : Keep k (leaveAttached s a0) := by
  unfold leaveAttached
  repeat' first | (intro v; first | (refine (fun (_ : Keep k v) => ?_) ?_; rotate_left; simp only [v]; rotate_left; clear_value v) | (have hv : v = v := rfl; simp only [v] at hv; clear hv)) | with_reducible assumption | with_reducible apply setF_keeps | with_reducible apply setFlag_keeps | with_reducible apply modTl_keeps | with_reducible apply showContract_keeps | with_reducible apply contractDefault_keeps | with_reducible apply raiseTl_keeps | with_reducible apply lesOff_keeps | with_reducible apply exitModes_keeps | with_reducible apply endSwapCmd_keeps | with_reducible apply endReattachCmd_keeps | with_reducible apply failVendors_keeps | with_reducible apply failPending_keeps | lift_lets -underBinder | intro _ _ _ | split | dsimp -zeta only | simp only [mk_keeps]

theorem detach_keeps {k : Key} {s : State} (h : Keep k s) (a0 : Nat) : Keep k (detach s a0) := by
  unfold detach
  repeat' first | with_reducible assumption | with_reducible apply showContract_keeps | with_reducible apply traceAttach_keeps | with_reducible apply unattached_keeps | with_reducible apply leaveAttached_keeps | intro _ _ _ | split | dsimp -zeta only | simp only [mk_keeps]

theorem toReattach_keeps {k : Key} {s : State} (h : Keep k s) (a0 : Nat) (a1 : Option Nat) : Keep k (toReattach s a0 a1) := by
  unfold toReattach
  repeat' first | (intro v; first | (refine (fun (_ : Keep k v) => ?_) ?_; rotate_left; simp only [v]; rotate_left; clear_value v) | (have hv : v = v := rfl; simp only [v] at hv; clear hv)) | with_reducible assumption | with_reducible apply modTl_keeps | with_reducible apply showContract_keeps | with_reducible apply traceAttach_keeps | with_reducible apply enterA_keeps | with_reducible apply leaveAttached_keeps | lift_lets -underBinder | intro _ _ _ | split | dsimp -zeta only | simp only [mk_keeps]

theorem tlCfgWrite_keeps {k : Key} {s : State} (h : Keep k s) (a0 : Nat) (a1 : Word) : Keep k (tlCfgWrite s a0 a1) := by
  unfold tlCfgWrite
  repeat' first | (intro v; first | (refine (fun (_ : Keep k v) => ?_) ?_; rotate_left; simp only [v]; rotate_left; clear_value v) | (have hv : v = v := rfl; simp only [v] at hv; clear hv)) | with_reducible assumption | with_reducible apply wr_keeps | with_reducible apply modTl_keeps | with_reducible apply showContract_keeps | with_reducible apply traceAttach_keeps | with_reducible apply lesOff_keeps | with_reducible apply lesReview_keeps | with_reducible apply enterA_keeps | with_reducible apply unattached_keeps | with_reducible apply leaveAttached_keeps | lift_lets -underBinder | intro _ _ _ | split | dsimp -zeta only | simp only [mk_keeps]

theorem execTlEnable_keeps {k : Key} {s : State} (h : Keep k s) (a0 : Nat) (a1 : Word) : KeepO k (execTlEnable a0 a1 s) := by
  unfold execTlEnable
  repeat' first | with_reducible assumption | with_reducible apply noteCfg_keeps | with_reducible apply tlCfgWrite_keeps | with_reducible apply next_keeps | intro _ _ _ | split | dsimp -zeta only | simp only [mk_keeps]

theorem execTlDisable_keeps {k : Key} {s : State} (h : Keep k s) (a0 : Nat) (a1 : Word) : KeepO k (execTlDisable a0 a1 s) := by
  unfold execTlDisable
  repeat' first | with_reducible assumption | with_reducible apply noteCfg_keeps | with_reducible apply tlCfgWrite_keeps | with_reducible apply next_keeps | intro _ _ _ | split | dsimp -zeta only | simp only [mk_keeps]

theorem execLcwPartnerSeen_keeps {k : Key} {s : State} (h : Keep k s) (a0 : Nat) (a1 : Nat) : KeepO k (execLcwPartnerSeen a0 a1 s) := by
  unfold execLcwPartnerSeen
  repeat' first | (intro v; first | (refine (fun (_ : Keep k v) => ?_) ?_; rotate_left; simp only [v]; rotate_left; clear_value v) | (have hv : v = v := rfl; simp only [v] at hv; clear hv)) | with_reducible assumption | with_reducible apply lcwReading_keeps | with_reducible apply enterA_keeps | with_reducible apply next_keeps | lift_lets -underBinder | intro _ _ _ | split | dsimp -zeta only | simp only [mk_keeps]

theorem sinceMs_keeps {k : Key} {s : State} (h : Keep k s) (a0 : Nat) (a1 : Nat) : Keep k (sinceMs s a0 a1) := by
  unfold sinceMs
  repeat' first | with_reducible assumption | with_reducible apply advance_keeps | intro _ _ _ | split | dsimp -zeta only | simp only [mk_keeps]

theorem execDrpToggle_keeps {k : Key} {s : State} (h : Keep k s) (a0 : Nat) : KeepO k (execDrpToggle a0 s) := by
  unfold execDrpToggle
  repeat' first | with_reducible assumption | with_reducible apply enterUnatt_keeps | with_reducible apply sinceMs_keeps | with_reducible apply next_keeps | intro _ _ _ | split | dsimp -zeta only | simp only [mk_keeps]

theorem execAttachDebounceDone_keeps {k : Key} {s : State} (h : Keep k s) (a0 : Nat) : KeepO k (execAttachDebounceDone a0 s) := by
  unfold execAttachDebounceDone
  repeat' first | (intro v; first | (refine (fun (_ : Keep k v) => ?_) ?_; rotate_left; simp only [v]; rotate_left; clear_value v) | (have hv : v = v := rfl; simp only [v] at hv; clear hv)) | with_reducible assumption | with_reducible apply heldMs_keeps | with_reducible apply enterA_keeps | with_reducible apply attach_keeps | with_reducible apply next_keeps | lift_lets -underBinder | intro _ _ _ | split | dsimp -zeta only | simp only [mk_keeps]

theorem execAttachwaitLost_keeps {k : Key} {s : State} (h : Keep k s) (a0 : Nat) : KeepO k (execAttachwaitLost a0 s) := by
  unfold execAttachwaitLost
  repeat' first | with_reducible assumption | with_reducible apply heldMs_keeps | with_reducible apply unattached_keeps | with_reducible apply next_keeps | intro _ _ _ | split | dsimp -zeta only | simp only [mk_keeps]

theorem execTryPartnerSeen_keeps {k : Key} {s : State} (h : Keep k s) (a0 : Nat) : KeepO k (execTryPartnerSeen a0 s) := by
  unfold execTryPartnerSeen
  repeat' first | with_reducible assumption | with_reducible apply heldMs_keeps | with_reducible apply attach_keeps | with_reducible apply next_keeps | intro _ _ _ | split | dsimp -zeta only | simp only [mk_keeps]

theorem execTryTimerExpire_keeps {k : Key} {s : State} (h : Keep k s) (a0 : Nat) : KeepO k (execTryTimerExpire a0 s) := by
  unfold execTryTimerExpire
  repeat' first | (intro v; first | (refine (fun (_ : Keep k v) => ?_) ?_; rotate_left; simp only [v]; rotate_left; clear_value v) | (have hv : v = v := rfl; simp only [v] at hv; clear hv)) | with_reducible assumption | with_reducible apply enterA_keeps | with_reducible apply unattached_keeps | with_reducible apply sinceMs_keeps | with_reducible apply next_keeps | lift_lets -underBinder | intro _ _ _ | split | dsimp -zeta only | simp only [mk_keeps]

theorem execTrywaitTimerExpire_keeps {k : Key} {s : State} (h : Keep k s) (a0 : Nat) : KeepO k (execTrywaitTimerExpire a0 s) := by
  unfold execTrywaitTimerExpire
  repeat' first | with_reducible assumption | with_reducible apply enterUnatt_keeps | with_reducible apply sinceMs_keeps | with_reducible apply next_keeps | intro _ _ _ | split | dsimp -zeta only | simp only [mk_keeps]

theorem execDetach_keeps {k : Key} {s : State} (h : Keep k s) (a0 : Nat) : KeepO k (execDetach a0 s) := by
  unfold execDetach
  repeat' first | with_reducible assumption | with_reducible apply heldMs_keeps | with_reducible apply detach_keeps | with_reducible apply next_keeps | intro _ _ _ | split | dsimp -zeta only | simp only [mk_keeps]

theorem execReattachTimerExpire_keeps {k : Key} {s : State} (h : Keep k s) (a0 : Nat) : KeepO k (execReattachTimerExpire a0 s) := by
  unfold execReattachTimerExpire
  repeat' first | (intro v; first | (refine (fun (_ : Keep k v) => ?_) ?_; rotate_left; simp only [v]; rotate_left; clear_value v) | (have hv : v = v := rfl; simp only [v] at hv; clear hv)) | with_reducible assumption | with_reducible apply setF_keeps | with_reducible apply modTl_keeps | with_reducible apply showContract_keeps | with_reducible apply unattached_keeps | with_reducible apply sinceMs_keeps | with_reducible apply next_keeps | lift_lets -underBinder | intro _ _ _ | split | dsimp -zeta only | simp only [mk_keeps]

theorem execLesRetry_keeps {k : Key} {s : State} (h : Keep k s) (a0 : Nat) : KeepO k (execLesRetry a0 s) := by
  unfold execLesRetry
  repeat' first | (intro v; first | (refine (fun (_ : Keep k v) => ?_) ?_; rotate_left; simp only [v]; rotate_left; clear_value v) | (have hv : v = v := rfl; simp only [v] at hv; clear hv)) | with_reducible assumption | with_reducible apply setF_keeps | with_reducible apply advance_keeps | with_reducible apply lesOff_keeps | with_reducible apply lesSwitchOn_keeps | with_reducible apply next_keeps | lift_lets -underBinder | intro _ _ _ | split | dsimp -zeta only | simp only [mk_keeps]

theorem execLesOvercurrent_keeps {k : Key} {s : State} (h : Keep k s) (a0 : Nat) : KeepO k (execLesOvercurrent a0 s) := by
  unfold execLesOvercurrent
  repeat' first | (intro v; first | (refine (fun (_ : Keep k v) => ?_) ?_; rotate_left; simp only [v]; rotate_left; clear_value v) | (have hv : v = v := rfl; simp only [v] at hv; clear hv)) | with_reducible assumption | with_reducible apply setF_keeps | with_reducible apply modTl_keeps | with_reducible apply fault_keeps | with_reducible apply raiseTl_keeps | with_reducible apply lesOff_keeps | with_reducible apply next_keeps | lift_lets -underBinder | intro _ _ _ | split | dsimp -zeta only | simp only [mk_keeps]

theorem execTlLegTrip_keeps {k : Key} {s : State} (h : Keep k s) (a0 : Nat) (a1 : Nat) : KeepO k (execTlLegTrip a0 a1 s) := by
  unfold execTlLegTrip
  repeat' first | (intro v; first | (refine (fun (_ : Keep k v) => ?_) ?_; rotate_left; simp only [v]; rotate_left; clear_value v) | (have hv : v = v := rfl; simp only [v] at hv; clear hv)) | with_reducible assumption | with_reducible apply setFlag_keeps | with_reducible apply advance_keeps | with_reducible apply modTl_keeps | with_reducible apply fault_keeps | with_reducible apply raisePP_keeps | with_reducible apply contractDefault_keeps | with_reducible apply raiseTlc_keeps | with_reducible apply next_keeps | lift_lets -underBinder | intro _ _ _ | split | dsimp -zeta only | simp only [mk_keeps]

theorem tlphyStop_keeps {k : Key} {s : State} (h : Keep k s)  : Keep k (tlphyStop s) := by
  unfold tlphyStop
  repeat' first | (intro v; first | (refine (fun (_ : Keep k v) => ?_) ?_; rotate_left; simp only [v]; rotate_left; clear_value v) | (have hv : v = v := rfl; simp only [v] at hv; clear hv)) | with_reducible assumption | with_reducible apply forEach_keeps | with_reducible apply setTl_keeps | with_reducible apply legOff_keeps | with_reducible apply closeTunnel_keeps | with_reducible apply endSwapCmd_keeps | with_reducible apply endReattachCmd_keeps | with_reducible apply failVendors_keeps | with_reducible apply forEach_keeps | lift_lets -underBinder | intro _ _ _ | split | dsimp -zeta only | simp only [mk_keeps]

theorem tlphyStart_keeps {k : Key} {s : State} (h : Keep k s)  : Keep k (tlphyStart s) := by
  unfold tlphyStart
  repeat' first | (intro v; first | (refine (fun (_ : Keep k v) => ?_) ?_; rotate_left; simp only [v]; rotate_left; clear_value v) | (have hv : v = v := rfl; simp only [v] at hv; clear hv)) | with_reducible assumption | with_reducible apply forEach_keeps | with_reducible apply updLesIn_keeps | with_reducible apply lcwReading_keeps | with_reducible apply enterA_keeps | with_reducible apply unattached_keeps | with_reducible apply forEach_keeps | lift_lets -underBinder | intro _ _ _ | split | dsimp -zeta only | simp only [mk_keeps]

end Sys2Proof.Machine
end

