-- ==== Sys2Proof/Laws/KeepTieLink.lean ====
section
/-! SUPPORT. The operations of TieLink.lean keep the part, the fuses, the queue and a canonical word store. -/

namespace Sys2Proof.Machine

set_option linter.all false

theorem forbidden_keeps {k : Key} {s t : State} {a0 : Nat} {m : TlMsg} (h : Keep k s) (e : forbidden s a0 m = some t) :
    Keep k t := by
  unfold forbidden at e
  split at e
  · cases e
    exact endSwapCmd_keeps (clearOwn_keeps h _) _ _
  · split at e
    · cases e
      exact endReattachCmd_keeps (clearOwn_keeps h _) _ _
    · cases e

theorem takeNext_keeps_snd {k : Key} {s : State} (h : Keep k s) (a0 : Nat) : Keep k (takeNext s a0).2 := by
  unfold takeNext
  split
  · split
    · exact modTl_keeps h _ _
    · exact h
  · split
    · split
      · have h1 := fun f => modTl_keeps h a0 f
        dsimp only
        split
        · exact forbidden_keeps (h1 _) ‹_›
        · exact h1 _
      · exact h
    · exact h

theorem takeNext_keeps {k : Key} {s t : State} {x : Option TlMsg} {a0 : Nat} (h : Keep k s) (e : takeNext s a0 = (x, t)) : Keep k t := by
  have := takeNext_keeps_snd h a0
  rwa [e] at this

theorem startTx_keeps {k : Key} {s : State} (h : Keep k s) (a0 : Nat) (a1 : Nat) : Keep k (startTx s a0 a1) := by
  unfold startTx
  repeat' first | (intro v; first | (refine (fun (_ : Keep k v) => ?_) ?_; rotate_left; simp only [v]; rotate_left; clear_value v) | (have hv : v = v := rfl; simp only [v] at hv; clear hv)) | with_reducible assumption | with_reducible apply advance_keeps | with_reducible apply modTl_keeps | lift_lets -underBinder | intro _ _ _ | split | dsimp -zeta only | simp only [mk_keeps]

theorem txStart_keeps {k : Key} {s : State} (h : Keep k s) (a0 : Nat) : Keep k (txStart s a0) := by
  unfold txStart
  repeat' first | (intro v; first | (refine (fun (_ : Keep k v) => ?_) ?_; rotate_left; simp only [v]; rotate_left; clear_value v) | (have hv : v = v := rfl; simp only [v] at hv; clear hv)) | with_reducible assumption | with_reducible apply modTl_keeps | with_reducible refine takeNext_keeps ?_ ‹_› | with_reducible apply takeNext_keeps_snd | with_reducible apply startTx_keeps | lift_lets -underBinder | intro _ _ _ | split | dsimp -zeta only | simp only [mk_keeps]

theorem execPacketTxStart_keeps {k : Key} {s : State} (h : Keep k s) (a0 : Nat) : KeepO k (execPacketTxStart a0 s) := by
  unfold execPacketTxStart
  repeat' first | with_reducible assumption | with_reducible apply txStart_keeps | with_reducible apply next_keeps | intro _ _ _ | split | dsimp -zeta only | simp only [mk_keeps]

theorem tracePacket_keeps {k : Key} {s : State} (h : Keep k s) (a0 : Nat) (a1 : Nat) (a2 : Nat) (a3 : Nat) (a4 : List Word) : Keep k (tracePacket s a0 a1 a2 a3 a4) := by
  unfold tracePacket
  repeat' first | with_reducible assumption | with_reducible apply offer_keeps | intro _ _ _ | split | dsimp -zeta only | simp only [mk_keeps]

theorem putPacket_keeps {k : Key} {s : State} (h : Keep k s) (a0 : Nat) (a1 : Word) (a2 : List Word) : Keep k (putPacket s a0 a1 a2) := by
  unfold putPacket
  repeat' first | with_reducible assumption | with_reducible apply emit_keeps | with_reducible apply tracePacket_keeps | intro _ _ _ | split | dsimp -zeta only | simp only [mk_keeps]

theorem endTx_keeps {k : Key} {s : State} (h : Keep k s) (a0 : Nat) : Keep k (endTx s a0) := by
  unfold endTx
  repeat' first | (intro v; first | (refine (fun (_ : Keep k v) => ?_) ?_; rotate_left; simp only [v]; rotate_left; clear_value v) | (have hv : v = v := rfl; simp only [v] at hv; clear hv)) | with_reducible assumption | with_reducible apply advance_keeps | with_reducible apply modTl_keeps | lift_lets -underBinder | intro _ _ _ | split | dsimp -zeta only | simp only [mk_keeps]

theorem swapDoneSent_keeps {k : Key} {s : State} (h : Keep k s) (a0 : Nat) : Keep k (swapDoneSent s a0) := by
  unfold swapDoneSent
  repeat' first | (intro v; first | (refine (fun (_ : Keep k v) => ?_) ?_; rotate_left; simp only [v]; rotate_left; clear_value v) | (have hv : v = v := rfl; simp only [v] at hv; clear hv)) | with_reducible assumption | with_reducible apply setF_keeps | with_reducible apply modTl_keeps | with_reducible apply showContract_keeps | with_reducible apply raiseTlc_keeps | with_reducible apply lesReview_keeps | with_reducible apply endSwapCmd_keeps | lift_lets -underBinder | intro _ _ _ | split | dsimp -zeta only | simp only [mk_keeps]

theorem messageSent_keeps {k : Key} {s : State} (h : Keep k s) (a0 : Nat) (a1 : TlTx) : Keep k (messageSent s a0 a1) := by
  unfold messageSent
  repeat' first | (intro v; first | (refine (fun (_ : Keep k v) => ?_) ?_; rotate_left; simp only [v]; rotate_left; clear_value v) | (have hv : v = v := rfl; simp only [v] at hv; clear hv)) | with_reducible assumption | with_reducible apply modTl_keeps | with_reducible apply putPacket_keeps | with_reducible apply endTx_keeps | with_reducible apply swapDoneSent_keeps | lift_lets -underBinder | intro _ _ _ | split | dsimp -zeta only | simp only [mk_keeps]

theorem tunnelSent_keeps {k : Key} {s : State} (h : Keep k s) (a0 : Nat) : Keep k (tunnelSent s a0) := by
  unfold tunnelSent
  repeat' first | (intro v; first | (refine (fun (_ : Keep k v) => ?_) ?_; rotate_left; simp only [v]; rotate_left; clear_value v) | (have hv : v = v := rfl; simp only [v] at hv; clear hv)) | with_reducible assumption | with_reducible apply emit_keeps | with_reducible apply modTl_keeps | with_reducible apply endTx_keeps | lift_lets -underBinder | intro _ _ _ | split | dsimp -zeta only | simp only [mk_keeps]

theorem execPacketTxDone_keeps {k : Key} {s : State} (h : Keep k s) (a0 : Nat) : KeepO k (execPacketTxDone a0 s) := by
  unfold execPacketTxDone
  repeat' first | (intro v; first | (refine (fun (_ : Keep k v) => ?_) ?_; rotate_left; simp only [v]; rotate_left; clear_value v) | (have hv : v = v := rfl; simp only [v] at hv; clear hv)) | with_reducible assumption | with_reducible apply modTl_keeps | with_reducible apply putPacket_keeps | with_reducible apply endTx_keeps | with_reducible apply messageSent_keeps | with_reducible apply tunnelSent_keeps | with_reducible apply next_keeps | lift_lets -underBinder | intro _ _ _ | split | dsimp -zeta only | simp only [mk_keeps]

theorem execTxCollision_keeps {k : Key} {s : State} (h : Keep k s) (a0 : Nat) (a1 : List Bool) : KeepO k (execTxCollision a0 a1 s) := by
  unfold execTxCollision
  repeat' first | (intro v; first | (refine (fun (_ : Keep k v) => ?_) ?_; rotate_left; simp only [v]; rotate_left; clear_value v) | (have hv : v = v := rfl; simp only [v] at hv; clear hv)) | with_reducible assumption | with_reducible apply advance_keeps | with_reducible apply modTl_keeps | with_reducible apply next_keeps | lift_lets -underBinder | intro _ _ _ | split | dsimp -zeta only | simp only [mk_keeps]

theorem execCollisionBackoffEnd_keeps {k : Key} {s : State} (h : Keep k s) (a0 : Nat) : KeepO k (execCollisionBackoffEnd a0 s) := by
  unfold execCollisionBackoffEnd
  repeat' first | with_reducible assumption | with_reducible apply advance_keeps | with_reducible apply modTl_keeps | with_reducible apply txStart_keeps | with_reducible apply next_keeps | intro _ _ _ | split | dsimp -zeta only | simp only [mk_keeps]

theorem beginSwap_keeps {k : Key} {s : State} (h : Keep k s) (a0 : Nat) : Keep k (beginSwap s a0) := by
  unfold beginSwap
  repeat' first | with_reducible assumption | with_reducible apply modTl_keeps | with_reducible apply showContract_keeps | with_reducible apply lesOff_keeps | intro _ _ _ | split | dsimp -zeta only | simp only [mk_keeps]

theorem reattachNow_keeps {k : Key} {s : State} (h : Keep k s) (a0 : Nat) : Keep k (reattachNow s a0) := by
  unfold reattachNow
  repeat' first | with_reducible assumption | with_reducible apply modTl_keeps | with_reducible apply endReattachCmd_keeps | with_reducible apply toReattach_keeps | intro _ _ _ | split | dsimp -zeta only | simp only [mk_keeps]

theorem startAnswerTime_keeps {k : Key} {s : State} (h : Keep k s) (a0 : Nat) (a1 : TlMsg) : Keep k (startAnswerTime s a0 a1) := by
  unfold startAnswerTime
  repeat' first | (intro v; first | (refine (fun (_ : Keep k v) => ?_) ?_; rotate_left; simp only [v]; rotate_left; clear_value v) | (have hv : v = v := rfl; simp only [v] at hv; clear hv)) | with_reducible assumption | with_reducible apply modTl_keeps | lift_lets -underBinder | intro _ _ _ | split | dsimp -zeta only | simp only [mk_keeps]

theorem acked_keeps {k : Key} {s : State} (h : Keep k s) (a0 : Nat) (a1 : TlTx) : Keep k (acked s a0 a1) := by
  unfold acked
  repeat' first | (intro v; first | (refine (fun (_ : Keep k v) => ?_) ?_; rotate_left; simp only [v]; rotate_left; clear_value v) | (have hv : v = v := rfl; simp only [v] at hv; clear hv)) | with_reducible assumption | with_reducible apply modTl_keeps | with_reducible apply endSt_keeps | with_reducible apply discover_keeps | with_reducible apply identAgain_keeps | with_reducible apply afterSoftReset_keeps | with_reducible apply beginSwap_keeps | with_reducible apply reattachNow_keeps | with_reducible apply startAnswerTime_keeps | lift_lets -underBinder | intro _ _ _ | split | dsimp -zeta only | simp only [mk_keeps]

theorem failed_keeps {k : Key} {s : State} (h : Keep k s) (a0 : Nat) (a1 : TlTx) : Keep k (failed s a0 a1) := by
  unfold failed
  repeat' first | (intro v; first | (refine (fun (_ : Keep k v) => ?_) ?_; rotate_left; simp only [v]; rotate_left; clear_value v) | (have hv : v = v := rfl; simp only [v] at hv; clear hv)) | with_reducible assumption | with_reducible apply incSat_keeps | with_reducible apply modTl_keeps | with_reducible apply endSt_keeps | with_reducible apply raiseTl_keeps | with_reducible apply sendSoftReset_keeps | with_reducible apply toReattach_keeps | lift_lets -underBinder | intro _ _ _ | split | dsimp -zeta only | simp only [mk_keeps]

theorem takeRx_keeps {k : Key} {s t : State} {a0 a1 : Nat} {r : TlRx} (h : Keep k s) (e : takeRx s a0 a1 = some (r, t)) :
    Keep k t := by
  unfold takeRx at e
  split at e
  · split at e
    · cases e
      exact modTl_keeps h _ _
    · cases e
  · cases e

theorem onRx_keeps {k : Key} {s : State} (h : Keep k s) (a0 : Nat) (a1 : Nat) (a2 : TlRx → State → State)
    (ha2 : ∀ (x : TlRx) t, Keep k t → Keep k (a2 x t)) : Keep k (onRx s a0 a1 a2) := by
  unfold onRx
  split
  · split
    · next e => exact ha2 _ _ (takeRx_keeps h e)
    · exact h
  · exact h

theorem execGoodcrc_keeps {k : Key} {s : State} (h : Keep k s) (a0 : Nat) : KeepO k (execGoodcrc a0 s) := by
  unfold execGoodcrc
  repeat' first | with_reducible assumption | with_reducible apply acked_keeps | with_reducible apply onRx_keeps | with_reducible apply next_keeps | intro _ _ _ | split | dsimp -zeta only | simp only [mk_keeps]

theorem execAckTimeout_keeps {k : Key} {s : State} (h : Keep k s) (a0 : Nat) : KeepO k (execAckTimeout a0 s) := by
  unfold execAckTimeout
  repeat' first | with_reducible assumption | with_reducible apply modTl_keeps | with_reducible apply dueThen_keeps | with_reducible apply failed_keeps | with_reducible apply next_keeps | intro _ _ _ | split | dsimp -zeta only | simp only [mk_keeps]

theorem execSoftReset_keeps {k : Key} {s : State} (h : Keep k s) (a0 : Nat) : KeepO k (execSoftReset a0 s) := by
  unfold execSoftReset
  repeat' first | with_reducible assumption | with_reducible apply showContract_keeps | with_reducible apply raiseTl_keeps | with_reducible apply resetProtocol_keeps | with_reducible apply identAgain_keeps | with_reducible apply afterSoftReset_keeps | with_reducible apply onRx_keeps | with_reducible apply next_keeps | intro _ _ _ | split | dsimp -zeta only | simp only [mk_keeps]

theorem execSoftResetRepeat_keeps {k : Key} {s : State} (h : Keep k s) (a0 : Nat) : KeepO k (execSoftResetRepeat a0 s) := by
  unfold execSoftResetRepeat
  repeat' first | with_reducible assumption | with_reducible apply dueThen_keeps | with_reducible apply sendSoftReset_keeps | with_reducible apply next_keeps | intro _ _ _ | split | dsimp -zeta only | simp only [mk_keeps]

theorem deliver_keeps {k : Key} {s : State} (h : Keep k s) (a0 : Nat) (a1 : TlRx) : Keep k (deliver s a0 a1) := by
  unfold deliver
  repeat' first | with_reducible assumption | with_reducible apply modTl_keeps | with_reducible apply notSupported_keeps | intro _ _ _ | split | dsimp -zeta only | simp only [mk_keeps]

theorem goodPacket_keeps {k : Key} {s : State} (h : Keep k s) (a0 : Nat) (a1 : TlRx) : Keep k (goodPacket s a0 a1) := by
  unfold goodPacket
  repeat' first | (intro v; first | (refine (fun (_ : Keep k v) => ?_) ?_; rotate_left; simp only [v]; rotate_left; clear_value v) | (have hv : v = v := rfl; simp only [v] at hv; clear hv)) | with_reducible assumption | with_reducible apply incSat_keeps | with_reducible apply modTl_keeps | with_reducible apply tracePacket_keeps | with_reducible apply deliver_keeps | lift_lets -underBinder | intro _ _ _ | split | dsimp -zeta only | simp only [mk_keeps]

theorem hear_keeps_snd {k : Key} {s : State} (h : Keep k s) (a0 : Nat) (a1 : List (Nat × Nat)) : Keep k (hear s a0 a1).2 := by
  unfold hear
  repeat' first | (intro v; first | (refine (fun (_ : Keep k v) => ?_) ?_; rotate_left; simp only [v]; rotate_left; clear_value v) | (have hv : v = v := rfl; simp only [v] at hv; clear hv)) | with_reducible assumption | with_reducible apply incSat_keeps | with_reducible apply forEach_keeps | with_reducible apply modTl_keeps | with_reducible apply raiseTl_keeps | with_reducible apply forEach_keeps | lift_lets -underBinder | intro _ _ _ | split | dsimp -zeta only | simp only [mk_keeps]
theorem hear_keeps {k : Key} {s t : State} {x : RxOut} {a0 : Nat} {a1 : List (Nat × Nat)} (h : Keep k s) (e : hear s a0 a1 = (x, t)) : Keep k t := by
  have := hear_keeps_snd h a0 a1
  rwa [e] at this

theorem execPacketReceived_keeps {k : Key} {s : State} (h : Keep k s) (a0 : Nat) (a1 : List (Nat × Nat)) : KeepO k (execPacketReceived a0 a1 s) := by
  unfold execPacketReceived
  repeat' first | (intro v; first | (refine (fun (_ : Keep k v) => ?_) ?_; rotate_left; simp only [v]; rotate_left; clear_value v) | (have hv : v = v := rfl; simp only [v] at hv; clear hv)) | with_reducible assumption | with_reducible apply incSat_keeps | with_reducible apply sendFault_keeps | with_reducible refine injectOne_keeps_ite ?_ ‹_› | with_reducible refine injectOne_keeps ?_ ‹_› | with_reducible apply injectOne_keeps_snd | with_reducible apply injectSettle_keeps | with_reducible apply raiseTl_keeps | with_reducible apply goodPacket_keeps | with_reducible refine hear_keeps ?_ ‹_› | with_reducible apply hear_keeps_snd | with_reducible apply next_keeps | lift_lets -underBinder | intro _ _ _ | split | dsimp -zeta only | simp only [mk_keeps]

theorem nextFrame_keeps {k : Key} {s : State} (h : Keep k s) (a0 : Nat) : Keep k (nextFrame s a0) := by
  unfold nextFrame
  repeat' first | with_reducible assumption | with_reducible apply modTl_keeps | intro _ _ _ | split | dsimp -zeta only | simp only [mk_keeps]

theorem goodFrame_keeps {k : Key} {s : State} (h : Keep k s) (a0 : Nat) (a1 : Word) (a2 : List Byte) : Keep k (goodFrame s a0 a1 a2) := by
  unfold goodFrame
  repeat' first | (intro v; first | (refine (fun (_ : Keep k v) => ?_) ?_; rotate_left; simp only [v]; rotate_left; clear_value v) | (have hv : v = v := rfl; simp only [v] at hv; clear hv)) | with_reducible assumption | with_reducible apply modTl_keeps | with_reducible apply stage_keeps | with_reducible apply endTag_keeps | with_reducible apply nextFrame_keeps | lift_lets -underBinder | intro _ _ _ | split | dsimp -zeta only | simp only [mk_keeps]

theorem execTunnelFrameReceived_keeps {k : Key} {s : State} (h : Keep k s) (a0 : Nat) (a1 : List (Nat × Nat)) : KeepO k (execTunnelFrameReceived a0 a1 s) := by
  unfold execTunnelFrameReceived
  repeat' first | (intro v; first | (refine (fun (_ : Keep k v) => ?_) ?_; rotate_left; simp only [v]; rotate_left; clear_value v) | (have hv : v = v := rfl; simp only [v] at hv; clear hv)) | with_reducible assumption | with_reducible refine hear_keeps ?_ ‹_› | with_reducible apply hear_keeps_snd | with_reducible apply goodFrame_keeps | with_reducible apply next_keeps | lift_lets -underBinder | intro _ _ _ | split | dsimp -zeta only | simp only [mk_keeps]

theorem execTunnelAckTimeout_keeps {k : Key} {s : State} (h : Keep k s) (a0 : Nat) : KeepO k (execTunnelAckTimeout a0 s) := by
  unfold execTunnelAckTimeout
  repeat' first | with_reducible assumption | with_reducible apply modTl_keeps | with_reducible apply raiseTlc_keeps | with_reducible apply dueThen_keeps | with_reducible apply ask_keeps | with_reducible apply exitMode_keeps | with_reducible apply next_keeps | intro _ _ _ | split | dsimp -zeta only | simp only [mk_keeps]

end Sys2Proof.Machine
end

