-- ==== Sys2Proof/Laws/KeepTieContract.lean ====
section
/-! SUPPORT. The operations of TieContract.lean keep the part, the fuses, the queue and a canonical word store. -/

namespace Sys2Proof.Machine

set_option linter.all false

theorem execGetCaps_keeps {k : Key} {s : State} (h : Keep k s) (a0 : Nat) : KeepO k (execGetCaps a0 s) := by
  unfold execGetCaps
  repeat' first | with_reducible assumption | with_reducible apply answer_keeps | with_reducible apply notSupported_keeps | with_reducible apply onRx_keeps | with_reducible apply next_keeps | intro _ _ _ | split | dsimp -zeta only | simp only [mk_keeps]

theorem storeCaps_keeps {k : Key} {s : State} (h : Keep k s) (a0 : Nat) (a1 : List Word) : Keep k (storeCaps s a0 a1) := by
  unfold storeCaps
  repeat' first | (intro v; first | (refine (fun (_ : Keep k v) => ?_) ?_; rotate_left; simp only [v]; rotate_left; clear_value v) | (have hv : v = v := rfl; simp only [v] at hv; clear hv)) | with_reducible assumption | with_reducible apply wr_keeps | with_reducible apply forEach_keeps | with_reducible apply forEach_keeps | lift_lets -underBinder | intro _ _ _ | split | dsimp -zeta only | simp only [mk_keeps]

theorem execCaps_keeps {k : Key} {s : State} (h : Keep k s) (a0 : Nat) : KeepO k (execCaps a0 s) := by
  unfold execCaps
  repeat' first | (intro v; first | (refine (fun (_ : Keep k v) => ?_) ?_; rotate_left; simp only [v]; rotate_left; clear_value v) | (have hv : v = v := rfl; simp only [v] at hv; clear hv)) | with_reducible assumption | with_reducible apply modTl_keeps | with_reducible apply showContract_keeps | with_reducible apply send_keeps | with_reducible apply notSupported_keeps | with_reducible apply ask_keeps | with_reducible apply onRx_keeps | with_reducible apply storeCaps_keeps | with_reducible apply next_keeps | lift_lets -underBinder | intro _ _ _ | split | dsimp -zeta only | simp only [mk_keeps]

theorem execIdent_keeps {k : Key} {s : State} (h : Keep k s) (a0 : Nat) : KeepO k (execIdent a0 s) := by
  unfold execIdent
  repeat' first | (intro v; first | (refine (fun (_ : Keep k v) => ?_) ?_; rotate_left; simp only [v]; rotate_left; clear_value v) | (have hv : v = v := rfl; simp only [v] at hv; clear hv)) | with_reducible assumption | with_reducible apply wr_keeps | with_reducible apply setFlag_keeps | with_reducible apply modTl_keeps | with_reducible apply answer_keeps | with_reducible apply discover_keeps | with_reducible apply onRx_keeps | with_reducible apply next_keeps | lift_lets -underBinder | intro _ _ _ | split | dsimp -zeta only | simp only [mk_keeps]

theorem execRequest_keeps {k : Key} {s : State} (h : Keep k s) (a0 : Nat) : KeepO k (execRequest a0 s) := by
  unfold execRequest
  repeat' first | (intro v; first | (refine (fun (_ : Keep k v) => ?_) ?_; rotate_left; simp only [v]; rotate_left; clear_value v) | (have hv : v = v := rfl; simp only [v] at hv; clear hv)) | with_reducible assumption | with_reducible apply wr_keeps | with_reducible apply modTl_keeps | with_reducible apply updLeg_keeps | with_reducible apply contractDefault_keeps | with_reducible apply raiseTlc_keeps | with_reducible apply answer_keeps | with_reducible apply notSupported_keeps | with_reducible apply setCs_keeps | with_reducible apply onRx_keeps | with_reducible apply next_keeps | lift_lets -underBinder | intro _ _ _ | split | dsimp -zeta only | simp only [mk_keeps]

theorem execTransitionSettled_keeps {k : Key} {s : State} (h : Keep k s) (a0 : Nat) : KeepO k (execTransitionSettled a0 s) := by
  unfold execTransitionSettled
  repeat' first | (intro v; first | (refine (fun (_ : Keep k v) => ?_) ?_; rotate_left; simp only [v]; rotate_left; clear_value v) | (have hv : v = v := rfl; simp only [v] at hv; clear hv)) | with_reducible assumption | with_reducible apply advance_keeps | with_reducible apply answer_keeps | with_reducible apply contractDc_keeps | with_reducible apply next_keeps | lift_lets -underBinder | intro _ _ _ | split | dsimp -zeta only | simp only [mk_keeps]

theorem reattachAgreed_keeps {k : Key} {s : State} (h : Keep k s) (a0 : Nat) : Keep k (reattachAgreed s a0) := by
  unfold reattachAgreed
  repeat' first | (intro v; first | (refine (fun (_ : Keep k v) => ?_) ?_; rotate_left; simp only [v]; rotate_left; clear_value v) | (have hv : v = v := rfl; simp only [v] at hv; clear hv)) | with_reducible assumption | with_reducible apply modTl_keeps | with_reducible apply contractDefault_keeps | with_reducible apply reattachNow_keeps | lift_lets -underBinder | intro _ _ _ | split | dsimp -zeta only | simp only [mk_keeps]

theorem execAccept_keeps {k : Key} {s : State} (h : Keep k s) (a0 : Nat) : KeepO k (execAccept a0 s) := by
  unfold execAccept
  repeat' first | (intro v; first | (refine (fun (_ : Keep k v) => ?_) ?_; rotate_left; simp only [v]; rotate_left; clear_value v) | (have hv : v = v := rfl; simp only [v] at hv; clear hv)) | with_reducible assumption | with_reducible apply modTl_keeps | with_reducible apply updLeg_keeps | with_reducible apply settleRequests_keeps | with_reducible apply contractDefault_keeps | with_reducible apply notSupported_keeps | with_reducible apply setCs_keeps | with_reducible apply clearOwn_keeps | with_reducible apply sendDue_keeps | with_reducible apply beginSwap_keeps | with_reducible apply onRx_keeps | with_reducible apply reattachAgreed_keeps | with_reducible apply next_keeps | lift_lets -underBinder | intro _ _ _ | split | dsimp -zeta only | simp only [mk_keeps]

theorem execReject_keeps {k : Key} {s : State} (h : Keep k s) (a0 : Nat) : KeepO k (execReject a0 s) := by
  unfold execReject
  repeat' first | (intro v; first | (refine (fun (_ : Keep k v) => ?_) ?_; rotate_left; simp only [v]; rotate_left; clear_value v) | (have hv : v = v := rfl; simp only [v] at hv; clear hv)) | with_reducible assumption | with_reducible apply endRequests_keeps | with_reducible apply contractDefault_keeps | with_reducible apply raiseTlc_keeps | with_reducible apply notSupported_keeps | with_reducible apply clearOwn_keeps | with_reducible apply holdOff_keeps | with_reducible apply endSwapCmd_keeps | with_reducible apply endReattachCmd_keeps | with_reducible apply onRx_keeps | with_reducible apply next_keeps | lift_lets -underBinder | intro _ _ _ | split | dsimp -zeta only | simp only [mk_keeps]

theorem execWait_keeps {k : Key} {s : State} (h : Keep k s) (a0 : Nat) : KeepO k (execWait a0 s) := by
  unfold execWait
  repeat' first | with_reducible assumption | with_reducible apply notSupported_keeps | with_reducible apply clearOwn_keeps | with_reducible apply holdOff_keeps | with_reducible apply endSwapCmd_keeps | with_reducible apply endReattachCmd_keeps | with_reducible apply onRx_keeps | with_reducible apply next_keeps | intro _ _ _ | split | dsimp -zeta only | simp only [mk_keeps]

theorem vdmNak_keeps {k : Key} {s : State} (h : Keep k s) (a0 : Nat) : Keep k (vdmNak s a0) := by
  unfold vdmNak
  repeat' first | (intro v; first | (refine (fun (_ : Keep k v) => ?_) ?_; rotate_left; simp only [v]; rotate_left; clear_value v) | (have hv : v = v := rfl; simp only [v] at hv; clear hv)) | with_reducible assumption | with_reducible apply modTl_keeps | with_reducible apply ask_keeps | with_reducible apply clearOwn_keeps | lift_lets -underBinder | intro _ _ _ | split | dsimp -zeta only | simp only [mk_keeps]

theorem execNotSupported_keeps {k : Key} {s : State} (h : Keep k s) (a0 : Nat) : KeepO k (execNotSupported a0 s) := by
  unfold execNotSupported
  repeat' first | with_reducible assumption | with_reducible apply clearOwn_keeps | with_reducible apply endSwapCmd_keeps | with_reducible apply endReattachCmd_keeps | with_reducible apply softHoldOff_keeps | with_reducible apply onRx_keeps | with_reducible apply vdmNak_keeps | with_reducible apply next_keeps | intro _ _ _ | split | dsimp -zeta only | simp only [mk_keeps]

theorem execPsReady_keeps {k : Key} {s : State} (h : Keep k s) (a0 : Nat) : KeepO k (execPsReady a0 s) := by
  unfold execPsReady
  repeat' first | (intro v; first | (refine (fun (_ : Keep k v) => ?_) ?_; rotate_left; simp only [v]; rotate_left; clear_value v) | (have hv : v = v := rfl; simp only [v] at hv; clear hv)) | with_reducible assumption | with_reducible apply setF_keeps | with_reducible apply modTl_keeps | with_reducible apply showContract_keeps | with_reducible apply contractDefault_keeps | with_reducible apply raiseTlc_keeps | with_reducible apply notSupported_keeps | with_reducible apply contractDc_keeps | with_reducible apply sendDue_keeps | with_reducible apply holdOff_keeps | with_reducible apply lesSwitchOn_keeps | with_reducible apply endSwapCmd_keeps | with_reducible apply onRx_keeps | with_reducible apply next_keeps | lift_lets -underBinder | intro _ _ _ | split | dsimp -zeta only | simp only [mk_keeps]

theorem onAtt_keeps {k : Key} {s : State} (h : Keep k s) (a0 : Nat) (a1 : TlPort → State → State) (ha1 : ∀ (x : TlPort) t, Keep k t → Keep k (a1 x t)) : Keep k (onAtt s a0 a1) := by
  unfold onAtt
  repeat' first | with_reducible assumption | with_reducible refine ha1 _ _ ?_ | intro _ _ _ | split | dsimp -zeta only | simp only [mk_keeps]

theorem execResponseTimerExpire_keeps {k : Key} {s : State} (h : Keep k s) (a0 : Nat) : KeepO k (execResponseTimerExpire a0 s) := by
  unfold execResponseTimerExpire
  repeat' first | with_reducible assumption | with_reducible apply modTl_keeps | with_reducible apply showContract_keeps | with_reducible apply dueThen_keeps | with_reducible apply sendSoftReset_keeps | with_reducible apply softHoldOff_keeps | with_reducible apply onAtt_keeps | with_reducible apply next_keeps | intro _ _ _ | split | dsimp -zeta only | simp only [mk_keeps]

theorem execGetCapsRetry_keeps {k : Key} {s : State} (h : Keep k s) (a0 : Nat) : KeepO k (execGetCapsRetry a0 s) := by
  unfold execGetCapsRetry
  repeat' first | with_reducible assumption | with_reducible apply modTl_keeps | with_reducible apply dueThen_keeps | with_reducible apply ask_keeps | with_reducible apply onAtt_keeps | with_reducible apply next_keeps | intro _ _ _ | split | dsimp -zeta only | simp only [mk_keeps]

theorem execSinkPsTimerExpire_keeps {k : Key} {s : State} (h : Keep k s) (a0 : Nat) : KeepO k (execSinkPsTimerExpire a0 s) := by
  unfold execSinkPsTimerExpire
  repeat' first | with_reducible assumption | with_reducible apply contractDefault_keeps | with_reducible apply dueThen_keeps | with_reducible apply holdOff_keeps | with_reducible apply onAtt_keeps | with_reducible apply next_keeps | intro _ _ _ | split | dsimp -zeta only | simp only [mk_keeps]

theorem execSourcePsTimerExpire_keeps {k : Key} {s : State} (h : Keep k s) (a0 : Nat) : KeepO k (execSourcePsTimerExpire a0 s) := by
  unfold execSourcePsTimerExpire
  repeat' first | with_reducible assumption | with_reducible apply contractDefault_keeps | with_reducible apply dueThen_keeps | with_reducible apply setCs_keeps | with_reducible apply onAtt_keeps | with_reducible apply next_keeps | intro _ _ _ | split | dsimp -zeta only | simp only [mk_keeps]

theorem execHoldoffExpire_keeps {k : Key} {s : State} (h : Keep k s) (a0 : Nat) : KeepO k (execHoldoffExpire a0 s) := by
  unfold execHoldoffExpire
  repeat' first | with_reducible assumption | with_reducible apply modTl_keeps | with_reducible apply dueThen_keeps | with_reducible apply ask_keeps | with_reducible apply onAtt_keeps | with_reducible apply next_keeps | intro _ _ _ | split | dsimp -zeta only | simp only [mk_keeps]

theorem execSinkKeepaliveExpire_keeps {k : Key} {s : State} (h : Keep k s) (a0 : Nat) : KeepO k (execSinkKeepaliveExpire a0 s) := by
  unfold execSinkKeepaliveExpire
  repeat' first | with_reducible assumption | with_reducible apply modTl_keeps | with_reducible apply dueThen_keeps | with_reducible apply ask_keeps | with_reducible apply onAtt_keeps | with_reducible apply next_keeps | intro _ _ _ | split | dsimp -zeta only | simp only [mk_keeps]

theorem execSourceKeepaliveExpire_keeps {k : Key} {s : State} (h : Keep k s) (a0 : Nat) : KeepO k (execSourceKeepaliveExpire a0 s) := by
  unfold execSourceKeepaliveExpire
  repeat' first | with_reducible assumption | with_reducible apply contractDefault_keeps | with_reducible apply dueThen_keeps | with_reducible apply onAtt_keeps | with_reducible apply next_keeps | intro _ _ _ | split | dsimp -zeta only | simp only [mk_keeps]

theorem execTripRetryExpire_keeps {k : Key} {s : State} (h : Keep k s) (a0 : Nat) : KeepO k (execTripRetryExpire a0 s) := by
  unfold execTripRetryExpire
  repeat' first | (intro v; first | (refine (fun (_ : Keep k v) => ?_) ?_; rotate_left; simp only [v]; rotate_left; clear_value v) | (have hv : v = v := rfl; simp only [v] at hv; clear hv)) | with_reducible assumption | with_reducible apply modTl_keeps | with_reducible apply dueThen_keeps | with_reducible apply ask_keeps | with_reducible apply onAtt_keeps | with_reducible apply next_keeps | lift_lets -underBinder | intro _ _ _ | split | dsimp -zeta only | simp only [mk_keeps]

theorem loseHost_keeps {k : Key} {s : State} (h : Keep k s)  : Keep k (loseHost s) := by
  unfold loseHost
  repeat' first | (intro v; first | (refine (fun (_ : Keep k v) => ?_) ?_; rotate_left; simp only [v]; rotate_left; clear_value v) | (have hv : v = v := rfl; simp only [v] at hv; clear hv)) | with_reducible assumption | with_reducible apply setF_keeps | with_reducible apply setFlag_keeps | with_reducible apply forEach_keeps | with_reducible apply modTl_keeps | with_reducible apply forEach_keeps | lift_lets -underBinder | intro _ _ _ | split | dsimp -zeta only | simp only [mk_keeps]

theorem regainHost_keeps {k : Key} {s : State} (h : Keep k s)  : Keep k (regainHost s) := by
  unfold regainHost
  repeat' first | with_reducible assumption | with_reducible apply setF_keeps | with_reducible apply setFlag_keeps | with_reducible apply forEach_keeps | with_reducible apply modTl_keeps | with_reducible apply forEach_keeps | intro _ _ _ | split | dsimp -zeta only | simp only [mk_keeps]

theorem execHostLostHoldExpire_keeps {k : Key} {s : State} (h : Keep k s) (a0 : Nat) : KeepO k (execHostLostHoldExpire a0 s) := by
  unfold execHostLostHoldExpire
  repeat' first | (intro v; first | (refine (fun (_ : Keep k v) => ?_) ?_; rotate_left; simp only [v]; rotate_left; clear_value v) | (have hv : v = v := rfl; simp only [v] at hv; clear hv)) | with_reducible assumption | with_reducible apply wr_keeps | with_reducible apply setF_keeps | with_reducible apply modTl_keeps | with_reducible apply noteCfg_keeps | with_reducible apply contractDefault_keeps | with_reducible apply raiseTlc_keeps | with_reducible apply dueThen_keeps | with_reducible apply ask_keeps | with_reducible apply next_keeps | lift_lets -underBinder | intro _ _ _ | split | dsimp -zeta only | simp only [mk_keeps]

theorem withdraw_keeps {k : Key} {s : State} (h : Keep k s) (a0 : Nat) (a1 : Nat) (a2 : TlOwn) : Keep k (withdraw s a0 a1 a2) := by
  unfold withdraw
  repeat' first | with_reducible assumption | with_reducible apply modTl_keeps | intro _ _ _ | split | dsimp -zeta only | simp only [mk_keeps]

theorem answerVerdict_keeps {k : Key} {s : State} (h : Keep k s) (a0 : Nat) (a1 : TlVerdict) (a2 : Bool) : Keep k (answerVerdict s a0 a1 a2) := by
  unfold answerVerdict
  repeat' first | (intro v; first | (refine (fun (_ : Keep k v) => ?_) ?_; rotate_left; simp only [v]; rotate_left; clear_value v) | (have hv : v = v := rfl; simp only [v] at hv; clear hv)) | with_reducible assumption | with_reducible apply modTl_keeps | with_reducible apply showContract_keeps | with_reducible apply contractDefault_keeps | with_reducible apply raiseTlc_keeps | with_reducible apply answer_keeps | lift_lets -underBinder | intro _ _ _ | split | dsimp -zeta only | simp only [mk_keeps]

theorem answerBy_keeps {k : Key} {s : State} (h : Keep k s) (a0 : Nat) (a1 : Nat) (a2 : Nat) (a3 : Bool) : Keep k (answerBy s a0 a1 a2 a3) := by
  unfold answerBy
  repeat' first | with_reducible assumption | with_reducible apply answerVerdict_keeps | intro _ _ _ | split | dsimp -zeta only | simp only [mk_keeps]

theorem execLesSwap_keeps {k : Key} {s : State} (h : Keep k s) (a0 : Nat) : KeepO k (execLesSwap a0 s) := by
  unfold execLesSwap
  repeat' first | (intro v; first | (refine (fun (_ : Keep k v) => ?_) ?_; rotate_left; simp only [v]; rotate_left; clear_value v) | (have hv : v = v := rfl; simp only [v] at hv; clear hv)) | with_reducible assumption | with_reducible apply modTl_keeps | with_reducible apply raiseTlc_keeps | with_reducible apply answer_keeps | with_reducible apply notSupported_keeps | with_reducible apply endSwapCmd_keeps | with_reducible apply onRx_keeps | with_reducible apply withdraw_keeps | with_reducible apply answerBy_keeps | with_reducible apply next_keeps | lift_lets -underBinder | intro _ _ _ | split | dsimp -zeta only | simp only [mk_keeps]

theorem execReattach_keeps {k : Key} {s : State} (h : Keep k s) (a0 : Nat) : KeepO k (execReattach a0 s) := by
  unfold execReattach
  repeat' first | (intro v; first | (refine (fun (_ : Keep k v) => ?_) ?_; rotate_left; simp only [v]; rotate_left; clear_value v) | (have hv : v = v := rfl; simp only [v] at hv; clear hv)) | with_reducible assumption | with_reducible apply modTl_keeps | with_reducible apply raiseTlc_keeps | with_reducible apply answer_keeps | with_reducible apply notSupported_keeps | with_reducible apply endReattachCmd_keeps | with_reducible apply onRx_keeps | with_reducible apply withdraw_keeps | with_reducible apply answerBy_keeps | with_reducible apply next_keeps | lift_lets -underBinder | intro _ _ _ | split | dsimp -zeta only | simp only [mk_keeps]

theorem execLesSwapOffDone_keeps {k : Key} {s : State} (h : Keep k s) (a0 : Nat) : KeepO k (execLesSwapOffDone a0 s) := by
  unfold execLesSwapOffDone
  repeat' first | (intro v; first | (refine (fun (_ : Keep k v) => ?_) ?_; rotate_left; simp only [v]; rotate_left; clear_value v) | (have hv : v = v := rfl; simp only [v] at hv; clear hv)) | with_reducible assumption | with_reducible apply modTl_keeps | with_reducible apply answer_keeps | with_reducible apply onAtt_keeps | with_reducible apply next_keeps | lift_lets -underBinder | intro _ _ _ | split | dsimp -zeta only | simp only [mk_keeps]

theorem execLesSwapOnDone_keeps {k : Key} {s : State} (h : Keep k s) (a0 : Nat) : KeepO k (execLesSwapOnDone a0 s) := by
  unfold execLesSwapOnDone
  repeat' first | with_reducible assumption | with_reducible apply modTl_keeps | with_reducible apply answer_keeps | with_reducible apply onAtt_keeps | with_reducible apply next_keeps | intro _ _ _ | split | dsimp -zeta only | simp only [mk_keeps]

theorem execLesSwapStepTimeout_keeps {k : Key} {s : State} (h : Keep k s) (a0 : Nat) : KeepO k (execLesSwapStepTimeout a0 s) := by
  unfold execLesSwapStepTimeout
  repeat' first | with_reducible assumption | with_reducible apply dueThen_keeps | with_reducible apply sendSoftReset_keeps | with_reducible apply onAtt_keeps | with_reducible apply next_keeps | intro _ _ _ | split | dsimp -zeta only | simp only [mk_keeps]

theorem tlCmd_keeps {k : Key} {s : State} (h : Keep k s) (a0 : Nat) (a1 : Nat) (a2 : Tag → Nat → State → State) (ha2 : ∀ (x : Tag × Nat) t, Keep k t → Keep k (a2 x.1 x.2 t)) : Keep k (tlCmd s a0 a1 a2) := by
  unfold tlCmd
  repeat' first | with_reducible assumption | with_reducible apply regainHost_keeps | with_reducible refine ha2 (_, _) _ ?_ | intro _ _ _ | split | dsimp -zeta only | simp only [mk_keeps]

theorem advertise_keeps {k : Key} {s : State} (h : Keep k s) (a0 : Nat) (a1 : Tag) : Keep k (advertise s a0 a1) := by
  unfold advertise
  repeat' first | (intro v; first | (refine (fun (_ : Keep k v) => ?_) ?_; rotate_left; simp only [v]; rotate_left; clear_value v) | (have hv : v = v := rfl; simp only [v] at hv; clear hv)) | with_reducible assumption | with_reducible apply wr_keeps | with_reducible apply forEach_keeps | with_reducible apply noteCfg_keeps | with_reducible apply send_keeps | with_reducible apply forEach_keeps | lift_lets -underBinder | intro _ _ _ | split | dsimp -zeta only | simp only [mk_keeps]

theorem execTlAdvertise_keeps {k : Key} {s : State} (h : Keep k s) (a0 : Nat) : KeepO k (execTlAdvertise a0 s) := by
  unfold execTlAdvertise
  repeat' first | with_reducible assumption | with_reducible apply endSt_keeps | with_reducible apply tlCmd_keeps | with_reducible apply advertise_keeps | with_reducible apply next_keeps | intro _ _ _ | split | dsimp -zeta only | simp only [mk_keeps]

theorem execTlRequest_keeps {k : Key} {s : State} (h : Keep k s) (a0 : Nat) : KeepO k (execTlRequest a0 s) := by
  unfold execTlRequest
  repeat' first | (intro v; first | (refine (fun (_ : Keep k v) => ?_) ?_; rotate_left; simp only [v]; rotate_left; clear_value v) | (have hv : v = v := rfl; simp only [v] at hv; clear hv)) | with_reducible assumption | with_reducible apply wr_keeps | with_reducible apply setFlag_keeps | with_reducible apply modTl_keeps | with_reducible apply endTag_keeps | with_reducible apply runTag_keeps | with_reducible apply noteCfg_keeps | with_reducible apply settleRequests_keeps | with_reducible apply updStanding_keeps | with_reducible apply requestChanged_keeps | with_reducible apply tlCmd_keeps | with_reducible apply next_keeps | lift_lets -underBinder | intro _ _ _ | split | dsimp -zeta only | simp only [mk_keeps]

theorem execTlRequestTimeout_keeps {k : Key} {s : State} (h : Keep k s) (a0 : Nat) : KeepO k (execTlRequestTimeout a0 s) := by
  unfold execTlRequestTimeout
  repeat' first | (intro v; first | (refine (fun (_ : Keep k v) => ?_) ?_; rotate_left; simp only [v]; rotate_left; clear_value v) | (have hv : v = v := rfl; simp only [v] at hv; clear hv)) | with_reducible assumption | with_reducible apply advance_keeps | with_reducible apply modTl_keeps | with_reducible apply endTag_keeps | with_reducible apply next_keeps | lift_lets -underBinder | intro _ _ _ | split | dsimp -zeta only | simp only [mk_keeps]

theorem execTlAccept_keeps {k : Key} {s : State} (h : Keep k s) (a0 : Nat) : KeepO k (execTlAccept a0 s) := by
  unfold execTlAccept
  repeat' first | (intro v; first | (refine (fun (_ : Keep k v) => ?_) ?_; rotate_left; simp only [v]; rotate_left; clear_value v) | (have hv : v = v := rfl; simp only [v] at hv; clear hv)) | with_reducible assumption | with_reducible apply modTl_keeps | with_reducible apply endSt_keeps | with_reducible apply tlCmd_keeps | with_reducible apply next_keeps | lift_lets -underBinder | intro _ _ _ | split | dsimp -zeta only | simp only [mk_keeps]

theorem execTlVendor_keeps {k : Key} {s : State} (h : Keep k s) (a0 : Nat) : KeepO k (execTlVendor a0 s) := by
  unfold execTlVendor
  repeat' first | (intro v; first | (refine (fun (_ : Keep k v) => ?_) ?_; rotate_left; simp only [v]; rotate_left; clear_value v) | (have hv : v = v := rfl; simp only [v] at hv; clear hv)) | with_reducible assumption | with_reducible apply endSt_keeps | with_reducible apply pendTag_keeps | with_reducible apply send_keeps | with_reducible apply tlCmd_keeps | with_reducible apply next_keeps | lift_lets -underBinder | intro _ _ _ | split | dsimp -zeta only | simp only [mk_keeps]

theorem execTlLesSwap_keeps {k : Key} {s : State} (h : Keep k s) (a0 : Nat) : KeepO k (execTlLesSwap a0 s) := by
  unfold execTlLesSwap
  repeat' first | with_reducible assumption | with_reducible apply modTl_keeps | with_reducible apply endTag_keeps | with_reducible apply pendTag_keeps | with_reducible apply ask_keeps | with_reducible apply tlCmd_keeps | with_reducible apply next_keeps | intro _ _ _ | split | dsimp -zeta only | simp only [mk_keeps]

theorem execTlReattach_keeps {k : Key} {s : State} (h : Keep k s) (a0 : Nat) : KeepO k (execTlReattach a0 s) := by
  unfold execTlReattach
  repeat' first | with_reducible assumption | with_reducible apply modTl_keeps | with_reducible apply endTag_keeps | with_reducible apply pendTag_keeps | with_reducible apply ask_keeps | with_reducible apply tlCmd_keeps | with_reducible apply next_keeps | intro _ _ _ | split | dsimp -zeta only | simp only [mk_keeps]

theorem execTlReattachTimeout_keeps {k : Key} {s : State} (h : Keep k s) (a0 : Nat) : KeepO k (execTlReattachTimeout a0 s) := by
  unfold execTlReattachTimeout
  repeat' first | with_reducible assumption | with_reducible apply dueThen_keeps | with_reducible apply endReattachCmd_keeps | with_reducible apply next_keeps | intro _ _ _ | split | dsimp -zeta only | simp only [mk_keeps]

theorem execTunnelSend_keeps {k : Key} {s : State} (h : Keep k s) (a0 : Nat) : KeepO k (execTunnelSend a0 s) := by
  unfold execTunnelSend
  repeat' first | (intro v; first | (refine (fun (_ : Keep k v) => ?_) ?_; rotate_left; simp only [v]; rotate_left; clear_value v) | (have hv : v = v := rfl; simp only [v] at hv; clear hv)) | with_reducible assumption | with_reducible apply modTl_keeps | with_reducible apply endSt_keeps | with_reducible apply pendTag_keeps | with_reducible apply nextFrame_keeps | with_reducible apply tlCmd_keeps | with_reducible apply next_keeps | lift_lets -underBinder | intro _ _ _ | split | dsimp -zeta only | simp only [mk_keeps]

theorem tlRevreqWrite_keeps {k : Key} {s : State} (h : Keep k s) (a0 : Nat) (a1 : Word) : Keep k (tlRevreqWrite s a0 a1) := by
  unfold tlRevreqWrite
  repeat' first | (intro v; first | (refine (fun (_ : Keep k v) => ?_) ?_; rotate_left; simp only [v]; rotate_left; clear_value v) | (have hv : v = v := rfl; simp only [v] at hv; clear hv)) | with_reducible assumption | with_reducible apply wr_keeps | with_reducible apply setFlag_keeps | with_reducible apply modTl_keeps | with_reducible apply requestChanged_keeps | lift_lets -underBinder | intro _ _ _ | split | dsimp -zeta only | simp only [mk_keeps]

theorem execTlRevreqWrite_keeps {k : Key} {s : State} (h : Keep k s) (a0 : Nat) (a1 : Word) : KeepO k (execTlRevreqWrite a0 a1 s) := by
  unfold execTlRevreqWrite
  repeat' first | with_reducible assumption | with_reducible apply noteCfg_keeps | with_reducible apply tlRevreqWrite_keeps | with_reducible apply next_keeps | intro _ _ _ | split | dsimp -zeta only | simp only [mk_keeps]

theorem ppTlcfgWrite_keeps {k : Key} {s : State} (h : Keep k s) (a0 : Nat) (a1 : Word) : Keep k (ppTlcfgWrite s a0 a1) := by
  unfold ppTlcfgWrite
  repeat' first | (intro v; first | (refine (fun (_ : Keep k v) => ?_) ?_; rotate_left; simp only [v]; rotate_left; clear_value v) | (have hv : v = v := rfl; simp only [v] at hv; clear hv)) | with_reducible assumption | with_reducible apply wr_keeps | with_reducible apply updLeg_keeps | with_reducible apply contractDefault_keeps | lift_lets -underBinder | intro _ _ _ | split | dsimp -zeta only | simp only [mk_keeps]

end Sys2Proof.Machine
end

