-- ==== Sys2Proof/Laws/KeepTieModes.lean ====
section
/-! SUPPORT. The operations of TieModes.lean keep the part, the fuses, the queue and a canonical word store. -/

namespace Sys2Proof.Machine

set_option linter.all false

theorem vdmAck_keeps {k : Key} {s : State} (h : Keep k s) (a0 : Nat) (a1 : Word) (a2 : List Word) : Keep k (vdmAck s a0 a1 a2) := by
  unfold vdmAck
  repeat' first | with_reducible assumption | with_reducible apply answer_keeps | intro _ _ _ | split | dsimp -zeta only | simp only [mk_keeps]

theorem vdmRefuse_keeps {k : Key} {s : State} (h : Keep k s) (a0 : Nat) (a1 : Word) : Keep k (vdmRefuse s a0 a1) := by
  unfold vdmRefuse
  repeat' first | with_reducible assumption | with_reducible apply answer_keeps | intro _ _ _ | split | dsimp -zeta only | simp only [mk_keeps]

theorem takeDigest_keeps {k : Key} {s : State} (h : Keep k s) (a0 : Nat) (a1 : Word) (a2 : Word) (a3 : Word) : Keep k (takeDigest s a0 a1 a2 a3) := by
  unfold takeDigest
  repeat' first | (intro v; first | (refine (fun (_ : Keep k v) => ?_) ?_; rotate_left; simp only [v]; rotate_left; clear_value v) | (have hv : v = v := rfl; simp only [v] at hv; clear hv)) | with_reducible assumption | with_reducible apply wr_keeps | with_reducible apply raiseTlc_keeps | lift_lets -underBinder | intro _ _ _ | split | dsimp -zeta only | simp only [mk_keeps]

theorem takeBudget_keeps {k : Key} {s : State} (h : Keep k s) (a0 : Nat) (a1 : List Word) : Keep k (takeBudget s a0 a1) := by
  unfold takeBudget
  repeat' first | (intro v; first | (refine (fun (_ : Keep k v) => ?_) ?_; rotate_left; simp only [v]; rotate_left; clear_value v) | (have hv : v = v := rfl; simp only [v] at hv; clear hv)) | with_reducible assumption | with_reducible apply wr_keeps | with_reducible apply setF_keeps | with_reducible apply modTl_keeps | with_reducible apply updLeg_keeps | lift_lets -underBinder | intro _ _ _ | split | dsimp -zeta only | simp only [mk_keeps]

theorem vdmRequest_keeps {k : Key} {s : State} (h : Keep k s) (a0 : Nat) (a1 : TlRx) : Keep k (vdmRequest s a0 a1) := by
  unfold vdmRequest
  repeat' first | (intro v; first | (refine (fun (_ : Keep k v) => ?_) ?_; rotate_left; simp only [v]; rotate_left; clear_value v) | (have hv : v = v := rfl; simp only [v] at hv; clear hv)) | with_reducible assumption | with_reducible apply answer_keeps | with_reducible apply exitMode_keeps | with_reducible apply enterMode_keeps | with_reducible apply vdmAck_keeps | with_reducible apply vdmRefuse_keeps | with_reducible apply takeDigest_keeps | with_reducible apply takeBudget_keeps | lift_lets -underBinder | intro _ _ _ | split | dsimp -zeta only | simp only [mk_keeps]

theorem syncResponse_keeps {k : Key} {s : State} (h : Keep k s) (a0 : Nat) (a1 : TlRx) : Keep k (syncResponse s a0 a1) := by
  unfold syncResponse
  repeat' first | (intro v; first | (refine (fun (_ : Keep k v) => ?_) ?_; rotate_left; simp only [v]; rotate_left; clear_value v) | (have hv : v = v := rfl; simp only [v] at hv; clear hv)) | with_reducible assumption | with_reducible apply setI_keeps | with_reducible apply clearOwn_keeps | lift_lets -underBinder | intro _ _ _ | split | dsimp -zeta only | simp only [mk_keeps]

theorem vdmAcked_keeps {k : Key} {s : State} (h : Keep k s) (a0 : Nat) (a1 : TlRx) : Keep k (vdmAcked s a0 a1) := by
  unfold vdmAcked
  repeat' first | (intro v; first | (refine (fun (_ : Keep k v) => ?_) ?_; rotate_left; simp only [v]; rotate_left; clear_value v) | (have hv : v = v := rfl; simp only [v] at hv; clear hv)) | with_reducible assumption | with_reducible apply modTl_keeps | with_reducible apply clearOwn_keeps | with_reducible apply enterMode_keeps | with_reducible apply vdmNak_keeps | with_reducible apply syncResponse_keeps | lift_lets -underBinder | intro _ _ _ | split | dsimp -zeta only | simp only [mk_keeps]

theorem structured_keeps {k : Key} {s : State} (h : Keep k s) (a0 : Nat) (a1 : TlRx) : Keep k (structured s a0 a1) := by
  unfold structured
  repeat' first | (intro v; first | (refine (fun (_ : Keep k v) => ?_) ?_; rotate_left; simp only [v]; rotate_left; clear_value v) | (have hv : v = v := rfl; simp only [v] at hv; clear hv)) | with_reducible assumption | with_reducible apply vdmNak_keeps | with_reducible apply vdmRefuse_keeps | with_reducible apply vdmRequest_keeps | with_reducible apply syncResponse_keeps | with_reducible apply vdmAcked_keeps | lift_lets -underBinder | intro _ _ _ | split | dsimp -zeta only | simp only [mk_keeps]

theorem execVendor_keeps {k : Key} {s : State} (h : Keep k s) (a0 : Nat) : KeepO k (execVendor a0 s) := by
  unfold execVendor
  repeat' first | with_reducible assumption | with_reducible apply stage_keeps | with_reducible apply raiseTlc_keeps | with_reducible apply notSupported_keeps | with_reducible apply onRx_keeps | with_reducible apply structured_keeps | with_reducible apply next_keeps | intro _ _ _ | split | dsimp -zeta only | simp only [mk_keeps]

theorem execVdmTimeout_keeps {k : Key} {s : State} (h : Keep k s) (a0 : Nat) : KeepO k (execVdmTimeout a0 s) := by
  unfold execVdmTimeout
  repeat' first | with_reducible assumption | with_reducible apply dueThen_keeps | with_reducible apply vdmNak_keeps | with_reducible apply onAtt_keeps | with_reducible apply next_keeps | intro _ _ _ | split | dsimp -zeta only | simp only [mk_keeps]

theorem execDigestSend_keeps {k : Key} {s : State} (h : Keep k s) (a0 : Nat) : KeepO k (execDigestSend a0 s) := by
  unfold execDigestSend
  repeat' first | (intro v; first | (refine (fun (_ : Keep k v) => ?_) ?_; rotate_left; simp only [v]; rotate_left; clear_value v) | (have hv : v = v := rfl; simp only [v] at hv; clear hv)) | with_reducible assumption | with_reducible apply advance_keeps | with_reducible apply modTl_keeps | with_reducible apply send_keeps | with_reducible apply onAtt_keeps | with_reducible apply next_keeps | lift_lets -underBinder | intro _ _ _ | split | dsimp -zeta only | simp only [mk_keeps]

theorem execSyncSend_keeps {k : Key} {s : State} (h : Keep k s) (a0 : Nat) : KeepO k (execSyncSend a0 s) := by
  unfold execSyncSend
  repeat' first | (intro v; first | (refine (fun (_ : Keep k v) => ?_) ?_; rotate_left; simp only [v]; rotate_left; clear_value v) | (have hv : v = v := rfl; simp only [v] at hv; clear hv)) | with_reducible assumption | with_reducible apply advance_keeps | with_reducible apply modTl_keeps | with_reducible apply ask_keeps | with_reducible apply onAtt_keeps | with_reducible apply next_keeps | lift_lets -underBinder | intro _ _ _ | split | dsimp -zeta only | simp only [mk_keeps]

theorem execBudgetSend_keeps {k : Key} {s : State} (h : Keep k s) (a0 : Nat) : KeepO k (execBudgetSend a0 s) := by
  unfold execBudgetSend
  repeat' first | (intro v; first | (refine (fun (_ : Keep k v) => ?_) ?_; rotate_left; simp only [v]; rotate_left; clear_value v) | (have hv : v = v := rfl; simp only [v] at hv; clear hv)) | with_reducible assumption | with_reducible apply advance_keeps | with_reducible apply modTl_keeps | with_reducible apply send_keeps | with_reducible apply onAtt_keeps | with_reducible apply next_keeps | lift_lets -underBinder | intro _ _ _ | split | dsimp -zeta only | simp only [mk_keeps]

theorem tlCctrlWrite_keeps {k : Key} {s : State} (h : Keep k s) (a0 : Nat) (a1 : Word) : Keep k (tlCctrlWrite s a0 a1) := by
  unfold tlCctrlWrite
  repeat' first | (intro v; first | (refine (fun (_ : Keep k v) => ?_) ?_; rotate_left; simp only [v]; rotate_left; clear_value v) | (have hv : v = v := rfl; simp only [v] at hv; clear hv)) | with_reducible assumption | with_reducible apply wr_keeps | with_reducible apply forEach_keeps | with_reducible apply ask_keeps | with_reducible apply exitMode_keeps | with_reducible apply discover_keeps | with_reducible apply forEach_keeps | lift_lets -underBinder | intro _ _ _ | split | dsimp -zeta only | simp only [mk_keeps]

theorem execTlCctrlWrite_keeps {k : Key} {s : State} (h : Keep k s) (a0 : Nat) (a1 : Word) : KeepO k (execTlCctrlWrite a0 a1 s) := by
  unfold execTlCctrlWrite
  repeat' first | with_reducible assumption | with_reducible apply noteCfg_keeps | with_reducible apply tlCctrlWrite_keeps | with_reducible apply next_keeps | intro _ _ _ | split | dsimp -zeta only | simp only [mk_keeps]

end Sys2Proof.Machine
end

