-- ==== Sys2Proof/Laws/KeepBlackBox.lean ====
section
/-! SUPPORT. The operations of BlackBox.lean keep the part, the fuses, the queue and a canonical word store. -/

namespace Sys2Proof.Machine

set_option linter.all false

theorem updCe_keeps {k : Key} {s : State} (h : Keep k s)  : Keep k (updCe s) := by
  unfold updCe
  repeat' first | (intro v; first | (refine (fun (_ : Keep k v) => ?_) ?_; rotate_left; simp only [v]; rotate_left; clear_value v) | (have hv : v = v := rfl; simp only [v] at hv; clear hv)) | with_reducible assumption | with_reducible apply setF_keeps | with_reducible apply fault_keeps | lift_lets -underBinder | intro _ _ _ | split | dsimp -zeta only | simp only [mk_keeps]

theorem countCe_keeps {k : Key} {s : State} (h : Keep k s)  : Keep k (countCe s) := by
  unfold countCe
  repeat' first | with_reducible assumption | with_reducible apply updCe_keeps | intro _ _ _ | split | dsimp -zeta only | simp only [mk_keeps]

theorem setSlot_keeps {k : Key} {s : State} (h : Keep k s) (a0 : Nat) (a1 : Slot) : Keep k (setSlot s a0 a1) := by
  unfold setSlot
  repeat' first | with_reducible assumption | intro _ _ _ | split | dsimp -zeta only | simp only [mk_keeps]

theorem mirrorRead_keeps {k : Key} {s : State} (h : Keep k s) (a0 : Nat) (a1 : Word) (a2 : Bool := false) : Keep k (mirrorRead s a0 a1 a2) := by
  unfold mirrorRead
  repeat' first | (intro v; first | (refine (fun (_ : Keep k v) => ?_) ?_; rotate_left; simp only [v]; rotate_left; clear_value v) | (have hv : v = v := rfl; simp only [v] at hv; clear hv)) | with_reducible assumption | with_reducible apply incSat_keeps | with_reducible apply sendFault_keeps | with_reducible apply fault_keeps | with_reducible apply raise_keeps | with_reducible apply countCe_keeps | lift_lets -underBinder | intro _ _ _ | split | dsimp -zeta only | simp only [mk_keeps]

theorem mirrorUnreadable_keeps {k : Key} {s : State} (h : Keep k s) (a0 : Nat) : Keep k (mirrorUnreadable s a0) := by
  unfold mirrorUnreadable
  repeat' first | with_reducible assumption | with_reducible apply incSat_keeps | with_reducible apply fault_keeps | with_reducible apply raise_keeps | intro _ _ _ | split | dsimp -zeta only | simp only [mk_keeps]

theorem skipSlot_keeps {k : Key} {s : State} (h : Keep k s) (a0 : Nat) : Keep k (skipSlot s a0) := by
  unfold skipSlot
  repeat' first | (intro v; first | (refine (fun (_ : Keep k v) => ?_) ?_; rotate_left; simp only [v]; rotate_left; clear_value v) | (have hv : v = v := rfl; simp only [v] at hv; clear hv)) | with_reducible assumption | with_reducible apply setF_keeps | with_reducible apply fault_keeps | lift_lets -underBinder | intro _ _ _ | split | dsimp -zeta only | simp only [mk_keeps]

theorem goodSlotFrom_keeps_snd {k : Key} {s : State} (h : Keep k s) (n : Nat) : Keep k (goodSlotFrom n s).2 := by
  induction n generalizing s with
  | zero => exact h
  | succ n ih =>
    unfold goodSlotFrom
    split
    · exact ih (skipSlot_keeps h _)
    · exact h


theorem goodSlot_keeps_snd {k : Key} {s : State} (h : Keep k s) : Keep k (goodSlot s).2 := goodSlotFrom_keeps_snd h _

theorem goodSlot_keeps {k : Key} {s t : State} {x : Nat} (h : Keep k s) (e : goodSlot s = (x, t)) : Keep k t := by
  have := goodSlot_keeps_snd h
  rwa [e] at this

theorem rewriteSlot_keeps_snd {k : Key} {s : State} (h : Keep k s) (a0 : Nat) (a1 : List Word) : Keep k (rewriteSlot s a0 a1).2 := by
  unfold rewriteSlot
  repeat' first | (intro v; first | (refine (fun (_ : Keep k v) => ?_) ?_; rotate_left; simp only [v]; rotate_left; clear_value v) | (have hv : v = v := rfl; simp only [v] at hv; clear hv)) | with_reducible assumption | with_reducible apply setSlot_keeps | with_reducible apply skipSlot_keeps | with_reducible refine goodSlot_keeps ?_ ‹_› | with_reducible apply goodSlot_keeps_snd | lift_lets -underBinder | intro _ _ _ | split | dsimp -zeta only | simp only [mk_keeps]
theorem rewriteSlot_keeps {k : Key} {s t : State} {x : Nat} {a0 : Nat} {a1 : List Word} (h : Keep k s) (e : rewriteSlot s a0 a1 = (x, t)) : Keep k t := by
  have := rewriteSlot_keeps_snd h a0 a1
  rwa [e] at this

theorem readSlot_keeps_snd {k : Key} {s : State} (h : Keep k s) (a0 : Nat) : Keep k (readSlot s a0).2 := by
  unfold readSlot
  repeat' first | (intro v; first | (refine (fun (_ : Keep k v) => ?_) ?_; rotate_left; simp only [v]; rotate_left; clear_value v) | (have hv : v = v := rfl; simp only [v] at hv; clear hv)) | with_reducible assumption | with_reducible apply mirrorRead_keeps | with_reducible apply mirrorUnreadable_keeps | with_reducible refine rewriteSlot_keeps ?_ ‹_› | with_reducible apply rewriteSlot_keeps_snd | lift_lets -underBinder | intro _ _ _ | split | dsimp -zeta only | simp only [mk_keeps]
theorem readSlot_keeps {k : Key} {s t : State} {x : Option (Nat × List Word)} {a0 : Nat} (h : Keep k s) (e : readSlot s a0 = (x, t)) : Keep k t := by
  have := readSlot_keeps_snd h a0
  rwa [e] at this

theorem readAll_keeps_snd {k : Key} {s : State} (h : Keep k s) : Keep k (readAll s).2 := by
  exact foldl_snd_keeps (fun _ _ _ ht => readSlot_keeps_snd ht _) _ _ _ h

theorem readAll_keeps {k : Key} {s t : State} {x : List (Nat × List Word)} (h : Keep k s) (e : readAll s = (x, t)) : Keep k t := by
  have := readAll_keeps_snd h
  rwa [e] at this

theorem updLogq_keeps {k : Key} {s : State} (h : Keep k s)  : Keep k (updLogq s) := by
  unfold updLogq
  repeat' first | with_reducible assumption | with_reducible apply setF_keeps | intro _ _ _ | split | dsimp -zeta only | simp only [mk_keeps]

theorem summarise_keeps {k : Key} {s : State} (h : Keep k s) (a0 : Nat) : Keep k (summarise s a0) := by
  unfold summarise
  repeat' first | (intro v; first | (refine (fun (_ : Keep k v) => ?_) ?_; rotate_left; simp only [v]; rotate_left; clear_value v) | (have hv : v = v := rfl; simp only [v] at hv; clear hv)) | with_reducible assumption | with_reducible apply incSat_keeps | lift_lets -underBinder | intro _ _ _ | split | dsimp -zeta only | simp only [mk_keeps]

theorem logPush_keeps {k : Key} {s : State} (h : Keep k s) (a0 : LogItem) : Keep k (logPush s a0) := by
  unfold logPush
  repeat' first | (intro v; first | (refine (fun (_ : Keep k v) => ?_) ?_; rotate_left; simp only [v]; rotate_left; clear_value v) | (have hv : v = v := rfl; simp only [v] at hv; clear hv)) | with_reducible assumption | with_reducible apply updLogq_keeps | with_reducible apply summarise_keeps | lift_lets -underBinder | intro _ _ _ | split | dsimp -zeta only | simp only [mk_keeps]

theorem logOther_keeps {k : Key} {s : State} (h : Keep k s) (a0 : Nat) (a1 : List Word) (a2 : Bool := false) : Keep k (logOther s a0 a1 a2) := by
  unfold logOther
  repeat' first | with_reducible assumption | with_reducible apply logPush_keeps | intro _ _ _ | split | dsimp -zeta only | simp only [mk_keeps]

theorem updReplace_keeps {k : Key} {s : State} (h : Keep k s)  : Keep k (updReplace s) := by
  unfold updReplace
  repeat' first | with_reducible assumption | with_reducible apply setFlag_keeps | intro _ _ _ | split | dsimp -zeta only | simp only [mk_keeps]

theorem setCauses_keeps {k : Key} {s : State} (h : Keep k s) (a0 : Nat) : Keep k (setCauses s a0) := by
  unfold setCauses
  repeat' first | (intro v; first | (refine (fun (_ : Keep k v) => ?_) ?_; rotate_left; simp only [v]; rotate_left; clear_value v) | (have hv : v = v := rfl; simp only [v] at hv; clear hv)) | with_reducible assumption | with_reducible apply setF_keeps | with_reducible apply raise_keeps | with_reducible apply logOther_keeps | with_reducible apply updReplace_keeps | lift_lets -underBinder | intro _ _ _ | split | dsimp -zeta only | simp only [mk_keeps]

theorem setCause_keeps {k : Key} {s : State} (h : Keep k s) (a0 : Nat) : Keep k (setCause s a0) := by
  unfold setCause
  repeat' first | with_reducible assumption | with_reducible apply setCauses_keeps | intro _ _ _ | split | dsimp -zeta only | simp only [mk_keeps]

theorem updConditions_keeps {k : Key} {s : State} (h : Keep k s)  : Keep k (updConditions s) := by
  unfold updConditions
  repeat' first | (intro v; first | (refine (fun (_ : Keep k v) => ?_) ?_; rotate_left; simp only [v]; rotate_left; clear_value v) | (have hv : v = v := rfl; simp only [v] at hv; clear hv)) | with_reducible assumption | with_reducible apply setF_keeps | with_reducible apply setCauses_keeps | lift_lets -underBinder | intro _ _ _ | split | dsimp -zeta only | simp only [mk_keeps]

theorem updPins_keeps {k : Key} {s : State} (h : Keep k s)  : Keep k (updPins s) := by
  unfold updPins
  repeat' first | with_reducible assumption | with_reducible apply setF_keeps | intro _ _ _ | split | dsimp -zeta only | simp only [mk_keeps]

theorem spendOther_keeps {k : Key} {s : State} (h : Keep k s) (a0 : LogItem) : Keep k (spendOther s a0) := by
  unfold spendOther
  repeat' first | with_reducible assumption | intro _ _ _ | split | dsimp -zeta only | simp only [mk_keeps]

theorem writeIngot_keeps {k : Key} {s : State} (h : Keep k s) (a0 : LogItem) : Keep k (writeIngot s a0) := by
  unfold writeIngot
  repeat' first | (intro v; first | (refine (fun (_ : Keep k v) => ?_) ?_; rotate_left; simp only [v]; rotate_left; clear_value v) | (have hv : v = v := rfl; simp only [v] at hv; clear hv)) | with_reducible assumption | with_reducible apply setF_keeps | with_reducible apply raise_keeps | with_reducible apply offer_keeps | with_reducible refine injectOne_keeps_ite ?_ ‹_› | with_reducible refine injectOne_keeps ?_ ‹_› | with_reducible apply injectOne_keeps_snd | with_reducible apply injectSettle_keeps | with_reducible apply setSlot_keeps | with_reducible refine goodSlot_keeps ?_ ‹_› | with_reducible apply goodSlot_keeps_snd | with_reducible apply updPins_keeps | with_reducible apply spendOther_keeps | lift_lets -underBinder | intro _ _ _ | split | dsimp -zeta only | simp only [mk_keeps]

theorem writeItem_keeps {k : Key} {s : State} (h : Keep k s) (a0 : Nat) (a1 : LogItem) : Keep k (writeItem s a0 a1) := by
  unfold writeItem
  repeat' first | (intro v; first | (refine (fun (_ : Keep k v) => ?_) ?_; rotate_left; simp only [v]; rotate_left; clear_value v) | (have hv : v = v := rfl; simp only [v] at hv; clear hv)) | with_reducible assumption | with_reducible apply updLogq_keeps | with_reducible apply summarise_keeps | with_reducible apply writeIngot_keeps | lift_lets -underBinder | intro _ _ _ | split | dsimp -zeta only | simp only [mk_keeps]

theorem refreshBoot_keeps {k : Key} {s : State} (h : Keep k s)  : Keep k (refreshBoot s) := by
  unfold refreshBoot
  repeat' first | with_reducible assumption | with_reducible apply writeIngot_keeps | intro _ _ _ | split | dsimp -zeta only | simp only [mk_keeps]

theorem writeNow_keeps {k : Key} {s : State} (h : Keep k s) (a0 : Nat) (a1 : List Word) : Keep k (writeNow s a0 a1) := by
  unfold writeNow
  repeat' first | with_reducible assumption | with_reducible apply writeIngot_keeps | with_reducible apply refreshBoot_keeps | intro _ _ _ | split | dsimp -zeta only | simp only [mk_keeps]

theorem wearSlot_keeps {k : Key} {s : State} (h : Keep k s) (a0 : Nat) : Keep k (wearSlot s a0) := by
  unfold wearSlot
  repeat' first | with_reducible assumption | with_reducible apply setSlot_keeps | intro _ _ _ | split | dsimp -zeta only | simp only [mk_keeps]

theorem execIngotWrite_keeps {k : Key} {s : State} (h : Keep k s) (a0 : Nat) : KeepO k (execIngotWrite a0 s) := by
  unfold execIngotWrite
  repeat' first | (intro v; first | (refine (fun (_ : Keep k v) => ?_) ?_; rotate_left; simp only [v]; rotate_left; clear_value v) | (have hv : v = v := rfl; simp only [v] at hv; clear hv)) | with_reducible assumption | with_reducible apply advance_keeps | with_reducible apply setSlot_keeps | with_reducible apply updConditions_keeps | with_reducible apply writeItem_keeps | with_reducible apply refreshBoot_keeps | with_reducible apply wearSlot_keeps | with_reducible apply next_keeps | lift_lets -underBinder | intro _ _ _ | split | dsimp -zeta only | simp only [mk_keeps]

theorem unpin_keeps {k : Key} {s : State} (h : Keep k s) (a0 : Nat) : Keep k (unpin s a0) := by
  unfold unpin
  repeat' first | (intro v; first | (refine (fun (_ : Keep k v) => ?_) ?_; rotate_left; simp only [v]; rotate_left; clear_value v) | (have hv : v = v := rfl; simp only [v] at hv; clear hv)) | with_reducible assumption | with_reducible refine rewriteSlot_keeps ?_ ‹_› | with_reducible apply rewriteSlot_keeps_snd | with_reducible refine readSlot_keeps ?_ ‹_› | with_reducible apply readSlot_keeps_snd | with_reducible apply updPins_keeps | lift_lets -underBinder | intro _ _ _ | split | dsimp -zeta only | simp only [mk_keeps]

theorem execUnpin_keeps {k : Key} {s : State} (h : Keep k s) (a0 : Word) : KeepO k (execUnpin a0 s) := by
  unfold execUnpin
  repeat' first | with_reducible assumption | with_reducible apply unpin_keeps | with_reducible apply next_keeps | intro _ _ _ | split | dsimp -zeta only | simp only [mk_keeps]

theorem execLogBudgetRefill_keeps {k : Key} {s : State} (h : Keep k s)  : KeepO k (execLogBudgetRefill s) := by
  unfold execLogBudgetRefill
  repeat' first | (intro v; first | (refine (fun (_ : Keep k v) => ?_) ?_; rotate_left; simp only [v]; rotate_left; clear_value v) | (have hv : v = v := rfl; simp only [v] at hv; clear hv)) | with_reducible assumption | with_reducible apply advance_keeps | with_reducible apply next_keeps | lift_lets -underBinder | intro _ _ _ | split | dsimp -zeta only | simp only [mk_keeps]

theorem execSummaryIngot_keeps {k : Key} {s : State} (h : Keep k s)  : KeepO k (execSummaryIngot s) := by
  unfold execSummaryIngot
  repeat' first | (intro v; first | (refine (fun (_ : Keep k v) => ?_) ?_; rotate_left; simp only [v]; rotate_left; clear_value v) | (have hv : v = v := rfl; simp only [v] at hv; clear hv)) | with_reducible assumption | with_reducible apply advance_keeps | with_reducible apply raise_keeps | with_reducible apply logOther_keeps | with_reducible apply next_keeps | lift_lets -underBinder | intro _ _ _ | split | dsimp -zeta only | simp only [mk_keeps]

theorem rot_keeps {k : Key} {s : State} (h : Keep k s) (a0 : Nat) (a1 : Bool) (a2 : Nat) (a3 : Word) : Keep k (rot s a0 a1 a2 a3) := by
  unfold rot
  repeat' first | (intro v; first | (refine (fun (_ : Keep k v) => ?_) ?_; rotate_left; simp only [v]; rotate_left; clear_value v) | (have hv : v = v := rfl; simp only [v] at hv; clear hv)) | with_reducible assumption | with_reducible apply setSlot_keeps | with_reducible apply wearSlot_keeps | lift_lets -underBinder | intro _ _ _ | split | dsimp -zeta only | simp only [mk_keeps]

theorem execBlackboxScan_keeps {k : Key} {s : State} (h : Keep k s) (a0 : List (Nat × Bool × Nat × Word)) : KeepO k (execBlackboxScan a0 s) := by
  unfold execBlackboxScan
  repeat' first | (intro v; first | (refine (fun (_ : Keep k v) => ?_) ?_; rotate_left; simp only [v]; rotate_left; clear_value v) | (have hv : v = v := rfl; simp only [v] at hv; clear hv)) | with_reducible assumption | with_reducible apply forEach_keeps | with_reducible apply advance_keeps | with_reducible refine readAll_keeps ?_ ‹_› | with_reducible apply readAll_keeps_snd | with_reducible apply updConditions_keeps | with_reducible apply rot_keeps | with_reducible apply forEach_keeps | with_reducible apply next_keeps | lift_lets -underBinder | intro _ _ _ | split | dsimp -zeta only | simp only [mk_keeps]

theorem startScan_keeps {k : Key} {s : State} (h : Keep k s)  : Keep k (startScan s) := by
  unfold startScan
  repeat' first | (intro v; first | (refine (fun (_ : Keep k v) => ?_) ?_; rotate_left; simp only [v]; rotate_left; clear_value v) | (have hv : v = v := rfl; simp only [v] at hv; clear hv)) | with_reducible assumption | with_reducible apply setF_keeps | with_reducible refine readAll_keeps ?_ ‹_› | with_reducible apply readAll_keeps_snd | with_reducible apply updPins_keeps | lift_lets -underBinder | intro _ _ _ | split | dsimp -zeta only | simp only [mk_keeps]

theorem restoreCounts_keeps {k : Key} {s : State} (h : Keep k s)  : Keep k (restoreCounts s) := by
  unfold restoreCounts
  repeat' first | (intro v; first | (refine (fun (_ : Keep k v) => ?_) ?_; rotate_left; simp only [v]; rotate_left; clear_value v) | (have hv : v = v := rfl; simp only [v] at hv; clear hv)) | with_reducible assumption | with_reducible apply setF_keeps | with_reducible apply updReplace_keeps | lift_lets -underBinder | intro _ _ _ | split | dsimp -zeta only | simp only [mk_keeps]

theorem execBbRead_keeps {k : Key} {s : State} (h : Keep k s) (a0 : Nat) : KeepO k (execBbRead a0 s) := by
  unfold execBbRead
  repeat' first | (intro v; first | (refine (fun (_ : Keep k v) => ?_) ?_; rotate_left; simp only [v]; rotate_left; clear_value v) | (have hv : v = v := rfl; simp only [v] at hv; clear hv)) | with_reducible assumption | with_reducible apply endTag_keeps | with_reducible apply endSt_keeps | with_reducible apply giveResult_keeps | with_reducible refine readAll_keeps ?_ ‹_› | with_reducible apply readAll_keeps_snd | with_reducible apply next_keeps | lift_lets -underBinder | intro _ _ _ | split | dsimp -zeta only | simp only [mk_keeps]

end Sys2Proof.Machine
end

