-- ==== Sys2Proof/Laws/KeepCollector.lean ====
section
/-! SUPPORT. The operations of Collector.lean keep the part, the fuses, the queue and a canonical word store. -/

namespace Sys2Proof.Machine

set_option linter.all false

theorem forwardFrom_keeps {k : Key} {s t : State} {m : FaultMsg} {a0 : Nat} {a1 : Bool} {a2 a3 : Nat} (h : Keep k s)
    (e : forwardFrom s a0 a1 a2 a3 = some (m, t)) : Keep k t := by
  unfold forwardFrom at e
  extract_lets q at e
  split at e
  · cases e
  · cases e
    exact setFaultQ_keeps h _ _

theorem execFlaskFaultPortForward_keeps {k : Key} {s : State} (h : Keep k s) (a0 : Nat) : KeepO k (execFlaskFaultPortForward a0 s) := by
  unfold execFlaskFaultPortForward
  repeat' first | with_reducible assumption | with_reducible apply next_keeps | with_reducible apply xfer_keeps | with_reducible apply aggregatorArrive_keeps | with_reducible refine forwardFrom_keeps ?_ ‹_› | split

theorem execAggregatorForward_keeps {k : Key} {s : State} (h : Keep k s) (a0 : Nat) : KeepO k (execAggregatorForward a0 s) := by
  unfold execAggregatorForward
  repeat' first | with_reducible assumption | with_reducible apply next_keeps | with_reducible apply xfer_keeps | with_reducible apply collectorArrive_keeps | with_reducible refine forwardFrom_keeps ?_ ‹_› | split

theorem escalate_keeps_snd {k : Key} {s : State} (h : Keep k s) (a0 : FaultMsg) : Keep k (escalate s a0).2 := by
  unfold escalate
  repeat' first | (intro v; first | (refine (fun (_ : Keep k v) => ?_) ?_; rotate_left; simp only [v]; rotate_left; clear_value v) | (have hv : v = v := rfl; simp only [v] at hv; clear hv)) | with_reducible assumption | with_reducible apply setF_keeps | with_reducible apply incSat_keeps | with_reducible apply raise_keeps | lift_lets -underBinder | intro _ _ _ | split | dsimp -zeta only | simp only [mk_keeps]
theorem escalate_keeps {k : Key} {s t : State} {x : Handled} {a0 : FaultMsg} (h : Keep k s) (e : escalate s a0 = (x, t)) : Keep k t := by
  have := escalate_keeps_snd h a0
  rwa [e] at this

theorem regionHold_keeps {k : Key} {s : State} (h : Keep k s) (a0 : Nat) : Keep k (regionHold s a0) := by
  unfold regionHold
  repeat' first | (intro v; first | (refine (fun (_ : Keep k v) => ?_) ?_; rotate_left; simp only [v]; rotate_left; clear_value v) | (have hv : v = v := rfl; simp only [v] at hv; clear hv)) | with_reducible assumption | with_reducible apply setBitF_keeps | with_reducible apply forEach_keeps | with_reducible apply modRegion_keeps | with_reducible apply raise_keeps | with_reducible apply goOffline_keeps | with_reducible apply flaskHold_keeps | with_reducible apply enterSafe_keeps | with_reducible apply forEach_keeps | lift_lets -underBinder | intro _ _ _ | split | dsimp -zeta only | simp only [mk_keeps]

theorem noteSafe_keeps {k : Key} {s : State} (h : Keep k s) (a0 : FaultMsg) : Keep k (noteSafe s a0) := by
  unfold noteSafe
  repeat' first | (intro v; first | (refine (fun (_ : Keep k v) => ?_) ?_; rotate_left; simp only [v]; rotate_left; clear_value v) | (have hv : v = v := rfl; simp only [v] at hv; clear hv)) | with_reducible assumption | lift_lets -underBinder | intro _ _ _ | split | dsimp -zeta only | simp only [mk_keeps]

theorem chooseSafe_keeps {k : Key} {s : State} (h : Keep k s) (a0 : FaultMsg) : Keep k (chooseSafe s a0) := by
  unfold chooseSafe
  repeat' first | with_reducible assumption | with_reducible apply raise_keeps | with_reducible apply enterSafe_keeps | with_reducible apply noteSafe_keeps | intro _ _ _ | split | dsimp -zeta only | simp only [mk_keeps]

theorem heardFault_keeps {k : Key} {s : State} (h : Keep k s) (a0 : FaultMsg) (a1 : Nat) : Keep k (heardFault s a0 a1) := by
  unfold heardFault
  repeat' first | with_reducible assumption | with_reducible apply modRegion_keeps | intro _ _ _ | split | dsimp -zeta only | simp only [mk_keeps]

theorem react_keeps {k : Key} {s : State} (h : Keep k s) (a0 : FaultMsg) (a1 : Nat) : Keep k (react s a0 a1) := by
  unfold react
  repeat' first | (intro v; first | (refine (fun (_ : Keep k v) => ?_) ?_; rotate_left; simp only [v]; rotate_left; clear_value v) | (have hv : v = v := rfl; simp only [v] at hv; clear hv)) | with_reducible assumption | with_reducible apply when_keeps | with_reducible apply holdChan_keeps | with_reducible apply flaskHold_keeps | with_reducible apply setCause_keeps | with_reducible apply regionHold_keeps | with_reducible apply noteSafe_keeps | with_reducible apply chooseSafe_keeps | with_reducible apply heardFault_keeps | with_reducible apply when_keeps | lift_lets -underBinder | intro _ _ _ | split | dsimp -zeta only | simp only [mk_keeps]

theorem countMsg_keeps {k : Key} {s : State} (h : Keep k s) (a0 : Nat) : Keep k (countMsg s a0) := by
  unfold countMsg
  repeat' first | with_reducible assumption | with_reducible apply incSat_keeps | intro _ _ _ | split | dsimp -zeta only | simp only [mk_keeps]

theorem freezeAfter_keeps {k : Key} {s : State} (h : Keep k s) (a0 : Handled) : Keep k (freezeAfter s a0) := by
  unfold freezeAfter
  repeat' first | (intro v; first | (refine (fun (_ : Keep k v) => ?_) ?_; rotate_left; simp only [v]; rotate_left; clear_value v) | (have hv : v = v := rfl; simp only [v] at hv; clear hv)) | with_reducible assumption | with_reducible apply freezeTrace_keeps | lift_lets -underBinder | intro _ _ _ | split | dsimp -zeta only | simp only [mk_keeps]

theorem handleMsg_keeps {k : Key} {s : State} (h : Keep k s) (a0 : Option Handled) (a1 : Handled) : Keep k (handleMsg s a0 a1) := by
  unfold handleMsg
  repeat' first | (intro v; first | (refine (fun (_ : Keep k v) => ?_) ?_; rotate_left; simp only [v]; rotate_left; clear_value v) | (have hv : v = v := rfl; simp only [v] at hv; clear hv)) | with_reducible assumption | with_reducible apply stage_keeps | with_reducible apply offer_keeps | with_reducible apply countCe_keeps | with_reducible apply logPush_keeps | with_reducible apply setCause_keeps | with_reducible apply react_keeps | with_reducible apply countMsg_keeps | with_reducible apply freezeAfter_keeps | lift_lets -underBinder | intro _ _ _ | split | dsimp -zeta only | simp only [mk_keeps]

theorem recordFirst_keeps {k : Key} {s : State} (h : Keep k s) (a0 : List Handled) : Keep k (recordFirst s a0) := by
  unfold recordFirst
  repeat' first | (intro v; first | (refine (fun (_ : Keep k v) => ?_) ?_; rotate_left; simp only [v]; rotate_left; clear_value v) | (have hv : v = v := rfl; simp only [v] at hv; clear hv)) | with_reducible assumption | with_reducible apply wr_keeps | with_reducible apply setF_keeps | with_reducible apply setFlag_keeps | with_reducible apply raise_keeps | with_reducible apply logPush_keeps | lift_lets -underBinder | intro _ _ _ | split | dsimp -zeta only | simp only [mk_keeps]

theorem execFaultMessage_keeps {k : Key} {s : State} (h : Keep k s) : KeepO k (execFaultMessage s) := by
  unfold execFaultMessage
  apply next_keeps
  split
  · apply updConditions_keeps
    refine forEach_keeps (fun _ _ ht => handleMsg_keeps ht _ _) ?_
    apply recordFirst_keeps
    exact foldl_snd_keeps (fun _ _ _ ht => escalate_keeps_snd ht _) _ _ _ (mk_keeps.mpr h)
  · exact h

theorem execRegionSelfHold_keeps {k : Key} {s : State} (h : Keep k s) (a0 : Nat) : KeepO k (execRegionSelfHold a0 s) := by
  unfold execRegionSelfHold
  repeat' first | with_reducible assumption | with_reducible apply advance_keeps | with_reducible apply regionHold_keeps | with_reducible apply next_keeps | intro _ _ _ | split | dsimp -zeta only | simp only [mk_keeps]

theorem bringOnline_keeps {k : Key} {s : State} (h : Keep k s) (a0 : Nat) : Keep k (bringOnline s a0) := by
  unfold bringOnline
  repeat' first | with_reducible assumption | with_reducible apply setBitF_keeps | with_reducible apply modRegion_keeps | intro _ _ _ | split | dsimp -zeta only | simp only [mk_keeps]

theorem rholdWrite_keeps {k : Key} {s : State} (h : Keep k s) (a0 : Word) : Keep k (rholdWrite s a0) := by
  unfold rholdWrite
  repeat' first | (intro v; first | (refine (fun (_ : Keep k v) => ?_) ?_; rotate_left; simp only [v]; rotate_left; clear_value v) | (have hv : v = v := rfl; simp only [v] at hv; clear hv)) | with_reducible assumption | with_reducible apply setBitF_keeps | with_reducible apply forEach_keeps | with_reducible apply modRegion_keeps | with_reducible apply bringOnline_keeps | with_reducible apply forEach_keeps | lift_lets -underBinder | intro _ _ _ | split | dsimp -zeta only | simp only [mk_keeps]

theorem execRegionRelease_keeps {k : Key} {s : State} (h : Keep k s) (a0 : Word) : KeepO k (execRegionRelease a0 s) := by
  unfold execRegionRelease
  repeat' first | with_reducible assumption | with_reducible apply updConditions_keeps | with_reducible apply rholdWrite_keeps | with_reducible apply next_keeps | intro _ _ _ | split | dsimp -zeta only | simp only [mk_keeps]

theorem fcEventWrite_keeps {k : Key} {s : State} (h : Keep k s) (a0 : Word) : Keep k (fcEventWrite s a0) := by
  unfold fcEventWrite
  repeat' first | (intro v; first | (refine (fun (_ : Keep k v) => ?_) ?_; rotate_left; simp only [v]; rotate_left; clear_value v) | (have hv : v = v := rfl; simp only [v] at hv; clear hv)) | with_reducible assumption | with_reducible apply wr_keeps | lift_lets -underBinder | intro _ _ _ | split | dsimp -zeta only | simp only [mk_keeps]

theorem execPpSafeClear_keeps {k : Key} {s : State} (h : Keep k s) (a0 : Word) : KeepO k (execPpSafeClear a0 s) := by
  unfold execPpSafeClear
  repeat' first | with_reducible assumption | with_reducible apply fcEventWrite_keeps | with_reducible apply next_keeps | intro _ _ _ | split | dsimp -zeta only | simp only [mk_keeps]

theorem replaceWrite_keeps {k : Key} {s : State} (h : Keep k s) (a0 : Word) : Keep k (replaceWrite s a0) := by
  unfold replaceWrite
  repeat' first | with_reducible assumption | with_reducible apply setCauses_keeps | with_reducible apply updConditions_keeps | intro _ _ _ | split | dsimp -zeta only | simp only [mk_keeps]

theorem execReplaceClear_keeps {k : Key} {s : State} (h : Keep k s) (a0 : Word) : KeepO k (execReplaceClear a0 s) := by
  unfold execReplaceClear
  repeat' first | with_reducible assumption | with_reducible apply replaceWrite_keeps | with_reducible apply next_keeps | intro _ _ _ | split | dsimp -zeta only | simp only [mk_keeps]

theorem endArm_keeps {k : Key} {s : State} (h : Keep k s)  : Keep k (endArm s) := by
  unfold endArm
  repeat' first | (intro v; first | (refine (fun (_ : Keep k v) => ?_) ?_; rotate_left; simp only [v]; rotate_left; clear_value v) | (have hv : v = v := rfl; simp only [v] at hv; clear hv)) | with_reducible assumption | with_reducible apply forEach_keeps | with_reducible apply raise_keeps | with_reducible apply endTag_keeps | with_reducible apply updInj_keeps | with_reducible apply forEach_keeps | lift_lets -underBinder | intro _ _ _ | split | dsimp -zeta only | simp only [mk_keeps]

theorem injectSram_keeps {k : Key} {s : State} (h : Keep k s)  : Keep k (injectSram s) := by
  unfold injectSram
  repeat' first | with_reducible assumption | with_reducible apply sendFault_keeps | intro _ _ _ | split | dsimp -zeta only | simp only [mk_keeps]

theorem execFaultInject_keeps {k : Key} {s : State} (h : Keep k s) (a0 : Nat) : KeepO k (execFaultInject a0 s) := by
  unfold execFaultInject
  repeat' first | (intro v; first | (refine (fun (_ : Keep k v) => ?_) ?_; rotate_left; simp only [v]; rotate_left; clear_value v) | (have hv : v = v := rfl; simp only [v] at hv; clear hv)) | with_reducible assumption | with_reducible apply forEach_keeps | with_reducible apply endSt_keeps | with_reducible apply runTag_keeps | with_reducible refine injectOne_keeps_ite ?_ ‹_› | with_reducible refine injectOne_keeps ?_ ‹_› | with_reducible apply injectOne_keeps_snd | with_reducible apply updInj_keeps | with_reducible apply injectSettle_keeps | with_reducible apply endArm_keeps | with_reducible apply injectSram_keeps | with_reducible apply forEach_keeps | with_reducible apply next_keeps | lift_lets -underBinder | intro _ _ _ | split | dsimp -zeta only | simp only [mk_keeps]

theorem execInjectArmExpire_keeps {k : Key} {s : State} (h : Keep k s)  : KeepO k (execInjectArmExpire s) := by
  unfold execInjectArmExpire
  repeat' first | with_reducible assumption | with_reducible apply advance_keeps | with_reducible apply endArm_keeps | with_reducible apply next_keeps | intro _ _ _ | split | dsimp -zeta only | simp only [mk_keeps]

theorem execFaultClear_keeps {k : Key} {s : State} (h : Keep k s) (a0 : Nat) : KeepO k (execFaultClear a0 s) := by
  unfold execFaultClear
  repeat' first | with_reducible assumption | with_reducible apply setFlag_keeps | with_reducible apply endSt_keeps | with_reducible apply next_keeps | intro _ _ _ | split | dsimp -zeta only | simp only [mk_keeps]

theorem execCeRateBin_keeps {k : Key} {s : State} (h : Keep k s)  : KeepO k (execCeRateBin s) := by
  unfold execCeRateBin
  repeat' first | (intro v; first | (refine (fun (_ : Keep k v) => ?_) ?_; rotate_left; simp only [v]; rotate_left; clear_value v) | (have hv : v = v := rfl; simp only [v] at hv; clear hv)) | with_reducible assumption | with_reducible apply advance_keeps | with_reducible apply updCe_keeps | with_reducible apply updConditions_keeps | with_reducible apply next_keeps | lift_lets -underBinder | intro _ _ _ | split | dsimp -zeta only | simp only [mk_keeps]

end Sys2Proof.Machine
end

