-- ==== Sys2Proof/Laws/KeepRunner.lean ====
section
/-! SUPPORT. The operations of Runner.lean keep the part, the fuses, the queue and a canonical word store. -/

namespace Sys2Proof.Machine

set_option linter.all false

theorem frameFails_keeps {k : Key} {s t : State} {a0 : Nat} {a1 : RunFrame} {x y : Bool} (h : Keep k s)
    (e : frameFails s a0 a1 = (x, y, t)) : Keep k t := by
  unfold frameFails at e
  dsimp only at e
  split at e
  · cases e
    exact injectOne_keeps_snd h _
  · cases e
    exact h

theorem retrains_keeps {k : Key} {s : State} (h : Keep k s) (a0 : Nat) : Keep k (retrains s a0) := by
  unfold retrains
  repeat' first | with_reducible assumption | with_reducible apply goOffline_keeps | with_reducible apply updConditions_keeps | intro _ _ _ | split | dsimp -zeta only | simp only [mk_keeps]

theorem execRunnerFrameRx_keeps {k : Key} {s : State} (h : Keep k s) (a0 : Nat) (a1 : RunFrame) : KeepO k (execRunnerFrameRx a0 a1 s) := by
  unfold execRunnerFrameRx
  repeat' first | (intro v; first | (refine (fun (_ : Keep k v) => ?_) ?_; rotate_left; simp only [v]; rotate_left; clear_value v) | (have hv : v = v := rfl; simp only [v] at hv; clear hv)) | with_reducible assumption | with_reducible apply modRegion_keeps | with_reducible apply sendFault_keeps | with_reducible apply xfer_keeps | with_reducible apply injectSettle_keeps | with_reducible refine frameFails_keeps ?_ ‹_› | with_reducible apply frameFails_keeps_snd | with_reducible apply retrains_keeps | with_reducible apply next_keeps | lift_lets -underBinder | intro _ _ _ | split | dsimp -zeta only | simp only [mk_keeps]

theorem linkTrained_keeps {k : Key} {s : State} (h : Keep k s) (a0 : Nat) : Keep k (linkTrained s a0) := by
  unfold linkTrained
  repeat' first | (intro v; first | (refine (fun (_ : Keep k v) => ?_) ?_; rotate_left; simp only [v]; rotate_left; clear_value v) | (have hv : v = v := rfl; simp only [v] at hv; clear hv)) | with_reducible assumption | with_reducible apply modRegion_keeps | with_reducible apply updConditions_keeps | with_reducible apply bringOnline_keeps | lift_lets -underBinder | intro _ _ _ | split | dsimp -zeta only | simp only [mk_keeps]

theorem execRunnerRetrain_keeps {k : Key} {s : State} (h : Keep k s) (a0 : Nat) (a1 : Bool) : KeepO k (execRunnerRetrain a0 a1 s) := by
  unfold execRunnerRetrain
  repeat' first | with_reducible assumption | with_reducible apply modRegion_keeps | with_reducible apply fault_keeps | with_reducible apply linkTrained_keeps | with_reducible apply next_keeps | intro _ _ _ | split | dsimp -zeta only | simp only [mk_keeps]

end Sys2Proof.Machine
end

