-- ==== Sys2Proof/Laws/KeepTrace.lean ====
section
/-! SUPPORT. The operations of Trace.lean keep the part, the fuses, the queue and a canonical word store. -/

namespace Sys2Proof.Machine

set_option linter.all false

theorem skipRec_keeps {k : Key} {s : State} (h : Keep k s) (a0 : Nat) : Keep k (skipRec s a0) := by
  unfold skipRec
  repeat' first | (intro v; first | (refine (fun (_ : Keep k v) => ?_) ?_; rotate_left; simp only [v]; rotate_left; clear_value v) | (have hv : v = v := rfl; simp only [v] at hv; clear hv)) | with_reducible assumption | lift_lets -underBinder | intro _ _ _ | split | dsimp -zeta only | simp only [mk_keeps]

theorem putRec_keeps {k : Key} {s : State} (h : Keep k s) (a0 : TraceRec) : Keep k (putRec s a0) := by
  unfold putRec
  generalize getF s TRC_STATUS_WR_IDX = i
  have h2 := wrList_keeps (skipRec_keeps h i) (traceAddr i) (traceWords a0)
  extract_lets j s1 s2 src s3
  have h3 : Keep k s3 := mk_keeps.mpr h2
  clear_value s3
  split
  · exact setFlag_keeps (setF_keeps h3 _ _) _ _
  · exact setF_keeps h3 _ _

theorem acceptRec_keeps {k : Key} {s : State} (h : Keep k s) (a0 : TraceRec) : Keep k (acceptRec s a0) := by
  unfold acceptRec
  repeat' first | (intro v; first | (refine (fun (_ : Keep k v) => ?_) ?_; rotate_left; simp only [v]; rotate_left; clear_value v) | (have hv : v = v := rfl; simp only [v] at hv; clear hv)) | with_reducible assumption | with_reducible apply setFlag_keeps | with_reducible apply raise_keeps | with_reducible apply traceLose_keeps | with_reducible apply freezeTrace_keeps | with_reducible apply putRec_keeps | lift_lets -underBinder | intro _ _ _ | split | dsimp -zeta only | simp only [mk_keeps]

theorem startPost_keeps {k : Key} {s : State} (h : Keep k s) (a0 : TraceRec) : Keep k (startPost s a0) := by
  unfold startPost
  repeat' first | (intro v; first | (refine (fun (_ : Keep k v) => ?_) ?_; rotate_left; simp only [v]; rotate_left; clear_value v) | (have hv : v = v := rfl; simp only [v] at hv; clear hv)) | with_reducible assumption | with_reducible apply freezeTrace_keeps | lift_lets -underBinder | intro _ _ _ | split | dsimp -zeta only | simp only [mk_keeps]

theorem acceptHead_keeps {k : Key} {s : State} (h : Keep k s)  : Keep k (acceptHead s) := by
  unfold acceptHead
  repeat' first | with_reducible assumption | with_reducible apply acceptRec_keeps | with_reducible apply startPost_keeps | intro _ _ _ | split | dsimp -zeta only | simp only [mk_keeps]

theorem flushQueue_keeps {k : Key} {s : State} (h : Keep k s)  : Keep k (flushQueue s) := by
  unfold flushQueue
  repeat' first | with_reducible assumption | with_reducible apply forEach_keeps | with_reducible apply acceptHead_keeps | with_reducible apply forEach_keeps | intro _ _ _ | split | dsimp -zeta only | simp only [mk_keeps]

theorem execTraceRecord_keeps {k : Key} {s : State} (h : Keep k s)  : KeepO k (execTraceRecord s) := by
  unfold execTraceRecord
  repeat' first | with_reducible assumption | with_reducible apply acceptHead_keeps | with_reducible apply next_keeps | intro _ _ _ | split | dsimp -zeta only | simp only [mk_keeps]

theorem marker_keeps {k : Key} {s : State} (h : Keep k s) (a0 : Nat) (a1 : Nat) (a2 : Nat) (a3 : Nat) : Keep k (marker s a0 a1 a2 a3) := by
  unfold marker
  repeat' first | with_reducible assumption | with_reducible apply acceptRec_keeps | with_reducible apply flushQueue_keeps | intro _ _ _ | split | dsimp -zeta only | simp only [mk_keeps]

theorem sleepMarker_keeps {k : Key} {s : State} (h : Keep k s) (a0 : Nat) (a1 : Nat) : Keep k (sleepMarker s a0 a1) := by
  unfold sleepMarker
  repeat' first | (intro v; first | (refine (fun (_ : Keep k v) => ?_) ?_; rotate_left; simp only [v]; rotate_left; clear_value v) | (have hv : v = v := rfl; simp only [v] at hv; clear hv)) | with_reducible assumption | with_reducible apply marker_keeps | lift_lets -underBinder | intro _ _ _ | split | dsimp -zeta only | simp only [mk_keeps]

theorem flushAon_keeps {k : Key} {s : State} (h : Keep k s)  : Keep k (flushAon s) := by
  unfold flushAon
  repeat' first | with_reducible assumption | with_reducible apply forEach_keeps | with_reducible apply acceptRec_keeps | with_reducible apply forEach_keeps | intro _ _ _ | split | dsimp -zeta only | simp only [mk_keeps]

theorem wakeMarker_keeps {k : Key} {s : State} (h : Keep k s) (a0 : Nat) : Keep k (wakeMarker s a0) := by
  unfold wakeMarker
  extract_lets x src s1
  have h1 : Keep k s1 := mk_keeps.mpr h
  clear_value s1
  split
  · exact marker_keeps (setF_keeps (mk_keeps.mpr (flushAon_keeps h1)) _ _) _ _ _ _
  · clear_value x
    rcases x with _ | ⟨r, l⟩
    · exact h1
    · dsimp only
      split
      · exact marker_keeps h1 _ _ _ _
      · exact h1

theorem traceStop_keeps {k : Key} {s : State} (h : Keep k s)  : Keep k (traceStop s) := by
  unfold traceStop
  repeat' first | with_reducible assumption | intro _ _ _ | split | dsimp -zeta only | simp only [mk_keeps]

theorem updStall_keeps {k : Key} {s : State} (h : Keep k s)  : Keep k (updStall s) := by
  unfold updStall
  repeat' first | with_reducible assumption | with_reducible apply setFlag_keeps | intro _ _ _ | split | dsimp -zeta only | simp only [mk_keeps]

theorem copyOne_keeps {k : Key} {s : State} (h : Keep k s) (a0 : List Word) : Keep k (copyOne s a0) := by
  unfold copyOne
  repeat' first | (intro v; first | (refine (fun (_ : Keep k v) => ?_) ?_; rotate_left; simp only [v]; rotate_left; clear_value v) | (have hv : v = v := rfl; simp only [v] at hv; clear hv)) | with_reducible assumption | with_reducible apply setF_keeps | with_reducible apply emit_keeps | with_reducible apply raise_keeps | lift_lets -underBinder | intro _ _ _ | split | dsimp -zeta only | simp only [mk_keeps]

theorem copyNext_keeps {k : Key} {s : State} (h : Keep k s)  : Keep k (copyNext s) := by
  unfold copyNext
  repeat' first | (intro v; first | (refine (fun (_ : Keep k v) => ?_) ?_; rotate_left; simp only [v]; rotate_left; clear_value v) | (have hv : v = v := rfl; simp only [v] at hv; clear hv)) | with_reducible assumption | with_reducible apply addSat_keeps | with_reducible apply raise_keeps | with_reducible apply copyOne_keeps | lift_lets -underBinder | intro _ _ _ | split | dsimp -zeta only | simp only [mk_keeps]

theorem execTraceHostCopy_keeps {k : Key} {s : State} (h : Keep k s)  : KeepO k (execTraceHostCopy s) := by
  unfold execTraceHostCopy
  repeat' first | with_reducible assumption | with_reducible apply forEach_keeps | with_reducible apply xfer_keeps | with_reducible apply updStall_keeps | with_reducible apply copyNext_keeps | with_reducible apply forEach_keeps | with_reducible apply next_keeps | intro _ _ _ | split | dsimp -zeta only | simp only [mk_keeps]

theorem traceHostOff_keeps {k : Key} {s : State} (h : Keep k s)  : Keep k (traceHostOff s) := by
  unfold traceHostOff
  repeat' first | (intro v; first | (refine (fun (_ : Keep k v) => ?_) ?_; rotate_left; simp only [v]; rotate_left; clear_value v) | (have hv : v = v := rfl; simp only [v] at hv; clear hv)) | with_reducible assumption | with_reducible apply setFlag_keeps | with_reducible apply updStall_keeps | lift_lets -underBinder | intro _ _ _ | split | dsimp -zeta only | simp only [mk_keeps]

theorem frameOut_keeps {k : Key} {s : State} (h : Keep k s) (a0 : List Word) : Keep k (frameOut s a0) := by
  unfold frameOut
  repeat' first | with_reducible assumption | with_reducible apply emit_keeps | intro _ _ _ | split | dsimp -zeta only | simp only [mk_keeps]

theorem execTracePortFrame_keeps {k : Key} {s : State} (h : Keep k s)  : KeepO k (execTracePortFrame s) := by
  unfold execTracePortFrame
  repeat' first | (intro v; first | (refine (fun (_ : Keep k v) => ?_) ?_; rotate_left; simp only [v]; rotate_left; clear_value v) | (have hv : v = v := rfl; simp only [v] at hv; clear hv)) | with_reducible assumption | with_reducible apply addSat_keeps | with_reducible apply raise_keeps | with_reducible apply frameOut_keeps | with_reducible apply next_keeps | lift_lets -underBinder | intro _ _ _ | split | dsimp -zeta only | simp only [mk_keeps]

theorem traceResume_keeps {k : Key} {s : State} (h : Keep k s)  : Keep k (traceResume s) := by
  unfold traceResume
  repeat' first | with_reducible assumption | with_reducible apply setF_keeps | with_reducible apply setFlag_keeps | intro _ _ _ | split | dsimp -zeta only | simp only [mk_keeps]

theorem trcCtrlWrite_keeps {k : Key} {s : State} (h : Keep k s) (a0 : Word) : Keep k (trcCtrlWrite s a0) := by
  unfold trcCtrlWrite
  repeat' first | (intro v; first | (refine (fun (_ : Keep k v) => ?_) ?_; rotate_left; simp only [v]; rotate_left; clear_value v) | (have hv : v = v := rfl; simp only [v] at hv; clear hv)) | with_reducible assumption | with_reducible apply wr_keeps | with_reducible apply setFlag_keeps | with_reducible apply updStall_keeps | with_reducible apply traceResume_keeps | lift_lets -underBinder | intro _ _ _ | split | dsimp -zeta only | simp only [mk_keeps]

theorem execTraceResume_keeps {k : Key} {s : State} (h : Keep k s) (a0 : Word) : KeepO k (execTraceResume a0 s) := by
  unfold execTraceResume
  repeat' first | with_reducible assumption | with_reducible apply noteCfg_keeps | with_reducible apply trcCtrlWrite_keeps | with_reducible apply next_keeps | intro _ _ _ | split | dsimp -zeta only | simp only [mk_keeps]

theorem beginOn_keeps {k : Key} {s : State} (h : Keep k s) (a0 : Nat) : Keep k (beginOn s a0) := by
  unfold beginOn
  repeat' first | with_reducible assumption | intro _ _ _ | split | dsimp -zeta only | simp only [mk_keeps]

theorem measureOne_keeps {k : Key} {s : State} (h : Keep k s) (a0 : Nat) (a1 : Tag) : Keep k (measureOne s a0 a1) := by
  unfold measureOne
  repeat' first | (intro v; first | (refine (fun (_ : Keep k v) => ?_) ?_; rotate_left; simp only [v]; rotate_left; clear_value v) | (have hv : v = v := rfl; simp only [v] at hv; clear hv)) | with_reducible assumption | with_reducible apply wr_keeps | with_reducible apply incSat_keeps | with_reducible apply raise_keeps | with_reducible apply endSt_keeps | with_reducible apply flaskHold_keeps | lift_lets -underBinder | intro _ _ _ | split | dsimp -zeta only | simp only [mk_keeps]

theorem measureNext_keeps {k : Key} {s : State} (h : Keep k s)  : Keep k (measureNext s) := by
  unfold measureNext
  repeat' first | (intro v; first | (refine (fun (_ : Keep k v) => ?_) ?_; rotate_left; simp only [v]; rotate_left; clear_value v) | (have hv : v = v := rfl; simp only [v] at hv; clear hv)) | with_reducible assumption | with_reducible apply forEach_keeps | with_reducible apply measureOne_keeps | with_reducible apply forEach_keeps | lift_lets -underBinder | intro _ _ _ | split | dsimp -zeta only | simp only [mk_keeps]

theorem execAtest_keeps {k : Key} {s : State} (h : Keep k s) (a0 : Nat) : KeepO k (execAtest a0 s) := by
  unfold execAtest
  repeat' first | (intro v; first | (refine (fun (_ : Keep k v) => ?_) ?_; rotate_left; simp only [v]; rotate_left; clear_value v) | (have hv : v = v := rfl; simp only [v] at hv; clear hv)) | with_reducible assumption | with_reducible apply setBitF_keeps | with_reducible apply pendTag_keeps | with_reducible apply beginOn_keeps | with_reducible apply measureNext_keeps | with_reducible apply next_keeps | lift_lets -underBinder | intro _ _ _ | split | dsimp -zeta only | simp only [mk_keeps]

theorem measureEnd_keeps {k : Key} {s : State} (h : Keep k s) (a0 : Measure) : Keep k (measureEnd s a0) := by
  unfold measureEnd
  repeat' first | (intro v; first | (refine (fun (_ : Keep k v) => ?_) ?_; rotate_left; simp only [v]; rotate_left; clear_value v) | (have hv : v = v := rfl; simp only [v] at hv; clear hv)) | with_reducible assumption | with_reducible apply wr_keeps | with_reducible apply forEach_keeps | with_reducible apply endSt_keeps | with_reducible apply setHolds_keeps | with_reducible apply measureNext_keeps | with_reducible apply forEach_keeps | lift_lets -underBinder | intro _ _ _ | split | dsimp -zeta only | simp only [mk_keeps]

theorem execAtestMeasureDone_keeps {k : Key} {s : State} (h : Keep k s) (a0 : Int) : KeepO k (execAtestMeasureDone a0 s) := by
  unfold execAtestMeasureDone
  repeat' first | (intro v; first | (refine (fun (_ : Keep k v) => ?_) ?_; rotate_left; simp only [v]; rotate_left; clear_value v) | (have hv : v = v := rfl; simp only [v] at hv; clear hv)) | with_reducible assumption | with_reducible apply setI_keeps | with_reducible apply incSat_keeps | with_reducible apply advance_keeps | with_reducible apply raise_keeps | with_reducible apply endTag_keeps | with_reducible apply measureEnd_keeps | with_reducible apply next_keeps | lift_lets -underBinder | intro _ _ _ | split | dsimp -zeta only | simp only [mk_keeps]

theorem execAtestInterlockLoss_keeps {k : Key} {s : State} (h : Keep k s)  : KeepO k (execAtestInterlockLoss s) := by
  unfold execAtestInterlockLoss
  repeat' first | with_reducible assumption | with_reducible apply incSat_keeps | with_reducible apply endSt_keeps | with_reducible apply measureEnd_keeps | with_reducible apply next_keeps | intro _ _ _ | split | dsimp -zeta only | simp only [mk_keeps]

end Sys2Proof.Machine
end

