-- ==== Sys2Proof/Laws/KeepWatchdog.lean ====
section
/-! SUPPORT. The operations of Watchdog.lean keep the part, the fuses, the queue and a canonical word store. -/

namespace Sys2Proof.Machine

set_option linter.all false

theorem stepQ_keeps {k : Key} {s : State} (h : Keep k s)  : Keep k (stepQ s) := by
  unfold stepQ
  repeat' first | with_reducible assumption | with_reducible apply setF_keeps | intro _ _ _ | split | dsimp -zeta only | simp only [mk_keeps]

theorem seedQ_keeps {k : Key} {s : State} (h : Keep k s)  : Keep k (seedQ s) := by
  unfold seedQ
  repeat' first | (intro v; first | (refine (fun (_ : Keep k v) => ?_) ?_; rotate_left; simp only [v]; rotate_left; clear_value v) | (have hv : v = v := rfl; simp only [v] at hv; clear hv)) | with_reducible assumption | with_reducible apply setF_keeps | lift_lets -underBinder | intro _ _ _ | split | dsimp -zeta only | simp only [mk_keeps]

theorem wdFreeze_keeps {k : Key} {s : State} (h : Keep k s)  : Keep k (wdFreeze s) := by
  unfold wdFreeze
  repeat' first | with_reducible assumption | intro _ _ _ | split | dsimp -zeta only | simp only [mk_keeps]

theorem wdTimer_keeps {k : Key} {s : State} (h : Keep k s) (a0 : Nat) : Keep k (wdTimer s a0) := by
  unfold wdTimer
  repeat' first | with_reducible assumption | with_reducible apply wdFreeze_keeps | intro _ _ _ | split | dsimp -zeta only | simp only [mk_keeps]

theorem wdBoot_keeps {k : Key} {s : State} (h : Keep k s)  : Keep k (wdBoot s) := by
  unfold wdBoot
  repeat' first | with_reducible assumption | with_reducible apply setF_keeps | with_reducible apply setFlag_keeps | with_reducible apply wdTimer_keeps | intro _ _ _ | split | dsimp -zeta only | simp only [mk_keeps]

theorem wdRun_keeps {k : Key} {s : State} (h : Keep k s)  : Keep k (wdRun s) := by
  unfold wdRun
  repeat' first | (intro v; first | (refine (fun (_ : Keep k v) => ?_) ?_; rotate_left; simp only [v]; rotate_left; clear_value v) | (have hv : v = v := rfl; simp only [v] at hv; clear hv)) | with_reducible assumption | with_reducible apply setF_keeps | with_reducible apply setFlag_keeps | with_reducible apply wdTimer_keeps | lift_lets -underBinder | intro _ _ _ | split | dsimp -zeta only | simp only [mk_keeps]

theorem wdService_keeps {k : Key} {s : State} (h : Keep k s)  : Keep k (wdService s) := by
  unfold wdService
  repeat' first | with_reducible assumption | with_reducible apply setF_keeps | with_reducible apply stepQ_keeps | with_reducible apply wdRun_keeps | intro _ _ _ | split | dsimp -zeta only | simp only [mk_keeps]

theorem releaseHrst_keeps {k : Key} {s : State} (h : Keep k s)  : Keep k (releaseHrst s) := by
  unfold releaseHrst
  repeat' first | with_reducible assumption | with_reducible apply emit_keeps | intro _ _ _ | split | dsimp -zeta only | simp only [mk_keeps]

theorem wdFail_keeps {k : Key} {s : State} (h : Keep k s) (a0 : Nat) : Keep k (wdFail s a0) := by
  unfold wdFail
  repeat' first | (intro v; first | (refine (fun (_ : Keep k v) => ?_) ?_; rotate_left; simp only [v]; rotate_left; clear_value v) | (have hv : v = v := rfl; simp only [v] at hv; clear hv)) | with_reducible assumption | with_reducible apply setF_keeps | with_reducible apply incSat_keeps | with_reducible apply emit_keeps | with_reducible apply fault_keeps | with_reducible apply raise_keeps | with_reducible apply loseHost_keeps | with_reducible apply logOther_keeps | with_reducible apply stepQ_keeps | with_reducible apply hostReset_keeps | lift_lets -underBinder | intro _ _ _ | split | dsimp -zeta only | simp only [mk_keeps]

theorem wdPower_keeps {k : Key} {s : State} (h : Keep k s)  : Keep k (wdPower s) := by
  unfold wdPower
  repeat' first | (intro v; first | (refine (fun (_ : Keep k v) => ?_) ?_; rotate_left; simp only [v]; rotate_left; clear_value v) | (have hv : v = v := rfl; simp only [v] at hv; clear hv)) | with_reducible assumption | with_reducible apply setF_keeps | with_reducible apply setFlag_keeps | with_reducible apply seedQ_keeps | with_reducible apply wdBoot_keeps | lift_lets -underBinder | intro _ _ _ | split | dsimp -zeta only | simp only [mk_keeps]

theorem wdCtrlWrite_keeps {k : Key} {s : State} (h : Keep k s) (a0 : Word) : Keep k (wdCtrlWrite s a0) := by
  unfold wdCtrlWrite
  repeat' first | (intro v; first | (refine (fun (_ : Keep k v) => ?_) ?_; rotate_left; simp only [v]; rotate_left; clear_value v) | (have hv : v = v := rfl; simp only [v] at hv; clear hv)) | with_reducible assumption | with_reducible apply setFlag_keeps | with_reducible apply seedQ_keeps | with_reducible apply wdRun_keeps | lift_lets -underBinder | intro _ _ _ | split | dsimp -zeta only | simp only [mk_keeps]

theorem execWdStart_keeps {k : Key} {s : State} (h : Keep k s) (a0 : Word) : KeepO k (execWdStart a0 s) := by
  unfold execWdStart
  repeat' first | with_reducible assumption | with_reducible apply noteCfg_keeps | with_reducible apply wdCtrlWrite_keeps | with_reducible apply next_keeps | intro _ _ _ | split | dsimp -zeta only | simp only [mk_keeps]

theorem wdAnswer_keeps {k : Key} {s : State} (h : Keep k s) (a0 : Word) : Keep k (wdAnswer s a0) := by
  unfold wdAnswer
  repeat' first | (intro v; first | (refine (fun (_ : Keep k v) => ?_) ?_; rotate_left; simp only [v]; rotate_left; clear_value v) | (have hv : v = v := rfl; simp only [v] at hv; clear hv)) | with_reducible assumption | with_reducible apply wdService_keeps | with_reducible apply wdFail_keeps | lift_lets -underBinder | intro _ _ _ | split | dsimp -zeta only | simp only [mk_keeps]

theorem execWdAnswer_keeps {k : Key} {s : State} (h : Keep k s) (a0 : Word) : KeepO k (execWdAnswer a0 s) := by
  unfold execWdAnswer
  repeat' first | with_reducible assumption | with_reducible apply wdAnswer_keeps | with_reducible apply next_keeps | intro _ _ _ | split | dsimp -zeta only | simp only [mk_keeps]

theorem wdPeriodWrite_keeps {k : Key} {s : State} (h : Keep k s) (a0 : Word) : Keep k (wdPeriodWrite s a0) := by
  unfold wdPeriodWrite
  repeat' first | with_reducible assumption | with_reducible apply wr_keeps | with_reducible apply raise_keeps | intro _ _ _ | split | dsimp -zeta only | simp only [mk_keeps]

theorem execWdPeriodWrite_keeps {k : Key} {s : State} (h : Keep k s) (a0 : Word) : KeepO k (execWdPeriodWrite a0 s) := by
  unfold execWdPeriodWrite
  repeat' first | with_reducible assumption | with_reducible apply wdPeriodWrite_keeps | with_reducible apply next_keeps | intro _ _ _ | split | dsimp -zeta only | simp only [mk_keeps]

theorem wdKeyWrite_keeps {k : Key} {s : State} (h : Keep k s) (a0 : Word) : Keep k (wdKeyWrite s a0) := by
  unfold wdKeyWrite
  repeat' first | with_reducible assumption | intro _ _ _ | split | dsimp -zeta only | simp only [mk_keeps]

theorem execWdKeyWrite_keeps {k : Key} {s : State} (h : Keep k s) (a0 : Word) : KeepO k (execWdKeyWrite a0 s) := by
  unfold execWdKeyWrite
  repeat' first | with_reducible assumption | with_reducible apply wdKeyWrite_keeps | with_reducible apply next_keeps | intro _ _ _ | split | dsimp -zeta only | simp only [mk_keeps]

theorem execWdPeriodExpire_keeps {k : Key} {s : State} (h : Keep k s)  : KeepO k (execWdPeriodExpire s) := by
  unfold execWdPeriodExpire
  repeat' first | with_reducible assumption | with_reducible apply advance_keeps | with_reducible apply wdFail_keeps | with_reducible apply next_keeps | intro _ _ _ | split | dsimp -zeta only | simp only [mk_keeps]

theorem execWdBootExpire_keeps {k : Key} {s : State} (h : Keep k s)  : KeepO k (execWdBootExpire s) := by
  unfold execWdBootExpire
  repeat' first | with_reducible assumption | with_reducible apply advance_keeps | with_reducible apply wdFail_keeps | with_reducible apply next_keeps | intro _ _ _ | split | dsimp -zeta only | simp only [mk_keeps]

theorem execWdPulseEnd_keeps {k : Key} {s : State} (h : Keep k s)  : KeepO k (execWdPulseEnd s) := by
  unfold execWdPulseEnd
  repeat' first | (intro v; first | (refine (fun (_ : Keep k v) => ?_) ?_; rotate_left; simp only [v]; rotate_left; clear_value v) | (have hv : v = v := rfl; simp only [v] at hv; clear hv)) | with_reducible assumption | with_reducible apply setF_keeps | with_reducible apply advance_keeps | with_reducible apply raise_keeps | with_reducible apply wdBoot_keeps | with_reducible apply releaseHrst_keeps | with_reducible apply next_keeps | lift_lets -underBinder | intro _ _ _ | split | dsimp -zeta only | simp only [mk_keeps]

theorem wdHalt_keeps {k : Key} {s : State} (h : Keep k s) (a0 : Bool) : Keep k (wdHalt s a0) := by
  unfold wdHalt
  repeat' first | (intro v; first | (refine (fun (_ : Keep k v) => ?_) ?_; rotate_left; simp only [v]; rotate_left; clear_value v) | (have hv : v = v := rfl; simp only [v] at hv; clear hv)) | with_reducible assumption | with_reducible apply setFlag_keeps | with_reducible apply wdFreeze_keeps | lift_lets -underBinder | intro _ _ _ | split | dsimp -zeta only | simp only [mk_keeps]

theorem execDebugHalt_keeps {k : Key} {s : State} (h : Keep k s) (a0 : Nat) : KeepO k (execDebugHalt a0 s) := by
  unfold execDebugHalt
  repeat' first | with_reducible assumption | with_reducible apply wdHalt_keeps | with_reducible apply next_keeps | intro _ _ _ | split | dsimp -zeta only | simp only [mk_keeps]

theorem wdPerst_keeps {k : Key} {s : State} (h : Keep k s)  : Keep k (wdPerst s) := by
  unfold wdPerst
  repeat' first | with_reducible assumption | with_reducible apply raise_keeps | with_reducible apply wdBoot_keeps | intro _ _ _ | split | dsimp -zeta only | simp only [mk_keeps]

theorem wdOff_keeps {k : Key} {s : State} (h : Keep k s)  : Keep k (wdOff s) := by
  unfold wdOff
  repeat' first | with_reducible assumption | with_reducible apply releaseHrst_keeps | intro _ _ _ | split | dsimp -zeta only | simp only [mk_keeps]

end Sys2Proof.Machine
end

