-- ==== Sys2Proof/Laws/KeepHostReset.lean ====
section
/-! SUPPORT. The operations of HostReset.lean keep the part, the fuses, the queue and a canonical word store. -/

namespace Sys2Proof.Machine

set_option linter.all false

theorem dropStaged_keeps {k : Key} {s : State} (h : Keep k s) (a0 : Nat) : Keep k (dropStaged s a0) := by
  unfold dropStaged
  repeat' first | with_reducible assumption | with_reducible apply forEach_keeps | with_reducible apply countLost_keeps | with_reducible apply forceKey_keeps | with_reducible apply forEach_keeps | intro _ _ _ | split | dsimp -zeta only | simp only [mk_keeps]

theorem dropStopped_keeps {k : Key} {s : State} (h : Keep k s)  : Keep k (dropStopped s) := by
  unfold dropStopped
  repeat' first | with_reducible assumption | with_reducible apply chanReads_keeps | intro _ _ _ | split | dsimp -zeta only | simp only [mk_keeps]

theorem logOrphan_keeps {k : Key} {s : State} (h : Keep k s) (a0 : Tag) (a1 : Nat) : Keep k (logOrphan s a0 a1) := by
  unfold logOrphan
  repeat' first | (intro v; first | (refine (fun (_ : Keep k v) => ?_) ?_; rotate_left; simp only [v]; rotate_left; clear_value v) | (have hv : v = v := rfl; simp only [v] at hv; clear hv)) | with_reducible assumption | with_reducible apply wr_keeps | with_reducible apply setFlag_keeps | with_reducible apply raiseHi_keeps | with_reducible apply traceCmd_keeps | with_reducible apply wrList_keeps | lift_lets -underBinder | intro _ _ _ | split | dsimp -zeta only | simp only [mk_keeps]

theorem hostReset_keeps {k : Key} {s : State} (h : Keep k s) (a0 : HostResetKind) : Keep k (hostReset s a0) := by
  unfold hostReset
  repeat' first | (intro v; first | (refine (fun (_ : Keep k v) => ?_) ?_; rotate_left; simp only [v]; rotate_left; clear_value v) | (have hv : v = v := rfl; simp only [v] at hv; clear hv)) | with_reducible assumption | with_reducible apply setF_keeps | with_reducible apply setFlag_keeps | with_reducible apply resetWords_keeps | with_reducible apply forEach_keeps | with_reducible apply traceHostOff_keeps | with_reducible apply dropStaged_keeps | with_reducible apply dropStopped_keeps | with_reducible apply logOrphan_keeps | with_reducible apply forEach_keeps | lift_lets -underBinder | intro _ _ _ | split | dsimp -zeta only | simp only [mk_keeps]

theorem execHostIfReset_keeps {k : Key} {s : State} (h : Keep k s) (a0 : HostResetKind) : KeepO k (execHostIfReset a0 s) := by
  unfold execHostIfReset
  repeat' first | (intro v; first | (refine (fun (_ : Keep k v) => ?_) ?_; rotate_left; simp only [v]; rotate_left; clear_value v) | (have hv : v = v := rfl; simp only [v] at hv; clear hv)) | with_reducible assumption | with_reducible apply loseHost_keeps | with_reducible apply wdPerst_keeps | with_reducible apply hostReset_keeps | with_reducible apply next_keeps | lift_lets -underBinder | intro _ _ _ | split | dsimp -zeta only | simp only [mk_keeps]

theorem orphanEntry_keeps {k : Key} {s : State} (h : Keep k s) (a0 : Nat) (a1 : Tag) (a2 : Nat) : Keep k (orphanEntry s a0 a1 a2) := by
  unfold orphanEntry
  repeat' first | (intro v; first | (refine (fun (_ : Keep k v) => ?_) ?_; rotate_left; simp only [v]; rotate_left; clear_value v) | (have hv : v = v := rfl; simp only [v] at hv; clear hv)) | with_reducible assumption | with_reducible apply setTag_keeps | with_reducible apply updIdle_keeps | with_reducible apply logOrphan_keeps | lift_lets -underBinder | intro _ _ _ | split | dsimp -zeta only | simp only [mk_keeps]

theorem enterOrphan_keeps {k : Key} {s : State} (h : Keep k s) (a0 : Nat) : Keep k (enterOrphan s a0) := by
  unfold enterOrphan
  repeat' first | with_reducible assumption | with_reducible apply orphanEntry_keeps | intro _ _ _ | split | dsimp -zeta only | simp only [mk_keeps]

theorem execOrphanEntry_keeps {k : Key} {s : State} (h : Keep k s) (a0 : Nat) : KeepO k (execOrphanEntry a0 s) := by
  unfold execOrphanEntry
  repeat' first | with_reducible assumption | with_reducible apply enterOrphan_keeps | with_reducible apply next_keeps | intro _ _ _ | split | dsimp -zeta only | simp only [mk_keeps]

theorem execHostIfReady_keeps {k : Key} {s : State} (h : Keep k s)  : KeepO k (execHostIfReady s) := by
  unfold execHostIfReady
  repeat' first | (intro v; first | (refine (fun (_ : Keep k v) => ?_) ?_; rotate_left; simp only [v]; rotate_left; clear_value v) | (have hv : v = v := rfl; simp only [v] at hv; clear hv)) | with_reducible assumption | with_reducible apply setFlag_keeps | with_reducible apply forEach_keeps | with_reducible apply updEvFull_keeps | with_reducible apply enterOrphan_keeps | with_reducible apply forEach_keeps | with_reducible apply next_keeps | lift_lets -underBinder | intro _ _ _ | split | dsimp -zeta only | simp only [mk_keeps]

end Sys2Proof.Machine
end

