-- ==== Sys2Proof/Laws/KeepTones.lean ====
section
/-! SUPPORT. The operations of Tones.lean keep the part, the fuses, the queue and a canonical word store. -/

namespace Sys2Proof.Machine

set_option linter.all false

theorem pruneTones_keeps {k : Key} {s : State} (h : Keep k s) (a0 : Nat) : Keep k (pruneTones s a0) := by
  unfold pruneTones
  repeat' first | (intro v; first | (refine (fun (_ : Keep k v) => ?_) ?_; rotate_left; simp only [v]; rotate_left; clear_value v) | (have hv : v = v := rfl; simp only [v] at hv; clear hv)) | with_reducible assumption | with_reducible apply forEach_keeps | with_reducible apply modChan_keeps | with_reducible apply setFlask_keeps | with_reducible apply forEach_keeps | lift_lets -underBinder | intro _ _ _ | split | dsimp -zeta only | simp only [mk_keeps]

theorem admitPair_keeps {k : Key} {s : State} (h : Keep k s) (a0 : Nat) (a1 : Nat × Nat) : Keep k (admitPair s a0 a1) := by
  unfold admitPair
  repeat' first | (intro v; first | (refine (fun (_ : Keep k v) => ?_) ?_; rotate_left; simp only [v]; rotate_left; clear_value v) | (have hv : v = v := rfl; simp only [v] at hv; clear hv)) | with_reducible assumption | with_reducible apply modFlask_keeps | lift_lets -underBinder | intro _ _ _ | split | dsimp -zeta only | simp only [mk_keeps]

theorem admitTones_keeps {k : Key} {s : State} (h : Keep k s) (a0 : Nat) : Keep k (admitTones s a0) := by
  unfold admitTones
  repeat' first | (intro v; first | (refine (fun (_ : Keep k v) => ?_) ?_; rotate_left; simp only [v]; rotate_left; clear_value v) | (have hv : v = v := rfl; simp only [v] at hv; clear hv)) | with_reducible assumption | with_reducible apply forEach_keeps | with_reducible apply modFlask_keeps | with_reducible apply admitPair_keeps | with_reducible apply forEach_keeps | lift_lets -underBinder | intro _ _ _ | split | dsimp -zeta only | simp only [mk_keeps]

theorem stepTones_keeps {k : Key} {s : State} (h : Keep k s) (a0 : Nat) : Keep k (stepTones s a0) := by
  unfold stepTones
  repeat' first | with_reducible assumption | with_reducible apply modFlask_keeps | with_reducible apply step_keeps | intro _ _ _ | split | dsimp -zeta only | simp only [mk_keeps]

theorem demod_keeps {k : Key} {s : State} (h : Keep k s) (a0 : ChanTick) : Keep k (demod s a0) := by
  unfold demod
  repeat' first | (intro v; first | (refine (fun (_ : Keep k v) => ?_) ?_; rotate_left; simp only [v]; rotate_left; clear_value v) | (have hv : v = v := rfl; simp only [v] at hv; clear hv)) | with_reducible assumption | with_reducible apply setFlask_keeps | lift_lets -underBinder | intro _ _ _ | split | dsimp -zeta only | simp only [mk_keeps]

end Sys2Proof.Machine
end

