-- ==== Sys2Proof/Laws/KeepLoop.lean ====
section
/-! SUPPORT. The operations of Loop.lean keep the part, the fuses, the queue and a canonical word store. -/

namespace Sys2Proof.Machine

set_option linter.all false

theorem setShc_keeps {k : Key} {s : State} (h : Keep k s) (a0 : Nat) (a1 : ShuntCheck) : Keep k (setShc s a0 a1) := by
  unfold setShc
  repeat' first | with_reducible assumption | intro _ _ _ | split | dsimp -zeta only | simp only [mk_keeps]

theorem shuntTick_keeps {k : Key} {s : State} (h : Keep k s) (a0 : Nat) (a1 : Bool) : Keep k (shuntTick s a0 a1) := by
  unfold shuntTick
  repeat' first | (intro v; first | (refine (fun (_ : Keep k v) => ?_) ?_; rotate_left; simp only [v]; rotate_left; clear_value v) | (have hv : v = v := rfl; simp only [v] at hv; clear hv)) | with_reducible assumption | with_reducible apply setShc_keeps | lift_lets -underBinder | intro _ _ _ | split | dsimp -zeta only | simp only [mk_keeps]

theorem shuntIdle_keeps {k : Key} {s : State} (h : Keep k s) (a0 : Nat) : Keep k (shuntIdle s a0) := by
  unfold shuntIdle
  repeat' first | with_reducible assumption | with_reducible apply setShc_keeps | intro _ _ _ | split | dsimp -zeta only | simp only [mk_keeps]

theorem runLoops_keeps {k : Key} {s : State} (h : Keep k s) (a0 : Nat) (a1 : Nat) : Keep k (runLoops s a0 a1) := by
  unfold runLoops
  repeat' first | (intro v; first | (refine (fun (_ : Keep k v) => ?_) ?_; rotate_left; simp only [v]; rotate_left; clear_value v) | (have hv : v = v := rfl; simp only [v] at hv; clear hv)) | with_reducible assumption | with_reducible apply setChan_keeps | with_reducible apply modFlask_keeps | with_reducible apply shuntTick_keeps | lift_lets -underBinder | intro _ _ _ | split | dsimp -zeta only | simp only [mk_keeps]

theorem readChan_keeps {k : Key} {s : State} (h : Keep k s) (a0 : ChanTick) : Keep k (readChan s a0) := by
  unfold readChan
  repeat' first | (intro v; first | (refine (fun (_ : Keep k v) => ?_) ?_; rotate_left; simp only [v]; rotate_left; clear_value v) | (have hv : v = v := rfl; simp only [v] at hv; clear hv)) | with_reducible assumption | with_reducible apply modChan_keeps | lift_lets -underBinder | intro _ _ _ | split | dsimp -zeta only | simp only [mk_keeps]

theorem tickChan_keeps {k : Key} {s : State} (h : Keep k s) (a0 : Nat) (a1 : Nat) : Keep k (tickChan s a0 a1) := by
  unfold tickChan
  repeat' first | (intro v; first | (refine (fun (_ : Keep k v) => ?_) ?_; rotate_left; simp only [v]; rotate_left; clear_value v) | (have hv : v = v := rfl; simp only [v] at hv; clear hv)) | with_reducible assumption | with_reducible apply tickWindows_keeps | with_reducible apply shuntIdle_keeps | with_reducible apply runLoops_keeps | lift_lets -underBinder | intro _ _ _ | split | dsimp -zeta only | simp only [mk_keeps]

theorem setShaving_keeps {k : Key} {s : State} (h : Keep k s) (a0 : Bool) : Keep k (setShaving s a0) := by
  unfold setShaving
  repeat' first | (intro v; first | (refine (fun (_ : Keep k v) => ?_) ?_; rotate_left; simp only [v]; rotate_left; clear_value v) | (have hv : v = v := rfl; simp only [v] at hv; clear hv)) | with_reducible assumption | with_reducible apply setFlag_keeps | with_reducible apply incSat_keeps | with_reducible apply raise_keeps | lift_lets -underBinder | intro _ _ _ | split | dsimp -zeta only | simp only [mk_keeps]

theorem setShave_keeps {k : Key} {s : State} (h : Keep k s) (a0 : Nat) (a1 : Nat) (a2 : Nat) : Keep k (setShave s a0 a1 a2) := by
  unfold setShave
  repeat' first | (intro v; first | (refine (fun (_ : Keep k v) => ?_) ?_; rotate_left; simp only [v]; rotate_left; clear_value v) | (have hv : v = v := rfl; simp only [v] at hv; clear hv)) | with_reducible assumption | with_reducible apply setF_keeps | with_reducible apply offer_keeps | with_reducible apply setShaving_keeps | lift_lets -underBinder | intro _ _ _ | split | dsimp -zeta only | simp only [mk_keeps]

theorem shaveTick_keeps {k : Key} {s : State} (h : Keep k s) (a0 : Nat) (a1 : Bool) : Keep k (shaveTick s a0 a1) := by
  unfold shaveTick
  repeat' first | (intro v; first | (refine (fun (_ : Keep k v) => ?_) ?_; rotate_left; simp only [v]; rotate_left; clear_value v) | (have hv : v = v := rfl; simp only [v] at hv; clear hv)) | with_reducible assumption | with_reducible apply setShave_keeps | lift_lets -underBinder | intro _ _ _ | split | dsimp -zeta only | simp only [mk_keeps]

theorem updDeadBatt_keeps {k : Key} {s : State} (h : Keep k s)  : Keep k (updDeadBatt s) := by
  unfold updDeadBatt
  repeat' first | (intro v; first | (refine (fun (_ : Keep k v) => ?_) ?_; rotate_left; simp only [v]; rotate_left; clear_value v) | (have hv : v = v := rfl; simp only [v] at hv; clear hv)) | with_reducible assumption | with_reducible apply setFlag_keeps | with_reducible apply raisePP_keeps | lift_lets -underBinder | intro _ _ _ | split | dsimp -zeta only | simp only [mk_keeps]

theorem readLeg_keeps {k : Key} {s : State} (h : Keep k s) (a0 : LegTick) : Keep k (readLeg s a0) := by
  unfold readLeg
  repeat' first | (intro v; first | (refine (fun (_ : Keep k v) => ?_) ?_; rotate_left; simp only [v]; rotate_left; clear_value v) | (have hv : v = v := rfl; simp only [v] at hv; clear hv)) | with_reducible assumption | with_reducible apply setFlag_keeps | with_reducible apply setSprue_keeps | with_reducible apply sampleVs_keeps | with_reducible apply setCbus_keeps | with_reducible apply legTick_keeps | lift_lets -underBinder | intro _ _ _ | split | dsimp -zeta only | simp only [mk_keeps]

theorem alignWord_keeps {k : Key} {s : State} (h : Keep k s)  : Keep k (alignWord s) := by
  unfold alignWord
  repeat' first | with_reducible assumption | with_reducible apply forEach_keeps | with_reducible apply xfer_keeps | with_reducible apply forEach_keeps | intro _ _ _ | split | dsimp -zeta only | simp only [mk_keeps]

theorem tickPower_keeps {k : Key} {s : State} (h : Keep k s) (a0 : TickIn) : Keep k (tickPower s a0) := by
  unfold tickPower
  repeat' first | (intro v; first | (refine (fun (_ : Keep k v) => ?_) ?_; rotate_left; simp only [v]; rotate_left; clear_value v) | (have hv : v = v := rfl; simp only [v] at hv; clear hv)) | with_reducible assumption | with_reducible apply forEach_keeps | with_reducible apply shaveTick_keeps | with_reducible apply updDeadBatt_keeps | with_reducible apply readLeg_keeps | with_reducible apply alignWord_keeps | with_reducible apply forEach_keeps | lift_lets -underBinder | intro _ _ _ | split | dsimp -zeta only | simp only [mk_keeps]

theorem captureFlags_keeps_snd {k : Key} {s : State} (h : Keep k s) (a0 : Capture) (a1 : Nat) : Keep k (captureFlags s a0 a1).2 := by
  unfold captureFlags
  repeat' first | (intro v; first | (refine (fun (_ : Keep k v) => ?_) ?_; rotate_left; simp only [v]; rotate_left; clear_value v) | (have hv : v = v := rfl; simp only [v] at hv; clear hv)) | with_reducible assumption | with_reducible apply modTag_keeps | lift_lets -underBinder | intro _ _ _ | split | dsimp -zeta only | simp only [mk_keeps]
theorem captureFlags_keeps {k : Key} {s t : State} {x : Capture} {a0 : Capture} {a1 : Nat} (h : Keep k s) (e : captureFlags s a0 a1 = (x, t)) : Keep k t := by
  have := captureFlags_keeps_snd h a0 a1
  rwa [e] at this

theorem captureEdges_keeps_snd {k : Key} {s : State} (h : Keep k s) (a0 : Capture) : Keep k (captureEdges s a0).2 := by
  unfold captureEdges
  repeat' first | (intro v; first | (refine (fun (_ : Keep k v) => ?_) ?_; rotate_left; simp only [v]; rotate_left; clear_value v) | (have hv : v = v := rfl; simp only [v] at hv; clear hv)) | with_reducible assumption | with_reducible refine captureFlags_keeps ?_ ‹_› | with_reducible apply captureFlags_keeps_snd | lift_lets -underBinder | intro _ _ _ | split | dsimp -zeta only | simp only [mk_keeps]
theorem captureEdges_keeps {k : Key} {s t : State} {x : Capture} {a0 : Capture} (h : Keep k s) (e : captureEdges s a0 = (x, t)) : Keep k t := by
  have := captureEdges_keeps_snd h a0
  rwa [e] at this

theorem captureTake_keeps_snd {k : Key} {s : State} (h : Keep k s) (a0 : Capture) : Keep k (captureTake s a0).2 := by
  unfold captureTake
  repeat' first | (intro v; first | (refine (fun (_ : Keep k v) => ?_) ?_; rotate_left; simp only [v]; rotate_left; clear_value v) | (have hv : v = v := rfl; simp only [v] at hv; clear hv)) | with_reducible assumption | with_reducible apply xfer_keeps | with_reducible apply modTag_keeps | with_reducible refine captureEdges_keeps ?_ ‹_› | with_reducible apply captureEdges_keeps_snd | lift_lets -underBinder | intro _ _ _ | split | dsimp -zeta only | simp only [mk_keeps]
theorem captureTake_keeps {k : Key} {s t : State} {x : Capture} {a0 : Capture} (h : Keep k s) (e : captureTake s a0 = (x, t)) : Keep k t := by
  have := captureTake_keeps_snd h a0
  rwa [e] at this

theorem captureTick_keeps {k : Key} {s : State} (h : Keep k s) : Keep k (captureTick s) := by
  unfold captureTick
  refine forEach_keeps (fun x t ht => ?_) (mk_keeps.mpr h)
  split
  · exact ht
  · split
    next y s' e =>
      have hk : Keep k s' := by
        split at e
        · split at e
          · cases e
            exact ht
          · exact captureTake_keeps ht e
        · cases e
          exact ht
        · cases e
          exact ht
      exact mk_keeps.mpr hk

theorem strobes_keeps {k : Key} {s : State} (h : Keep k s) (a0 : TickIn) : Keep k (strobes s a0) := by
  unfold strobes
  repeat' first | with_reducible assumption | with_reducible apply forEach_keeps | with_reducible apply modRegion_keeps | with_reducible apply forEach_keeps | intro _ _ _ | split | dsimp -zeta only | simp only [mk_keeps]

theorem execLoopTick_keeps {k : Key} {s : State} (h : Keep k s) (a0 : TickIn) : KeepO k (execLoopTick a0 s) := by
  unfold execLoopTick
  repeat' first | (intro v; first | (refine (fun (_ : Keep k v) => ?_) ?_; rotate_left; simp only [v]; rotate_left; clear_value v) | (have hv : v = v := rfl; simp only [v] at hv; clear hv)) | with_reducible assumption | with_reducible apply forEach_keeps | with_reducible apply modFlask_keeps | with_reducible apply fabricsRun_keeps | with_reducible apply carrierTick_keeps | with_reducible apply pruneTones_keeps | with_reducible apply admitTones_keeps | with_reducible apply stepTones_keeps | with_reducible apply demod_keeps | with_reducible apply readChan_keeps | with_reducible apply tickChan_keeps | with_reducible apply tickPower_keeps | with_reducible apply captureTick_keeps | with_reducible apply strobes_keeps | with_reducible apply forEach_keeps | with_reducible apply next_keeps | lift_lets -underBinder | intro _ _ _ | split | dsimp -zeta only | simp only [mk_keeps]

theorem execTickStrobeLost_keeps {k : Key} {s : State} (h : Keep k s) (a0 : Nat) : KeepO k (execTickStrobeLost a0 s) := by
  unfold execTickStrobeLost
  repeat' first | with_reducible assumption | with_reducible apply advance_keeps | with_reducible apply modRegion_keeps | with_reducible apply next_keeps | intro _ _ _ | split | dsimp -zeta only | simp only [mk_keeps]

theorem execTimeRealign_keeps {k : Key} {s : State} (h : Keep k s) (a0 : List (Nat × Int)) : KeepO k (execTimeRealign a0 s) := by
  unfold execTimeRealign
  repeat' first | (intro v; first | (refine (fun (_ : Keep k v) => ?_) ?_; rotate_left; simp only [v]; rotate_left; clear_value v) | (have hv : v = v := rfl; simp only [v] at hv; clear hv)) | with_reducible assumption | with_reducible apply forEach_keeps | with_reducible apply modRegion_keeps | with_reducible apply forEach_keeps | with_reducible apply next_keeps | lift_lets -underBinder | intro _ _ _ | split | dsimp -zeta only | simp only [mk_keeps]

end Sys2Proof.Machine
end

