-- ==== Sys2Proof/Laws/KeepMeasure.lean ====
section
/-! SUPPORT. The operations of Measure.lean keep the part, the fuses, the queue and a canonical word store. -/

namespace Sys2Proof.Machine

set_option linter.all false

theorem convChan_keeps {k : Key} {s : State} (h : Keep k s) (a0 : ChanMs) : Keep k (convChan s a0) := by
  unfold convChan
  repeat' first | (intro v; first | (refine (fun (_ : Keep k v) => ?_) ?_; rotate_left; simp only [v]; rotate_left; clear_value v) | (have hv : v = v := rfl; simp only [v] at hv; clear hv)) | with_reducible assumption | with_reducible refine draw_keeps ?_ ‹_› | with_reducible apply draw_keeps_snd | with_reducible apply setChan_keeps | with_reducible apply fault_keeps | lift_lets -underBinder | intro _ _ _ | split | dsimp -zeta only | simp only [mk_keeps]

theorem mirrorChan_keeps {k : Key} {s : State} (h : Keep k s) (a0 : Nat) (a1 : Nat) : Keep k (mirrorChan s a0 a1) := by
  unfold mirrorChan
  repeat' first | (intro v; first | (refine (fun (_ : Keep k v) => ?_) ?_; rotate_left; simp only [v]; rotate_left; clear_value v) | (have hv : v = v := rfl; simp only [v] at hv; clear hv)) | with_reducible assumption | with_reducible apply wrList_keeps | lift_lets -underBinder | intro _ _ _ | split | dsimp -zeta only | simp only [mk_keeps]

theorem refreshChan_keeps {k : Key} {s : State} (h : Keep k s) (a0 : Nat) : Keep k (refreshChan s a0) := by
  unfold refreshChan
  repeat' first | (intro v; first | (refine (fun (_ : Keep k v) => ?_) ?_; rotate_left; simp only [v]; rotate_left; clear_value v) | (have hv : v = v := rfl; simp only [v] at hv; clear hv)) | with_reducible assumption | with_reducible apply wr_keeps | lift_lets -underBinder | intro _ _ _ | split | dsimp -zeta only | simp only [mk_keeps]

theorem refreshFlask_keeps {k : Key} {s : State} (h : Keep k s) (a0 : Nat) : Keep k (refreshFlask s a0) := by
  unfold refreshFlask
  repeat' first | (intro v; first | (refine (fun (_ : Keep k v) => ?_) ?_; rotate_left; simp only [v]; rotate_left; clear_value v) | (have hv : v = v := rfl; simp only [v] at hv; clear hv)) | with_reducible assumption | with_reducible apply wr_keeps | lift_lets -underBinder | intro _ _ _ | split | dsimp -zeta only | simp only [mk_keeps]

theorem setTele_keeps {k : Key} {s : State} (h : Keep k s) (a0 : Nat) (a1 : Telemetry) : Keep k (setTele s a0 a1) := by
  unfold setTele
  repeat' first | with_reducible assumption | intro _ _ _ | split | dsimp -zeta only | simp only [mk_keeps]

theorem foldTele_keeps {k : Key} {s : State} (h : Keep k s) (a0 : Nat) (a1 : Nat) (a2 : Nat) (a3 : Nat) : Keep k (foldTele s a0 a1 a2 a3) := by
  unfold foldTele
  repeat' first | (intro v; first | (refine (fun (_ : Keep k v) => ?_) ?_; rotate_left; simp only [v]; rotate_left; clear_value v) | (have hv : v = v := rfl; simp only [v] at hv; clear hv)) | with_reducible assumption | with_reducible apply setTele_keeps | lift_lets -underBinder | intro _ _ _ | split | dsimp -zeta only | simp only [mk_keeps]

theorem takeCal_keeps {k : Key} {s : State} (h : Keep k s) (a0 : Nat) (a1 : List Word) : Keep k (takeCal s a0 a1) := by
  unfold takeCal
  repeat' first | (intro v; first | (refine (fun (_ : Keep k v) => ?_) ?_; rotate_left; simp only [v]; rotate_left; clear_value v) | (have hv : v = v := rfl; simp only [v] at hv; clear hv)) | with_reducible assumption | with_reducible apply setChan_keeps | with_reducible apply modEst_keeps | with_reducible apply foldTele_keeps | with_reducible apply wrList_keeps | lift_lets -underBinder | intro _ _ _ | split | dsimp -zeta only | simp only [mk_keeps]

theorem boundaryChan_keeps {k : Key} {s : State} (h : Keep k s) (a0 : Nat) : Keep k (boundaryChan s a0) := by
  unfold boundaryChan
  repeat' first | with_reducible assumption | with_reducible apply modChan_keeps | intro _ _ _ | split | dsimp -zeta only | simp only [mk_keeps]

theorem waitCal_keeps {k : Key} {s : State} (h : Keep k s) (a0 : List Nat) (a1 : List Word) (a2 : Nat) : Keep k (waitCal s a0 a1 a2) := by
  unfold waitCal
  repeat' first | with_reducible assumption | intro _ _ _ | split | dsimp -zeta only | simp only [mk_keeps]

theorem takeCals_keeps {k : Key} {s : State} (h : Keep k s) (a0 : CalWait) : Keep k (takeCals s a0) := by
  unfold takeCals
  repeat' first | with_reducible assumption | with_reducible apply forEach_keeps | with_reducible apply endTag_keeps | with_reducible apply endSt_keeps | with_reducible apply noteCfg_keeps | with_reducible apply takeCal_keeps | with_reducible apply forEach_keeps | intro _ _ _ | split | dsimp -zeta only | simp only [mk_keeps]

theorem boundaryCals_keeps {k : Key} {s : State} (h : Keep k s)  : Keep k (boundaryCals s) := by
  unfold boundaryCals
  repeat' first | with_reducible assumption | with_reducible apply forEach_keeps | with_reducible apply takeCals_keeps | with_reducible apply forEach_keeps | intro _ _ _ | split | dsimp -zeta only | simp only [mk_keeps]

theorem convLeg_keeps {k : Key} {s : State} (h : Keep k s) (a0 : LegMs) : Keep k (convLeg s a0) := by
  unfold convLeg
  repeat' first | (intro v; first | (refine (fun (_ : Keep k v) => ?_) ?_; rotate_left; simp only [v]; rotate_left; clear_value v) | (have hv : v = v := rfl; simp only [v] at hv; clear hv)) | with_reducible assumption | with_reducible apply fault_keeps | with_reducible apply setLeg_keeps | lift_lets -underBinder | intro _ _ _ | split | dsimp -zeta only | simp only [mk_keeps]

theorem mirrorLeg_keeps {k : Key} {s : State} (h : Keep k s) (a0 : Nat) (a1 : Nat) : Keep k (mirrorLeg s a0 a1) := by
  unfold mirrorLeg
  repeat' first | (intro v; first | (refine (fun (_ : Keep k v) => ?_) ?_; rotate_left; simp only [v]; rotate_left; clear_value v) | (have hv : v = v := rfl; simp only [v] at hv; clear hv)) | with_reducible assumption | with_reducible apply wrList_keeps | lift_lets -underBinder | intro _ _ _ | split | dsimp -zeta only | simp only [mk_keeps]

theorem boundaryLeg_keeps {k : Key} {s : State} (h : Keep k s) (a0 : Nat) : Keep k (boundaryLeg s a0) := by
  unfold boundaryLeg
  repeat' first | with_reducible assumption | with_reducible apply setLeg_keeps | with_reducible apply takeLegCal_keeps | intro _ _ _ | split | dsimp -zeta only | simp only [mk_keeps]

theorem setCalConv_keeps {k : Key} {s : State} (h : Keep k s) (a0 : Nat) (a1 : CalConv) : Keep k (setCalConv s a0 a1) := by
  unfold setCalConv
  repeat' first | with_reducible assumption | intro _ _ _ | split | dsimp -zeta only | simp only [mk_keeps]

theorem serveChan_keeps {k : Key} {s : State} (h : Keep k s) (a0 : Nat) (a1 : Nat) (a2 : CalIn) : Keep k (serveChan s a0 a1 a2) := by
  unfold serveChan
  repeat' first | (intro v; first | (refine (fun (_ : Keep k v) => ?_) ?_; rotate_left; simp only [v]; rotate_left; clear_value v) | (have hv : v = v := rfl; simp only [v] at hv; clear hv)) | with_reducible assumption | with_reducible apply setF_keeps | with_reducible apply setBitF_keeps | with_reducible apply forEach_keeps | with_reducible apply modChan_keeps | with_reducible apply fault_keeps | with_reducible apply forEach_keeps | lift_lets -underBinder | intro _ _ _ | split | dsimp -zeta only | simp only [mk_keeps]

theorem calSlotFlask_keeps {k : Key} {s : State} (h : Keep k s) (a0 : Nat) (a1 : CalIn) : Keep k (calSlotFlask s a0 a1) := by
  unfold calSlotFlask
  repeat' first | (intro v; first | (refine (fun (_ : Keep k v) => ?_) ?_; rotate_left; simp only [v]; rotate_left; clear_value v) | (have hv : v = v := rfl; simp only [v] at hv; clear hv)) | with_reducible assumption | with_reducible apply incSat_keeps | with_reducible apply setCalConv_keeps | with_reducible apply serveChan_keeps | lift_lets -underBinder | intro _ _ _ | split | dsimp -zeta only | simp only [mk_keeps]

theorem calSlotHost_keeps {k : Key} {s : State} (h : Keep k s) (a0 : Nat) (a1 : List Nat) : Keep k (calSlotHost s a0 a1) := by
  unfold calSlotHost
  repeat' first | (intro v; first | (refine (fun (_ : Keep k v) => ?_) ?_; rotate_left; simp only [v]; rotate_left; clear_value v) | (have hv : v = v := rfl; simp only [v] at hv; clear hv)) | with_reducible assumption | with_reducible apply modFlask_keeps | with_reducible apply setCalConv_keeps | lift_lets -underBinder | intro _ _ _ | split | dsimp -zeta only | simp only [mk_keeps]

theorem calSlotLegs_keeps {k : Key} {s : State} (h : Keep k s) (a0 : CalIn) : Keep k (calSlotLegs s a0) := by
  unfold calSlotLegs
  repeat' first | (intro v; first | (refine (fun (_ : Keep k v) => ?_) ?_; rotate_left; simp only [v]; rotate_left; clear_value v) | (have hv : v = v := rfl; simp only [v] at hv; clear hv)) | with_reducible assumption | with_reducible apply forEach_keeps | with_reducible apply fault_keeps | with_reducible apply setLeg_keeps | with_reducible apply setCalConv_keeps | with_reducible apply forEach_keeps | lift_lets -underBinder | intro _ _ _ | split | dsimp -zeta only | simp only [mk_keeps]

theorem slotStart_keeps {k : Key} {s : State} (h : Keep k s) (a0 : Nat) : Keep k (slotStart s a0) := by
  unfold slotStart
  repeat' first | (intro v; first | (refine (fun (_ : Keep k v) => ?_) ?_; rotate_left; simp only [v]; rotate_left; clear_value v) | (have hv : v = v := rfl; simp only [v] at hv; clear hv)) | with_reducible assumption | with_reducible apply advance_keeps | with_reducible apply setCalConv_keeps | lift_lets -underBinder | intro _ _ _ | split | dsimp -zeta only | simp only [mk_keeps]

theorem execCalSlot_keeps {k : Key} {s : State} (h : Keep k s) (a0 : Nat) (a1 : CalIn) : KeepO k (execCalSlot a0 a1 s) := by
  unfold execCalSlot
  repeat' first | (intro v; first | (refine (fun (_ : Keep k v) => ?_) ?_; rotate_left; simp only [v]; rotate_left; clear_value v) | (have hv : v = v := rfl; simp only [v] at hv; clear hv)) | with_reducible assumption | with_reducible apply calSlotFlask_keeps | with_reducible apply calSlotHost_keeps | with_reducible apply calSlotLegs_keeps | with_reducible apply slotStart_keeps | with_reducible apply next_keeps | lift_lets -underBinder | intro _ _ _ | split | dsimp -zeta only | simp only [mk_keeps]

theorem calRound_keeps {k : Key} {s : State} (h : Keep k s) (a0 : Nat) (a1 : Int) : Keep k (calRound s a0 a1) := by
  unfold calRound
  repeat' first | (intro v; first | (refine (fun (_ : Keep k v) => ?_) ?_; rotate_left; simp only [v]; rotate_left; clear_value v) | (have hv : v = v := rfl; simp only [v] at hv; clear hv)) | with_reducible assumption | with_reducible apply setFlag_keeps | with_reducible apply incWrap_keeps | with_reducible apply fault_keeps | with_reducible apply setCalConv_keeps | lift_lets -underBinder | intro _ _ _ | split | dsimp -zeta only | simp only [mk_keeps]

theorem execCalRoundEnd_keeps {k : Key} {s : State} (h : Keep k s) (a0 : Nat) (a1 : Int) : KeepO k (execCalRoundEnd a0 a1 s) := by
  unfold execCalRoundEnd
  repeat' first | with_reducible assumption | with_reducible apply setCalConv_keeps | with_reducible apply calRound_keeps | with_reducible apply next_keeps | intro _ _ _ | split | dsimp -zeta only | simp only [mk_keeps]

theorem displaceSlot_keeps {k : Key} {s : State} (h : Keep k s) (a0 : Nat) : Keep k (displaceSlot s a0) := by
  unfold displaceSlot
  repeat' first | (intro v; first | (refine (fun (_ : Keep k v) => ?_) ?_; rotate_left; simp only [v]; rotate_left; clear_value v) | (have hv : v = v := rfl; simp only [v] at hv; clear hv)) | with_reducible assumption | with_reducible apply setCalConv_keeps | lift_lets -underBinder | intro _ _ _ | split | dsimp -zeta only | simp only [mk_keeps]

theorem execChanCal_keeps {k : Key} {s : State} (h : Keep k s) (a0 : Nat) : KeepO k (execChanCal a0 s) := by
  unfold execChanCal
  repeat' first | (intro v; first | (refine (fun (_ : Keep k v) => ?_) ?_; rotate_left; simp only [v]; rotate_left; clear_value v) | (have hv : v = v := rfl; simp only [v] at hv; clear hv)) | with_reducible assumption | with_reducible apply forEach_keeps | with_reducible apply pendTag_keeps | with_reducible apply applyCmd_keeps | with_reducible apply firstFail_keeps | with_reducible apply waitCal_keeps | with_reducible apply displaceSlot_keeps | with_reducible apply forEach_keeps | with_reducible apply next_keeps | lift_lets -underBinder | intro _ _ _ | split | dsimp -zeta only | simp only [mk_keeps]

end Sys2Proof.Machine
end

