-- ==== Sys2Proof/Laws/KeepEstimate.lean ====
section
/-! SUPPORT. The operations of Estimate.lean keep the part, the fuses, the queue and a canonical word store. -/

namespace Sys2Proof.Machine

set_option linter.all false

theorem initFilter_keeps {k : Key} {s : State} (h : Keep k s) (a0 : Nat) : Keep k (initFilter s a0) := by
  unfold initFilter
  repeat' first | (intro v; first | (refine (fun (_ : Keep k v) => ?_) ?_; rotate_left; simp only [v]; rotate_left; clear_value v) | (have hv : v = v := rfl; simp only [v] at hv; clear hv)) | with_reducible assumption | with_reducible apply modEst_keeps | lift_lets -underBinder | intro _ _ _ | split | dsimp -zeta only | simp only [mk_keeps]

theorem updateFilter_keeps {k : Key} {s : State} (h : Keep k s) (a0 : Nat) : Keep k (updateFilter s a0) := by
  unfold updateFilter
  repeat' first | (intro v; first | (refine (fun (_ : Keep k v) => ?_) ?_; rotate_left; simp only [v]; rotate_left; clear_value v) | (have hv : v = v := rfl; simp only [v] at hv; clear hv)) | with_reducible assumption | with_reducible apply setEst_keeps | lift_lets -underBinder | intro _ _ _ | split | dsimp -zeta only | simp only [mk_keeps]

theorem publish_keeps {k : Key} {s : State} (h : Keep k s) (a0 : Nat) : Keep k (publish s a0) := by
  unfold publish
  repeat' first | (intro v; first | (refine (fun (_ : Keep k v) => ?_) ?_; rotate_left; simp only [v]; rotate_left; clear_value v) | (have hv : v = v := rfl; simp only [v] at hv; clear hv)) | with_reducible assumption | with_reducible apply wrList_keeps | lift_lets -underBinder | intro _ _ _ | split | dsimp -zeta only | simp only [mk_keeps]

theorem refreshStale_keeps {k : Key} {s : State} (h : Keep k s) (a0 : Nat) : Keep k (refreshStale s a0) := by
  unfold refreshStale
  repeat' first | with_reducible assumption | with_reducible apply setFlag_keeps | intro _ _ _ | split | dsimp -zeta only | simp only [mk_keeps]

theorem evalSample_keeps {k : Key} {s : State} (h : Keep k s) (a0 : Nat) : Keep k (evalSample s a0) := by
  unfold evalSample
  repeat' first | (intro v; first | (refine (fun (_ : Keep k v) => ?_) ?_; rotate_left; simp only [v]; rotate_left; clear_value v) | (have hv : v = v := rfl; simp only [v] at hv; clear hv)) | with_reducible assumption | with_reducible apply incSat_keeps | with_reducible apply modEst_keeps | with_reducible apply raise_keeps | with_reducible apply endLearn_keeps | lift_lets -underBinder | intro _ _ _ | split | dsimp -zeta only | simp only [mk_keeps]

theorem advanceHist_keeps {k : Key} {s : State} (h : Keep k s) (a0 : Nat) : Keep k (advanceHist s a0) := by
  unfold advanceHist
  repeat' first | with_reducible assumption | with_reducible apply modEst_keeps | intro _ _ _ | split | dsimp -zeta only | simp only [mk_keeps]

theorem advanceLearn_keeps {k : Key} {s : State} (h : Keep k s) (a0 : Nat) (a1 : Nat) : Keep k (advanceLearn s a0 a1) := by
  unfold advanceLearn
  repeat' first | (intro v; first | (refine (fun (_ : Keep k v) => ?_) ?_; rotate_left; simp only [v]; rotate_left; clear_value v) | (have hv : v = v := rfl; simp only [v] at hv; clear hv)) | with_reducible assumption | with_reducible apply modEst_keeps | lift_lets -underBinder | intro _ _ _ | split | dsimp -zeta only | simp only [mk_keeps]

theorem learn_keeps {k : Key} {s : State} (h : Keep k s) (a0 : Nat) (a1 : Bool) : Keep k (learn s a0 a1) := by
  unfold learn
  repeat' first | (intro v; first | (refine (fun (_ : Keep k v) => ?_) ?_; rotate_left; simp only [v]; rotate_left; clear_value v) | (have hv : v = v := rfl; simp only [v] at hv; clear hv)) | with_reducible assumption | with_reducible apply endLearn_keeps | with_reducible apply evalSample_keeps | lift_lets -underBinder | intro _ _ _ | split | dsimp -zeta only | simp only [mk_keeps]

theorem countCycles_keeps {k : Key} {s : State} (h : Keep k s) (a0 : Nat) (a1 : Rat) : Keep k (countCycles s a0 a1) := by
  unfold countCycles
  repeat' first | (intro v; first | (refine (fun (_ : Keep k v) => ?_) ?_; rotate_left; simp only [v]; rotate_left; clear_value v) | (have hv : v = v := rfl; simp only [v] at hv; clear hv)) | with_reducible assumption | with_reducible apply modEst_keeps | lift_lets -underBinder | intro _ _ _ | split | dsimp -zeta only | simp only [mk_keeps]

theorem testEvent_keeps {k : Key} {s : State} (h : Keep k s) (a0 : Nat) (a1 : Nat) (a2 : Bool) (a3 : Bool) : Keep k (testEvent s a0 a1 a2 a3) := by
  unfold testEvent
  repeat' first | (intro v; first | (refine (fun (_ : Keep k v) => ?_) ?_; rotate_left; simp only [v]; rotate_left; clear_value v) | (have hv : v = v := rfl; simp only [v] at hv; clear hv)) | with_reducible assumption | with_reducible apply modEst_keeps | with_reducible apply chanEvent_keeps | lift_lets -underBinder | intro _ _ _ | split | dsimp -zeta only | simp only [mk_keeps]

theorem testEvents_keeps {k : Key} {s : State} (h : Keep k s) (a0 : Nat) (a1 : Rat) : Keep k (testEvents s a0 a1) := by
  unfold testEvents
  repeat' first | (intro v; first | (refine (fun (_ : Keep k v) => ?_) ?_; rotate_left; simp only [v]; rotate_left; clear_value v) | (have hv : v = v := rfl; simp only [v] at hv; clear hv)) | with_reducible assumption | with_reducible apply testEvent_keeps | lift_lets -underBinder | intro _ _ _ | split | dsimp -zeta only | simp only [mk_keeps]

theorem markSuspended_keeps {k : Key} {s : State} (h : Keep k s) (a0 : Nat) : Keep k (markSuspended s a0) := by
  unfold markSuspended
  repeat' first | with_reducible assumption | with_reducible apply setFlag_keeps | intro _ _ _ | split | dsimp -zeta only | simp only [mk_keeps]

theorem leaveLearn_keeps {k : Key} {s : State} (h : Keep k s) (a0 : Nat) : Keep k (leaveLearn s a0) := by
  unfold leaveLearn
  repeat' first | with_reducible assumption | with_reducible apply wr_keeps | with_reducible apply setF_keeps | with_reducible apply setFlag_keeps | with_reducible apply endLearn_keeps | intro _ _ _ | split | dsimp -zeta only | simp only [mk_keeps]

theorem afterUpdate_keeps {k : Key} {s : State} (h : Keep k s) (a0 : Nat) : Keep k (afterUpdate s a0) := by
  unfold afterUpdate
  repeat' first | (intro v; first | (refine (fun (_ : Keep k v) => ?_) ?_; rotate_left; simp only [v]; rotate_left; clear_value v) | (have hv : v = v := rfl; simp only [v] at hv; clear hv)) | with_reducible assumption | with_reducible apply modEst_keeps | lift_lets -underBinder | intro _ _ _ | split | dsimp -zeta only | simp only [mk_keeps]

theorem filterStep_keeps {k : Key} {s : State} (h : Keep k s) (a0 : Nat) : Keep k (filterStep s a0) := by
  unfold filterStep
  repeat' first | (intro v; first | (refine (fun (_ : Keep k v) => ?_) ?_; rotate_left; simp only [v]; rotate_left; clear_value v) | (have hv : v = v := rfl; simp only [v] at hv; clear hv)) | with_reducible assumption | with_reducible apply initFilter_keeps | with_reducible apply updateFilter_keeps | with_reducible apply publish_keeps | with_reducible apply advanceHist_keeps | with_reducible apply advanceLearn_keeps | with_reducible apply learn_keeps | with_reducible apply countCycles_keeps | with_reducible apply testEvents_keeps | with_reducible apply afterUpdate_keeps | lift_lets -underBinder | intro _ _ _ | split | dsimp -zeta only | simp only [mk_keeps]

theorem execFilterUpdate_keeps {k : Key} {s : State} (h : Keep k s) (a0 : Nat) (a1 : List EccErr) : KeepO k (execFilterUpdate a0 a1 s) := by
  unfold execFilterUpdate
  repeat' first | (intro v; first | (refine (fun (_ : Keep k v) => ?_) ?_; rotate_left; simp only [v]; rotate_left; clear_value v) | (have hv : v = v := rfl; simp only [v] at hv; clear hv)) | with_reducible assumption | with_reducible apply eccReports_keeps | with_reducible apply xfer_keeps | with_reducible apply markSuspended_keeps | with_reducible apply leaveLearn_keeps | with_reducible apply filterStep_keeps | with_reducible apply next_keeps | lift_lets -underBinder | intro _ _ _ | split | dsimp -zeta only | simp only [mk_keeps]

theorem execFilterLate_keeps {k : Key} {s : State} (h : Keep k s) (a0 : Nat) : KeepO k (execFilterLate a0 s) := by
  unfold execFilterLate
  repeat' first | with_reducible assumption | with_reducible apply incSat_keeps | with_reducible apply next_keeps | intro _ _ _ | split | dsimp -zeta only | simp only [mk_keeps]

theorem execFilterReinit_keeps {k : Key} {s : State} (h : Keep k s) (a0 : Nat) : KeepO k (execFilterReinit a0 s) := by
  unfold execFilterReinit
  repeat' first | (intro v; first | (refine (fun (_ : Keep k v) => ?_) ?_; rotate_left; simp only [v]; rotate_left; clear_value v) | (have hv : v = v := rfl; simp only [v] at hv; clear hv)) | with_reducible assumption | with_reducible apply incSat_keeps | with_reducible apply fault_keeps | with_reducible apply raise_keeps | with_reducible apply initFilter_keeps | with_reducible apply publish_keeps | with_reducible apply next_keeps | lift_lets -underBinder | intro _ _ _ | split | dsimp -zeta only | simp only [mk_keeps]

theorem execFrameHot_keeps {k : Key} {s : State} (h : Keep k s) (a0 : Int) (a1 : Int) : KeepO k (execFrameHot a0 a1 s) := by
  unfold execFrameHot
  repeat' first | (intro v; first | (refine (fun (_ : Keep k v) => ?_) ?_; rotate_left; simp only [v]; rotate_left; clear_value v) | (have hv : v = v := rfl; simp only [v] at hv; clear hv)) | with_reducible assumption | with_reducible apply setFlag_keeps | with_reducible apply advance_keeps | with_reducible apply raise_keeps | with_reducible apply next_keeps | lift_lets -underBinder | intro _ _ _ | split | dsimp -zeta only | simp only [mk_keeps]

theorem execFrameCool_keeps {k : Key} {s : State} (h : Keep k s) (a0 : Int) (a1 : Int) : KeepO k (execFrameCool a0 a1 s) := by
  unfold execFrameCool
  repeat' first | (intro v; first | (refine (fun (_ : Keep k v) => ?_) ?_; rotate_left; simp only [v]; rotate_left; clear_value v) | (have hv : v = v := rfl; simp only [v] at hv; clear hv)) | with_reducible assumption | with_reducible apply setFlag_keeps | with_reducible apply advance_keeps | with_reducible apply raise_keeps | with_reducible apply next_keeps | lift_lets -underBinder | intro _ _ _ | split | dsimp -zeta only | simp only [mk_keeps]

theorem setTz_keeps {k : Key} {s : State} (h : Keep k s) (a0 : Nat) (a1 : Bool) : Keep k (setTz s a0 a1) := by
  unfold setTz
  repeat' first | with_reducible assumption | with_reducible apply setFlag_keeps | with_reducible apply modEst_keeps | intro _ _ _ | split | dsimp -zeta only | simp only [mk_keeps]

theorem defaultIz_keeps {k : Key} {s : State} (h : Keep k s) (a0 : Nat) : Keep k (defaultIz s a0) := by
  unfold defaultIz
  repeat' first | (intro v; first | (refine (fun (_ : Keep k v) => ?_) ?_; rotate_left; simp only [v]; rotate_left; clear_value v) | (have hv : v = v := rfl; simp only [v] at hv; clear hv)) | with_reducible assumption | with_reducible apply modEst_keeps | with_reducible apply setTz_keeps | with_reducible apply wrList_keeps | lift_lets -underBinder | intro _ _ _ | split | dsimp -zeta only | simp only [mk_keeps]

theorem execEstParam_keeps {k : Key} {s : State} (h : Keep k s) (a0 : Nat) : KeepO k (execEstParam a0 s) := by
  unfold execEstParam
  repeat' first | (intro v; first | (refine (fun (_ : Keep k v) => ?_) ?_; rotate_left; simp only [v]; rotate_left; clear_value v) | (have hv : v = v := rfl; simp only [v] at hv; clear hv)) | with_reducible assumption | with_reducible apply forEach_keeps | with_reducible apply modEst_keeps | with_reducible apply endTag_keeps | with_reducible apply pendTag_keeps | with_reducible apply applyCmd_keeps | with_reducible apply forEach_keeps | with_reducible apply next_keeps | lift_lets -underBinder | intro _ _ _ | split | dsimp -zeta only | simp only [mk_keeps]

theorem takeEstParams_keeps {k : Key} {s : State} (h : Keep k s) (a0 : Nat) : Keep k (takeEstParams s a0) := by
  unfold takeEstParams
  repeat' first | (intro v; first | (refine (fun (_ : Keep k v) => ?_) ?_; rotate_left; simp only [v]; rotate_left; clear_value v) | (have hv : v = v := rfl; simp only [v] at hv; clear hv)) | with_reducible assumption | with_reducible apply forEach_keeps | with_reducible apply modEst_keeps | with_reducible apply noteCfg_keeps | with_reducible apply wrList_keeps | with_reducible apply forEach_keeps | lift_lets -underBinder | intro _ _ _ | split | dsimp -zeta only | simp only [mk_keeps]

theorem execEstReset_keeps {k : Key} {s : State} (h : Keep k s) (a0 : Nat) : KeepO k (execEstReset a0 s) := by
  unfold execEstReset
  repeat' first | (intro v; first | (refine (fun (_ : Keep k v) => ?_) ?_; rotate_left; simp only [v]; rotate_left; clear_value v) | (have hv : v = v := rfl; simp only [v] at hv; clear hv)) | with_reducible assumption | with_reducible apply modEst_keeps | with_reducible apply pendTag_keeps | with_reducible apply applyCmd_keeps | with_reducible apply defaultIz_keeps | with_reducible apply next_keeps | lift_lets -underBinder | intro _ _ _ | split | dsimp -zeta only | simp only [mk_keeps]

end Sys2Proof.Machine
end

