-- ==== Sys2Proof/Laws/KeepSpectro.lean ====
section
/-! SUPPORT. The operations of Spectro.lean keep the part, the fuses, the queue and a canonical word store. -/

namespace Sys2Proof.Machine

set_option linter.all false

theorem refreshAmps_keeps {k : Key} {s : State} (h : Keep k s) (a0 : Nat) : Keep k (refreshAmps s a0) := by
  unfold refreshAmps
  repeat' first | (intro v; first | (refine (fun (_ : Keep k v) => ?_) ?_; rotate_left; simp only [v]; rotate_left; clear_value v) | (have hv : v = v := rfl; simp only [v] at hv; clear hv)) | with_reducible assumption | with_reducible apply modFlask_keeps | lift_lets -underBinder | intro _ _ _ | split | dsimp -zeta only | simp only [mk_keeps]

theorem setFlaskSweeps_keeps {k : Key} {s : State} (h : Keep k s) (a0 : Nat) (a1 : List FlaskSweep) : Keep k (setFlaskSweeps s a0 a1) := by
  unfold setFlaskSweeps
  repeat' first | with_reducible assumption | intro _ _ _ | split | dsimp -zeta only | simp only [mk_keeps]

theorem startTone_keeps {k : Key} {s : State} (h : Keep k s) (a0 : Nat) (a1 : Nat) : Keep k (startTone s a0 a1) := by
  unfold startTone
  repeat' first | with_reducible assumption | with_reducible apply modFlask_keeps | intro _ _ _ | split | dsimp -zeta only | simp only [mk_keeps]

theorem setTop_keeps {k : Key} {s : State} (h : Keep k s) (a0 : Nat) (a1 : FlaskSweep) : Keep k (setTop s a0 a1) := by
  unfold setTop
  repeat' first | with_reducible assumption | with_reducible apply setFlaskSweeps_keeps | intro _ _ _ | split | dsimp -zeta only | simp only [mk_keeps]

theorem startDwell_keeps {k : Key} {s : State} (h : Keep k s) (a0 : Nat) (a1 : FlaskSweep) (a2 : Nat) : Keep k (startDwell s a0 a1 a2) := by
  unfold startDwell
  repeat' first | with_reducible assumption | with_reducible apply startTone_keeps | with_reducible apply setTop_keeps | intro _ _ _ | split | dsimp -zeta only | simp only [mk_keeps]

theorem updSweeping_keeps {k : Key} {s : State} (h : Keep k s)  : Keep k (updSweeping s) := by
  unfold updSweeping
  repeat' first | with_reducible assumption | with_reducible apply setFlag_keeps | intro _ _ _ | split | dsimp -zeta only | simp only [mk_keeps]

theorem beginSweep_keeps {k : Key} {s : State} (h : Keep k s) (a0 : Nat) (a1 : Option Nat) (a2 : Nat) : Keep k (beginSweep s a0 a1 a2) := by
  unfold beginSweep
  repeat' first | (intro v; first | (refine (fun (_ : Keep k v) => ?_) ?_; rotate_left; simp only [v]; rotate_left; clear_value v) | (have hv : v = v := rfl; simp only [v] at hv; clear hv)) | with_reducible assumption | with_reducible apply setFlaskSweeps_keeps | with_reducible apply startDwell_keeps | lift_lets -underBinder | intro _ _ _ | split | dsimp -zeta only | simp only [mk_keeps]

theorem sweepDone_keeps {k : Key} {s : State} (h : Keep k s)  : Keep k (sweepDone s) := by
  unfold sweepDone
  repeat' first | (intro v; first | (refine (fun (_ : Keep k v) => ?_) ?_; rotate_left; simp only [v]; rotate_left; clear_value v) | (have hv : v = v := rfl; simp only [v] at hv; clear hv)) | with_reducible assumption | with_reducible apply incWrap_keeps | with_reducible apply raise_keeps | lift_lets -underBinder | intro _ _ _ | split | dsimp -zeta only | simp only [mk_keeps]

theorem execSweepStart_keeps {k : Key} {s : State} (h : Keep k s)  : KeepO k (execSweepStart s) := by
  unfold execSweepStart
  repeat' first | (intro v; first | (refine (fun (_ : Keep k v) => ?_) ?_; rotate_left; simp only [v]; rotate_left; clear_value v) | (have hv : v = v := rfl; simp only [v] at hv; clear hv)) | with_reducible assumption | with_reducible apply forEach_keeps | with_reducible apply advance_keeps | with_reducible apply updSweeping_keeps | with_reducible apply beginSweep_keeps | with_reducible apply sweepDone_keeps | with_reducible apply forEach_keeps | with_reducible apply next_keeps | lift_lets -underBinder | intro _ _ _ | split | dsimp -zeta only | simp only [mk_keeps]

theorem execTonePairRequest_keeps {k : Key} {s : State} (h : Keep k s) (a0 : Nat) (a1 : Nat) (a2 : Nat) : KeepO k (execTonePairRequest a0 a1 a2 s) := by
  unfold execTonePairRequest
  repeat' first | (intro v; first | (refine (fun (_ : Keep k v) => ?_) ?_; rotate_left; simp only [v]; rotate_left; clear_value v) | (have hv : v = v := rfl; simp only [v] at hv; clear hv)) | with_reducible assumption | with_reducible apply modFlask_keeps | with_reducible apply startDwell_keeps | with_reducible apply next_keeps | lift_lets -underBinder | intro _ _ _ | split | dsimp -zeta only | simp only [mk_keeps]

theorem nextDwell_keeps {k : Key} {s : State} (h : Keep k s) (a0 : Nat) (a1 : FlaskSweep) : Keep k (nextDwell s a0 a1) := by
  unfold nextDwell
  repeat' first | with_reducible assumption | with_reducible apply startTone_keeps | with_reducible apply setTop_keeps | with_reducible apply startDwell_keeps | intro _ _ _ | split | dsimp -zeta only | simp only [mk_keeps]

theorem execToneDwellEnd_keeps {k : Key} {s : State} (h : Keep k s) (a0 : Nat) : KeepO k (execToneDwellEnd a0 s) := by
  unfold execToneDwellEnd
  repeat' first | (intro v; first | (refine (fun (_ : Keep k v) => ?_) ?_; rotate_left; simp only [v]; rotate_left; clear_value v) | (have hv : v = v := rfl; simp only [v] at hv; clear hv)) | with_reducible assumption | with_reducible apply advance_keeps | with_reducible apply nextDwell_keeps | with_reducible apply next_keeps | lift_lets -underBinder | intro _ _ _ | split | dsimp -zeta only | simp only [mk_keeps]

theorem storeFit_keeps_snd {k : Key} {s : State} (h : Keep k s) (a0 : Nat) (a1 : FlaskSweep) : Keep k (storeFit s a0 a1).2 := by
  unfold storeFit
  repeat' first | with_reducible assumption | with_reducible apply modEst_keeps | with_reducible apply raise_keeps | intro _ _ _ | split | dsimp -zeta only | simp only [mk_keeps]
theorem storeFit_keeps {k : Key} {s t : State} {x : Bool} {a0 : Nat} {a1 : FlaskSweep} (h : Keep k s) (e : storeFit s a0 a1 = (x, t)) : Keep k t := by
  have := storeFit_keeps_snd h a0 a1
  rwa [e] at this

theorem swapIz_keeps {k : Key} {s : State} (h : Keep k s) (a0 : Nat) : Keep k (swapIz s a0) := by
  unfold swapIz
  repeat' first | (intro v; first | (refine (fun (_ : Keep k v) => ?_) ?_; rotate_left; simp only [v]; rotate_left; clear_value v) | (have hv : v = v := rfl; simp only [v] at hv; clear hv)) | with_reducible assumption | with_reducible apply modEst_keeps | with_reducible apply setTz_keeps | with_reducible apply wrList_keeps | lift_lets -underBinder | intro _ _ _ | split | dsimp -zeta only | simp only [mk_keeps]

theorem hostFlaskEnd_keeps {k : Key} {s : State} (h : Keep k s) (a0 : Nat) (a1 : Nat) (a2 : Nat) (a3 : Nat) (a4 : Bool) : Keep k (hostFlaskEnd s a0 a1 a2 a3 a4) := by
  unfold hostFlaskEnd
  repeat' first | (intro v; first | (refine (fun (_ : Keep k v) => ?_) ?_; rotate_left; simp only [v]; rotate_left; clear_value v) | (have hv : v = v := rfl; simp only [v] at hv; clear hv)) | with_reducible assumption | with_reducible apply endTag_keeps | lift_lets -underBinder | intro _ _ _ | split | dsimp -zeta only | simp only [mk_keeps]

theorem popSweep_keeps {k : Key} {s : State} (h : Keep k s) (a0 : Nat) : Keep k (popSweep s a0) := by
  unfold popSweep
  repeat' first | (intro v; first | (refine (fun (_ : Keep k v) => ?_) ?_; rotate_left; simp only [v]; rotate_left; clear_value v) | (have hv : v = v := rfl; simp only [v] at hv; clear hv)) | with_reducible assumption | with_reducible apply setFlaskSweeps_keeps | with_reducible apply startTone_keeps | with_reducible apply startDwell_keeps | lift_lets -underBinder | intro _ _ _ | split | dsimp -zeta only | simp only [mk_keeps]

theorem execSweepEnd_keeps {k : Key} {s : State} (h : Keep k s) (a0 : Nat) : KeepO k (execSweepEnd a0 s) := by
  unfold execSweepEnd
  apply next_keeps
  split
  · next w _ _ =>
    split
    · have hr := foldl_snd_keeps (f := fun (a : Nat × State) c =>
        let x := storeFit a.2 c w
        (if x.1 then a.1 + 1 else a.1, x.2)) (fun _ _ _ ht => storeFit_keeps_snd ht _ _) (sweepChans a0 w) 0 s h
      extract_lets r s1
      have h1 : Keep k s1 := popSweep_keeps hr _
      clear_value s1
      refine updSweeping_keeps ?_
      split
      · exact hostFlaskEnd_keeps h1 _ _ _ _ _
      · exact sweepDone_keeps h1
    · exact h
  · exact h

theorem abortHost_keeps {k : Key} {s : State} (h : Keep k s) (a0 : Nat) : Keep k (abortHost s a0) := by
  unfold abortHost
  repeat' first | with_reducible assumption | with_reducible apply hostFlaskEnd_keeps | with_reducible apply popSweep_keeps | intro _ _ _ | split | dsimp -zeta only | simp only [mk_keeps]

theorem startHost_keeps {k : Key} {s : State} (h : Keep k s) (a0 : Nat) (a1 : Nat) (a2 : List Nat) : Keep k (startHost s a0 a1 a2) := by
  unfold startHost
  repeat' first | (intro v; first | (refine (fun (_ : Keep k v) => ?_) ?_; rotate_left; simp only [v]; rotate_left; clear_value v) | (have hv : v = v := rfl; simp only [v] at hv; clear hv)) | with_reducible assumption | with_reducible apply forEach_keeps | with_reducible apply runTag_keeps | with_reducible apply updSweeping_keeps | with_reducible apply beginSweep_keeps | with_reducible apply hostFlaskEnd_keeps | with_reducible apply forEach_keeps | lift_lets -underBinder | intro _ _ _ | split | dsimp -zeta only | simp only [mk_keeps]

theorem execSpectro_keeps {k : Key} {s : State} (h : Keep k s) (a0 : Nat) : KeepO k (execSpectro a0 s) := by
  unfold execSpectro
  repeat' first | (intro v; first | (refine (fun (_ : Keep k v) => ?_) ?_; rotate_left; simp only [v]; rotate_left; clear_value v) | (have hv : v = v := rfl; simp only [v] at hv; clear hv)) | with_reducible assumption | with_reducible apply forEach_keeps | with_reducible apply endSt_keeps | with_reducible apply applyCmd_keeps | with_reducible apply updSweeping_keeps | with_reducible apply abortHost_keeps | with_reducible apply startHost_keeps | with_reducible apply forEach_keeps | with_reducible apply next_keeps | lift_lets -underBinder | intro _ _ _ | split | dsimp -zeta only | simp only [mk_keeps]

end Sys2Proof.Machine
end

