-- ==== Sys2Proof/Laws/KeepSimulate.lean ====
section
/-! SUPPORT. The operations of Simulate.lean keep the part, the fuses, the queue and a canonical word store. -/

namespace Sys2Proof.Machine

set_option linter.all false

theorem withLoads_keeps {k : Key} {s : State} (h : Keep k s)  : Keep k (withLoads s) := by
  unfold withLoads
  repeat' first | with_reducible assumption | with_reducible apply forEach_keeps | with_reducible apply wrList_keeps | with_reducible apply forEach_keeps | intro _ _ _ | split | dsimp -zeta only | simp only [mk_keeps]

end Sys2Proof.Machine
end

