-- ==== Sys2Proof/Laws/KeepLadle.lean ====
section
/-! SUPPORT. The operations of Ladle.lean keep the part, the fuses, the queue and a canonical word store. -/

namespace Sys2Proof.Machine

set_option linter.all false

theorem execObjectives_keeps {k : Key} {s : State} (h : Keep k s) (a0 : Nat) : KeepO k (execObjectives a0 s) := by
  unfold execObjectives
  repeat' first | (intro v; first | (refine (fun (_ : Keep k v) => ?_) ?_; rotate_left; simp only [v]; rotate_left; clear_value v) | (have hv : v = v := rfl; simp only [v] at hv; clear hv)) | with_reducible assumption | with_reducible apply endSt_keeps | with_reducible apply pendTag_keeps | with_reducible apply applyCmd_keeps | with_reducible apply next_keeps | lift_lets -underBinder | intro _ _ _ | split | dsimp -zeta only | simp only [mk_keeps]

theorem takeObjectives_keeps {k : Key} {s : State} (h : Keep k s)  : Keep k (takeObjectives s) := by
  unfold takeObjectives
  repeat' first | (intro v; first | (refine (fun (_ : Keep k v) => ?_) ?_; rotate_left; simp only [v]; rotate_left; clear_value v) | (have hv : v = v := rfl; simp only [v] at hv; clear hv)) | with_reducible assumption | with_reducible apply forEach_keeps | with_reducible apply raise_keeps | with_reducible apply endTag_keeps | with_reducible apply noteCfg_keeps | with_reducible apply wrList_keeps | with_reducible apply forEach_keeps | lift_lets -underBinder | intro _ _ _ | split | dsimp -zeta only | simp only [mk_keeps]

theorem suspendRun_keeps {k : Key} {s : State} (h : Keep k s) (a0 : Nat) : Keep k (suspendRun s a0) := by
  unfold suspendRun
  repeat' first | with_reducible assumption | with_reducible apply raise_keeps | with_reducible apply setCalRun_keeps | with_reducible apply updCalActive_keeps | intro _ _ _ | split | dsimp -zeta only | simp only [mk_keeps]

theorem moveRun_keeps {k : Key} {s : State} (h : Keep k s) (a0 : Nat) (a1 : Nat) : Keep k (moveRun s a0 a1) := by
  unfold moveRun
  repeat' first | with_reducible assumption | with_reducible apply setCalRun_keeps | with_reducible apply updCalActive_keeps | intro _ _ _ | split | dsimp -zeta only | simp only [mk_keeps]

theorem calLearned_keeps {k : Key} {s t : State} {c : Nat} {f : State → State} (h : Keep k t) (e : calLearned s c = some f) :
    Keep k (f t) := by
  unfold calLearned at e
  extract_lets at e
  split at e
  · cases e
  · split at e
    · cases e
      exact endCalRun_keeps (incSat_keeps h _) _ _
    · split at e
      · cases e
        exact suspendRun_keeps h _
      · cases e

theorem stepRun_keeps {k : Key} {s : State} (h : Keep k s) (a0 : CalEnv) (a1 : Nat) : Keep k (stepRun a0 s a1) := by
  unfold stepRun
  repeat' first | with_reducible assumption | with_reducible apply endCalRun_keeps | with_reducible apply suspendRun_keeps | with_reducible apply moveRun_keeps | with_reducible apply raise_keeps | with_reducible apply updCalActive_keeps | with_reducible apply setCalRun_keeps | with_reducible refine calLearned_keeps ?_ ‹_› | lift_lets -underBinder | intro _ | split

theorem stepRuns_keeps {k : Key} {s : State} (h : Keep k s) (a0 : CalEnv) : Keep k (stepRuns a0 s) := by
  unfold stepRuns
  repeat' first | (intro v; first | (refine (fun (_ : Keep k v) => ?_) ?_; rotate_left; simp only [v]; rotate_left; clear_value v) | (have hv : v = v := rfl; simp only [v] at hv; clear hv)) | with_reducible assumption | with_reducible apply forEach_keeps | with_reducible apply stepRun_keeps | with_reducible apply forEach_keeps | lift_lets -underBinder | intro _ _ _ | split | dsimp -zeta only | simp only [mk_keeps]

theorem execCalRun_keeps {k : Key} {s : State} (h : Keep k s) (a0 : Nat) : KeepO k (execCalRun a0 s) := by
  unfold execCalRun
  repeat' first | (intro v; first | (refine (fun (_ : Keep k v) => ?_) ?_; rotate_left; simp only [v]; rotate_left; clear_value v) | (have hv : v = v := rfl; simp only [v] at hv; clear hv)) | with_reducible assumption | with_reducible apply forEach_keeps | with_reducible apply endTag_keeps | with_reducible apply setCalRun_keeps | with_reducible apply endCalRun_keeps | with_reducible apply applyCmd_keeps | with_reducible apply forEach_keeps | with_reducible apply next_keeps | lift_lets -underBinder | intro _ _ _ | split | dsimp -zeta only | simp only [mk_keeps]

theorem execCalRunTimeout_keeps {k : Key} {s : State} (h : Keep k s) (a0 : Nat) : KeepO k (execCalRunTimeout a0 s) := by
  unfold execCalRunTimeout
  repeat' first | (intro v; first | (refine (fun (_ : Keep k v) => ?_) ?_; rotate_left; simp only [v]; rotate_left; clear_value v) | (have hv : v = v := rfl; simp only [v] at hv; clear hv)) | with_reducible assumption | with_reducible apply advance_keeps | with_reducible apply endCalRun_keeps | with_reducible apply next_keeps | lift_lets -underBinder | intro _ _ _ | split | dsimp -zeta only | simp only [mk_keeps]

theorem readPour_keeps {k : Key} {s : State} (h : Keep k s) (a0 : Nat) : Keep k (readPour s a0) := by
  unfold readPour
  repeat' first | (intro v; first | (refine (fun (_ : Keep k v) => ?_) ?_; rotate_left; simp only [v]; rotate_left; clear_value v) | (have hv : v = v := rfl; simp only [v] at hv; clear hv)) | with_reducible assumption | with_reducible apply setFlag_keeps | with_reducible apply xfer_keeps | with_reducible apply raise_keeps | with_reducible apply withLoads_keeps | with_reducible apply stepRuns_keeps | lift_lets -underBinder | intro _ _ _ | split | dsimp -zeta only | simp only [mk_keeps]

theorem execPourInputRead_keeps {k : Key} {s : State} (h : Keep k s)  : KeepO k (execPourInputRead s) := by
  unfold execPourInputRead
  repeat' first | (intro v; first | (refine (fun (_ : Keep k v) => ?_) ?_; rotate_left; simp only [v]; rotate_left; clear_value v) | (have hv : v = v := rfl; simp only [v] at hv; clear hv)) | with_reducible assumption | with_reducible apply takeObjectives_keeps | with_reducible apply readPour_keeps | with_reducible apply next_keeps | lift_lets -underBinder | intro _ _ _ | split | dsimp -zeta only | simp only [mk_keeps]

theorem execSimulationDone_keeps {k : Key} {s : State} (h : Keep k s)  : KeepO k (execSimulationDone s) := by
  unfold execSimulationDone
  repeat' first | (intro v; first | (refine (fun (_ : Keep k v) => ?_) ?_; rotate_left; simp only [v]; rotate_left; clear_value v) | (have hv : v = v := rfl; simp only [v] at hv; clear hv)) | with_reducible assumption | with_reducible apply setF_keeps | with_reducible apply modPour_keeps | with_reducible apply next_keeps | lift_lets -underBinder | intro _ _ _ | split | dsimp -zeta only | simp only [mk_keeps]

theorem execCandidateSelection_keeps {k : Key} {s : State} (h : Keep k s)  : KeepO k (execCandidateSelection s) := by
  unfold execCandidateSelection
  repeat' first | (intro v; first | (refine (fun (_ : Keep k v) => ?_) ?_; rotate_left; simp only [v]; rotate_left; clear_value v) | (have hv : v = v := rfl; simp only [v] at hv; clear hv)) | with_reducible assumption | with_reducible apply setF_keeps | with_reducible apply forEach_keeps | with_reducible apply xfer_keeps | with_reducible apply modPour_keeps | with_reducible apply issueSwap_keeps | with_reducible apply forEach_keeps | with_reducible apply next_keeps | lift_lets -underBinder | intro _ _ _ | split | dsimp -zeta only | simp only [mk_keeps]

theorem execShadowTableReceived_keeps {k : Key} {s : State} (h : Keep k s) (a0 : Nat) (a1 : Bool) : KeepO k (execShadowTableReceived a0 a1 s) := by
  unfold execShadowTableReceived
  repeat' first | with_reducible assumption | with_reducible apply modFlask_keeps | with_reducible apply next_keeps | intro _ _ _ | split | dsimp -zeta only | simp only [mk_keeps]

theorem execRegionAck_keeps {k : Key} {s : State} (h : Keep k s) (a0 : Nat) : KeepO k (execRegionAck a0 s) := by
  unfold execRegionAck
  repeat' first | with_reducible assumption | with_reducible apply modPour_keeps | with_reducible apply issueSwap_keeps | with_reducible apply next_keeps | intro _ _ _ | split | dsimp -zeta only | simp only [mk_keeps]

theorem takeLoad_keeps {k : Key} {s : State} (h : Keep k s) (a0 : Nat × Nat × List Word × Nat) (a1 : Nat) : Keep k (takeLoad s a0 a1) := by
  unfold takeLoad
  repeat' first | (intro v; first | (refine (fun (_ : Keep k v) => ?_) ?_; rotate_left; simp only [v]; rotate_left; clear_value v) | (have hv : v = v := rfl; simp only [v] at hv; clear hv)) | with_reducible assumption | with_reducible apply endTag_keeps | with_reducible apply noteCfg_keeps | with_reducible apply wrList_keeps | lift_lets -underBinder | intro _ _ _ | split | dsimp -zeta only | simp only [mk_keeps]

theorem swapLoad_keeps {k : Key} {s : State} (h : Keep k s) (a0 : Nat × Nat × List Word × Nat) (a1 : Nat) : Keep k (swapLoad s a0 a1) := by
  unfold swapLoad
  repeat' first | with_reducible assumption | with_reducible apply endSt_keeps | with_reducible apply takeLoad_keeps | intro _ _ _ | split | dsimp -zeta only | simp only [mk_keeps]

theorem swapFlask_keeps {k : Key} {s : State} (h : Keep k s) (a0 : Nat) (a1 : Nat → Bool) (a2 : Nat) : Keep k (swapFlask s a0 a1 a2) := by
  unfold swapFlask
  repeat' first | (intro v; first | (refine (fun (_ : Keep k v) => ?_) ?_; rotate_left; simp only [v]; rotate_left; clear_value v) | (have hv : v = v := rfl; simp only [v] at hv; clear hv)) | with_reducible assumption | with_reducible apply setFlask_keeps | with_reducible apply fault_keeps | with_reducible apply raise_keeps | lift_lets -underBinder | intro _ _ _ | split | dsimp -zeta only | simp only [mk_keeps]

theorem refreshStatus_keeps {k : Key} {s : State} (h : Keep k s) (a0 : Pour) : Keep k (refreshStatus s a0) := by
  unfold refreshStatus
  repeat' first | (intro v; first | (refine (fun (_ : Keep k v) => ?_) ?_; rotate_left; simp only [v]; rotate_left; clear_value v) | (have hv : v = v := rfl; simp only [v] at hv; clear hv)) | with_reducible assumption | with_reducible apply forEach_keeps | with_reducible apply wrList_keeps | with_reducible apply forEach_keeps | lift_lets -underBinder | intro _ _ _ | split | dsimp -zeta only | simp only [mk_keeps]

theorem writeTable_keeps {k : Key} {s : State} (h : Keep k s) (a0 : Pour) (a1 : Nat) : Keep k (writeTable s a0 a1) := by
  unfold writeTable
  repeat' first | (intro v; first | (refine (fun (_ : Keep k v) => ?_) ?_; rotate_left; simp only [v]; rotate_left; clear_value v) | (have hv : v = v := rfl; simp only [v] at hv; clear hv)) | with_reducible assumption | with_reducible apply wr_keeps | with_reducible apply refreshStatus_keeps | with_reducible apply wrList_keeps | lift_lets -underBinder | intro _ _ _ | split | dsimp -zeta only | simp only [mk_keeps]

theorem swapShave_keeps {k : Key} {s : State} (h : Keep k s) (a0 : Pour) : Keep k (swapShave s a0) := by
  unfold swapShave
  repeat' first | (intro v; first | (refine (fun (_ : Keep k v) => ?_) ?_; rotate_left; simp only [v]; rotate_left; clear_value v) | (have hv : v = v := rfl; simp only [v] at hv; clear hv)) | with_reducible assumption | with_reducible apply setShave_keeps | lift_lets -underBinder | intro _ _ _ | split | dsimp -zeta only | simp only [mk_keeps]

theorem startChannels_keeps {k : Key} {s : State} (h : Keep k s) (a0 : Pour) : Keep k (startChannels s a0) := by
  unfold startChannels
  repeat' first | with_reducible assumption | with_reducible apply forEach_keeps | with_reducible apply setChState_keeps | with_reducible apply forEach_keeps | intro _ _ _ | split | dsimp -zeta only | simp only [mk_keeps]

theorem swapImports_keeps {k : Key} {s : State} (h : Keep k s) (a0 : Pour) : Keep k (swapImports s a0) := by
  unfold swapImports
  repeat' first | (intro v; first | (refine (fun (_ : Keep k v) => ?_) ?_; rotate_left; simp only [v]; rotate_left; clear_value v) | (have hv : v = v := rfl; simp only [v] at hv; clear hv)) | with_reducible assumption | with_reducible apply forEach_keeps | with_reducible apply setTleg_keeps | with_reducible apply forEach_keeps | lift_lets -underBinder | intro _ _ _ | split | dsimp -zeta only | simp only [mk_keeps]

theorem swapRegions_keeps {k : Key} {s : State} (h : Keep k s)  : Keep k (swapRegions s) := by
  unfold swapRegions
  repeat' first | with_reducible assumption | with_reducible apply setBitF_keeps | with_reducible apply forEach_keeps | with_reducible apply modRegion_keeps | with_reducible apply forEach_keeps | intro _ _ _ | split | dsimp -zeta only | simp only [mk_keeps]

theorem execPourSwap_keeps {k : Key} {s : State} (h : Keep k s) (a0 : List Nat) : KeepO k (execPourSwap a0 s) := by
  unfold execPourSwap
  repeat' first | (intro v; first | (refine (fun (_ : Keep k v) => ?_) ?_; rotate_left; simp only [v]; rotate_left; clear_value v) | (have hv : v = v := rfl; simp only [v] at hv; clear hv)) | with_reducible assumption | with_reducible apply setF_keeps | with_reducible apply forEach_keeps | with_reducible apply advance_keeps | with_reducible apply xfer_keeps | with_reducible apply offer_keeps | with_reducible apply endDroop_keeps | with_reducible apply swapLoad_keeps | with_reducible apply swapFlask_keeps | with_reducible apply writeTable_keeps | with_reducible apply swapShave_keeps | with_reducible apply startChannels_keeps | with_reducible apply swapImports_keeps | with_reducible apply swapRegions_keeps | with_reducible apply forEach_keeps | with_reducible apply next_keeps | lift_lets -underBinder | intro _ _ _ | split | dsimp -zeta only | simp only [mk_keeps]

theorem execPourMissed_keeps {k : Key} {s : State} (h : Keep k s)  : KeepO k (execPourMissed s) := by
  unfold execPourMissed
  repeat' first | (intro v; first | (refine (fun (_ : Keep k v) => ?_) ?_; rotate_left; simp only [v]; rotate_left; clear_value v) | (have hv : v = v := rfl; simp only [v] at hv; clear hv)) | with_reducible assumption | with_reducible apply incSat_keeps | with_reducible apply forEach_keeps | with_reducible apply advance_keeps | with_reducible apply modRegion_keeps | with_reducible apply fault_keeps | with_reducible apply raise_keeps | with_reducible apply offer_keeps | with_reducible apply forEach_keeps | with_reducible apply next_keeps | lift_lets -underBinder | intro _ _ _ | split | dsimp -zeta only | simp only [mk_keeps]

theorem execStaleShave_keeps {k : Key} {s : State} (h : Keep k s) (a0 : Nat) : KeepO k (execStaleShave a0 s) := by
  unfold execStaleShave
  repeat' first | (intro v; first | (refine (fun (_ : Keep k v) => ?_) ?_; rotate_left; simp only [v]; rotate_left; clear_value v) | (have hv : v = v := rfl; simp only [v] at hv; clear hv)) | with_reducible assumption | with_reducible apply setBitF_keeps | with_reducible apply advance_keeps | with_reducible apply modRegion_keeps | with_reducible apply fault_keeps | with_reducible apply raise_keeps | with_reducible apply next_keeps | lift_lets -underBinder | intro _ _ _ | split | dsimp -zeta only | simp only [mk_keeps]

theorem acceptLoad_keeps {k : Key} {s : State} (h : Keep k s) (a0 : Nat) (a1 : Nat) (a2 : Nat) (a3 : List Word) (a4 : Bool) : Keep k (acceptLoad s a0 a1 a2 a3 a4) := by
  unfold acceptLoad
  repeat' first | (intro v; first | (refine (fun (_ : Keep k v) => ?_) ?_; rotate_left; simp only [v]; rotate_left; clear_value v) | (have hv : v = v := rfl; simp only [v] at hv; clear hv)) | with_reducible assumption | with_reducible apply endSt_keeps | with_reducible apply pendTag_keeps | lift_lets -underBinder | intro _ _ _ | split | dsimp -zeta only | simp only [mk_keeps]

theorem execProfileLoad_keeps {k : Key} {s : State} (h : Keep k s) (a0 : Nat) : KeepO k (execProfileLoad a0 s) := by
  unfold execProfileLoad
  repeat' first | (intro v; first | (refine (fun (_ : Keep k v) => ?_) ?_; rotate_left; simp only [v]; rotate_left; clear_value v) | (have hv : v = v := rfl; simp only [v] at hv; clear hv)) | with_reducible assumption | with_reducible apply applyCmd_keeps | with_reducible apply acceptLoad_keeps | with_reducible apply next_keeps | lift_lets -underBinder | intro _ _ _ | split | dsimp -zeta only | simp only [mk_keeps]

theorem execModelLoad_keeps {k : Key} {s : State} (h : Keep k s) (a0 : Nat) : KeepO k (execModelLoad a0 s) := by
  unfold execModelLoad
  repeat' first | (intro v; first | (refine (fun (_ : Keep k v) => ?_) ?_; rotate_left; simp only [v]; rotate_left; clear_value v) | (have hv : v = v := rfl; simp only [v] at hv; clear hv)) | with_reducible assumption | with_reducible apply applyCmd_keeps | with_reducible apply acceptLoad_keeps | with_reducible apply next_keeps | lift_lets -underBinder | intro _ _ _ | split | dsimp -zeta only | simp only [mk_keeps]

theorem execAllocRead_keeps {k : Key} {s : State} (h : Keep k s) (a0 : Nat) : KeepO k (execAllocRead a0 s) := by
  unfold execAllocRead
  repeat' first | (intro v; first | (refine (fun (_ : Keep k v) => ?_) ?_; rotate_left; simp only [v]; rotate_left; clear_value v) | (have hv : v = v := rfl; simp only [v] at hv; clear hv)) | with_reducible assumption | with_reducible apply raiseHi_keeps | with_reducible apply modTag_keeps | with_reducible apply giveResult_keeps | with_reducible apply applyCmd_keeps | with_reducible apply next_keeps | lift_lets -underBinder | intro _ _ _ | split | dsimp -zeta only | simp only [mk_keeps]

end Sys2Proof.Machine
end

