-- ==== Sys2Proof/Laws/KeepDomains.lean ====
section
/-! SUPPORT. The operations of Domains.lean keep the part, the fuses, the queue and a canonical word store. -/

namespace Sys2Proof.Machine

set_option linter.all false

theorem clearWords_keeps {k : Key} {s : State} (h : Keep k s) (a0 : Nat) : Keep k (clearWords s a0) := by
  unfold clearWords
  repeat' first | (intro v; first | (refine (fun (_ : Keep k v) => ?_) ?_; rotate_left; simp only [v]; rotate_left; clear_value v) | (have hv : v = v := rfl; simp only [v] at hv; clear hv)) | with_reducible assumption | with_reducible apply setF_keeps | with_reducible apply setFlag_keeps | with_reducible apply resetWords_keeps | lift_lets -underBinder | intro _ _ _ | split | dsimp -zeta only | simp only [mk_keeps]

theorem updCk_keeps {k : Key} {s : State} (h : Keep k s)  : Keep k (updCk s) := by
  unfold updCk
  repeat' first | (intro v; first | (refine (fun (_ : Keep k v) => ?_) ?_; rotate_left; simp only [v]; rotate_left; clear_value v) | (have hv : v = v := rfl; simp only [v] at hv; clear hv)) | with_reducible assumption | with_reducible apply wr_keeps | lift_lets -underBinder | intro _ _ _ | split | dsimp -zeta only | simp only [mk_keeps]

theorem endWhere_keeps {k : Key} {s : State} (h : Keep k s) (a0 : Tag → Bool) (a1 : Nat) : Keep k (endWhere s a0 a1) := by
  unfold endWhere
  repeat' first | with_reducible assumption | with_reducible apply forEach_keeps | with_reducible apply endSt_keeps | with_reducible apply forEach_keeps | intro _ _ _ | split | dsimp -zeta only | simp only [mk_keeps]

theorem dropWaits_keeps {k : Key} {s : State} (h : Keep k s)  : Keep k (dropWaits s) := by
  unfold dropWaits
  repeat' first | with_reducible assumption | intro _ _ _ | split | dsimp -zeta only | simp only [mk_keeps]

theorem endSweeps_keeps {k : Key} {s : State} (h : Keep k s) (a0 : Nat) : Keep k (endSweeps s a0) := by
  unfold endSweeps
  repeat' first | with_reducible assumption | with_reducible apply forEach_keeps | with_reducible apply setFlaskSweeps_keeps | with_reducible apply updSweeping_keeps | with_reducible apply sweepDone_keeps | with_reducible apply hostFlaskEnd_keeps | with_reducible apply forEach_keeps | intro _ _ _ | split | dsimp -zeta only | simp only [mk_keeps]

theorem bankOff_keeps {k : Key} {s : State} (h : Keep k s) (a0 : Nat) : Keep k (bankOff s a0) := by
  unfold bankOff
  repeat' first | (intro v; first | (refine (fun (_ : Keep k v) => ?_) ?_; rotate_left; simp only [v]; rotate_left; clear_value v) | (have hv : v = v := rfl; simp only [v] at hv; clear hv)) | with_reducible assumption | with_reducible apply forEach_keeps | with_reducible apply modChan_keeps | with_reducible apply modFlask_keeps | with_reducible apply telStop_keeps | with_reducible apply endRamp_keeps | with_reducible apply stopSequencer_keeps | with_reducible apply foldTele_keeps | with_reducible apply endSweeps_keeps | with_reducible apply forEach_keeps | lift_lets -underBinder | intro _ _ _ | split | dsimp -zeta only | simp only [mk_keeps]

theorem lostBank_keeps {k : Key} {s : State} (h : Keep k s) (a0 : Nat) : Keep k (lostBank s a0) := by
  unfold lostBank
  repeat' first | with_reducible assumption | with_reducible apply forEach_keeps | with_reducible apply modFlask_keeps | with_reducible apply flaskHold_keeps | with_reducible apply failed_keeps | with_reducible apply forEach_keeps | intro _ _ _ | split | dsimp -zeta only | simp only [mk_keeps]

theorem ctlOff_keeps {k : Key} {s : State} (h : Keep k s) (a0 : Nat) : Keep k (ctlOff s a0) := by
  unfold ctlOff
  repeat' first | (intro v; first | (refine (fun (_ : Keep k v) => ?_) ?_; rotate_left; simp only [v]; rotate_left; clear_value v) | (have hv : v = v := rfl; simp only [v] at hv; clear hv)) | with_reducible assumption | with_reducible apply setBitF_keeps | with_reducible apply forEach_keeps | with_reducible apply fabricOff_keeps | with_reducible apply goOffline_keeps | with_reducible apply endCalRun_keeps | with_reducible apply endWhere_keeps | with_reducible apply dropWaits_keeps | with_reducible apply endSweeps_keeps | with_reducible apply forEach_keeps | lift_lets -underBinder | intro _ _ _ | split | dsimp -zeta only | simp only [mk_keeps]

theorem crucibleOff_keeps {k : Key} {s : State} (h : Keep k s)  : Keep k (crucibleOff s) := by
  unfold crucibleOff
  repeat' first | (intro v; first | (refine (fun (_ : Keep k v) => ?_) ?_; rotate_left; simp only [v]; rotate_left; clear_value v) | (have hv : v = v := rfl; simp only [v] at hv; clear hv)) | with_reducible assumption | with_reducible apply forEach_keeps | with_reducible apply endWhere_keeps | with_reducible apply endSweeps_keeps | with_reducible apply forEach_keeps | lift_lets -underBinder | intro _ _ _ | split | dsimp -zeta only | simp only [mk_keeps]

theorem ladleOff_keeps {k : Key} {s : State} (h : Keep k s)  : Keep k (ladleOff s) := by
  unfold ladleOff
  repeat' first | (intro v; first | (refine (fun (_ : Keep k v) => ?_) ?_; rotate_left; simp only [v]; rotate_left; clear_value v) | (have hv : v = v := rfl; simp only [v] at hv; clear hv)) | with_reducible assumption | with_reducible apply endWhere_keeps | lift_lets -underBinder | intro _ _ _ | split | dsimp -zeta only | simp only [mk_keeps]

theorem hostifOff_keeps {k : Key} {s : State} (h : Keep k s)  : Keep k (hostifOff s) := by
  unfold hostifOff
  repeat' first | with_reducible assumption | with_reducible apply loseHost_keeps | with_reducible apply wdOff_keeps | with_reducible apply hostReset_keeps | intro _ _ _ | split | dsimp -zeta only | simp only [mk_keeps]

theorem bboxOff_keeps {k : Key} {s : State} (h : Keep k s)  : Keep k (bboxOff s) := by
  unfold bboxOff
  repeat' first | with_reducible assumption | intro _ _ _ | split | dsimp -zeta only | simp only [mk_keeps]

theorem ppathOff_keeps {k : Key} {s : State} (h : Keep k s)  : Keep k (ppathOff s) := by
  unfold ppathOff
  repeat' first | (intro v; first | (refine (fun (_ : Keep k v) => ?_) ?_; rotate_left; simp only [v]; rotate_left; clear_value v) | (have hv : v = v := rfl; simp only [v] at hv; clear hv)) | with_reducible assumption | with_reducible apply updGates_keeps | lift_lets -underBinder | intro _ _ _ | split | dsimp -zeta only | simp only [mk_keeps]

theorem blockOff_keeps {k : Key} {s : State} (h : Keep k s) (a0 : Nat) : Keep k (blockOff s a0) := by
  unfold blockOff
  repeat' first | with_reducible assumption | with_reducible apply setF_keeps | with_reducible apply hostifOff_keeps | with_reducible apply crucibleOff_keeps | with_reducible apply ladleOff_keeps | with_reducible apply tlphyStop_keeps | with_reducible apply bboxOff_keeps | with_reducible apply ppathOff_keeps | with_reducible apply traceStop_keeps | with_reducible apply ctlOff_keeps | with_reducible apply bankOff_keeps | with_reducible apply endSt_keeps | with_reducible apply ite_keeps | split | simp only [mk_keeps]

theorem dropTransfers_keeps {k : Key} {s : State} (h : Keep k s) (a0 : Nat) : Keep k (dropTransfers s a0) := by
  unfold dropTransfers
  repeat' first | with_reducible assumption | with_reducible apply forEach_keeps | with_reducible apply dropXfers_keeps | with_reducible apply forEach_keeps | intro _ _ _ | split | dsimp -zeta only | simp only [mk_keeps]

theorem dropDomain_keeps {k : Key} {s : State} (h : Keep k s) (a0 : Nat) : Keep k (dropDomain s a0) := by
  unfold dropDomain
  repeat' first | (intro v; first | (refine (fun (_ : Keep k v) => ?_) ?_; rotate_left; simp only [v]; rotate_left; clear_value v) | (have hv : v = v := rfl; simp only [v] at hv; clear hv)) | with_reducible assumption | with_reducible apply noteCfg_keeps | with_reducible apply updGates_keeps | with_reducible apply updConditions_keeps | with_reducible apply clearWords_keeps | with_reducible apply updCk_keeps | with_reducible apply blockOff_keeps | with_reducible apply dropTransfers_keeps | lift_lets -underBinder | intro _ _ _ | split | dsimp -zeta only | simp only [mk_keeps]

theorem switchOff_keeps {k : Key} {s : State} (h : Keep k s) (a0 : Nat) (a1 : Nat) : Keep k (switchOff s a0 a1) := by
  unfold switchOff
  repeat' first | with_reducible assumption | with_reducible apply forEach_keeps | with_reducible apply sleepMarker_keeps | with_reducible apply dropDomain_keeps | with_reducible apply forEach_keeps | intro _ _ _ | split | dsimp -zeta only | simp only [mk_keeps]

theorem switchOffAll_keeps {k : Key} {s : State} (h : Keep k s) (a0 : Nat → Bool) (a1 : Nat) : Keep k (switchOffAll s a0 a1) := by
  unfold switchOffAll
  repeat' first | with_reducible assumption | with_reducible apply forEach_keeps | with_reducible apply sleepMarker_keeps | with_reducible apply dropDomain_keeps | with_reducible apply forEach_keeps | intro _ _ _ | split | dsimp -zeta only | simp only [mk_keeps]

theorem requestOff_keeps {k : Key} {s : State} (h : Keep k s) (a0 : Nat) : Keep k (requestOff s a0) := by
  unfold requestOff
  repeat' first | (intro v; first | (refine (fun (_ : Keep k v) => ?_) ?_; rotate_left; simp only [v]; rotate_left; clear_value v) | (have hv : v = v := rfl; simp only [v] at hv; clear hv)) | with_reducible assumption | with_reducible apply forEach_keeps | with_reducible apply flaskHold_keeps | with_reducible apply forEach_keeps | lift_lets -underBinder | intro _ _ _ | split | dsimp -zeta only | simp only [mk_keeps]

theorem requestOn_keeps {k : Key} {s : State} (h : Keep k s) (a0 : Nat) : Keep k (requestOn s a0) := by
  unfold requestOn
  repeat' first | (intro v; first | (refine (fun (_ : Keep k v) => ?_) ?_; rotate_left; simp only [v]; rotate_left; clear_value v) | (have hv : v = v := rfl; simp only [v] at hv; clear hv)) | with_reducible assumption | with_reducible apply forEach_keeps | with_reducible apply setHolds_keeps | with_reducible apply beginOn_keeps | with_reducible apply forEach_keeps | lift_lets -underBinder | intro _ _ _ | split | dsimp -zeta only | simp only [mk_keeps]

theorem pdreqWrite_keeps {k : Key} {s : State} (h : Keep k s) (a0 : Word) : Keep k (pdreqWrite s a0) := by
  unfold pdreqWrite
  repeat' first | (intro v; first | (refine (fun (_ : Keep k v) => ?_) ?_; rotate_left; simp only [v]; rotate_left; clear_value v) | (have hv : v = v := rfl; simp only [v] at hv; clear hv)) | with_reducible assumption | with_reducible apply setFlag_keeps | with_reducible apply forEach_keeps | with_reducible apply requestOff_keeps | with_reducible apply requestOn_keeps | with_reducible apply forEach_keeps | lift_lets -underBinder | intro _ _ _ | split | dsimp -zeta only | simp only [mk_keeps]

theorem execCkPdreqWrite_keeps {k : Key} {s : State} (h : Keep k s) (a0 : Word) : KeepO k (execCkPdreqWrite a0 s) := by
  unfold execCkPdreqWrite
  repeat' first | with_reducible assumption | with_reducible apply noteCfg_keeps | with_reducible apply updConditions_keeps | with_reducible apply pdreqWrite_keeps | with_reducible apply next_keeps | intro _ _ _ | split | dsimp -zeta only | simp only [mk_keeps]

theorem execDomainSwitchOff_keeps {k : Key} {s : State} (h : Keep k s) (a0 : Nat) : KeepO k (execDomainSwitchOff a0 s) := by
  unfold execDomainSwitchOff
  repeat' first | (intro v; first | (refine (fun (_ : Keep k v) => ?_) ?_; rotate_left; simp only [v]; rotate_left; clear_value v) | (have hv : v = v := rfl; simp only [v] at hv; clear hv)) | with_reducible assumption | with_reducible apply setBitF_keeps | with_reducible apply beginOn_keeps | with_reducible apply switchOff_keeps | with_reducible apply next_keeps | lift_lets -underBinder | intro _ _ _ | split | dsimp -zeta only | simp only [mk_keeps]

theorem setTimeSrc_keeps {k : Key} {s : State} (h : Keep k s) (a0 : TimeSrc) : Keep k (setTimeSrc s a0) := by
  unfold setTimeSrc
  repeat' first | (intro v; first | (refine (fun (_ : Keep k v) => ?_) ?_; rotate_left; simp only [v]; rotate_left; clear_value v) | (have hv : v = v := rfl; simp only [v] at hv; clear hv)) | with_reducible assumption | with_reducible apply offer_keeps | lift_lets -underBinder | intro _ _ _ | split | dsimp -zeta only | simp only [mk_keeps]

theorem execReferenceQualified_keeps {k : Key} {s : State} (h : Keep k s) (a0 : List Nat) : KeepO k (execReferenceQualified a0 s) := by
  unfold execReferenceQualified
  repeat' first | with_reducible assumption | with_reducible apply updCk_keeps | with_reducible apply setTimeSrc_keeps | with_reducible apply next_keeps | intro _ _ _ | split | dsimp -zeta only | simp only [mk_keeps]

theorem execReferenceLoss_keeps {k : Key} {s : State} (h : Keep k s) (a0 : Word) (a1 : Nat) : KeepO k (execReferenceLoss a0 a1 s) := by
  unfold execReferenceLoss
  repeat' first | (intro v; first | (refine (fun (_ : Keep k v) => ?_) ?_; rotate_left; simp only [v]; rotate_left; clear_value v) | (have hv : v = v := rfl; simp only [v] at hv; clear hv)) | with_reducible assumption | with_reducible apply fault_keeps | with_reducible apply updCk_keeps | with_reducible apply setTimeSrc_keeps | with_reducible apply next_keeps | lift_lets -underBinder | intro _ _ _ | split | dsimp -zeta only | simp only [mk_keeps]

theorem execCkTimeRead_keeps {k : Key} {s : State} (h : Keep k s)  : KeepO k (execCkTimeRead s) := by
  unfold execCkTimeRead
  repeat' first | (intro v; first | (refine (fun (_ : Keep k v) => ?_) ?_; rotate_left; simp only [v]; rotate_left; clear_value v) | (have hv : v = v := rfl; simp only [v] at hv; clear hv)) | with_reducible assumption | with_reducible apply wr_keeps | with_reducible apply next_keeps | lift_lets -underBinder | intro _ _ _ | split | dsimp -zeta only | simp only [mk_keeps]

end Sys2Proof.Machine
end

