-- ==== Sys2Proof/Laws/KeepSupervisor.lean ====
section
/-! SUPPORT. The operations of Supervisor.lean keep the part, the fuses, the queue and a canonical word store. -/

namespace Sys2Proof.Machine

set_option linter.all false

theorem setSvState_keeps {k : Key} {s : State} (h : Keep k s) (a0 : Nat) (a1 : Nat) : Keep k (setSvState s a0 a1) := by
  unfold setSvState
  repeat' first | with_reducible assumption | with_reducible apply setF_keeps | intro _ _ _ | split | dsimp -zeta only | simp only [mk_keeps]

theorem setSup_keeps {k : Key} {s : State} (h : Keep k s) (a0 : Nat) (a1 : Supervisor) : Keep k (setSup s a0 a1) := by
  unfold setSup
  repeat' first | with_reducible assumption | intro _ _ _ | split | dsimp -zeta only | simp only [mk_keeps]

theorem dropTakeover_keeps {k : Key} {s : State} (h : Keep k s) (a0 : Bool) : Keep k (dropTakeover s a0) := by
  unfold dropTakeover
  repeat' first | with_reducible assumption | intro _ _ _ | split | dsimp -zeta only | simp only [mk_keeps]

theorem svFail_keeps {k : Key} {s : State} (h : Keep k s) (a0 : Nat) (a1 : Nat) (a2 : Nat) : Keep k (svFail s a0 a1 a2) := by
  unfold svFail
  repeat' first | (intro v; first | (refine (fun (_ : Keep k v) => ?_) ?_; rotate_left; simp only [v]; rotate_left; clear_value v) | (have hv : v = v := rfl; simp only [v] at hv; clear hv)) | with_reducible assumption | with_reducible apply incSat_keeps | with_reducible apply fault_keeps | with_reducible apply setSup_keeps | with_reducible apply dropTakeover_keeps | lift_lets -underBinder | intro _ _ _ | split | dsimp -zeta only | simp only [mk_keeps]

theorem svRestart_keeps {k : Key} {s : State} (h : Keep k s) (a0 : Nat) : Keep k (svRestart s a0) := by
  unfold svRestart
  repeat' first | (intro v; first | (refine (fun (_ : Keep k v) => ?_) ?_; rotate_left; simp only [v]; rotate_left; clear_value v) | (have hv : v = v := rfl; simp only [v] at hv; clear hv)) | with_reducible assumption | with_reducible apply beginOn_keeps | with_reducible apply switchOff_keeps | lift_lets -underBinder | intro _ _ _ | split | dsimp -zeta only | simp only [mk_keeps]

theorem svFailNow_keeps {k : Key} {s : State} (h : Keep k s) (a0 : Nat) (a1 : Nat) : Keep k (svFailNow s a0 a1) := by
  unfold svFailNow
  repeat' first | (intro v; first | (refine (fun (_ : Keep k v) => ?_) ?_; rotate_left; simp only [v]; rotate_left; clear_value v) | (have hv : v = v := rfl; simp only [v] at hv; clear hv)) | with_reducible assumption | with_reducible apply svFail_keeps | with_reducible apply svRestart_keeps | lift_lets -underBinder | intro _ _ _ | split | dsimp -zeta only | simp only [mk_keeps]

theorem execSvInternalWdtExpire_keeps {k : Key} {s : State} (h : Keep k s) (a0 : Nat) : KeepO k (execSvInternalWdtExpire a0 s) := by
  unfold execSvInternalWdtExpire
  repeat' first | with_reducible assumption | with_reducible apply svFailNow_keeps | with_reducible apply next_keeps | intro _ _ _ | split | dsimp -zeta only | simp only [mk_keeps]

theorem execSupervisorFailure_keeps {k : Key} {s : State} (h : Keep k s) (a0 : Nat) : KeepO k (execSupervisorFailure a0 s) := by
  unfold execSupervisorFailure
  repeat' first | with_reducible assumption | with_reducible apply svFailNow_keeps | with_reducible apply next_keeps | intro _ _ _ | split | dsimp -zeta only | simp only [mk_keeps]

theorem svLose_keeps {k : Key} {s : State} (h : Keep k s) (a0 : Nat) : Keep k (svLose s a0) := by
  unfold svLose
  repeat' first | (intro v; first | (refine (fun (_ : Keep k v) => ?_) ?_; rotate_left; simp only [v]; rotate_left; clear_value v) | (have hv : v = v := rfl; simp only [v] at hv; clear hv)) | with_reducible assumption | with_reducible apply fault_keeps | with_reducible apply raise_keeps | with_reducible apply setCause_keeps | with_reducible apply setSvState_keeps | with_reducible apply setSup_keeps | with_reducible apply dropTakeover_keeps | lift_lets -underBinder | intro _ _ _ | split | dsimp -zeta only | simp only [mk_keeps]

theorem execSvLost_keeps {k : Key} {s : State} (h : Keep k s) (a0 : Nat) (a1 : Bool) : KeepO k (execSvLost a0 a1 s) := by
  unfold execSvLost
  repeat' first | with_reducible assumption | with_reducible apply advance_keeps | with_reducible apply svLose_keeps | with_reducible apply next_keeps | intro _ _ _ | split | dsimp -zeta only | simp only [mk_keeps]

theorem svStarted_keeps {k : Key} {s : State} (h : Keep k s) (a0 : Nat) : Keep k (svStarted s a0) := by
  unfold svStarted
  repeat' first | (intro v; first | (refine (fun (_ : Keep k v) => ?_) ?_; rotate_left; simp only [v]; rotate_left; clear_value v) | (have hv : v = v := rfl; simp only [v] at hv; clear hv)) | with_reducible assumption | with_reducible apply raise_keeps | with_reducible apply setSvState_keeps | with_reducible apply setSup_keeps | lift_lets -underBinder | intro _ _ _ | split | dsimp -zeta only | simp only [mk_keeps]

theorem svChecked_keeps {k : Key} {s : State} (h : Keep k s) (a0 : Nat) : Keep k (svChecked s a0) := by
  unfold svChecked
  repeat' first | (intro v; first | (refine (fun (_ : Keep k v) => ?_) ?_; rotate_left; simp only [v]; rotate_left; clear_value v) | (have hv : v = v := rfl; simp only [v] at hv; clear hv)) | with_reducible assumption | with_reducible apply setF_keeps | with_reducible apply setSvState_keeps | with_reducible apply setSup_keeps | lift_lets -underBinder | intro _ _ _ | split | dsimp -zeta only | simp only [mk_keeps]

theorem execCheckpointEpoch_keeps {k : Key} {s : State} (h : Keep k s) (a0 : List Word) (a1 : Word) (a2 : Bool) : KeepO k (execCheckpointEpoch a0 a1 a2 s) := by
  unfold execCheckpointEpoch
  repeat' first | (intro v; first | (refine (fun (_ : Keep k v) => ?_) ?_; rotate_left; simp only [v]; rotate_left; clear_value v) | (have hv : v = v := rfl; simp only [v] at hv; clear hv)) | with_reducible assumption | with_reducible apply wr_keeps | with_reducible apply advance_keeps | with_reducible apply xfer_keeps | with_reducible apply setSup_keeps | with_reducible apply next_keeps | lift_lets -underBinder | intro _ _ _ | split | dsimp -zeta only | simp only [mk_keeps]

theorem execCkptLate_keeps {k : Key} {s : State} (h : Keep k s)  : KeepO k (execCkptLate s) := by
  unfold execCkptLate
  repeat' first | (intro v; first | (refine (fun (_ : Keep k v) => ?_) ?_; rotate_left; simp only [v]; rotate_left; clear_value v) | (have hv : v = v := rfl; simp only [v] at hv; clear hv)) | with_reducible assumption | with_reducible apply incSat_keeps | with_reducible apply advance_keeps | with_reducible apply raise_keeps | with_reducible apply next_keeps | lift_lets -underBinder | intro _ _ _ | split | dsimp -zeta only | simp only [mk_keeps]

theorem execCheckpointCheck_keeps {k : Key} {s : State} (h : Keep k s)  : KeepO k (execCheckpointCheck s) := by
  unfold execCheckpointCheck
  repeat' first | (intro v; first | (refine (fun (_ : Keep k v) => ?_) ?_; rotate_left; simp only [v]; rotate_left; clear_value v) | (have hv : v = v := rfl; simp only [v] at hv; clear hv)) | with_reducible assumption | with_reducible apply incSat_keeps | with_reducible apply setSup_keeps | with_reducible apply next_keeps | lift_lets -underBinder | intro _ _ _ | split | dsimp -zeta only | simp only [mk_keeps]

theorem execStandbyReady_keeps {k : Key} {s : State} (h : Keep k s)  : KeepO k (execStandbyReady s) := by
  unfold execStandbyReady
  repeat' first | with_reducible assumption | with_reducible apply raise_keeps | with_reducible apply setSvState_keeps | with_reducible apply setSup_keeps | with_reducible apply next_keeps | intro _ _ _ | split | dsimp -zeta only | simp only [mk_keeps]

theorem execSupervisorTakeover_keeps {k : Key} {s : State} (h : Keep k s)  : KeepO k (execSupervisorTakeover s) := by
  unfold execSupervisorTakeover
  repeat' first | (intro v; first | (refine (fun (_ : Keep k v) => ?_) ?_; rotate_left; simp only [v]; rotate_left; clear_value v) | (have hv : v = v := rfl; simp only [v] at hv; clear hv)) | with_reducible assumption | with_reducible apply wr_keeps | with_reducible apply setF_keeps | with_reducible apply incSat_keeps | with_reducible apply raise_keeps | with_reducible apply offer_keeps | with_reducible apply logOther_keeps | with_reducible apply setSvState_keeps | with_reducible apply setSup_keeps | with_reducible apply next_keeps | lift_lets -underBinder | intro _ _ _ | split | dsimp -zeta only | simp only [mk_keeps]

theorem svCtrlWrite_keeps {k : Key} {s : State} (h : Keep k s) (a0 : Word) : Keep k (svCtrlWrite s a0) := by
  unfold svCtrlWrite
  repeat' first | (intro v; first | (refine (fun (_ : Keep k v) => ?_) ?_; rotate_left; simp only [v]; rotate_left; clear_value v) | (have hv : v = v := rfl; simp only [v] at hv; clear hv)) | with_reducible assumption | with_reducible apply setFlag_keeps | lift_lets -underBinder | intro _ _ _ | split | dsimp -zeta only | simp only [mk_keeps]

theorem execPlannedSwitchover_keeps {k : Key} {s : State} (h : Keep k s) (a0 : Word) : KeepO k (execPlannedSwitchover a0 s) := by
  unfold execPlannedSwitchover
  repeat' first | with_reducible assumption | with_reducible apply noteCfg_keeps | with_reducible apply svCtrlWrite_keeps | with_reducible apply next_keeps | intro _ _ _ | split | dsimp -zeta only | simp only [mk_keeps]

theorem execDomainLoss_keeps {k : Key} {s : State} (h : Keep k s) (a0 : Nat) : KeepO k (execDomainLoss a0 s) := by
  unfold execDomainLoss
  repeat' first | (intro v; first | (refine (fun (_ : Keep k v) => ?_) ?_; rotate_left; simp only [v]; rotate_left; clear_value v) | (have hv : v = v := rfl; simp only [v] at hv; clear hv)) | with_reducible assumption | with_reducible apply fault_keeps | with_reducible apply lostBank_keeps | with_reducible apply switchOff_keeps | with_reducible apply svFail_keeps | with_reducible apply svRestart_keeps | with_reducible apply next_keeps | lift_lets -underBinder | intro _ _ _ | split | dsimp -zeta only | simp only [mk_keeps]

end Sys2Proof.Machine
end

