-- ==== Sys2Proof/Laws/KeepCommands.lean ====
section
/-! SUPPORT. The operations of Commands.lean keep the part, the fuses, the queue and a canonical word store. -/

namespace Sys2Proof.Machine

set_option linter.all false

theorem execIdentify_keeps {k : Key} {s : State} (h : Keep k s) (a0 : Nat) : KeepO k (execIdentify a0 s) := by
  unfold execIdentify
  repeat' first | with_reducible assumption | with_reducible apply endTag_keeps | with_reducible apply applyCmd_keeps | with_reducible apply next_keeps | intro _ _ _ | split | dsimp -zeta only | simp only [mk_keeps]

theorem execEventRoute_keeps {k : Key} {s : State} (h : Keep k s) (a0 : Nat) : KeepO k (execEventRoute a0 s) := by
  unfold execEventRoute
  repeat' first | (intro v; first | (refine (fun (_ : Keep k v) => ?_) ?_; rotate_left; simp only [v]; rotate_left; clear_value v) | (have hv : v = v := rfl; simp only [v] at hv; clear hv)) | with_reducible assumption | with_reducible apply endTag_keeps | with_reducible apply applyCmd_keeps | with_reducible apply next_keeps | lift_lets -underBinder | intro _ _ _ | split | dsimp -zeta only | simp only [mk_keeps]

theorem execHeartbeat_keeps {k : Key} {s : State} (h : Keep k s)  : KeepO k (execHeartbeat s) := by
  unfold execHeartbeat
  repeat' first | (intro v; first | (refine (fun (_ : Keep k v) => ?_) ?_; rotate_left; simp only [v]; rotate_left; clear_value v) | (have hv : v = v := rfl; simp only [v] at hv; clear hv)) | with_reducible assumption | with_reducible apply advance_keeps | with_reducible apply stage_keeps | with_reducible apply next_keeps | lift_lets -underBinder | intro _ _ _ | split | dsimp -zeta only | simp only [mk_keeps]

theorem execChanRead_keeps {k : Key} {s : State} (h : Keep k s) (a0 : Nat) : KeepO k (execChanRead a0 s) := by
  unfold execChanRead
  repeat' first | with_reducible assumption | with_reducible apply pendTag_keeps | with_reducible apply applyCmd_keeps | with_reducible apply chanReads_keeps | with_reducible apply next_keeps | intro _ _ _ | split | dsimp -zeta only | simp only [mk_keeps]

theorem chanReadServe_keeps {k : Key} {s : State} (h : Keep k s) (a0 : Nat) : Keep k (chanReadServe s a0) := by
  unfold chanReadServe
  repeat' first | with_reducible assumption | with_reducible apply endSt_keeps | with_reducible apply giveResult_keeps | intro _ _ _ | split | dsimp -zeta only | simp only [mk_keeps]

-- REC chanReads
theorem chanReads_keeps {k : Key} {s : State} (h : Keep k s)  : Keep k (chanReads s) := by
  unfold chanReads
  repeat' first | with_reducible assumption | with_reducible apply forEach_keeps | with_reducible apply chanReadServe_keeps | with_reducible apply forEach_keeps | intro _ _ _ | split | dsimp -zeta only | simp only [mk_keeps]

theorem setCapture_keeps {k : Key} {s : State} (h : Keep k s) (a0 : Capture) : Keep k (setCapture s a0) := by
  unfold setCapture
  repeat' first | with_reducible assumption | intro _ _ _ | split | dsimp -zeta only | simp only [mk_keeps]

theorem captureStart_keeps {k : Key} {s : State} (h : Keep k s) (a0 : Capture) : Keep k (captureStart s a0) := by
  unfold captureStart
  repeat' first | with_reducible assumption | with_reducible apply setCapture_keeps | intro _ _ _ | split | dsimp -zeta only | simp only [mk_keeps]

theorem captureArm_keeps {k : Key} {s : State} (h : Keep k s) (a0 : Capture) (a1 : Nat) : Keep k (captureArm s a0 a1) := by
  unfold captureArm
  repeat' first | (intro v; first | (refine (fun (_ : Keep k v) => ?_) ?_; rotate_left; simp only [v]; rotate_left; clear_value v) | (have hv : v = v := rfl; simp only [v] at hv; clear hv)) | with_reducible assumption | with_reducible apply setCapture_keeps | with_reducible apply captureStart_keeps | lift_lets -underBinder | intro _ _ _ | split | dsimp -zeta only | simp only [mk_keeps]

theorem captureReserve_keeps {k : Key} {s : State} (h : Keep k s) (a0 : Capture) : Keep k (captureReserve s a0) := by
  unfold captureReserve
  repeat' first | (intro v; first | (refine (fun (_ : Keep k v) => ?_) ?_; rotate_left; simp only [v]; rotate_left; clear_value v) | (have hv : v = v := rfl; simp only [v] at hv; clear hv)) | with_reducible assumption | with_reducible apply modTag_keeps | with_reducible apply captureArm_keeps | lift_lets -underBinder | intro _ _ _ | split | dsimp -zeta only | simp only [mk_keeps]

theorem execCapture_keeps {k : Key} {s : State} (h : Keep k s) (a0 : Nat) : KeepO k (execCapture a0 s) := by
  unfold execCapture
  repeat' first | (intro v; first | (refine (fun (_ : Keep k v) => ?_) ?_; rotate_left; simp only [v]; rotate_left; clear_value v) | (have hv : v = v := rfl; simp only [v] at hv; clear hv)) | with_reducible assumption | with_reducible apply raiseHi_keeps | with_reducible apply endSt_keeps | with_reducible apply pendTag_keeps | with_reducible apply applyCmd_keeps | with_reducible apply captureReserve_keeps | with_reducible apply next_keeps | lift_lets -underBinder | intro _ _ _ | split | dsimp -zeta only | simp only [mk_keeps]

theorem execCapturePagesReserved_keeps {k : Key} {s : State} (h : Keep k s)  : KeepO k (execCapturePagesReserved s) := by
  unfold execCapturePagesReserved
  repeat' first | with_reducible assumption | with_reducible apply captureReserve_keeps | with_reducible apply next_keeps | intro _ _ _ | split | dsimp -zeta only | simp only [mk_keeps]

theorem execCaptureTrigger_keeps {k : Key} {s : State} (h : Keep k s) (a0 : Nat) : KeepO k (execCaptureTrigger a0 s) := by
  unfold execCaptureTrigger
  repeat' first | with_reducible assumption | with_reducible apply advance_keeps | with_reducible apply captureStart_keeps | with_reducible apply next_keeps | intro _ _ _ | split | dsimp -zeta only | simp only [mk_keeps]

theorem execCaptureTriggerTimeout_keeps {k : Key} {s : State} (h : Keep k s) (a0 : Nat) : KeepO k (execCaptureTriggerTimeout a0 s) := by
  unfold execCaptureTriggerTimeout
  repeat' first | (intro v; first | (refine (fun (_ : Keep k v) => ?_) ?_; rotate_left; simp only [v]; rotate_left; clear_value v) | (have hv : v = v := rfl; simp only [v] at hv; clear hv)) | with_reducible assumption | with_reducible apply advance_keeps | with_reducible apply modTag_keeps | with_reducible apply endSt_keeps | with_reducible apply next_keeps | lift_lets -underBinder | intro _ _ _ | split | dsimp -zeta only | simp only [mk_keeps]

theorem captureOvr_keeps {k : Key} {s : State} (h : Keep k s)  : Keep k (captureOvr s) := by
  unfold captureOvr
  repeat' first | (intro v; first | (refine (fun (_ : Keep k v) => ?_) ?_; rotate_left; simp only [v]; rotate_left; clear_value v) | (have hv : v = v := rfl; simp only [v] at hv; clear hv)) | with_reducible assumption | with_reducible apply forEach_keeps | with_reducible refine captureFlags_keeps ?_ ‹_› | with_reducible apply captureFlags_keeps_snd | with_reducible apply setCapture_keeps | with_reducible apply forEach_keeps | lift_lets -underBinder | intro _ _ _ | split | dsimp -zeta only | simp only [mk_keeps]

end Sys2Proof.Machine
end

