-- ==== Sys2Proof/Laws/KeepSite.lean ====
section
/-! SUPPORT. The operations of Site.lean keep the part, the fuses, the queue and a canonical word store. -/

namespace Sys2Proof.Machine

set_option linter.all false

theorem updTamp_keeps {k : Key} {s : State} (h : Keep k s)  : Keep k (updTamp s) := by
  unfold updTamp
  repeat' first | with_reducible assumption | with_reducible apply setF_keeps | intro _ _ _ | split | dsimp -zeta only | simp only [mk_keeps]

theorem tampInput_keeps {k : Key} {s : State} (h : Keep k s) (a0 : Nat) : Keep k (tampInput s a0) := by
  unfold tampInput
  repeat' first | (intro v; first | (refine (fun (_ : Keep k v) => ?_) ?_; rotate_left; simp only [v]; rotate_left; clear_value v) | (have hv : v = v := rfl; simp only [v] at hv; clear hv)) | with_reducible assumption | with_reducible apply wr_keeps | with_reducible apply setBitF_keeps | with_reducible apply offer_keeps | lift_lets -underBinder | intro _ _ _ | split | dsimp -zeta only | simp only [mk_keeps]

theorem tampSample_keeps {k : Key} {s : State} (h : Keep k s)  : Keep k (tampSample s) := by
  unfold tampSample
  repeat' first | with_reducible assumption | with_reducible apply forEach_keeps | with_reducible apply updTamp_keeps | with_reducible apply tampInput_keeps | with_reducible apply forEach_keeps | intro _ _ _ | split | dsimp -zeta only | simp only [mk_keeps]

theorem execTamperLatch_keeps {k : Key} {s : State} (h : Keep k s) (a0 : Nat) : KeepO k (execTamperLatch a0 s) := by
  unfold execTamperLatch
  repeat' first | (intro v; first | (refine (fun (_ : Keep k v) => ?_) ?_; rotate_left; simp only [v]; rotate_left; clear_value v) | (have hv : v = v := rfl; simp only [v] at hv; clear hv)) | with_reducible assumption | with_reducible apply advance_keeps | with_reducible apply tampSample_keeps | with_reducible apply next_keeps | lift_lets -underBinder | intro _ _ _ | split | dsimp -zeta only | simp only [mk_keeps]

theorem execTamperReport_keeps {k : Key} {s : State} (h : Keep k s)  : KeepO k (execTamperReport s) := by
  unfold execTamperReport
  repeat' first | (intro v; first | (refine (fun (_ : Keep k v) => ?_) ?_; rotate_left; simp only [v]; rotate_left; clear_value v) | (have hv : v = v := rfl; simp only [v] at hv; clear hv)) | with_reducible assumption | with_reducible apply forEach_keeps | with_reducible apply fault_keeps | with_reducible apply raise_keeps | with_reducible apply logPush_keeps | with_reducible apply forEach_keeps | with_reducible apply next_keeps | lift_lets -underBinder | intro _ _ _ | split | dsimp -zeta only | simp only [mk_keeps]

theorem tampClear_keeps {k : Key} {s : State} (h : Keep k s) (a0 : Word) : Keep k (tampClear s a0) := by
  unfold tampClear
  repeat' first | with_reducible assumption | with_reducible apply setF_keeps | intro _ _ _ | split | dsimp -zeta only | simp only [mk_keeps]

theorem execTamperClear_keeps {k : Key} {s : State} (h : Keep k s) (a0 : Word) : KeepO k (execTamperClear a0 s) := by
  unfold execTamperClear
  repeat' first | with_reducible assumption | with_reducible apply tampClear_keeps | with_reducible apply next_keeps | intro _ _ _ | split | dsimp -zeta only | simp only [mk_keeps]

theorem tampCfgWrite_keeps {k : Key} {s : State} (h : Keep k s) (a0 : Word) : Keep k (tampCfgWrite s a0) := by
  unfold tampCfgWrite
  repeat' first | (intro v; first | (refine (fun (_ : Keep k v) => ?_) ?_; rotate_left; simp only [v]; rotate_left; clear_value v) | (have hv : v = v := rfl; simp only [v] at hv; clear hv)) | with_reducible assumption | with_reducible apply setF_keeps | with_reducible apply setFlag_keeps | with_reducible apply forEach_keeps | with_reducible apply updTamp_keeps | with_reducible apply tampInput_keeps | with_reducible apply forEach_keeps | lift_lets -underBinder | intro _ _ _ | split | dsimp -zeta only | simp only [mk_keeps]

theorem execTamperArm_keeps {k : Key} {s : State} (h : Keep k s) (a0 : Nat) : KeepO k (execTamperArm a0 s) := by
  unfold execTamperArm
  repeat' first | with_reducible assumption | with_reducible apply endSt_keeps | with_reducible apply noteCfg_keeps | with_reducible apply tampCfgWrite_keeps | with_reducible apply next_keeps | intro _ _ _ | split | dsimp -zeta only | simp only [mk_keeps]

theorem setRemoval_keeps {k : Key} {s : State} (h : Keep k s) (a0 : Nat) (a1 : Removal) : Keep k (setRemoval s a0 a1) := by
  unfold setRemoval
  repeat' first | with_reducible assumption | intro _ _ _ | split | dsimp -zeta only | simp only [mk_keeps]

theorem removalStep_keeps {k : Key} {s : State} (h : Keep k s) (a0 : Nat) : Keep k (removalStep s a0) := by
  unfold removalStep
  repeat' first | (intro v; first | (refine (fun (_ : Keep k v) => ?_) ?_; rotate_left; simp only [v]; rotate_left; clear_value v) | (have hv : v = v := rfl; simp only [v] at hv; clear hv)) | with_reducible assumption | with_reducible apply setRemoval_keeps | with_reducible apply step_keeps | lift_lets -underBinder | intro _ _ _ | split | dsimp -zeta only | simp only [mk_keeps]

theorem execRemovalDeclared_keeps {k : Key} {s : State} (h : Keep k s) (a0 : Nat) : KeepO k (execRemovalDeclared a0 s) := by
  unfold execRemovalDeclared
  repeat' first | (intro v; first | (refine (fun (_ : Keep k v) => ?_) ?_; rotate_left; simp only [v]; rotate_left; clear_value v) | (have hv : v = v := rfl; simp only [v] at hv; clear hv)) | with_reducible assumption | with_reducible apply incSat_keeps | with_reducible apply fault_keeps | with_reducible apply raise_keeps | with_reducible apply setRemoval_keeps | with_reducible apply step_keeps | with_reducible apply next_keeps | lift_lets -underBinder | intro _ _ _ | split | dsimp -zeta only | simp only [mk_keeps]

theorem execRefit_keeps {k : Key} {s : State} (h : Keep k s) (a0 : Nat) : KeepO k (execRefit a0 s) := by
  unfold execRefit
  repeat' first | with_reducible assumption | with_reducible apply raise_keeps | with_reducible apply setRemoval_keeps | with_reducible apply next_keeps | intro _ _ _ | split | dsimp -zeta only | simp only [mk_keeps]

theorem shuntMs_keeps {k : Key} {s : State} (h : Keep k s) (a0 : Nat) (a1 : Rat) : Keep k (shuntMs s a0 a1) := by
  unfold shuntMs
  repeat' first | (intro v; first | (refine (fun (_ : Keep k v) => ?_) ?_; rotate_left; simp only [v]; rotate_left; clear_value v) | (have hv : v = v := rfl; simp only [v] at hv; clear hv)) | with_reducible assumption | with_reducible apply setShc_keeps | lift_lets -underBinder | intro _ _ _ | split | dsimp -zeta only | simp only [mk_keeps]

theorem shuntWindow_keeps {k : Key} {s : State} (h : Keep k s) (a0 : Nat) : Keep k (shuntWindow s a0) := by
  unfold shuntWindow
  repeat' first | (intro v; first | (refine (fun (_ : Keep k v) => ?_) ?_; rotate_left; simp only [v]; rotate_left; clear_value v) | (have hv : v = v := rfl; simp only [v] at hv; clear hv)) | with_reducible assumption | with_reducible apply incSat_keeps | with_reducible apply fault_keeps | with_reducible apply raise_keeps | with_reducible apply setShc_keeps | lift_lets -underBinder | intro _ _ _ | split | dsimp -zeta only | simp only [mk_keeps]

theorem execShuntCheckWindow_keeps {k : Key} {s : State} (h : Keep k s)  : KeepO k (execShuntCheckWindow s) := by
  unfold execShuntCheckWindow
  repeat' first | with_reducible assumption | with_reducible apply forEach_keeps | with_reducible apply shuntWindow_keeps | with_reducible apply forEach_keeps | with_reducible apply next_keeps | intro _ _ _ | split | dsimp -zeta only | simp only [mk_keeps]

theorem insRestart_keeps {k : Key} {s : State} (h : Keep k s)  : Keep k (insRestart s) := by
  unfold insRestart
  repeat' first | (intro v; first | (refine (fun (_ : Keep k v) => ?_) ?_; rotate_left; simp only [v]; rotate_left; clear_value v) | (have hv : v = v := rfl; simp only [v] at hv; clear hv)) | with_reducible assumption | with_reducible apply wr_keeps | with_reducible apply setFlag_keeps | lift_lets -underBinder | intro _ _ _ | split | dsimp -zeta only | simp only [mk_keeps]

theorem insCfgWrite_keeps {k : Key} {s : State} (h : Keep k s) (a0 : Word) : Keep k (insCfgWrite s a0) := by
  unfold insCfgWrite
  repeat' first | (intro v; first | (refine (fun (_ : Keep k v) => ?_) ?_; rotate_left; simp only [v]; rotate_left; clear_value v) | (have hv : v = v := rfl; simp only [v] at hv; clear hv)) | with_reducible assumption | with_reducible apply wr_keeps | with_reducible apply insRestart_keeps | lift_lets -underBinder | intro _ _ _ | split | dsimp -zeta only | simp only [mk_keeps]

theorem insResult_keeps_snd {k : Key} {s : State} (h : Keep k s) (a0 : Int) (a1 : Int) : Keep k (insResult s a0 a1).2 := by
  unfold insResult
  repeat' first | (intro v; first | (refine (fun (_ : Keep k v) => ?_) ?_; rotate_left; simp only [v]; rotate_left; clear_value v) | (have hv : v = v := rfl; simp only [v] at hv; clear hv)) | with_reducible assumption | with_reducible refine draw_keeps ?_ ‹_› | with_reducible apply draw_keeps_snd | lift_lets -underBinder | intro _ _ _ | split | dsimp -zeta only | simp only [mk_keeps]
theorem insResult_keeps {k : Key} {s t : State} {x : Nat} {a0 : Int} {a1 : Int} (h : Keep k s) (e : insResult s a0 a1 = (x, t)) : Keep k t := by
  have := insResult_keeps_snd h a0 a1
  rwa [e] at this

theorem insThreshold_keeps {k : Key} {s : State} (h : Keep k s) (a0 : Nat) (a1 : Nat) (a2 : Fld) (a3 : Nat) (a4 : State → State) (ha4 : ∀ (_ : Unit) t, Keep k t → Keep k (a4 t)) : Keep k (insThreshold s a0 a1 a2 a3 a4) := by
  unfold insThreshold
  repeat' first | with_reducible assumption | with_reducible apply setFlag_keeps | with_reducible apply raise_keeps | with_reducible refine ha4 () _ ?_ | intro _ _ _ | split | dsimp -zeta only | simp only [mk_keeps]

theorem insReport_keeps {k : Key} {s : State} (h : Keep k s) (a0 : Nat) : Keep k (insReport s a0) := by
  unfold insReport
  extract_lets l i1 i2 s1
  have h1 : Keep k s1 := mk_keeps.mpr h
  clear_value s1 l
  split
  · refine insThreshold_keeps (insThreshold_keeps (setFlag_keeps (setFlag_keeps (setF_keeps h1 _ _) _ _) _ _) _ _ _ _ _ ?_) _ _ _ _ _ ?_
    · exact fun _ _ ht => ht
    · exact fun _ _ ht => fault_keeps ht _ _ _ _
  · exact h1

theorem execInsulationHalfPeriod_keeps {k : Key} {s : State} (h : Keep k s) (a0 : Int) (a1 : Int) (a2 : Int) : KeepO k (execInsulationHalfPeriod a0 a1 a2 s) := by
  unfold execInsulationHalfPeriod
  repeat' first | (intro v; first | (refine (fun (_ : Keep k v) => ?_) ?_; rotate_left; simp only [v]; rotate_left; clear_value v) | (have hv : v = v := rfl; simp only [v] at hv; clear hv)) | with_reducible assumption | with_reducible apply setI_keeps | with_reducible apply advance_keeps | with_reducible apply raise_keeps | with_reducible refine insResult_keeps ?_ ‹_› | with_reducible apply insResult_keeps_snd | with_reducible apply insReport_keeps | with_reducible apply next_keeps | lift_lets -underBinder | intro _ _ _ | split | dsimp -zeta only | simp only [mk_keeps]

theorem insMs_keeps {k : Key} {s : State} (h : Keep k s)  : Keep k (insMs s) := by
  unfold insMs
  repeat' first | (intro v; first | (refine (fun (_ : Keep k v) => ?_) ?_; rotate_left; simp only [v]; rotate_left; clear_value v) | (have hv : v = v := rfl; simp only [v] at hv; clear hv)) | with_reducible assumption | lift_lets -underBinder | intro _ _ _ | split | dsimp -zeta only | simp only [mk_keeps]

theorem addEnergy_keeps {k : Key} {s : State} (h : Keep k s) (a0 : Nat) (a1 : Rat) : Keep k (addEnergy s a0 a1) := by
  unfold addEnergy
  repeat' first | (intro v; first | (refine (fun (_ : Keep k v) => ?_) ?_; rotate_left; simp only [v]; rotate_left; clear_value v) | (have hv : v = v := rfl; simp only [v] at hv; clear hv)) | with_reducible assumption | lift_lets -underBinder | intro _ _ _ | split | dsimp -zeta only | simp only [mk_keeps]

theorem execEnergyIngot_keeps {k : Key} {s : State} (h : Keep k s)  : KeepO k (execEnergyIngot s) := by
  unfold execEnergyIngot
  repeat' first | (intro v; first | (refine (fun (_ : Keep k v) => ?_) ?_; rotate_left; simp only [v]; rotate_left; clear_value v) | (have hv : v = v := rfl; simp only [v] at hv; clear hv)) | with_reducible assumption | with_reducible apply advance_keeps | with_reducible apply logOther_keeps | with_reducible apply next_keeps | lift_lets -underBinder | intro _ _ _ | split | dsimp -zeta only | simp only [mk_keeps]

theorem energyRestore_keeps {k : Key} {s : State} (h : Keep k s) : Keep k (energyRestore s) := by
  unfold energyRestore
  extract_lets last
  clear_value last
  cases last with
  | none => exact setF_keeps (mk_keeps.mpr h) _ _
  | some c => exact setF_keeps (mk_keeps.mpr h) _ _

theorem execEnergyRead_keeps {k : Key} {s : State} (h : Keep k s) (a0 : Nat) : KeepO k (execEnergyRead a0 s) := by
  unfold execEnergyRead
  repeat' first | with_reducible assumption | with_reducible apply pendTag_keeps | with_reducible apply next_keeps | intro _ _ _ | split | dsimp -zeta only | simp only [mk_keeps]

theorem energyReply_keeps {k : Key} {s : State} (h : Keep k s) (a0 : Nat) : Keep k (energyReply s a0) := by
  unfold energyReply
  repeat' first | (intro v; first | (refine (fun (_ : Keep k v) => ?_) ?_; rotate_left; simp only [v]; rotate_left; clear_value v) | (have hv : v = v := rfl; simp only [v] at hv; clear hv)) | with_reducible assumption | with_reducible apply giveResult_keeps | with_reducible apply writeNow_keeps | lift_lets -underBinder | intro _ _ _ | split | dsimp -zeta only | simp only [mk_keeps]

theorem energyReplies_keeps {k : Key} {s : State} (h : Keep k s)  : Keep k (energyReplies s) := by
  unfold energyReplies
  repeat' first | with_reducible assumption | with_reducible apply forEach_keeps | with_reducible apply energyReply_keeps | with_reducible apply forEach_keeps | intro _ _ _ | split | dsimp -zeta only | simp only [mk_keeps]

theorem updLamps_keeps {k : Key} {s : State} (h : Keep k s)  : Keep k (updLamps s) := by
  unfold updLamps
  repeat' first | (intro v; first | (refine (fun (_ : Keep k v) => ?_) ?_; rotate_left; simp only [v]; rotate_left; clear_value v) | (have hv : v = v := rfl; simp only [v] at hv; clear hv)) | with_reducible assumption | with_reducible apply wr_keeps | with_reducible apply setF_keeps | with_reducible apply foldl_keeps | lift_lets -underBinder | intro _ _ _ | split | dsimp -zeta only | simp only [mk_keeps]

theorem execLampEvaluation_keeps {k : Key} {s : State} (h : Keep k s)  : KeepO k (execLampEvaluation s) := by
  unfold execLampEvaluation
  repeat' first | (intro v; first | (refine (fun (_ : Keep k v) => ?_) ?_; rotate_left; simp only [v]; rotate_left; clear_value v) | (have hv : v = v := rfl; simp only [v] at hv; clear hv)) | with_reducible assumption | with_reducible apply advance_keeps | with_reducible apply updLamps_keeps | with_reducible apply foldl_keeps | with_reducible apply next_keeps | lift_lets -underBinder | intro _ _ _ | split | dsimp -zeta only | simp only [mk_keeps]

theorem lpCtrlWrite_keeps {k : Key} {s : State} (h : Keep k s) (a0 : Word) : Keep k (lpCtrlWrite s a0) := by
  unfold lpCtrlWrite
  repeat' first | (intro v; first | (refine (fun (_ : Keep k v) => ?_) ?_; rotate_left; simp only [v]; rotate_left; clear_value v) | (have hv : v = v := rfl; simp only [v] at hv; clear hv)) | with_reducible assumption | with_reducible apply setF_keeps | with_reducible apply setFlag_keeps | with_reducible apply updLamps_keeps | lift_lets -underBinder | intro _ _ _ | split | dsimp -zeta only | simp only [mk_keeps]

theorem execLampTest_keeps {k : Key} {s : State} (h : Keep k s) (a0 : Word) : KeepO k (execLampTest a0 s) := by
  unfold execLampTest
  repeat' first | with_reducible assumption | with_reducible apply noteCfg_keeps | with_reducible apply lpCtrlWrite_keeps | with_reducible apply next_keeps | intro _ _ _ | split | dsimp -zeta only | simp only [mk_keeps]

theorem execLampTestEnd_keeps {k : Key} {s : State} (h : Keep k s)  : KeepO k (execLampTestEnd s) := by
  unfold execLampTestEnd
  repeat' first | (intro v; first | (refine (fun (_ : Keep k v) => ?_) ?_; rotate_left; simp only [v]; rotate_left; clear_value v) | (have hv : v = v := rfl; simp only [v] at hv; clear hv)) | with_reducible assumption | with_reducible apply advance_keeps | with_reducible apply updLamps_keeps | with_reducible apply next_keeps | lift_lets -underBinder | intro _ _ _ | split | dsimp -zeta only | simp only [mk_keeps]

end Sys2Proof.Machine
end

