-- ==== Sys2Proof/Laws/KeepRegWrite.lean ====
section
/-! SUPPORT. The operations of RegWrite.lean keep the part, the fuses, the queue and a canonical word store. -/

namespace Sys2Proof.Machine

set_option linter.all false

theorem nextOr_keeps {k : Key} {s : State} {o : Host.Outcome State Fault Refusal} (h : KeepO k o) : Keep k (nextOr s o) := by
  obtain ⟨t, rfl, ht⟩ := h
  exact ht

theorem plainWrite_keeps {k : Key} {s : State} (h : Keep k s) (a0 : Nat) (a1 : Word) : Keep k (plainWrite s a0 a1) := by
  unfold plainWrite
  repeat' first | with_reducible assumption | with_reducible apply wr_keeps | intro _ _ _ | split | dsimp -zeta only | simp only [mk_keeps]

theorem ckResetWrite_keeps {k : Key} {s : State} (h : Keep k s) (a0 : Word) : Keep k (ckResetWrite s a0) := by
  unfold ckResetWrite
  repeat' first | (intro v; first | (refine (fun (_ : Keep k v) => ?_) ?_; rotate_left; simp only [v]; rotate_left; clear_value v) | (have hv : v = v := rfl; simp only [v] at hv; clear hv)) | with_reducible assumption | lift_lets -underBinder | intro _ _ _ | split | dsimp -zeta only | simp only [mk_keeps]

theorem hiTagsWrite_keeps {k : Key} {s : State} (h : Keep k s) (a0 : Word) : Keep k (hiTagsWrite s a0) := by
  unfold hiTagsWrite
  repeat' first | with_reducible assumption | with_reducible apply setF_keeps | intro _ _ _ | split | dsimp -zeta only | simp only [mk_keeps]

theorem hiOrphanWrite_keeps {k : Key} {s : State} (h : Keep k s) (a0 : Word) : Keep k (hiOrphanWrite s a0) := by
  unfold hiOrphanWrite
  repeat' first | with_reducible assumption | with_reducible apply setFlag_keeps | intro _ _ _ | split | dsimp -zeta only | simp only [mk_keeps]

theorem ringWrite_keeps {k : Key} {s : State} (h : Keep k s) (a0 : RingKind) (a1 : Nat) (a2 : Nat) (a3 : Nat) (a4 : Word) : Keep k (ringWrite s a0 a1 a2 a3 a4) := by
  unfold ringWrite
  repeat' first | with_reducible assumption | with_reducible apply ringCfgWrite_keeps | with_reducible apply plainWrite_keeps | intro _ _ _ | split | dsimp -zeta only | simp only [mk_keeps]

theorem ppCtrlWrite_keeps {k : Key} {s : State} (h : Keep k s) (a0 : Word) : Keep k (ppCtrlWrite s a0) := by
  unfold ppCtrlWrite
  repeat' first | (intro v; first | (refine (fun (_ : Keep k v) => ?_) ?_; rotate_left; simp only [v]; rotate_left; clear_value v) | (have hv : v = v := rfl; simp only [v] at hv; clear hv)) | with_reducible assumption | with_reducible apply safeExit_keeps | with_reducible apply plainWrite_keeps | lift_lets -underBinder | intro _ _ _ | split | dsimp -zeta only | simp only [mk_keeps]

theorem ppArmWrite_keeps {k : Key} {s : State} (h : Keep k s) (a0 : Word) : Keep k (ppArmWrite s a0) := by
  unfold ppArmWrite
  repeat' first | with_reducible assumption | with_reducible apply ppArm_keeps | with_reducible apply ppDisarm_keeps | intro _ _ _ | split | dsimp -zeta only | simp only [mk_keeps]

theorem spWrite_keeps {k : Key} {s : State} (h : Keep k s) (a0 : Nat) (a1 : Word) : Keep k (spWrite s a0 a1) := by
  unfold spWrite
  repeat' first | (intro v; first | (refine (fun (_ : Keep k v) => ?_) ?_; rotate_left; simp only [v]; rotate_left; clear_value v) | (have hv : v = v := rfl; simp only [v] at hv; clear hv)) | with_reducible assumption | with_reducible apply spConfigWrite_keeps | with_reducible apply reprobe_keeps | with_reducible apply searchRestart_keeps | with_reducible apply plainWrite_keeps | lift_lets -underBinder | intro _ _ _ | split | dsimp -zeta only | simp only [mk_keeps]

theorem tlLegWrite_keeps {k : Key} {s : State} (h : Keep k s) (a0 : Nat) (a1 : Word) : Keep k (tlLegWrite s a0 a1) := by
  unfold tlLegWrite
  repeat' first | with_reducible assumption | with_reducible apply ppTlcfgWrite_keeps | intro _ _ _ | split | dsimp -zeta only | simp only [mk_keeps]

theorem tlWrite_keeps {k : Key} {s : State} (h : Keep k s) (a0 : Nat) (a1 : Word) : Keep k (tlWrite s a0 a1) := by
  unfold tlWrite
  repeat' first | (intro v; first | (refine (fun (_ : Keep k v) => ?_) ?_; rotate_left; simp only [v]; rotate_left; clear_value v) | (have hv : v = v := rfl; simp only [v] at hv; clear hv)) | with_reducible assumption | with_reducible apply tlCfgWrite_keeps | with_reducible apply tlRevreqWrite_keeps | with_reducible apply tlCctrlWrite_keeps | with_reducible apply plainWrite_keeps | lift_lets -underBinder | intro _ _ _ | split | dsimp -zeta only | simp only [mk_keeps]

theorem wdWrite_keeps {k : Key} {s : State} (h : Keep k s) (a0 : Nat) (a1 : Word) : Keep k (wdWrite s a0 a1) := by
  unfold wdWrite
  repeat' first | with_reducible assumption | with_reducible apply wdCtrlWrite_keeps | with_reducible apply wdAnswer_keeps | with_reducible apply wdPeriodWrite_keeps | with_reducible apply wdKeyWrite_keeps | with_reducible apply plainWrite_keeps | intro _ _ _ | split | dsimp -zeta only | simp only [mk_keeps]

theorem fcWrite_keeps {k : Key} {s : State} (h : Keep k s) (a0 : Nat) (a1 : Word) : Keep k (fcWrite s a0 a1) := by
  unfold fcWrite
  repeat' first | with_reducible assumption | with_reducible apply updConditions_keeps | with_reducible apply unpin_keeps | with_reducible apply rholdWrite_keeps | with_reducible apply fcEventWrite_keeps | with_reducible apply replaceWrite_keeps | with_reducible apply plainWrite_keeps | intro _ _ _ | split | dsimp -zeta only | simp only [mk_keeps]

theorem trcWrite_keeps {k : Key} {s : State} (h : Keep k s) (a0 : Nat) (a1 : Word) : Keep k (trcWrite s a0 a1) := by
  unfold trcWrite
  repeat' first | with_reducible assumption | with_reducible apply updStall_keeps | with_reducible apply trcCtrlWrite_keeps | with_reducible apply plainWrite_keeps | intro _ _ _ | split | dsimp -zeta only | simp only [mk_keeps]

theorem tmWrite_keeps {k : Key} {s : State} (h : Keep k s) (a0 : Nat) (a1 : Word) : Keep k (tmWrite s a0 a1) := by
  unfold tmWrite
  repeat' first | (intro v; first | (refine (fun (_ : Keep k v) => ?_) ?_; rotate_left; simp only [v]; rotate_left; clear_value v) | (have hv : v = v := rfl; simp only [v] at hv; clear hv)) | with_reducible assumption | with_reducible apply tampClear_keeps | with_reducible apply tampCfgWrite_keeps | with_reducible apply insCfgWrite_keeps | with_reducible apply plainWrite_keeps | lift_lets -underBinder | intro _ _ _ | split | dsimp -zeta only | simp only [mk_keeps]

theorem cfgGenWrite_keeps {k : Key} {s : State} (h : Keep k s) (a0 : Word) : Keep k (cfgGenWrite s a0) := by
  unfold cfgGenWrite
  repeat' first | (intro v; first | (refine (fun (_ : Keep k v) => ?_) ?_; rotate_left; simp only [v]; rotate_left; clear_value v) | (have hv : v = v := rfl; simp only [v] at hv; clear hv)) | with_reducible assumption | with_reducible apply forEach_keeps | with_reducible apply advance_keeps | with_reducible apply setDigPart_keeps | with_reducible apply plainWrite_keeps | with_reducible apply forEach_keeps | lift_lets -underBinder | intro _ _ _ | split | dsimp -zeta only | simp only [mk_keeps]

theorem regWriteAt_keeps {k : Key} {s : State} (h : Keep k s) (a0 : Nat) (a1 : Word) : Keep k (regWriteAt s a0 a1) := by
  unfold regWriteAt
  repeat' first | with_reducible assumption | with_reducible apply ite_keeps | with_reducible apply updConditions_keeps | with_reducible apply pdreqWrite_keeps | with_reducible apply cfgGenWrite_keeps | with_reducible apply ckResetWrite_keeps | with_reducible apply hiCtrlWrite_keeps | with_reducible apply hiTagsWrite_keeps | with_reducible apply hiOrphanWrite_keeps | with_reducible apply ringWrite_keeps | with_reducible apply ppCtrlWrite_keeps | with_reducible apply ppArmWrite_keeps | with_reducible apply ppPriorityWrite_keeps | with_reducible apply tlLegWrite_keeps | with_reducible apply spWrite_keeps | with_reducible apply tlWrite_keeps | with_reducible apply wdWrite_keeps | with_reducible apply fcWrite_keeps | with_reducible apply trcWrite_keeps | with_reducible apply tmWrite_keeps | with_reducible apply lpCtrlWrite_keeps | with_reducible apply svCtrlWrite_keeps | with_reducible apply plainWrite_keeps

theorem regWrite_keeps {k : Key} {s : State} (h : Keep k s) (a0 : Nat) (a1 : Word) : Keep k (regWrite s a0 a1) := by
  unfold regWrite
  repeat' first | with_reducible assumption | with_reducible apply noteCfg_keeps | with_reducible apply regWriteAt_keeps | intro _ _ _ | split | dsimp -zeta only | simp only [mk_keeps]

theorem msixTableWrite_keeps {k : Key} {s : State} (h : Keep k s) (a0 : Nat) (a1 : Word) : Keep k (msixTableWrite s a0 a1) := by
  unfold msixTableWrite
  repeat' first | (intro v; first | (refine (fun (_ : Keep k v) => ?_) ?_; rotate_left; simp only [v]; rotate_left; clear_value v) | (have hv : v = v := rfl; simp only [v] at hv; clear hv)) | with_reducible assumption | with_reducible apply wr_keeps | with_reducible apply setFlag_keeps | with_reducible apply msix_keeps | lift_lets -underBinder | intro _ _ _ | split | dsimp -zeta only | simp only [mk_keeps]

theorem bar4Write_keeps {k : Key} {s : State} (h : Keep k s) (a0 : Nat) (a1 : Word) : Keep k (bar4Write s a0 a1) := by
  unfold bar4Write
  repeat' first | with_reducible assumption | with_reducible apply dbSqTail_keeps | with_reducible apply execDbCqHead_keeps | with_reducible apply execDbEvHead_keeps | with_reducible apply nextOr_keeps | with_reducible apply msixTableWrite_keeps | intro _ _ _ | split | dsimp -zeta only | simp only [mk_keeps]

theorem cfgWrite_keeps {k : Key} {s : State} (h : Keep k s) (a0 : Nat) (a1 : Word) (a2 : Nat) : Keep k (cfgWrite s a0 a1 a2) := by
  unfold cfgWrite
  repeat' first | (intro v; first | (refine (fun (_ : Keep k v) => ?_) ?_; rotate_left; simp only [v]; rotate_left; clear_value v) | (have hv : v = v := rfl; simp only [v] at hv; clear hv)) | with_reducible assumption | with_reducible apply setFlag_keeps | with_reducible apply forEach_keeps | with_reducible apply msix_keeps | with_reducible apply hostReset_keeps | with_reducible apply forEach_keeps | lift_lets -underBinder | intro _ _ _ | split | dsimp -zeta only | simp only [mk_keeps]

theorem execRegisterWrite_keeps {k : Key} {s : State} (h : Keep k s) (a0 : Nat) (a1 : Nat) (a2 : Word) (a3 : Nat) (a4 : Word) : KeepO k (execRegisterWrite a0 a1 a2 a3 a4 s) := by
  unfold execRegisterWrite
  repeat' first | with_reducible assumption | with_reducible apply regWrite_keeps | with_reducible apply bar4Write_keeps | with_reducible apply cfgWrite_keeps | with_reducible apply next_keeps | intro _ _ _ | split | dsimp -zeta only | simp only [mk_keeps]

theorem execCfgGenWrite_keeps {k : Key} {s : State} (h : Keep k s) (a0 : Word) : KeepO k (execCfgGenWrite a0 s) := by
  unfold execCfgGenWrite
  repeat' first | with_reducible assumption | with_reducible apply cfgGenWrite_keeps | with_reducible apply next_keeps | intro _ _ _ | split | dsimp -zeta only | simp only [mk_keeps]

end Sys2Proof.Machine
end

