-- ==== Sys2Proof/Laws/KeepFirmware.lean ====
section
/-! SUPPORT. The operations of Firmware.lean keep the part, the fuses, the queue and a canonical word store. -/

namespace Sys2Proof.Machine

set_option linter.all false

theorem setSlotImage_keeps {k : Key} {s : State} (h : Keep k s) (a0 : Nat) (a1 : Image) : Keep k (setSlotImage s a0 a1) := by
  unfold setSlotImage
  repeat' first | with_reducible assumption | intro _ _ _ | split | dsimp -zeta only | simp only [mk_keeps]

theorem updSlots_keeps {k : Key} {s : State} (h : Keep k s)  : Keep k (updSlots s) := by
  unfold updSlots
  repeat' first | (intro v; first | (refine (fun (_ : Keep k v) => ?_) ?_; rotate_left; simp only [v]; rotate_left; clear_value v) | (have hv : v = v := rfl; simp only [v] at hv; clear hv)) | with_reducible assumption | with_reducible apply wr_keeps | with_reducible apply setFlag_keeps | lift_lets -underBinder | intro _ _ _ | split | dsimp -zeta only | simp only [mk_keeps]

theorem fwIngot_keeps {k : Key} {s : State} (h : Keep k s) (a0 : Nat) (a1 : Nat) (a2 : Nat) (a3 : Nat) (a4 : Word) : Keep k (fwIngot s a0 a1 a2 a3 a4) := by
  unfold fwIngot
  repeat' first | with_reducible assumption | with_reducible apply writeNow_keeps | intro _ _ _ | split | dsimp -zeta only | simp only [mk_keeps]

theorem fwNote_keeps {k : Key} {s : State} (h : Keep k s) (a0 : Nat) : Keep k (fwNote s a0) := by
  unfold fwNote
  repeat' first | (intro v; first | (refine (fun (_ : Keep k v) => ?_) ?_; rotate_left; simp only [v]; rotate_left; clear_value v) | (have hv : v = v := rfl; simp only [v] at hv; clear hv)) | with_reducible assumption | with_reducible apply fwIngot_keeps | lift_lets -underBinder | intro _ _ _ | split | dsimp -zeta only | simp only [mk_keeps]

theorem fwFault_keeps {k : Key} {s : State} (h : Keep k s) (a0 : Nat) (a1 : Nat) : Keep k (fwFault s a0 a1) := by
  unfold fwFault
  repeat' first | with_reducible assumption | with_reducible apply fault_keeps | intro _ _ _ | split | dsimp -zeta only | simp only [mk_keeps]

theorem setFwState_keeps {k : Key} {s : State} (h : Keep k s) (a0 : Nat) : Keep k (setFwState s a0) := by
  unfold setFwState
  repeat' first | with_reducible assumption | with_reducible apply setF_keeps | intro _ _ _ | split | dsimp -zeta only | simp only [mk_keeps]

theorem supervisorRestart_keeps {k : Key} {s : State} (h : Keep k s)  : Keep k (supervisorRestart s) := by
  unfold supervisorRestart
  repeat' first | (intro v; first | (refine (fun (_ : Keep k v) => ?_) ?_; rotate_left; simp only [v]; rotate_left; clear_value v) | (have hv : v = v := rfl; simp only [v] at hv; clear hv)) | with_reducible assumption | with_reducible apply when_keeps | with_reducible apply beginOn_keeps | with_reducible apply switchOff_keeps | with_reducible apply when_keeps | lift_lets -underBinder | intro _ _ _ | split | dsimp -zeta only | simp only [mk_keeps]

theorem fallBack_keeps {k : Key} {s : State} (h : Keep k s)  : Keep k (fallBack s) := by
  unfold fallBack
  repeat' first | (intro v; first | (refine (fun (_ : Keep k v) => ?_) ?_; rotate_left; simp only [v]; rotate_left; clear_value v) | (have hv : v = v := rfl; simp only [v] at hv; clear hv)) | with_reducible assumption | with_reducible apply raise_keeps | with_reducible apply fwIngot_keeps | with_reducible apply setFwState_keeps | lift_lets -underBinder | intro _ _ _ | split | dsimp -zeta only | simp only [mk_keeps]

theorem fwStage_keeps {k : Key} {s : State} (h : Keep k s) (a0 : Nat) (a1 : Tag) (a2 : Bool) : Keep k (fwStage s a0 a1 a2) := by
  unfold fwStage
  repeat' first | (intro v; first | (refine (fun (_ : Keep k v) => ?_) ?_; rotate_left; simp only [v]; rotate_left; clear_value v) | (have hv : v = v := rfl; simp only [v] at hv; clear hv)) | with_reducible assumption | with_reducible apply setF_keeps | with_reducible apply raise_keeps | with_reducible apply endTag_keeps | with_reducible apply endSt_keeps | with_reducible apply setSlotImage_keeps | with_reducible apply updSlots_keeps | with_reducible apply fwNote_keeps | with_reducible apply setFwState_keeps | lift_lets -underBinder | intro _ _ _ | split | dsimp -zeta only | simp only [mk_keeps]

theorem execFwStage_keeps {k : Key} {s : State} (h : Keep k s) (a0 : Nat) (a1 : Bool) : KeepO k (execFwStage a0 a1 s) := by
  unfold execFwStage
  repeat' first | with_reducible assumption | with_reducible apply xfer_keeps | with_reducible apply applyCmd_keeps | with_reducible apply fwStage_keeps | with_reducible apply next_keeps | intro _ _ _ | split | dsimp -zeta only | simp only [mk_keeps]

theorem execFwCommit_keeps {k : Key} {s : State} (h : Keep k s) (a0 : Nat) : KeepO k (execFwCommit a0 s) := by
  unfold execFwCommit
  repeat' first | (intro v; first | (refine (fun (_ : Keep k v) => ?_) ?_; rotate_left; simp only [v]; rotate_left; clear_value v) | (have hv : v = v := rfl; simp only [v] at hv; clear hv)) | with_reducible assumption | with_reducible apply raise_keeps | with_reducible apply endTag_keeps | with_reducible apply endSt_keeps | with_reducible apply applyCmd_keeps | with_reducible apply fwIngot_keeps | with_reducible apply setFwState_keeps | with_reducible apply supervisorRestart_keeps | with_reducible apply fallBack_keeps | with_reducible apply next_keeps | lift_lets -underBinder | intro _ _ _ | split | dsimp -zeta only | simp only [mk_keeps]

theorem execFwConfirm_keeps {k : Key} {s : State} (h : Keep k s) (a0 : Nat) : KeepO k (execFwConfirm a0 s) := by
  unfold execFwConfirm
  repeat' first | (intro v; first | (refine (fun (_ : Keep k v) => ?_) ?_; rotate_left; simp only [v]; rotate_left; clear_value v) | (have hv : v = v := rfl; simp only [v] at hv; clear hv)) | with_reducible assumption | with_reducible apply raise_keeps | with_reducible apply endTag_keeps | with_reducible apply endSt_keeps | with_reducible apply applyCmd_keeps | with_reducible apply fwIngot_keeps | with_reducible apply setFwState_keeps | with_reducible apply next_keeps | lift_lets -underBinder | intro _ _ _ | split | dsimp -zeta only | simp only [mk_keeps]

theorem execProbationExpire_keeps {k : Key} {s : State} (h : Keep k s)  : KeepO k (execProbationExpire s) := by
  unfold execProbationExpire
  repeat' first | (intro v; first | (refine (fun (_ : Keep k v) => ?_) ?_; rotate_left; simp only [v]; rotate_left; clear_value v) | (have hv : v = v := rfl; simp only [v] at hv; clear hv)) | with_reducible assumption | with_reducible apply advance_keeps | with_reducible apply raise_keeps | with_reducible apply fwNote_keeps | with_reducible apply fwFault_keeps | with_reducible apply supervisorRestart_keeps | with_reducible apply fallBack_keeps | with_reducible apply next_keeps | lift_lets -underBinder | intro _ _ _ | split | dsimp -zeta only | simp only [mk_keeps]

theorem execProbationNoSupervisor_keeps {k : Key} {s : State} (h : Keep k s)  : KeepO k (execProbationNoSupervisor s) := by
  unfold execProbationNoSupervisor
  repeat' first | with_reducible assumption | with_reducible apply advance_keeps | with_reducible apply supervisorRestart_keeps | with_reducible apply next_keeps | intro _ _ _ | split | dsimp -zeta only | simp only [mk_keeps]

theorem startSlot_keeps {k : Key} {s : State} (h : Keep k s) (a0 : Nat) : Keep k (startSlot s a0) := by
  unfold startSlot
  repeat' first | (intro v; first | (refine (fun (_ : Keep k v) => ?_) ?_; rotate_left; simp only [v]; rotate_left; clear_value v) | (have hv : v = v := rfl; simp only [v] at hv; clear hv)) | with_reducible assumption | with_reducible apply setF_keeps | with_reducible apply setSvState_keeps | lift_lets -underBinder | intro _ _ _ | split | dsimp -zeta only | simp only [mk_keeps]

theorem startGood_keeps_snd {k : Key} {s : State} (h : Keep k s)  : Keep k (startGood s).2 := by
  unfold startGood
  repeat' first | (intro v; first | (refine (fun (_ : Keep k v) => ?_) ?_; rotate_left; simp only [v]; rotate_left; clear_value v) | (have hv : v = v := rfl; simp only [v] at hv; clear hv)) | with_reducible assumption | with_reducible apply fwIngot_keeps | with_reducible apply fwFault_keeps | with_reducible apply setFwState_keeps | with_reducible apply startSlot_keeps | lift_lets -underBinder | intro _ _ _ | split | dsimp -zeta only | simp only [mk_keeps]
theorem startGood_keeps {k : Key} {s t : State} {x : Bool}  (h : Keep k s) (e : startGood s = (x, t)) : Keep k t := by
  have := startGood_keeps_snd h 
  rwa [e] at this

theorem bootImage_keeps_snd {k : Key} {s : State} (h : Keep k s)  : Keep k (bootImage s).2 := by
  unfold bootImage
  repeat' first | (intro v; first | (refine (fun (_ : Keep k v) => ?_) ?_; rotate_left; simp only [v]; rotate_left; clear_value v) | (have hv : v = v := rfl; simp only [v] at hv; clear hv)) | with_reducible assumption | with_reducible apply raise_keeps | with_reducible apply updSlots_keeps | with_reducible apply fwIngot_keeps | with_reducible apply setFwState_keeps | with_reducible apply fallBack_keeps | with_reducible apply startSlot_keeps | with_reducible refine startGood_keeps ?_ ‹_› | with_reducible apply startGood_keeps_snd | lift_lets -underBinder | intro _ _ _ | split | dsimp -zeta only | simp only [mk_keeps]
theorem bootImage_keeps {k : Key} {s t : State} {x : Bool}  (h : Keep k s) (e : bootImage s = (x, t)) : Keep k t := by
  have := bootImage_keeps_snd h 
  rwa [e] at this

theorem readSettings_keeps_snd {k : Key} {s : State} (h : Keep k s)  : Keep k (readSettings s).2 := by
  unfold readSettings
  repeat' first | (intro v; first | (refine (fun (_ : Keep k v) => ?_) ?_; rotate_left; simp only [v]; rotate_left; clear_value v) | (have hv : v = v := rfl; simp only [v] at hv; clear hv)) | with_reducible assumption | with_reducible apply setFlag_keeps | with_reducible apply mirrorRead_keeps | with_reducible apply mirrorUnreadable_keeps | lift_lets -underBinder | intro _ _ _ | split | dsimp -zeta only | simp only [mk_keeps]
theorem readSettings_keeps {k : Key} {s t : State} {x : Option (List Word)}  (h : Keep k s) (e : readSettings s = (x, t)) : Keep k t := by
  have := readSettings_keeps_snd h 
  rwa [e] at this

theorem applyRec_keeps {k : Key} {s t : State} {r : List Word} (h : Keep k s) (e : applyRec s r = some t) : Keep k t := by
  unfold applyRec at e
  extract_lets x w l at e
  split at e
  · cases e
    exact regWrite_keeps h _ _
  · split at e
    · cases e
    · split at e
      · cases e
      · split at e
        all_goals (try (cases e; done))
        all_goals (try extract_lets _ at e)
        all_goals (split at e)
        all_goals (try (cases e; done))
        all_goals cases e
        · exact forEach_keeps (fun _ _ ht => applyChanParam_keeps ht _ _ _) h
        · exact forEach_keeps (fun _ _ ht => wrList_keeps ht _ _) h
        · exact forEach_keeps (fun _ _ ht => wr_keeps (wr_keeps ht _ _) _ _) h
        · exact waitCal_keeps h _ _ _
        · exact forEach_keeps (fun _ _ ht => wrList_keeps ht _ _) h
        · exact takeLoad_keeps h _ _
        · exact takeLoad_keeps h _ _
        · exact mk_keeps.mpr h
        · exact ppSet_keeps h _
        · exact advertise_keeps h _ _

theorem recFail_keeps {k : Key} {s : State} (h : Keep k s) (a0 : Nat) : Keep k (recFail s a0) := by
  unfold recFail
  repeat' first | with_reducible assumption | with_reducible apply incSat_keeps | with_reducible apply raise_keeps | with_reducible apply fwFault_keeps | intro _ _ _ | split | dsimp -zeta only | simp only [mk_keeps]

theorem takeRec_keeps {k : Key} {s : State} (h : Keep k s) (a0 : HeldRec) : Keep k (takeRec s a0) := by
  unfold takeRec
  split
  · cases e : applyRec s a0.words with
    | none => exact recFail_keeps h _
    | some t => exact applyRec_keeps h e
  · exact mk_keeps.mpr h

theorem applyHeld_keeps {k : Key} {s : State} (h : Keep k s)  : Keep k (applyHeld s) := by
  unfold applyHeld
  repeat' first | (intro v; first | (refine (fun (_ : Keep k v) => ?_) ?_; rotate_left; simp only [v]; rotate_left; clear_value v) | (have hv : v = v := rfl; simp only [v] at hv; clear hv)) | with_reducible assumption | with_reducible apply forEach_keeps | with_reducible apply noteCfg_keeps | with_reducible apply takeRec_keeps | with_reducible apply forEach_keeps | lift_lets -underBinder | intro _ _ _ | split | dsimp -zeta only | simp only [mk_keeps]

theorem applySettings_keeps {k : Key} {s : State} (h : Keep k s) (a0 : List Word) : Keep k (applySettings s a0) := by
  unfold applySettings
  repeat' first | (intro v; first | (refine (fun (_ : Keep k v) => ?_) ?_; rotate_left; simp only [v]; rotate_left; clear_value v) | (have hv : v = v := rfl; simp only [v] at hv; clear hv)) | with_reducible assumption | with_reducible apply setF_keeps | with_reducible apply forEach_keeps | with_reducible apply noteCfg_keeps | with_reducible apply ppArm_keeps | with_reducible apply takeRec_keeps | with_reducible apply forEach_keeps | lift_lets -underBinder | intro _ _ _ | split | dsimp -zeta only | simp only [mk_keeps]

theorem enterQuarantine_keeps {k : Key} {s : State} (h : Keep k s) (a0 : Nat) : Keep k (enterQuarantine s a0) := by
  unfold enterQuarantine
  repeat' first | with_reducible assumption | with_reducible apply setF_keeps | with_reducible apply setFlag_keeps | with_reducible apply raise_keeps | with_reducible apply fwNote_keeps | intro _ _ _ | split | dsimp -zeta only | simp only [mk_keeps]

theorem leaveQuarantine_keeps {k : Key} {s : State} (h : Keep k s)  : Keep k (leaveQuarantine s) := by
  unfold leaveQuarantine
  repeat' first | with_reducible assumption | with_reducible apply setF_keeps | with_reducible apply setFlag_keeps | with_reducible apply raise_keeps | with_reducible apply fwNote_keeps | intro _ _ _ | split | dsimp -zeta only | simp only [mk_keeps]

theorem settingsStep_keeps {k : Key} {s : State} (h : Keep k s)  : Keep k (settingsStep s) := by
  unfold settingsStep
  repeat' first | (intro v; first | (refine (fun (_ : Keep k v) => ?_) ?_; rotate_left; simp only [v]; rotate_left; clear_value v) | (have hv : v = v := rfl; simp only [v] at hv; clear hv)) | with_reducible assumption | with_reducible apply wr_keeps | with_reducible apply setF_keeps | with_reducible refine readSettings_keeps ?_ ‹_› | with_reducible apply readSettings_keeps_snd | with_reducible apply applySettings_keeps | with_reducible apply enterQuarantine_keeps | with_reducible apply leaveQuarantine_keeps | lift_lets -underBinder | intro _ _ _ | split | dsimp -zeta only | simp only [mk_keeps]

theorem execSettingsLoad_keeps {k : Key} {s : State} (h : Keep k s) (a0 : Nat) (a1 : Nat) : KeepO k (execSettingsLoad a0 a1 s) := by
  unfold execSettingsLoad
  repeat' first | (intro v; first | (refine (fun (_ : Keep k v) => ?_) ?_; rotate_left; simp only [v]; rotate_left; clear_value v) | (have hv : v = v := rfl; simp only [v] at hv; clear hv)) | with_reducible assumption | with_reducible apply wr_keeps | with_reducible apply setF_keeps | with_reducible apply setFlag_keeps | with_reducible apply endTag_keeps | with_reducible apply endSt_keeps | with_reducible apply applyCmd_keeps | with_reducible apply applySettings_keeps | with_reducible apply leaveQuarantine_keeps | with_reducible apply next_keeps | lift_lets -underBinder | intro _ _ _ | split | dsimp -zeta only | simp only [mk_keeps]

theorem scanPart_keeps {k : Key} {s : State} (h : Keep k s) (a0 : Nat) : Keep k (scanPart s a0) := by
  unfold scanPart
  repeat' first | (intro v; first | (refine (fun (_ : Keep k v) => ?_) ?_; rotate_left; simp only [v]; rotate_left; clear_value v) | (have hv : v = v := rfl; simp only [v] at hv; clear hv)) | with_reducible assumption | with_reducible apply wr_keeps | with_reducible apply incWrap_keeps | with_reducible apply raise_keeps | with_reducible apply setDigPart_keeps | lift_lets -underBinder | intro _ _ _ | split | dsimp -zeta only | simp only [mk_keeps]

theorem execDigestScanPass_keeps {k : Key} {s : State} (h : Keep k s)  : KeepO k (execDigestScanPass s) := by
  unfold execDigestScanPass
  repeat' first | (intro v; first | (refine (fun (_ : Keep k v) => ?_) ?_; rotate_left; simp only [v]; rotate_left; clear_value v) | (have hv : v = v := rfl; simp only [v] at hv; clear hv)) | with_reducible assumption | with_reducible apply setF_keeps | with_reducible apply forEach_keeps | with_reducible apply advance_keeps | with_reducible apply scanPart_keeps | with_reducible apply forEach_keeps | with_reducible apply next_keeps | lift_lets -underBinder | intro _ _ _ | split | dsimp -zeta only | simp only [mk_keeps]

theorem execDigestRead_keeps {k : Key} {s : State} (h : Keep k s) (a0 : Nat) : KeepO k (execDigestRead a0 s) := by
  unfold execDigestRead
  repeat' first | with_reducible assumption | with_reducible apply giveResult_keeps | with_reducible apply applyCmd_keeps | with_reducible apply next_keeps | intro _ _ _ | split | dsimp -zeta only | simp only [mk_keeps]

end Sys2Proof.Machine
end

