-- ==== Sys2Proof/Laws/KeepRecords.lean ====
section
/-! SUPPORT. The operations of Records.lean keep the part, the fuses, the queue and a canonical word store. -/

namespace Sys2Proof.Machine

set_option linter.all false

theorem setChanRec_keeps {k : Key} {s : State} (h : Keep k s) (a0 : Nat) (a1 : ChanRec) : Keep k (setChanRec s a0 a1) := by
  unfold setChanRec
  repeat' first | with_reducible assumption | intro _ _ _ | split | dsimp -zeta only | simp only [mk_keeps]

theorem execChannelRecordWrite_keeps {k : Key} {s : State} (h : Keep k s) (a0 : Nat) : KeepO k (execChannelRecordWrite a0 s) := by
  unfold execChannelRecordWrite
  repeat' first | (intro v; first | (refine (fun (_ : Keep k v) => ?_) ?_; rotate_left; simp only [v]; rotate_left; clear_value v) | (have hv : v = v := rfl; simp only [v] at hv; clear hv)) | with_reducible assumption | with_reducible apply advance_keeps | with_reducible apply setEst_keeps | with_reducible apply endSt_keeps | with_reducible apply setChanRec_keeps | with_reducible apply next_keeps | lift_lets -underBinder | intro _ _ _ | split | dsimp -zeta only | simp only [mk_keeps]

theorem readRecord_keeps_snd {k : Key} {s : State} (h : Keep k s) (a0 : Nat) : Keep k (readRecord s a0).2 := by
  unfold readRecord
  repeat' first | with_reducible assumption | with_reducible apply mirrorRead_keeps | with_reducible apply mirrorUnreadable_keeps | with_reducible apply setChanRec_keeps | intro _ _ _ | split | dsimp -zeta only | simp only [mk_keeps]
theorem readRecord_keeps {k : Key} {s t : State} {x : Option RecCopy} {a0 : Nat} (h : Keep k s) (e : readRecord s a0 = (x, t)) : Keep k t := by
  have := readRecord_keeps_snd h a0
  rwa [e] at this

theorem startRecord_keeps {k : Key} {s : State} (h : Keep k s) (a0 : Nat) : Keep k (startRecord s a0) := by
  unfold startRecord
  repeat' first | (intro v; first | (refine (fun (_ : Keep k v) => ?_) ?_; rotate_left; simp only [v]; rotate_left; clear_value v) | (have hv : v = v := rfl; simp only [v] at hv; clear hv)) | with_reducible assumption | with_reducible apply modEst_keeps | with_reducible apply fault_keeps | with_reducible apply setTz_keeps | with_reducible apply defaultIz_keeps | with_reducible refine readRecord_keeps ?_ ‹_› | with_reducible apply readRecord_keeps_snd | with_reducible apply wrList_keeps | lift_lets -underBinder | intro _ _ _ | split | dsimp -zeta only | simp only [mk_keeps]

theorem startRecords_keeps {k : Key} {s : State} (h : Keep k s)  : Keep k (startRecords s) := by
  unfold startRecords
  repeat' first | with_reducible assumption | with_reducible apply forEach_keeps | with_reducible apply modEst_keeps | with_reducible apply startRecord_keeps | with_reducible apply forEach_keeps | intro _ _ _ | split | dsimp -zeta only | simp only [mk_keeps]

end Sys2Proof.Machine
end

