-- ==== Sys2Proof/Laws/KeepStartup.lean ====
section
/-! SUPPORT. The operations of Startup.lean keep the part, the fuses, the queue and a canonical word store. -/

namespace Sys2Proof.Machine

set_option linter.all false

theorem beginStep_keeps {k : Key} {s : State} (h : Keep k s)  : Keep k (beginStep s) := by
  unfold beginStep
  repeat' first | with_reducible assumption | with_reducible apply forEach_keeps | with_reducible apply beginOn_keeps | with_reducible apply forEach_keeps | intro _ _ _ | split | dsimp -zeta only | simp only [mk_keeps]

theorem ppathStart_keeps {k : Key} {s : State} (h : Keep k s)  : Keep k (ppathStart s) := by
  unfold ppathStart
  repeat' first | (intro v; first | (refine (fun (_ : Keep k v) => ?_) ?_; rotate_left; simp only [v]; rotate_left; clear_value v) | (have hv : v = v := rfl; simp only [v] at hv; clear hv)) | with_reducible assumption | with_reducible apply wr_keeps | with_reducible apply setF_keeps | with_reducible apply setFlag_keeps | with_reducible apply forEach_keeps | with_reducible apply updGates_keeps | with_reducible apply setCalConv_keeps | with_reducible apply setSvState_keeps | with_reducible apply updTamp_keeps | with_reducible apply insRestart_keeps | with_reducible apply energyRestore_keeps | with_reducible apply updSlots_keeps | with_reducible apply forEach_keeps | lift_lets -underBinder | intro _ _ _ | split | dsimp -zeta only | simp only [mk_keeps]

theorem legsStart_keeps {k : Key} {s : State} (h : Keep k s) (a0 : FactRec) : Keep k (legsStart s a0) := by
  unfold legsStart
  repeat' first | with_reducible assumption | with_reducible apply forEach_keeps | with_reducible apply setLeg_keeps | with_reducible apply takeLegCal_keeps | with_reducible apply forEach_keeps | intro _ _ _ | split | dsimp -zeta only | simp only [mk_keeps]

theorem bankStart_keeps {k : Key} {s : State} (h : Keep k s) (a0 : Nat) (a1 : FactRec) : Keep k (bankStart s a0 a1) := by
  unfold bankStart
  repeat' first | (intro v; first | (refine (fun (_ : Keep k v) => ?_) ?_; rotate_left; simp only [v]; rotate_left; clear_value v) | (have hv : v = v := rfl; simp only [v] at hv; clear hv)) | with_reducible assumption | with_reducible apply forEach_keeps | with_reducible apply modChan_keeps | with_reducible apply modFlask_keeps | with_reducible apply traceFlask_keeps | with_reducible apply setChState_keeps | with_reducible apply flaskHold_keeps | with_reducible apply setHolds_keeps | with_reducible apply failed_keeps | with_reducible apply setCalConv_keeps | with_reducible apply forEach_keeps | lift_lets -underBinder | intro _ _ _ | split | dsimp -zeta only | simp only [mk_keeps]

theorem keepStart_keeps {k : Key} {s : State} (h : Keep k s) (a0 : Nat) : Keep k (keepStart s a0) := by
  unfold keepStart
  repeat' first | with_reducible assumption | with_reducible apply setSvState_keeps | with_reducible apply svStarted_keeps | intro _ _ _ | split | dsimp -zeta only | simp only [mk_keeps]

theorem ladleStart_keeps {k : Key} {s : State} (h : Keep k s)  : Keep k (ladleStart s) := by
  unfold ladleStart
  repeat' first | (intro v; first | (refine (fun (_ : Keep k v) => ?_) ?_; rotate_left; simp only [v]; rotate_left; clear_value v) | (have hv : v = v := rfl; simp only [v] at hv; clear hv)) | with_reducible assumption | with_reducible apply setF_keeps | with_reducible apply setFlag_keeps | with_reducible apply setBitF_keeps | with_reducible apply forEach_keeps | with_reducible apply forEach_keeps | lift_lets -underBinder | intro _ _ _ | split | dsimp -zeta only | simp only [mk_keeps]

theorem domainStart_keeps {k : Key} {s : State} (h : Keep k s) (a0 : Nat) (a1 : FactRec) : Keep k (domainStart s a0 a1) := by
  unfold domainStart
  repeat' first | with_reducible assumption | with_reducible apply setFlag_keeps | with_reducible apply tlphyStart_keeps | with_reducible apply startScan_keeps | with_reducible apply wdPower_keeps | with_reducible apply ppathStart_keeps | with_reducible apply legsStart_keeps | with_reducible apply bankStart_keeps | with_reducible apply keepStart_keeps | with_reducible apply ladleStart_keeps | intro _ _ _ | split | dsimp -zeta only | simp only [mk_keeps]

theorem domainOn_keeps {k : Key} {s : State} (h : Keep k s) (a0 : Nat) (a1 : FactRec) : Keep k (domainOn s a0 a1) := by
  unfold domainOn
  repeat' first | (intro v; first | (refine (fun (_ : Keep k v) => ?_) ?_; rotate_left; simp only [v]; rotate_left; clear_value v) | (have hv : v = v := rfl; simp only [v] at hv; clear hv)) | with_reducible assumption | with_reducible apply fault_keeps | with_reducible apply updConditions_keeps | with_reducible apply wakeMarker_keeps | with_reducible apply updCk_keeps | with_reducible apply applyHeld_keeps | with_reducible apply domainStart_keeps | lift_lets -underBinder | intro _ _ _ | split | dsimp -zeta only | simp only [mk_keeps]

theorem execDomainSwitchOn_keeps {k : Key} {s : State} (h : Keep k s) (a0 : Nat) (a1 : FactRec) : KeepO k (execDomainSwitchOn a0 a1 s) := by
  unfold execDomainSwitchOn
  repeat' first | (intro v; first | (refine (fun (_ : Keep k v) => ?_) ?_; rotate_left; simp only [v]; rotate_left; clear_value v) | (have hv : v = v := rfl; simp only [v] at hv; clear hv)) | with_reducible assumption | with_reducible apply advance_keeps | with_reducible apply domainOn_keeps | with_reducible apply next_keeps | lift_lets -underBinder | intro _ _ _ | split | dsimp -zeta only | simp only [mk_keeps]

theorem startTime_keeps {k : Key} {s : State} (h : Keep k s)  : Keep k (startTime s) := by
  unfold startTime
  repeat' first | (intro v; first | (refine (fun (_ : Keep k v) => ?_) ?_; rotate_left; simp only [v]; rotate_left; clear_value v) | (have hv : v = v := rfl; simp only [v] at hv; clear hv)) | with_reducible assumption | with_reducible apply wr_keeps | lift_lets -underBinder | intro _ _ _ | split | dsimp -zeta only | simp only [mk_keeps]

theorem stepBbox_keeps {k : Key} {s : State} (h : Keep k s)  : Keep k (stepBbox s) := by
  unfold stepBbox
  repeat' first | (intro v; first | (refine (fun (_ : Keep k v) => ?_) ?_; rotate_left; simp only [v]; rotate_left; clear_value v) | (have hv : v = v := rfl; simp only [v] at hv; clear hv)) | with_reducible assumption | with_reducible apply logOther_keeps | with_reducible apply restoreCounts_keeps | with_reducible apply startTime_keeps | lift_lets -underBinder | intro _ _ _ | split | dsimp -zeta only | simp only [mk_keeps]

theorem loaderFailed_keeps {k : Key} {s : State} (h : Keep k s)  : Keep k (loaderFailed s) := by
  unfold loaderFailed
  repeat' first | (intro v; first | (refine (fun (_ : Keep k v) => ?_) ?_; rotate_left; simp only [v]; rotate_left; clear_value v) | (have hv : v = v := rfl; simp only [v] at hv; clear hv)) | with_reducible assumption | with_reducible apply disarm_keeps | with_reducible apply setCause_keeps | with_reducible apply switchOffAll_keeps | lift_lets -underBinder | intro _ _ _ | split | dsimp -zeta only | simp only [mk_keeps]

theorem stepLast_keeps {k : Key} {s : State} (h : Keep k s)  : Keep k (stepLast s) := by
  unfold stepLast
  repeat' first | (intro v; first | (refine (fun (_ : Keep k v) => ?_) ?_; rotate_left; simp only [v]; rotate_left; clear_value v) | (have hv : v = v := rfl; simp only [v] at hv; clear hv)) | with_reducible assumption | with_reducible apply forEach_keeps | with_reducible apply modEst_keeps | with_reducible apply updConditions_keeps | with_reducible apply execHostIfReady_keeps | with_reducible apply nextOr_keeps | with_reducible apply forEach_keeps | lift_lets -underBinder | intro _ _ _ | split | dsimp -zeta only | simp only [mk_keeps]

theorem finishStep_keeps {k : Key} {s : State} (h : Keep k s) (a0 : Nat) : Keep k (finishStep s a0) := by
  unfold finishStep
  repeat' first | (intro v; first | (refine (fun (_ : Keep k v) => ?_) ?_; rotate_left; simp only [v]; rotate_left; clear_value v) | (have hv : v = v := rfl; simp only [v] at hv; clear hv)) | with_reducible assumption | with_reducible apply forEach_keeps | with_reducible apply linkTrained_keeps | with_reducible apply updCk_keeps | with_reducible apply applyHeld_keeps | with_reducible apply settingsStep_keeps | with_reducible apply beginStep_keeps | with_reducible apply stepBbox_keeps | with_reducible apply stepLast_keeps | with_reducible apply forEach_keeps | lift_lets -underBinder | intro _ _ _ | split | dsimp -zeta only | simp only [mk_keeps]

theorem execStartupStep_keeps {k : Key} {s : State} (h : Keep k s) (a0 : Option Nat) (a1 : List Word) (a2 : List Word) : KeepO k (execStartupStep a0 a1 a2 s) := by
  unfold execStartupStep
  repeat' first | (intro v; first | (refine (fun (_ : Keep k v) => ?_) ?_; rotate_left; simp only [v]; rotate_left; clear_value v) | (have hv : v = v := rfl; simp only [v] at hv; clear hv)) | with_reducible assumption | with_reducible apply svChecked_keeps | with_reducible refine bootImage_keeps ?_ ‹_› | with_reducible apply bootImage_keeps_snd | with_reducible apply loaderFailed_keeps | with_reducible apply finishStep_keeps | with_reducible apply next_keeps | lift_lets -underBinder | intro _ _ _ | split | dsimp -zeta only | simp only [mk_keeps]

theorem startCause_keeps {k : Key} {s : State} (h : Keep k s) (a0 : Nat) (a1 : Bool) : Keep k (startCause s a0 a1) := by
  unfold startCause
  repeat' first | with_reducible assumption | with_reducible apply setF_keeps | with_reducible apply setFlag_keeps | intro _ _ _ | split | dsimp -zeta only | simp only [mk_keeps]

theorem startFrom_keeps {k : Key} {s : State} (h : Keep k s) (a0 : Bool) (a1 : Nat) : Keep k (startFrom s a0 a1) := by
  unfold startFrom
  repeat' first | with_reducible assumption | with_reducible apply beginStep_keeps | intro _ _ _ | split | dsimp -zeta only | simp only [mk_keeps]

theorem execAonPowerUp_keeps {k : Key} {s : State} (h : Keep k s) (a0 : Bool) (a1 : Nat) : KeepO k (execAonPowerUp a0 a1 s) := by
  unfold execAonPowerUp
  repeat' first | (intro v; first | (refine (fun (_ : Keep k v) => ?_) ?_; rotate_left; simp only [v]; rotate_left; clear_value v) | (have hv : v = v := rfl; simp only [v] at hv; clear hv)) | with_reducible assumption | with_reducible apply startCause_keeps | with_reducible apply startFrom_keeps | with_reducible apply next_keeps | lift_lets -underBinder | intro _ _ _ | split | dsimp -zeta only | simp only [mk_keeps]

theorem moduleReset_keeps {k : Key} {s : State} (h : Keep k s) (a0 : Nat) : Keep k (moduleReset s a0) := by
  unfold moduleReset
  repeat' first | (intro v; first | (refine (fun (_ : Keep k v) => ?_) ?_; rotate_left; simp only [v]; rotate_left; clear_value v) | (have hv : v = v := rfl; simp only [v] at hv; clear hv)) | with_reducible assumption | with_reducible apply incSat_keeps | with_reducible apply switchOffAll_keeps | with_reducible apply startCause_keeps | with_reducible apply startFrom_keeps | lift_lets -underBinder | intro _ _ _ | split | dsimp -zeta only | simp only [mk_keeps]

theorem execModuleReset_keeps {k : Key} {s : State} (h : Keep k s)  : KeepO k (execModuleReset s) := by
  unfold execModuleReset
  repeat' first | with_reducible assumption | with_reducible apply advance_keeps | with_reducible apply moduleReset_keeps | with_reducible apply next_keeps | intro _ _ _ | split | dsimp -zeta only | simp only [mk_keeps]

theorem execTestConnectorReset_keeps {k : Key} {s : State} (h : Keep k s)  : KeepO k (execTestConnectorReset s) := by
  unfold execTestConnectorReset
  repeat' first | with_reducible assumption | with_reducible apply moduleReset_keeps | with_reducible apply next_keeps | intro _ _ _ | split | dsimp -zeta only | simp only [mk_keeps]

theorem portsReview_keeps {k : Key} {s : State} (h : Keep k s)  : Keep k (portsReview s) := by
  unfold portsReview
  repeat' first | (intro v; first | (refine (fun (_ : Keep k v) => ?_) ?_; rotate_left; simp only [v]; rotate_left; clear_value v) | (have hv : v = v := rfl; simp only [v] at hv; clear hv)) | with_reducible assumption | with_reducible apply forEach_keeps | with_reducible apply modTl_keeps | with_reducible apply updLesIn_keeps | with_reducible apply lesReview_keeps | with_reducible apply unattached_keeps | with_reducible apply forEach_keeps | lift_lets -underBinder | intro _ _ _ | split | dsimp -zeta only | simp only [mk_keeps]

theorem supplyChanged_keeps {k : Key} {s : State} (h : Keep k s)  : Keep k (supplyChanged s) := by
  unfold supplyChanged
  repeat' first | (intro v; first | (refine (fun (_ : Keep k v) => ?_) ?_; rotate_left; simp only [v]; rotate_left; clear_value v) | (have hv : v = v := rfl; simp only [v] at hv; clear hv)) | with_reducible assumption | with_reducible apply setF_keeps | with_reducible apply offer_keeps | with_reducible apply raisePP_keeps | with_reducible apply updCk_keeps | with_reducible apply portsReview_keeps | lift_lets -underBinder | intro _ _ _ | split | dsimp -zeta only | simp only [mk_keeps]

theorem execAux12Invalid_keeps {k : Key} {s : State} (h : Keep k s)  : KeepO k (execAux12Invalid s) := by
  unfold execAux12Invalid
  repeat' first | (intro v; first | (refine (fun (_ : Keep k v) => ?_) ?_; rotate_left; simp only [v]; rotate_left; clear_value v) | (have hv : v = v := rfl; simp only [v] at hv; clear hv)) | with_reducible assumption | with_reducible apply updGates_keeps | with_reducible apply updCapability_keeps | with_reducible apply deactivate_keeps | with_reducible apply switchOffAll_keeps | with_reducible apply supplyChanged_keeps | with_reducible apply next_keeps | lift_lets -underBinder | intro _ _ _ | split | dsimp -zeta only | simp only [mk_keeps]

theorem execAux12Valid_keeps {k : Key} {s : State} (h : Keep k s)  : KeepO k (execAux12Valid s) := by
  unfold execAux12Valid
  repeat' first | (intro v; first | (refine (fun (_ : Keep k v) => ?_) ?_; rotate_left; simp only [v]; rotate_left; clear_value v) | (have hv : v = v := rfl; simp only [v] at hv; clear hv)) | with_reducible assumption | with_reducible apply chooseActive_keeps | with_reducible apply beginStep_keeps | with_reducible apply startCause_keeps | with_reducible apply startFrom_keeps | with_reducible apply supplyChanged_keeps | with_reducible apply next_keeps | lift_lets -underBinder | intro _ _ _ | split | dsimp -zeta only | simp only [mk_keeps]

theorem execBootValid_keeps {k : Key} {s : State} (h : Keep k s)  : KeepO k (execBootValid s) := by
  unfold execBootValid
  repeat' first | (intro v; first | (refine (fun (_ : Keep k v) => ?_) ?_; rotate_left; simp only [v]; rotate_left; clear_value v) | (have hv : v = v := rfl; simp only [v] at hv; clear hv)) | with_reducible assumption | with_reducible apply startCause_keeps | with_reducible apply startFrom_keeps | with_reducible apply next_keeps | lift_lets -underBinder | intro _ _ _ | split | dsimp -zeta only | simp only [mk_keeps]

theorem execSupplyFailure_keeps {k : Key} {s : State} (h : Keep k s)  : KeepO k (execSupplyFailure s) := by
  unfold execSupplyFailure
  repeat' first | (intro v; first | (refine (fun (_ : Keep k v) => ?_) ?_; rotate_left; simp only [v]; rotate_left; clear_value v) | (have hv : v = v := rfl; simp only [v] at hv; clear hv)) | with_reducible assumption | with_reducible apply offer_keeps | with_reducible apply updGates_keeps | with_reducible apply updLogq_keeps | with_reducible apply switchOffAll_keeps | with_reducible apply next_keeps | lift_lets -underBinder | intro _ _ _ | split | dsimp -zeta only | simp only [mk_keeps]

theorem execSupplyFailRestart_keeps {k : Key} {s : State} (h : Keep k s) (a0 : Bool) : KeepO k (execSupplyFailRestart a0 s) := by
  unfold execSupplyFailRestart
  repeat' first | (intro v; first | (refine (fun (_ : Keep k v) => ?_) ?_; rotate_left; simp only [v]; rotate_left; clear_value v) | (have hv : v = v := rfl; simp only [v] at hv; clear hv)) | with_reducible assumption | with_reducible apply incSat_keeps | with_reducible apply startCause_keeps | with_reducible apply startFrom_keeps | with_reducible apply next_keeps | lift_lets -underBinder | intro _ _ _ | split | dsimp -zeta only | simp only [mk_keeps]

theorem execHoldupCharged_keeps {k : Key} {s : State} (h : Keep k s)  : KeepO k (execHoldupCharged s) := by
  unfold execHoldupCharged
  repeat' first | with_reducible assumption | with_reducible apply updCk_keeps | with_reducible apply next_keeps | intro _ _ _ | split | dsimp -zeta only | simp only [mk_keeps]

theorem lastingPart_keeps {k : Key} {s : State} (h : Keep k s) : Keep k (lastingPart s) := ⟨h.1, h.2.1, h.2.2.1, rfl⟩

theorem execAonPowerOnReset_keeps {k : Key} {s : State} (h : Keep k s)  : KeepO k (execAonPowerOnReset s) := by
  unfold execAonPowerOnReset
  repeat' first | with_reducible assumption | with_reducible apply lastingPart_keeps | with_reducible apply next_keeps | intro _ _ _ | split | dsimp -zeta only | simp only [mk_keeps]

theorem drainBusy_keeps {k : Key} {s : State} (h : Keep k s)  : Keep k (drainBusy s) := by
  unfold drainBusy
  repeat' first | with_reducible assumption | with_reducible apply forEach_keeps | with_reducible apply endSt_keeps | with_reducible apply forEach_keeps | intro _ _ _ | split | dsimp -zeta only | simp only [mk_keeps]

theorem execTransport_keeps {k : Key} {s : State} (h : Keep k s) (a0 : Nat) (a1 : Nat) : KeepO k (execTransport a0 a1 s) := by
  unfold execTransport
  repeat' first | (intro v; first | (refine (fun (_ : Keep k v) => ?_) ?_; rotate_left; simp only [v]; rotate_left; clear_value v) | (have hv : v = v := rfl; simp only [v] at hv; clear hv)) | with_reducible assumption | with_reducible apply endSt_keeps | with_reducible apply runTag_keeps | with_reducible apply applyCmd_keeps | with_reducible apply drainBusy_keeps | with_reducible apply next_keeps | lift_lets -underBinder | intro _ _ _ | split | dsimp -zeta only | simp only [mk_keeps]

theorem flushTag_keeps {k : Key} {s : State} (h : Keep k s) (a0 : Nat) : Keep k (flushTag s a0) := by
  unfold flushTag
  repeat' first | with_reducible assumption | with_reducible apply forEach_keeps | with_reducible apply execCompletionWrite_keeps | with_reducible apply nextOr_keeps | with_reducible apply forEach_keeps | intro _ _ _ | split | dsimp -zeta only | simp only [mk_keeps]

theorem shutdown_keeps {k : Key} {s : State} (h : Keep k s) : Keep k (shutdown s) := by
  unfold shutdown
  extract_lets s1 p s2 s3 s4
  have h1 : Keep k s1 := by
    simp only [s1]
    split
    · exact flushTag_keeps (endSt_keeps h _ _) _
    · exact h
  have h2 : Keep k s2 := updGates_keeps (mk_keeps.mpr h1)
  clear_value s2
  have h3 : Keep k s3 := by
    simp only [s3]
    split
    · exact forEach_keeps (fun _ _ ht => lesOff_keeps (contractDefault_keeps ht _) _) h2
    · exact h2
  clear_value s3
  exact switchOffAll_keeps (writeNow_keeps (writeNow_keeps h3 _ _) _ _) _ _

theorem execTransportDrainDone_keeps {k : Key} {s : State} (h : Keep k s)  : KeepO k (execTransportDrainDone s) := by
  unfold execTransportDrainDone
  repeat' first | with_reducible assumption | with_reducible apply shutdown_keeps | with_reducible apply next_keeps | intro _ _ _ | split | dsimp -zeta only | simp only [mk_keeps]

theorem execTransportDrainTimeout_keeps {k : Key} {s : State} (h : Keep k s)  : KeepO k (execTransportDrainTimeout s) := by
  unfold execTransportDrainTimeout
  repeat' first | (intro v; first | (refine (fun (_ : Keep k v) => ?_) ?_; rotate_left; simp only [v]; rotate_left; clear_value v) | (have hv : v = v := rfl; simp only [v] at hv; clear hv)) | with_reducible assumption | with_reducible apply forEach_keeps | with_reducible apply advance_keeps | with_reducible apply holdChan_keeps | with_reducible apply shutdown_keeps | with_reducible apply forEach_keeps | with_reducible apply next_keeps | lift_lets -underBinder | intro _ _ _ | split | dsimp -zeta only | simp only [mk_keeps]

theorem execTransportAbort_keeps {k : Key} {s : State} (h : Keep k s)  : KeepO k (execTransportAbort s) := by
  unfold execTransportAbort
  repeat' first | (intro v; first | (refine (fun (_ : Keep k v) => ?_) ?_; rotate_left; simp only [v]; rotate_left; clear_value v) | (have hv : v = v := rfl; simp only [v] at hv; clear hv)) | with_reducible assumption | with_reducible apply raisePP_keeps | with_reducible apply endSt_keeps | with_reducible apply next_keeps | lift_lets -underBinder | intro _ _ _ | split | dsimp -zeta only | simp only [mk_keeps]

theorem execTransportEnter_keeps {k : Key} {s : State} (h : Keep k s)  : KeepO k (execTransportEnter s) := by
  unfold execTransportEnter
  repeat' first | (intro v; first | (refine (fun (_ : Keep k v) => ?_) ?_; rotate_left; simp only [v]; rotate_left; clear_value v) | (have hv : v = v := rfl; simp only [v] at hv; clear hv)) | with_reducible assumption | with_reducible apply updGates_keeps | with_reducible apply failed_keeps | with_reducible apply setTimeSrc_keeps | with_reducible apply shutdown_keeps | with_reducible apply next_keeps | lift_lets -underBinder | intro _ _ _ | split | dsimp -zeta only | simp only [mk_keeps]

theorem execTransportWakeDetect_keeps {k : Key} {s : State} (h : Keep k s) (a0 : Nat) (a1 : Bool) : KeepO k (execTransportWakeDetect a0 a1 s) := by
  unfold execTransportWakeDetect
  repeat' first | with_reducible assumption | with_reducible apply next_keeps | intro _ _ _ | split | dsimp -zeta only | simp only [mk_keeps]

theorem execTransportWakeLapse_keeps {k : Key} {s : State} (h : Keep k s)  : KeepO k (execTransportWakeLapse s) := by
  unfold execTransportWakeLapse
  repeat' first | with_reducible assumption | with_reducible apply next_keeps | intro _ _ _ | split | dsimp -zeta only | simp only [mk_keeps]

theorem execTransportWake_keeps {k : Key} {s : State} (h : Keep k s)  : KeepO k (execTransportWake s) := by
  unfold execTransportWake
  repeat' first | (intro v; first | (refine (fun (_ : Keep k v) => ?_) ?_; rotate_left; simp only [v]; rotate_left; clear_value v) | (have hv : v = v := rfl; simp only [v] at hv; clear hv)) | with_reducible assumption | with_reducible apply setF_keeps | with_reducible apply setFlag_keeps | with_reducible apply advance_keeps | with_reducible apply offer_keeps | with_reducible apply updGates_keeps | with_reducible apply startCause_keeps | with_reducible apply startFrom_keeps | with_reducible apply next_keeps | lift_lets -underBinder | intro _ _ _ | split | dsimp -zeta only | simp only [mk_keeps]

theorem execWakeSupplyTimeout_keeps {k : Key} {s : State} (h : Keep k s)  : KeepO k (execWakeSupplyTimeout s) := by
  unfold execWakeSupplyTimeout
  repeat' first | (intro v; first | (refine (fun (_ : Keep k v) => ?_) ?_; rotate_left; simp only [v]; rotate_left; clear_value v) | (have hv : v = v := rfl; simp only [v] at hv; clear hv)) | with_reducible assumption | with_reducible apply setF_keeps | with_reducible apply advance_keeps | with_reducible apply updGates_keeps | with_reducible apply failed_keeps | with_reducible apply next_keeps | lift_lets -underBinder | intro _ _ _ | split | dsimp -zeta only | simp only [mk_keeps]

end Sys2Proof.Machine
end

