-- ==== Sys2Proof/Laws/KeepMgmtPort.lean ====
section
/-! SUPPORT. The operations of MgmtPort.lean keep the part, the fuses, the queue and a canonical word store. -/

namespace Sys2Proof.Machine

set_option linter.all false

theorem setMp_keeps {k : Key} {s : State} (h : Keep k s) (a0 : Port → Port) : Keep k (setMp s a0) := by
  unfold setMp
  repeat' first | with_reducible assumption | intro _ _ _ | split | dsimp -zeta only | simp only [mk_keeps]

theorem portErr_keeps {k : Key} {s : State} (h : Keep k s) (a0 : Nat) : Keep k (portErr s a0) := by
  unfold portErr
  repeat' first | with_reducible assumption | with_reducible apply setMp_keeps | intro _ _ _ | split | dsimp -zeta only | simp only [mk_keeps]

theorem portCount_keeps {k : Key} {s : State} (h : Keep k s) (a0 : Fld) : Keep k (portCount s a0) := by
  unfold portCount
  repeat' first | with_reducible assumption | with_reducible apply incSat_keeps | intro _ _ _ | split | dsimp -zeta only | simp only [mk_keeps]

theorem dropGroups_keeps {k : Key} {s : State} (h : Keep k s)  : Keep k (dropGroups s) := by
  unfold dropGroups
  repeat' first | with_reducible assumption | with_reducible apply setMp_keeps | with_reducible apply portErr_keeps | with_reducible apply portCount_keeps | intro _ _ _ | split | dsimp -zeta only | simp only [mk_keeps]

theorem execI2cAddress_keeps {k : Key} {s : State} (h : Keep k s) (a0 : Nat) (a1 : Bool) : KeepO k (execI2cAddress a0 a1 s) := by
  unfold execI2cAddress
  repeat' first | (intro v; first | (refine (fun (_ : Keep k v) => ?_) ?_; rotate_left; simp only [v]; rotate_left; clear_value v) | (have hv : v = v := rfl; simp only [v] at hv; clear hv)) | with_reducible assumption | with_reducible apply emit_keeps | with_reducible apply failed_keeps | with_reducible apply setMp_keeps | with_reducible apply next_keeps | lift_lets -underBinder | intro _ _ _ | split | dsimp -zeta only | simp only [mk_keeps]

theorem writeByte_keeps {k : Key} {s : State} (h : Keep k s) (a0 : Nat) (a1 : Byte) : Keep k (writeByte s a0 a1) := by
  unfold writeByte
  repeat' first | with_reducible assumption | with_reducible apply setMp_keeps | intro _ _ _ | split | dsimp -zeta only | simp only [mk_keeps]

theorem portLeaves_keeps {k : Key} {s : State} (h : Keep k s)  : Keep k (portLeaves s) := by
  unfold portLeaves
  repeat' first | with_reducible assumption | with_reducible apply emit_keeps | with_reducible apply failed_keeps | with_reducible apply setMp_keeps | intro _ _ _ | split | dsimp -zeta only | simp only [mk_keeps]

theorem execI2cByteWrite_keeps {k : Key} {s : State} (h : Keep k s) (a0 : Byte) : KeepO k (execI2cByteWrite a0 s) := by
  unfold execI2cByteWrite
  repeat' first | (intro v; first | (refine (fun (_ : Keep k v) => ?_) ?_; rotate_left; simp only [v]; rotate_left; clear_value v) | (have hv : v = v := rfl; simp only [v] at hv; clear hv)) | with_reducible assumption | with_reducible apply emit_keeps | with_reducible apply setMp_keeps | with_reducible apply writeByte_keeps | with_reducible apply portLeaves_keeps | with_reducible apply next_keeps | lift_lets -underBinder | intro _ _ _ | split | dsimp -zeta only | simp only [mk_keeps]

theorem fetchPaged_keeps {k : Key} {s : State} (h : Keep k s) (a0 : Nat) : Keep k (fetchPaged s a0) := by
  unfold fetchPaged
  repeat' first | (intro v; first | (refine (fun (_ : Keep k v) => ?_) ?_; rotate_left; simp only [v]; rotate_left; clear_value v) | (have hv : v = v := rfl; simp only [v] at hv; clear hv)) | with_reducible assumption | with_reducible apply xfer_keeps | with_reducible apply execCkTimeRead_keeps | with_reducible apply nextOr_keeps | with_reducible apply setMp_keeps | with_reducible apply portErr_keeps | lift_lets -underBinder | intro _ _ _ | split | dsimp -zeta only | simp only [mk_keeps]

theorem byteSent_keeps {k : Key} {s : State} (h : Keep k s) (a0 : Bool) : Keep k (byteSent s a0) := by
  unfold byteSent
  repeat' first | with_reducible assumption | with_reducible apply setMp_keeps | intro _ _ _ | split | dsimp -zeta only | simp only [mk_keeps]

theorem execI2cByteRead_keeps {k : Key} {s : State} (h : Keep k s) (a0 : Bool) : KeepO k (execI2cByteRead a0 s) := by
  unfold execI2cByteRead
  repeat' first | (intro v; first | (refine (fun (_ : Keep k v) => ?_) ?_; rotate_left; simp only [v]; rotate_left; clear_value v) | (have hv : v = v := rfl; simp only [v] at hv; clear hv)) | with_reducible assumption | with_reducible apply emit_keeps | with_reducible apply portLeaves_keeps | with_reducible apply fetchPaged_keeps | with_reducible apply byteSent_keeps | with_reducible apply next_keeps | lift_lets -underBinder | intro _ _ _ | split | dsimp -zeta only | simp only [mk_keeps]

theorem commitGroup_keeps {k : Key} {s : State} (h : Keep k s) (a0 : Nat) (a1 : Word) : Keep k (commitGroup s a0 a1) := by
  unfold commitGroup
  repeat' first | (intro v; first | (refine (fun (_ : Keep k v) => ?_) ?_; rotate_left; simp only [v]; rotate_left; clear_value v) | (have hv : v = v := rfl; simp only [v] at hv; clear hv)) | with_reducible assumption | with_reducible apply xfer_keeps | with_reducible apply regWrite_keeps | with_reducible apply setMp_keeps | with_reducible apply portErr_keeps | lift_lets -underBinder | intro _ _ _ | split | dsimp -zeta only | simp only [mk_keeps]

theorem endTransaction_keeps {k : Key} {s : State} (h : Keep k s)  : Keep k (endTransaction s) := by
  unfold endTransaction
  repeat' first | (intro v; first | (refine (fun (_ : Keep k v) => ?_) ?_; rotate_left; simp only [v]; rotate_left; clear_value v) | (have hv : v = v := rfl; simp only [v] at hv; clear hv)) | with_reducible assumption | with_reducible apply forEach_keeps | with_reducible apply failed_keeps | with_reducible apply setMp_keeps | with_reducible apply portErr_keeps | with_reducible apply portCount_keeps | with_reducible apply commitGroup_keeps | with_reducible apply forEach_keeps | lift_lets -underBinder | intro _ _ _ | split | dsimp -zeta only | simp only [mk_keeps]

theorem settlePort_keeps {k : Key} {s : State} (h : Keep k s)  : Keep k (settlePort s) := by
  unfold settlePort
  repeat' first | with_reducible assumption | with_reducible apply setMp_keeps | intro _ _ _ | split | dsimp -zeta only | simp only [mk_keeps]

theorem leaveRecovery_keeps {k : Key} {s : State} (h : Keep k s)  : Keep k (leaveRecovery s) := by
  unfold leaveRecovery
  repeat' first | with_reducible assumption | with_reducible apply settlePort_keeps | intro _ _ _ | split | dsimp -zeta only | simp only [mk_keeps]

theorem execI2cStop_keeps {k : Key} {s : State} (h : Keep k s)  : KeepO k (execI2cStop s) := by
  unfold execI2cStop
  repeat' first | with_reducible assumption | with_reducible apply endTransaction_keeps | with_reducible apply leaveRecovery_keeps | with_reducible apply next_keeps | intro _ _ _ | split | dsimp -zeta only | simp only [mk_keeps]

theorem execI2cRepeatedStart_keeps {k : Key} {s : State} (h : Keep k s)  : KeepO k (execI2cRepeatedStart s) := by
  unfold execI2cRepeatedStart
  repeat' first | with_reducible assumption | with_reducible apply failed_keeps | with_reducible apply setMp_keeps | with_reducible apply next_keeps | intro _ _ _ | split | dsimp -zeta only | simp only [mk_keeps]

theorem execI2cFrameError_keeps {k : Key} {s : State} (h : Keep k s) (a0 : Bool) : KeepO k (execI2cFrameError a0 s) := by
  unfold execI2cFrameError
  repeat' first | (intro v; first | (refine (fun (_ : Keep k v) => ?_) ?_; rotate_left; simp only [v]; rotate_left; clear_value v) | (have hv : v = v := rfl; simp only [v] at hv; clear hv)) | with_reducible assumption | with_reducible apply failed_keeps | with_reducible apply setMp_keeps | with_reducible apply portErr_keeps | with_reducible apply portCount_keeps | with_reducible apply dropGroups_keeps | with_reducible apply leaveRecovery_keeps | with_reducible apply next_keeps | lift_lets -underBinder | intro _ _ _ | split | dsimp -zeta only | simp only [mk_keeps]

theorem execI2cStretchTimeout_keeps {k : Key} {s : State} (h : Keep k s)  : KeepO k (execI2cStretchTimeout s) := by
  unfold execI2cStretchTimeout
  repeat' first | with_reducible assumption | with_reducible apply failed_keeps | with_reducible apply setMp_keeps | with_reducible apply portErr_keeps | with_reducible apply portCount_keeps | with_reducible apply next_keeps | intro _ _ _ | split | dsimp -zeta only | simp only [mk_keeps]

theorem execI2cBusClear_keeps {k : Key} {s : State} (h : Keep k s)  : KeepO k (execI2cBusClear s) := by
  unfold execI2cBusClear
  repeat' first | (intro v; first | (refine (fun (_ : Keep k v) => ?_) ?_; rotate_left; simp only [v]; rotate_left; clear_value v) | (have hv : v = v := rfl; simp only [v] at hv; clear hv)) | with_reducible assumption | with_reducible apply failed_keeps | with_reducible apply setMp_keeps | with_reducible apply portErr_keeps | with_reducible apply portCount_keeps | with_reducible apply dropGroups_keeps | with_reducible apply next_keeps | lift_lets -underBinder | intro _ _ _ | split | dsimp -zeta only | simp only [mk_keeps]

theorem execI2cRecoveryEnd_keeps {k : Key} {s : State} (h : Keep k s)  : KeepO k (execI2cRecoveryEnd s) := by
  unfold execI2cRecoveryEnd
  repeat' first | with_reducible assumption | with_reducible apply leaveRecovery_keeps | with_reducible apply next_keeps | intro _ _ _ | split | dsimp -zeta only | simp only [mk_keeps]

theorem execMpPortReady_keeps {k : Key} {s : State} (h : Keep k s)  : KeepO k (execMpPortReady s) := by
  unfold execMpPortReady
  repeat' first | with_reducible assumption | with_reducible apply setMp_keeps | with_reducible apply next_keeps | intro _ _ _ | split | dsimp -zeta only | simp only [mk_keeps]

theorem execBoundaryAccessStart_keeps {k : Key} {s : State} (h : Keep k s) : KeepO k (execBoundaryAccessStart s) := by
  unfold execBoundaryAccessStart
  apply next_keeps
  extract_lets p s1
  have h1 : Keep k s1 := mk_keeps.mpr h
  split
  · exact setMp_keeps h1 _
  · exact h1

theorem execBoundaryAccessEnd_keeps {k : Key} {s : State} (h : Keep k s) : KeepO k (execBoundaryAccessEnd s) := by
  unfold execBoundaryAccessEnd
  apply next_keeps
  extract_lets p s1
  have h1 : Keep k s1 := mk_keeps.mpr h
  split
  · exact settlePort_keeps h1
  · exact h1

end Sys2Proof.Machine
end

