-- ==== Sys2Proof/Laws/KeepTelemetry.lean ====
section
/-! SUPPORT. The operations of Telemetry.lean keep the part, the fuses, the queue and a canonical word store. -/

namespace Sys2Proof.Machine

set_option linter.all false

theorem execTelemetry_keeps {k : Key} {s : State} (h : Keep k s) (a0 : Nat) : KeepO k (execTelemetry a0 s) := by
  unfold execTelemetry
  repeat' first | with_reducible assumption | with_reducible apply forEach_keeps | with_reducible apply endTag_keeps | with_reducible apply pendTag_keeps | with_reducible apply applyCmd_keeps | with_reducible apply setTele_keeps | with_reducible apply forEach_keeps | with_reducible apply next_keeps | intro _ _ _ | split | dsimp -zeta only | simp only [mk_keeps]

theorem telChanSig_keeps {k : Key} {s : State} (h : Keep k s) (a0 : Nat) (a1 : Nat) (a2 : Nat) : Keep k (telChanSig s a0 a1 a2) := by
  unfold telChanSig
  repeat' first | (intro v; first | (refine (fun (_ : Keep k v) => ?_) ?_; rotate_left; simp only [v]; rotate_left; clear_value v) | (have hv : v = v := rfl; simp only [v] at hv; clear hv)) | with_reducible assumption | with_reducible apply setTele_keeps | lift_lets -underBinder | intro _ _ _ | split | dsimp -zeta only | simp only [mk_keeps]

theorem telJoin_keeps {k : Key} {s : State} (h : Keep k s) (a0 : Nat) (a1 : Nat) : Keep k (telJoin s a0 a1) := by
  unfold telJoin
  repeat' first | (intro v; first | (refine (fun (_ : Keep k v) => ?_) ?_; rotate_left; simp only [v]; rotate_left; clear_value v) | (have hv : v = v := rfl; simp only [v] at hv; clear hv)) | with_reducible assumption | with_reducible apply setTele_keeps | lift_lets -underBinder | intro _ _ _ | split | dsimp -zeta only | simp only [mk_keeps]

theorem telBegin_keeps {k : Key} {s : State} (h : Keep k s) (a0 : Nat) : Keep k (telBegin s a0) := by
  unfold telBegin
  repeat' first | (intro v; first | (refine (fun (_ : Keep k v) => ?_) ?_; rotate_left; simp only [v]; rotate_left; clear_value v) | (have hv : v = v := rfl; simp only [v] at hv; clear hv)) | with_reducible assumption | with_reducible apply forEach_keeps | with_reducible apply setTele_keeps | with_reducible apply telJoin_keeps | with_reducible apply forEach_keeps | lift_lets -underBinder | intro _ _ _ | split | dsimp -zeta only | simp only [mk_keeps]

theorem telFrame_keeps {k : Key} {s : State} (h : Keep k s) (a0 : Nat) : Keep k (telFrame s a0) := by
  unfold telFrame
  repeat' first | (intro v; first | (refine (fun (_ : Keep k v) => ?_) ?_; rotate_left; simp only [v]; rotate_left; clear_value v) | (have hv : v = v := rfl; simp only [v] at hv; clear hv)) | with_reducible assumption | with_reducible apply stage_keeps | with_reducible apply setTele_keeps | lift_lets -underBinder | intro _ _ _ | split | dsimp -zeta only | simp only [mk_keeps]

theorem execTelemetryFrame_keeps {k : Key} {s : State} (h : Keep k s) (a0 : Nat) : KeepO k (execTelemetryFrame a0 s) := by
  unfold execTelemetryFrame
  repeat' first | with_reducible assumption | with_reducible apply xfer_keeps | with_reducible apply telFrame_keeps | with_reducible apply next_keeps | intro _ _ _ | split | dsimp -zeta only | simp only [mk_keeps]

theorem telApply_keeps {k : Key} {s : State} (h : Keep k s) (a0 : Nat) (a1 : Word) (a2 : Word) (a3 : List (Word × Word × Nat)) : Keep k (telApply s a0 a1 a2 a3) := by
  unfold telApply
  repeat' first | with_reducible assumption | with_reducible apply setTele_keeps | intro _ _ _ | split | dsimp -zeta only | simp only [mk_keeps]

theorem telSnap_keeps {k : Key} {s : State} (h : Keep k s) (a0 : Nat) (a1 : Nat) : Keep k (telSnap s a0 a1) := by
  unfold telSnap
  repeat' first | (intro v; first | (refine (fun (_ : Keep k v) => ?_) ?_; rotate_left; simp only [v]; rotate_left; clear_value v) | (have hv : v = v := rfl; simp only [v] at hv; clear hv)) | with_reducible assumption | with_reducible apply forEach_keeps | with_reducible apply telStop_keeps | with_reducible apply setTele_keeps | with_reducible apply telChanSig_keeps | with_reducible apply telBegin_keeps | with_reducible apply telFrame_keeps | with_reducible apply telApply_keeps | with_reducible apply forEach_keeps | lift_lets -underBinder | intro _ _ _ | split | dsimp -zeta only | simp only [mk_keeps]

theorem telemetrySnap_keeps {k : Key} {s : State} (h : Keep k s)  : Keep k (telemetrySnap s) := by
  unfold telemetrySnap
  repeat' first | (intro v; first | (refine (fun (_ : Keep k v) => ?_) ?_; rotate_left; simp only [v]; rotate_left; clear_value v) | (have hv : v = v := rfl; simp only [v] at hv; clear hv)) | with_reducible assumption | with_reducible apply forEach_keeps | with_reducible apply endSt_keeps | with_reducible apply telSnap_keeps | with_reducible apply forEach_keeps | lift_lets -underBinder | intro _ _ _ | split | dsimp -zeta only | simp only [mk_keeps]

end Sys2Proof.Machine
end

