-- ==== Sys2Proof/Laws/KeepSnapshot.lean ====
section
/-! SUPPORT. The operations of Snapshot.lean keep the part, the fuses, the queue and a canonical word store. -/

namespace Sys2Proof.Machine

set_option linter.all false

theorem snapLeg_keeps {k : Key} {s : State} (h : Keep k s) (a0 : LegMs) : Keep k (snapLeg s a0) := by
  unfold snapLeg
  repeat' first | (intro v; first | (refine (fun (_ : Keep k v) => ?_) ?_; rotate_left; simp only [v]; rotate_left; clear_value v) | (have hv : v = v := rfl; simp only [v] at hv; clear hv)) | with_reducible assumption | with_reducible apply convLeg_keeps | with_reducible apply mirrorLeg_keeps | with_reducible apply addEnergy_keeps | lift_lets -underBinder | intro _ _ _ | split | dsimp -zeta only | simp only [mk_keeps]

theorem snapChan_keeps {k : Key} {s : State} (h : Keep k s) (a0 : ChanMs) (a1 : Bool) : Keep k (snapChan s a0 a1) := by
  unfold snapChan
  repeat' first | (intro v; first | (refine (fun (_ : Keep k v) => ?_) ?_; rotate_left; simp only [v]; rotate_left; clear_value v) | (have hv : v = v := rfl; simp only [v] at hv; clear hv)) | with_reducible assumption | with_reducible apply convChan_keeps | with_reducible apply mirrorChan_keeps | with_reducible apply removalStep_keeps | with_reducible apply shuntMs_keeps | with_reducible apply addEnergy_keeps | lift_lets -underBinder | intro _ _ _ | split | dsimp -zeta only | simp only [mk_keeps]

theorem snapTables_keeps {k : Key} {s : State} (h : Keep k s)  : Keep k (snapTables s) := by
  unfold snapTables
  repeat' first | (intro v; first | (refine (fun (_ : Keep k v) => ?_) ?_; rotate_left; simp only [v]; rotate_left; clear_value v) | (have hv : v = v := rfl; simp only [v] at hv; clear hv)) | with_reducible assumption | with_reducible apply forEach_keeps | with_reducible apply refreshChan_keeps | with_reducible apply refreshFlask_keeps | with_reducible apply forEach_keeps | lift_lets -underBinder | intro _ _ _ | split | dsimp -zeta only | simp only [mk_keeps]

theorem snapEst_keeps {k : Key} {s : State} (h : Keep k s)  : Keep k (snapEst s) := by
  unfold snapEst
  repeat' first | (intro v; first | (refine (fun (_ : Keep k v) => ?_) ?_; rotate_left; simp only [v]; rotate_left; clear_value v) | (have hv : v = v := rfl; simp only [v] at hv; clear hv)) | with_reducible assumption | with_reducible apply forEach_keeps | with_reducible apply endSt_keeps | with_reducible apply refreshStale_keeps | with_reducible apply takeEstParams_keeps | with_reducible apply refreshAmps_keeps | with_reducible apply swapIz_keeps | with_reducible apply startRecords_keeps | with_reducible apply forEach_keeps | lift_lets -underBinder | intro _ _ _ | split | dsimp -zeta only | simp only [mk_keeps]

theorem snapPhases_keeps {k : Key} {s : State} (h : Keep k s)  : Keep k (snapPhases s) := by
  unfold snapPhases
  repeat' first | with_reducible assumption | with_reducible apply forEach_keeps | with_reducible apply evalPhase_keeps | with_reducible apply forEach_keeps | intro _ _ _ | split | dsimp -zeta only | simp only [mk_keeps]

theorem snapBoundary_keeps {k : Key} {s : State} (h : Keep k s)  : Keep k (snapBoundary s) := by
  unfold snapBoundary
  repeat' first | (intro v; first | (refine (fun (_ : Keep k v) => ?_) ?_; rotate_left; simp only [v]; rotate_left; clear_value v) | (have hv : v = v := rfl; simp only [v] at hv; clear hv)) | with_reducible assumption | with_reducible apply forEach_keeps | with_reducible apply boundaryChan_keeps | with_reducible apply boundaryCals_keeps | with_reducible apply boundaryLeg_keeps | with_reducible apply forEach_keeps | lift_lets -underBinder | intro _ _ _ | split | dsimp -zeta only | simp only [mk_keeps]

theorem snapTl_keeps {k : Key} {s : State} (h : Keep k s) (a0 : TlMs) : Keep k (snapTl s a0) := by
  unfold snapTl
  repeat' first | (intro v; first | (refine (fun (_ : Keep k v) => ?_) ?_; rotate_left; simp only [v]; rotate_left; clear_value v) | (have hv : v = v := rfl; simp only [v] at hv; clear hv)) | with_reducible assumption | with_reducible apply setF_keeps | with_reducible apply modTl_keeps | with_reducible apply updLesIn_keeps | with_reducible apply lcwMs_keeps | lift_lets -underBinder | intro _ _ _ | split | dsimp -zeta only | simp only [mk_keeps]

theorem snapTlAge_keeps {k : Key} {s : State} (h : Keep k s) (a0 : Nat) : Keep k (snapTlAge s a0) := by
  unfold snapTlAge
  repeat' first | (intro v; first | (refine (fun (_ : Keep k v) => ?_) ?_; rotate_left; simp only [v]; rotate_left; clear_value v) | (have hv : v = v := rfl; simp only [v] at hv; clear hv)) | with_reducible assumption | with_reducible apply setF_keeps | with_reducible apply modTl_keeps | with_reducible apply updLeg_keeps | lift_lets -underBinder | intro _ _ _ | split | dsimp -zeta only | simp only [mk_keeps]

theorem snapDroopTest_keeps {k : Key} {s : State} (h : Keep k s)  : Keep k (snapDroopTest s) := by
  unfold snapDroopTest
  repeat' first | with_reducible assumption | intro _ _ _ | split | dsimp -zeta only | simp only [mk_keeps]

theorem snapPower_keeps {k : Key} {s : State} (h : Keep k s)  : Keep k (snapPower s) := by
  unfold snapPower
  repeat' first | (intro v; first | (refine (fun (_ : Keep k v) => ?_) ?_; rotate_left; simp only [v]; rotate_left; clear_value v) | (have hv : v = v := rfl; simp only [v] at hv; clear hv)) | with_reducible assumption | with_reducible apply wr_keeps | with_reducible apply updDeadBatt_keeps | with_reducible apply insMs_keeps | with_reducible apply snapDroopTest_keeps | lift_lets -underBinder | intro _ _ _ | split | dsimp -zeta only | simp only [mk_keeps]

theorem execSnapshot_keeps {k : Key} {s : State} (h : Keep k s) (a0 : SnapIn) : KeepO k (execSnapshot a0 s) := by
  unfold execSnapshot
  repeat' first | (intro v; first | (refine (fun (_ : Keep k v) => ?_) ?_; rotate_left; simp only [v]; rotate_left; clear_value v) | (have hv : v = v := rfl; simp only [v] at hv; clear hv)) | with_reducible assumption | with_reducible apply forEach_keeps | with_reducible apply eccReports_keeps | with_reducible apply xfer_keeps | with_reducible apply updConditions_keeps | with_reducible apply chanReads_keeps | with_reducible apply captureOvr_keeps | with_reducible apply energyReplies_keeps | with_reducible apply telemetrySnap_keeps | with_reducible apply snapLeg_keeps | with_reducible apply snapChan_keeps | with_reducible apply snapTables_keeps | with_reducible apply snapEst_keeps | with_reducible apply snapPhases_keeps | with_reducible apply snapBoundary_keeps | with_reducible apply snapTl_keeps | with_reducible apply snapTlAge_keeps | with_reducible apply snapPower_keeps | with_reducible apply forEach_keeps | with_reducible apply next_keeps | lift_lets -underBinder | intro _ _ _ | split | dsimp -zeta only | simp only [mk_keeps]

end Sys2Proof.Machine
end

