-- ==== Sys2Proof/Laws/Records.lean ====
section
/-! SUPPORT. What each read of Ops.lean gives of a state written out as a record. -/

namespace Sys2Proof.Machine

variable (s : State)

@[simp] theorem rd_mk {xpart : Part} {xnow : Nat} {xsnap : Nat} {xtickAt : Nat} {xfabrics : Tab Fabric} {xpw : Power} {xpp : PowerPath} {xfq : Tab FaultQueue} {xfc : Collector} {xbb : BlackBox} {xhi : HostIf} {xmp : Port} {xtrc : Trace} {xatst : Atest} {xchans : Tab Chan} {xflasks : Tab Flask} {xregs : Tab Region} {xlad : Ladle} {xtls : Tab TlPort} {xtlHost : TlHost} {xests : Tab Est} {xrecs : Tab (Option RecCopy)} {xsweeps : Sweeps} {xfuses : Fuses} {xwd : Watchdog} {xsv : Supervisors} {xfw : Firmware} {xsite : Site} {xtel : Tab Telemetry} {xcalWaits : List CalWait} {xlegs : Tab Conv} {xlegCal : Tab (List Word)} {xcalConvs : Tab CalConv} {xfree : Nat} {xout : List Out} {xpending : List Instr} (h : xpart = s.part) (a : Nat) :
    rd ({ part := xpart, now := xnow, snap := xsnap, tickAt := xtickAt, fabrics := xfabrics, words := s.words, pw := xpw, pp := xpp, fq := xfq, fc := xfc, bb := xbb, hi := xhi, mp := xmp, trc := xtrc, atst := xatst, chans := xchans, flasks := xflasks, regs := xregs, lad := xlad, tls := xtls, tlHost := xtlHost, ests := xests, recs := xrecs, sweeps := xsweeps, fuses := xfuses, wd := xwd, sv := xsv, fw := xfw, site := xsite, tel := xtel, calWaits := xcalWaits, legs := xlegs, legCal := xlegCal, calConvs := xcalConvs, free := xfree, out := xout, pending := xpending } : State) a = rd s a := by
  subst h; rfl
@[simp] theorem getF_mk {xpart : Part} {xnow : Nat} {xsnap : Nat} {xtickAt : Nat} {xfabrics : Tab Fabric} {xpw : Power} {xpp : PowerPath} {xfq : Tab FaultQueue} {xfc : Collector} {xbb : BlackBox} {xhi : HostIf} {xmp : Port} {xtrc : Trace} {xatst : Atest} {xchans : Tab Chan} {xflasks : Tab Flask} {xregs : Tab Region} {xlad : Ladle} {xtls : Tab TlPort} {xtlHost : TlHost} {xests : Tab Est} {xrecs : Tab (Option RecCopy)} {xsweeps : Sweeps} {xfuses : Fuses} {xwd : Watchdog} {xsv : Supervisors} {xfw : Firmware} {xsite : Site} {xtel : Tab Telemetry} {xcalWaits : List CalWait} {xlegs : Tab Conv} {xlegCal : Tab (List Word)} {xcalConvs : Tab CalConv} {xfree : Nat} {xout : List Out} {xpending : List Instr} (h : xpart = s.part) (g : Fld) :
    getF ({ part := xpart, now := xnow, snap := xsnap, tickAt := xtickAt, fabrics := xfabrics, words := s.words, pw := xpw, pp := xpp, fq := xfq, fc := xfc, bb := xbb, hi := xhi, mp := xmp, trc := xtrc, atst := xatst, chans := xchans, flasks := xflasks, regs := xregs, lad := xlad, tls := xtls, tlHost := xtlHost, ests := xests, recs := xrecs, sweeps := xsweeps, fuses := xfuses, wd := xwd, sv := xsv, fw := xfw, site := xsite, tel := xtel, calWaits := xcalWaits, legs := xlegs, legCal := xlegCal, calConvs := xcalConvs, free := xfree, out := xout, pending := xpending } : State) g = getF s g := by
  subst h; rfl
@[simp] theorem getI_mk {xpart : Part} {xnow : Nat} {xsnap : Nat} {xtickAt : Nat} {xfabrics : Tab Fabric} {xpw : Power} {xpp : PowerPath} {xfq : Tab FaultQueue} {xfc : Collector} {xbb : BlackBox} {xhi : HostIf} {xmp : Port} {xtrc : Trace} {xatst : Atest} {xchans : Tab Chan} {xflasks : Tab Flask} {xregs : Tab Region} {xlad : Ladle} {xtls : Tab TlPort} {xtlHost : TlHost} {xests : Tab Est} {xrecs : Tab (Option RecCopy)} {xsweeps : Sweeps} {xfuses : Fuses} {xwd : Watchdog} {xsv : Supervisors} {xfw : Firmware} {xsite : Site} {xtel : Tab Telemetry} {xcalWaits : List CalWait} {xlegs : Tab Conv} {xlegCal : Tab (List Word)} {xcalConvs : Tab CalConv} {xfree : Nat} {xout : List Out} {xpending : List Instr} (h : xpart = s.part) (g : Fld) :
    getI ({ part := xpart, now := xnow, snap := xsnap, tickAt := xtickAt, fabrics := xfabrics, words := s.words, pw := xpw, pp := xpp, fq := xfq, fc := xfc, bb := xbb, hi := xhi, mp := xmp, trc := xtrc, atst := xatst, chans := xchans, flasks := xflasks, regs := xregs, lad := xlad, tls := xtls, tlHost := xtlHost, ests := xests, recs := xrecs, sweeps := xsweeps, fuses := xfuses, wd := xwd, sv := xsv, fw := xfw, site := xsite, tel := xtel, calWaits := xcalWaits, legs := xlegs, legCal := xlegCal, calConvs := xcalConvs, free := xfree, out := xout, pending := xpending } : State) g = getI s g := by
  subst h; rfl
@[simp] theorem flag_mk {xpart : Part} {xnow : Nat} {xsnap : Nat} {xtickAt : Nat} {xfabrics : Tab Fabric} {xpw : Power} {xpp : PowerPath} {xfq : Tab FaultQueue} {xfc : Collector} {xbb : BlackBox} {xhi : HostIf} {xmp : Port} {xtrc : Trace} {xatst : Atest} {xchans : Tab Chan} {xflasks : Tab Flask} {xregs : Tab Region} {xlad : Ladle} {xtls : Tab TlPort} {xtlHost : TlHost} {xests : Tab Est} {xrecs : Tab (Option RecCopy)} {xsweeps : Sweeps} {xfuses : Fuses} {xwd : Watchdog} {xsv : Supervisors} {xfw : Firmware} {xsite : Site} {xtel : Tab Telemetry} {xcalWaits : List CalWait} {xlegs : Tab Conv} {xlegCal : Tab (List Word)} {xcalConvs : Tab CalConv} {xfree : Nat} {xout : List Out} {xpending : List Instr} (h : xpart = s.part) (g : Fld) :
    flag ({ part := xpart, now := xnow, snap := xsnap, tickAt := xtickAt, fabrics := xfabrics, words := s.words, pw := xpw, pp := xpp, fq := xfq, fc := xfc, bb := xbb, hi := xhi, mp := xmp, trc := xtrc, atst := xatst, chans := xchans, flasks := xflasks, regs := xregs, lad := xlad, tls := xtls, tlHost := xtlHost, ests := xests, recs := xrecs, sweeps := xsweeps, fuses := xfuses, wd := xwd, sv := xsv, fw := xfw, site := xsite, tel := xtel, calWaits := xcalWaits, legs := xlegs, legCal := xlegCal, calConvs := xcalConvs, free := xfree, out := xout, pending := xpending } : State) g = flag s g := by
  subst h; rfl
@[simp] theorem bitF_mk {xpart : Part} {xnow : Nat} {xsnap : Nat} {xtickAt : Nat} {xfabrics : Tab Fabric} {xpw : Power} {xpp : PowerPath} {xfq : Tab FaultQueue} {xfc : Collector} {xbb : BlackBox} {xhi : HostIf} {xmp : Port} {xtrc : Trace} {xatst : Atest} {xchans : Tab Chan} {xflasks : Tab Flask} {xregs : Tab Region} {xlad : Ladle} {xtls : Tab TlPort} {xtlHost : TlHost} {xests : Tab Est} {xrecs : Tab (Option RecCopy)} {xsweeps : Sweeps} {xfuses : Fuses} {xwd : Watchdog} {xsv : Supervisors} {xfw : Firmware} {xsite : Site} {xtel : Tab Telemetry} {xcalWaits : List CalWait} {xlegs : Tab Conv} {xlegCal : Tab (List Word)} {xcalConvs : Tab CalConv} {xfree : Nat} {xout : List Out} {xpending : List Instr} (h : xpart = s.part) (g : Fld) (b : Nat) :
    bitF ({ part := xpart, now := xnow, snap := xsnap, tickAt := xtickAt, fabrics := xfabrics, words := s.words, pw := xpw, pp := xpp, fq := xfq, fc := xfc, bb := xbb, hi := xhi, mp := xmp, trc := xtrc, atst := xatst, chans := xchans, flasks := xflasks, regs := xregs, lad := xlad, tls := xtls, tlHost := xtlHost, ests := xests, recs := xrecs, sweeps := xsweeps, fuses := xfuses, wd := xwd, sv := xsv, fw := xfw, site := xsite, tel := xtel, calWaits := xcalWaits, legs := xlegs, legCal := xlegCal, calConvs := xcalConvs, free := xfree, out := xout, pending := xpending } : State) g b = bitF s g b := by
  subst h; rfl
@[simp] theorem online_mk {xpart : Part} {xnow : Nat} {xsnap : Nat} {xtickAt : Nat} {xfabrics : Tab Fabric} {xpw : Power} {xpp : PowerPath} {xfq : Tab FaultQueue} {xfc : Collector} {xbb : BlackBox} {xhi : HostIf} {xmp : Port} {xtrc : Trace} {xatst : Atest} {xchans : Tab Chan} {xflasks : Tab Flask} {xregs : Tab Region} {xlad : Ladle} {xtls : Tab TlPort} {xtlHost : TlHost} {xests : Tab Est} {xrecs : Tab (Option RecCopy)} {xsweeps : Sweeps} {xfuses : Fuses} {xwd : Watchdog} {xsv : Supervisors} {xfw : Firmware} {xsite : Site} {xtel : Tab Telemetry} {xcalWaits : List CalWait} {xlegs : Tab Conv} {xlegCal : Tab (List Word)} {xcalConvs : Tab CalConv} {xfree : Nat} {xout : List Out} {xpending : List Instr} (h : xpart = s.part) (r : Nat) :
    online ({ part := xpart, now := xnow, snap := xsnap, tickAt := xtickAt, fabrics := xfabrics, words := s.words, pw := xpw, pp := xpp, fq := xfq, fc := xfc, bb := xbb, hi := xhi, mp := xmp, trc := xtrc, atst := xatst, chans := xchans, flasks := xflasks, regs := xregs, lad := xlad, tls := xtls, tlHost := xtlHost, ests := xests, recs := xrecs, sweeps := xsweeps, fuses := xfuses, wd := xwd, sv := xsv, fw := xfw, site := xsite, tel := xtel, calWaits := xcalWaits, legs := xlegs, legCal := xlegCal, calConvs := xcalConvs, free := xfree, out := xout, pending := xpending } : State) r = online s r := by
  subst h; rfl
@[simp] theorem on_mk {xpart : Part} {xnow : Nat} {xsnap : Nat} {xtickAt : Nat} {xfabrics : Tab Fabric} {xwords : Tab Word} {xpp : PowerPath} {xfq : Tab FaultQueue} {xfc : Collector} {xbb : BlackBox} {xhi : HostIf} {xmp : Port} {xtrc : Trace} {xatst : Atest} {xchans : Tab Chan} {xflasks : Tab Flask} {xregs : Tab Region} {xlad : Ladle} {xtls : Tab TlPort} {xtlHost : TlHost} {xests : Tab Est} {xrecs : Tab (Option RecCopy)} {xsweeps : Sweeps} {xfuses : Fuses} {xwd : Watchdog} {xsv : Supervisors} {xfw : Firmware} {xsite : Site} {xtel : Tab Telemetry} {xcalWaits : List CalWait} {xlegs : Tab Conv} {xlegCal : Tab (List Word)} {xcalConvs : Tab CalConv} {xfree : Nat} {xout : List Out} {xpending : List Instr} (a : Nat) :
    on ({ part := xpart, now := xnow, snap := xsnap, tickAt := xtickAt, fabrics := xfabrics, words := xwords, pw := s.pw, pp := xpp, fq := xfq, fc := xfc, bb := xbb, hi := xhi, mp := xmp, trc := xtrc, atst := xatst, chans := xchans, flasks := xflasks, regs := xregs, lad := xlad, tls := xtls, tlHost := xtlHost, ests := xests, recs := xrecs, sweeps := xsweeps, fuses := xfuses, wd := xwd, sv := xsv, fw := xfw, site := xsite, tel := xtel, calWaits := xcalWaits, legs := xlegs, legCal := xlegCal, calConvs := xcalConvs, free := xfree, out := xout, pending := xpending } : State) a = on s a := rfl
@[simp] theorem chan_mk {xpart : Part} {xnow : Nat} {xsnap : Nat} {xtickAt : Nat} {xfabrics : Tab Fabric} {xwords : Tab Word} {xpw : Power} {xpp : PowerPath} {xfq : Tab FaultQueue} {xfc : Collector} {xbb : BlackBox} {xhi : HostIf} {xmp : Port} {xtrc : Trace} {xatst : Atest} {xflasks : Tab Flask} {xregs : Tab Region} {xlad : Ladle} {xtls : Tab TlPort} {xtlHost : TlHost} {xests : Tab Est} {xrecs : Tab (Option RecCopy)} {xsweeps : Sweeps} {xfuses : Fuses} {xwd : Watchdog} {xsv : Supervisors} {xfw : Firmware} {xsite : Site} {xtel : Tab Telemetry} {xcalWaits : List CalWait} {xlegs : Tab Conv} {xlegCal : Tab (List Word)} {xcalConvs : Tab CalConv} {xfree : Nat} {xout : List Out} {xpending : List Instr} (a : Nat) :
    chan ({ part := xpart, now := xnow, snap := xsnap, tickAt := xtickAt, fabrics := xfabrics, words := xwords, pw := xpw, pp := xpp, fq := xfq, fc := xfc, bb := xbb, hi := xhi, mp := xmp, trc := xtrc, atst := xatst, chans := s.chans, flasks := xflasks, regs := xregs, lad := xlad, tls := xtls, tlHost := xtlHost, ests := xests, recs := xrecs, sweeps := xsweeps, fuses := xfuses, wd := xwd, sv := xsv, fw := xfw, site := xsite, tel := xtel, calWaits := xcalWaits, legs := xlegs, legCal := xlegCal, calConvs := xcalConvs, free := xfree, out := xout, pending := xpending } : State) a = chan s a := rfl
@[simp] theorem flask_mk {xpart : Part} {xnow : Nat} {xsnap : Nat} {xtickAt : Nat} {xfabrics : Tab Fabric} {xwords : Tab Word} {xpw : Power} {xpp : PowerPath} {xfq : Tab FaultQueue} {xfc : Collector} {xbb : BlackBox} {xhi : HostIf} {xmp : Port} {xtrc : Trace} {xatst : Atest} {xchans : Tab Chan} {xregs : Tab Region} {xlad : Ladle} {xtls : Tab TlPort} {xtlHost : TlHost} {xests : Tab Est} {xrecs : Tab (Option RecCopy)} {xsweeps : Sweeps} {xfuses : Fuses} {xwd : Watchdog} {xsv : Supervisors} {xfw : Firmware} {xsite : Site} {xtel : Tab Telemetry} {xcalWaits : List CalWait} {xlegs : Tab Conv} {xlegCal : Tab (List Word)} {xcalConvs : Tab CalConv} {xfree : Nat} {xout : List Out} {xpending : List Instr} (a : Nat) :
    flask ({ part := xpart, now := xnow, snap := xsnap, tickAt := xtickAt, fabrics := xfabrics, words := xwords, pw := xpw, pp := xpp, fq := xfq, fc := xfc, bb := xbb, hi := xhi, mp := xmp, trc := xtrc, atst := xatst, chans := xchans, flasks := s.flasks, regs := xregs, lad := xlad, tls := xtls, tlHost := xtlHost, ests := xests, recs := xrecs, sweeps := xsweeps, fuses := xfuses, wd := xwd, sv := xsv, fw := xfw, site := xsite, tel := xtel, calWaits := xcalWaits, legs := xlegs, legCal := xlegCal, calConvs := xcalConvs, free := xfree, out := xout, pending := xpending } : State) a = flask s a := rfl
@[simp] theorem region_mk {xpart : Part} {xnow : Nat} {xsnap : Nat} {xtickAt : Nat} {xfabrics : Tab Fabric} {xwords : Tab Word} {xpw : Power} {xpp : PowerPath} {xfq : Tab FaultQueue} {xfc : Collector} {xbb : BlackBox} {xhi : HostIf} {xmp : Port} {xtrc : Trace} {xatst : Atest} {xchans : Tab Chan} {xflasks : Tab Flask} {xlad : Ladle} {xtls : Tab TlPort} {xtlHost : TlHost} {xests : Tab Est} {xrecs : Tab (Option RecCopy)} {xsweeps : Sweeps} {xfuses : Fuses} {xwd : Watchdog} {xsv : Supervisors} {xfw : Firmware} {xsite : Site} {xtel : Tab Telemetry} {xcalWaits : List CalWait} {xlegs : Tab Conv} {xlegCal : Tab (List Word)} {xcalConvs : Tab CalConv} {xfree : Nat} {xout : List Out} {xpending : List Instr} (a : Nat) :
    region ({ part := xpart, now := xnow, snap := xsnap, tickAt := xtickAt, fabrics := xfabrics, words := xwords, pw := xpw, pp := xpp, fq := xfq, fc := xfc, bb := xbb, hi := xhi, mp := xmp, trc := xtrc, atst := xatst, chans := xchans, flasks := xflasks, regs := s.regs, lad := xlad, tls := xtls, tlHost := xtlHost, ests := xests, recs := xrecs, sweeps := xsweeps, fuses := xfuses, wd := xwd, sv := xsv, fw := xfw, site := xsite, tel := xtel, calWaits := xcalWaits, legs := xlegs, legCal := xlegCal, calConvs := xcalConvs, free := xfree, out := xout, pending := xpending } : State) a = region s a := rfl
@[simp] theorem est_mk {xpart : Part} {xnow : Nat} {xsnap : Nat} {xtickAt : Nat} {xfabrics : Tab Fabric} {xwords : Tab Word} {xpw : Power} {xpp : PowerPath} {xfq : Tab FaultQueue} {xfc : Collector} {xbb : BlackBox} {xhi : HostIf} {xmp : Port} {xtrc : Trace} {xatst : Atest} {xchans : Tab Chan} {xflasks : Tab Flask} {xregs : Tab Region} {xlad : Ladle} {xtls : Tab TlPort} {xtlHost : TlHost} {xrecs : Tab (Option RecCopy)} {xsweeps : Sweeps} {xfuses : Fuses} {xwd : Watchdog} {xsv : Supervisors} {xfw : Firmware} {xsite : Site} {xtel : Tab Telemetry} {xcalWaits : List CalWait} {xlegs : Tab Conv} {xlegCal : Tab (List Word)} {xcalConvs : Tab CalConv} {xfree : Nat} {xout : List Out} {xpending : List Instr} (a : Nat) :
    est ({ part := xpart, now := xnow, snap := xsnap, tickAt := xtickAt, fabrics := xfabrics, words := xwords, pw := xpw, pp := xpp, fq := xfq, fc := xfc, bb := xbb, hi := xhi, mp := xmp, trc := xtrc, atst := xatst, chans := xchans, flasks := xflasks, regs := xregs, lad := xlad, tls := xtls, tlHost := xtlHost, ests := s.ests, recs := xrecs, sweeps := xsweeps, fuses := xfuses, wd := xwd, sv := xsv, fw := xfw, site := xsite, tel := xtel, calWaits := xcalWaits, legs := xlegs, legCal := xlegCal, calConvs := xcalConvs, free := xfree, out := xout, pending := xpending } : State) a = est s a := rfl
@[simp] theorem tl_mk {xpart : Part} {xnow : Nat} {xsnap : Nat} {xtickAt : Nat} {xfabrics : Tab Fabric} {xwords : Tab Word} {xpw : Power} {xpp : PowerPath} {xfq : Tab FaultQueue} {xfc : Collector} {xbb : BlackBox} {xhi : HostIf} {xmp : Port} {xtrc : Trace} {xatst : Atest} {xchans : Tab Chan} {xflasks : Tab Flask} {xregs : Tab Region} {xlad : Ladle} {xtlHost : TlHost} {xests : Tab Est} {xrecs : Tab (Option RecCopy)} {xsweeps : Sweeps} {xfuses : Fuses} {xwd : Watchdog} {xsv : Supervisors} {xfw : Firmware} {xsite : Site} {xtel : Tab Telemetry} {xcalWaits : List CalWait} {xlegs : Tab Conv} {xlegCal : Tab (List Word)} {xcalConvs : Tab CalConv} {xfree : Nat} {xout : List Out} {xpending : List Instr} (a : Nat) :
    tl ({ part := xpart, now := xnow, snap := xsnap, tickAt := xtickAt, fabrics := xfabrics, words := xwords, pw := xpw, pp := xpp, fq := xfq, fc := xfc, bb := xbb, hi := xhi, mp := xmp, trc := xtrc, atst := xatst, chans := xchans, flasks := xflasks, regs := xregs, lad := xlad, tls := s.tls, tlHost := xtlHost, ests := xests, recs := xrecs, sweeps := xsweeps, fuses := xfuses, wd := xwd, sv := xsv, fw := xfw, site := xsite, tel := xtel, calWaits := xcalWaits, legs := xlegs, legCal := xlegCal, calConvs := xcalConvs, free := xfree, out := xout, pending := xpending } : State) a = tl s a := rfl
@[simp] theorem faultQ_mk {xpart : Part} {xnow : Nat} {xsnap : Nat} {xtickAt : Nat} {xfabrics : Tab Fabric} {xwords : Tab Word} {xpw : Power} {xpp : PowerPath} {xfc : Collector} {xbb : BlackBox} {xhi : HostIf} {xmp : Port} {xtrc : Trace} {xatst : Atest} {xchans : Tab Chan} {xflasks : Tab Flask} {xregs : Tab Region} {xlad : Ladle} {xtls : Tab TlPort} {xtlHost : TlHost} {xests : Tab Est} {xrecs : Tab (Option RecCopy)} {xsweeps : Sweeps} {xfuses : Fuses} {xwd : Watchdog} {xsv : Supervisors} {xfw : Firmware} {xsite : Site} {xtel : Tab Telemetry} {xcalWaits : List CalWait} {xlegs : Tab Conv} {xlegCal : Tab (List Word)} {xcalConvs : Tab CalConv} {xfree : Nat} {xout : List Out} {xpending : List Instr} (a : Nat) :
    faultQ ({ part := xpart, now := xnow, snap := xsnap, tickAt := xtickAt, fabrics := xfabrics, words := xwords, pw := xpw, pp := xpp, fq := s.fq, fc := xfc, bb := xbb, hi := xhi, mp := xmp, trc := xtrc, atst := xatst, chans := xchans, flasks := xflasks, regs := xregs, lad := xlad, tls := xtls, tlHost := xtlHost, ests := xests, recs := xrecs, sweeps := xsweeps, fuses := xfuses, wd := xwd, sv := xsv, fw := xfw, site := xsite, tel := xtel, calWaits := xcalWaits, legs := xlegs, legCal := xlegCal, calConvs := xcalConvs, free := xfree, out := xout, pending := xpending } : State) a = faultQ s a := rfl
@[simp] theorem sprue_mk {xpart : Part} {xnow : Nat} {xsnap : Nat} {xtickAt : Nat} {xfabrics : Tab Fabric} {xwords : Tab Word} {xpw : Power} {xfq : Tab FaultQueue} {xfc : Collector} {xbb : BlackBox} {xhi : HostIf} {xmp : Port} {xtrc : Trace} {xatst : Atest} {xchans : Tab Chan} {xflasks : Tab Flask} {xregs : Tab Region} {xlad : Ladle} {xtls : Tab TlPort} {xtlHost : TlHost} {xests : Tab Est} {xrecs : Tab (Option RecCopy)} {xsweeps : Sweeps} {xfuses : Fuses} {xwd : Watchdog} {xsv : Supervisors} {xfw : Firmware} {xsite : Site} {xtel : Tab Telemetry} {xcalWaits : List CalWait} {xlegs : Tab Conv} {xlegCal : Tab (List Word)} {xcalConvs : Tab CalConv} {xfree : Nat} {xout : List Out} {xpending : List Instr} (a : Nat) :
    sprue ({ part := xpart, now := xnow, snap := xsnap, tickAt := xtickAt, fabrics := xfabrics, words := xwords, pw := xpw, pp := s.pp, fq := xfq, fc := xfc, bb := xbb, hi := xhi, mp := xmp, trc := xtrc, atst := xatst, chans := xchans, flasks := xflasks, regs := xregs, lad := xlad, tls := xtls, tlHost := xtlHost, ests := xests, recs := xrecs, sweeps := xsweeps, fuses := xfuses, wd := xwd, sv := xsv, fw := xfw, site := xsite, tel := xtel, calWaits := xcalWaits, legs := xlegs, legCal := xlegCal, calConvs := xcalConvs, free := xfree, out := xout, pending := xpending } : State) a = sprue s a := rfl
@[simp] theorem subRing_mk {xpart : Part} {xnow : Nat} {xsnap : Nat} {xtickAt : Nat} {xfabrics : Tab Fabric} {xwords : Tab Word} {xpw : Power} {xpp : PowerPath} {xfq : Tab FaultQueue} {xfc : Collector} {xbb : BlackBox} {xmp : Port} {xtrc : Trace} {xatst : Atest} {xchans : Tab Chan} {xflasks : Tab Flask} {xregs : Tab Region} {xlad : Ladle} {xtls : Tab TlPort} {xtlHost : TlHost} {xests : Tab Est} {xrecs : Tab (Option RecCopy)} {xsweeps : Sweeps} {xfuses : Fuses} {xwd : Watchdog} {xsv : Supervisors} {xfw : Firmware} {xsite : Site} {xtel : Tab Telemetry} {xcalWaits : List CalWait} {xlegs : Tab Conv} {xlegCal : Tab (List Word)} {xcalConvs : Tab CalConv} {xfree : Nat} {xout : List Out} {xpending : List Instr} (a : Nat) :
    subRing ({ part := xpart, now := xnow, snap := xsnap, tickAt := xtickAt, fabrics := xfabrics, words := xwords, pw := xpw, pp := xpp, fq := xfq, fc := xfc, bb := xbb, hi := s.hi, mp := xmp, trc := xtrc, atst := xatst, chans := xchans, flasks := xflasks, regs := xregs, lad := xlad, tls := xtls, tlHost := xtlHost, ests := xests, recs := xrecs, sweeps := xsweeps, fuses := xfuses, wd := xwd, sv := xsv, fw := xfw, site := xsite, tel := xtel, calWaits := xcalWaits, legs := xlegs, legCal := xlegCal, calConvs := xcalConvs, free := xfree, out := xout, pending := xpending } : State) a = subRing s a := rfl
@[simp] theorem comRing_mk {xpart : Part} {xnow : Nat} {xsnap : Nat} {xtickAt : Nat} {xfabrics : Tab Fabric} {xwords : Tab Word} {xpw : Power} {xpp : PowerPath} {xfq : Tab FaultQueue} {xfc : Collector} {xbb : BlackBox} {xmp : Port} {xtrc : Trace} {xatst : Atest} {xchans : Tab Chan} {xflasks : Tab Flask} {xregs : Tab Region} {xlad : Ladle} {xtls : Tab TlPort} {xtlHost : TlHost} {xests : Tab Est} {xrecs : Tab (Option RecCopy)} {xsweeps : Sweeps} {xfuses : Fuses} {xwd : Watchdog} {xsv : Supervisors} {xfw : Firmware} {xsite : Site} {xtel : Tab Telemetry} {xcalWaits : List CalWait} {xlegs : Tab Conv} {xlegCal : Tab (List Word)} {xcalConvs : Tab CalConv} {xfree : Nat} {xout : List Out} {xpending : List Instr} (a : Nat) :
    comRing ({ part := xpart, now := xnow, snap := xsnap, tickAt := xtickAt, fabrics := xfabrics, words := xwords, pw := xpw, pp := xpp, fq := xfq, fc := xfc, bb := xbb, hi := s.hi, mp := xmp, trc := xtrc, atst := xatst, chans := xchans, flasks := xflasks, regs := xregs, lad := xlad, tls := xtls, tlHost := xtlHost, ests := xests, recs := xrecs, sweeps := xsweeps, fuses := xfuses, wd := xwd, sv := xsv, fw := xfw, site := xsite, tel := xtel, calWaits := xcalWaits, legs := xlegs, legCal := xlegCal, calConvs := xcalConvs, free := xfree, out := xout, pending := xpending } : State) a = comRing s a := rfl
@[simp] theorem evRing_mk {xpart : Part} {xnow : Nat} {xsnap : Nat} {xtickAt : Nat} {xfabrics : Tab Fabric} {xwords : Tab Word} {xpw : Power} {xpp : PowerPath} {xfq : Tab FaultQueue} {xfc : Collector} {xbb : BlackBox} {xmp : Port} {xtrc : Trace} {xatst : Atest} {xchans : Tab Chan} {xflasks : Tab Flask} {xregs : Tab Region} {xlad : Ladle} {xtls : Tab TlPort} {xtlHost : TlHost} {xests : Tab Est} {xrecs : Tab (Option RecCopy)} {xsweeps : Sweeps} {xfuses : Fuses} {xwd : Watchdog} {xsv : Supervisors} {xfw : Firmware} {xsite : Site} {xtel : Tab Telemetry} {xcalWaits : List CalWait} {xlegs : Tab Conv} {xlegCal : Tab (List Word)} {xcalConvs : Tab CalConv} {xfree : Nat} {xout : List Out} {xpending : List Instr} (a : Nat) :
    evRing ({ part := xpart, now := xnow, snap := xsnap, tickAt := xtickAt, fabrics := xfabrics, words := xwords, pw := xpw, pp := xpp, fq := xfq, fc := xfc, bb := xbb, hi := s.hi, mp := xmp, trc := xtrc, atst := xatst, chans := xchans, flasks := xflasks, regs := xregs, lad := xlad, tls := xtls, tlHost := xtlHost, ests := xests, recs := xrecs, sweeps := xsweeps, fuses := xfuses, wd := xwd, sv := xsv, fw := xfw, site := xsite, tel := xtel, calWaits := xcalWaits, legs := xlegs, legCal := xlegCal, calConvs := xcalConvs, free := xfree, out := xout, pending := xpending } : State) a = evRing s a := rfl
@[simp] theorem getTag_mk {xpart : Part} {xnow : Nat} {xsnap : Nat} {xtickAt : Nat} {xfabrics : Tab Fabric} {xwords : Tab Word} {xpw : Power} {xpp : PowerPath} {xfq : Tab FaultQueue} {xfc : Collector} {xbb : BlackBox} {xmp : Port} {xtrc : Trace} {xatst : Atest} {xchans : Tab Chan} {xflasks : Tab Flask} {xregs : Tab Region} {xlad : Ladle} {xtls : Tab TlPort} {xtlHost : TlHost} {xests : Tab Est} {xrecs : Tab (Option RecCopy)} {xsweeps : Sweeps} {xfuses : Fuses} {xwd : Watchdog} {xsv : Supervisors} {xfw : Firmware} {xsite : Site} {xtel : Tab Telemetry} {xcalWaits : List CalWait} {xlegs : Tab Conv} {xlegCal : Tab (List Word)} {xcalConvs : Tab CalConv} {xfree : Nat} {xout : List Out} {xpending : List Instr} (a : Nat) :
    getTag ({ part := xpart, now := xnow, snap := xsnap, tickAt := xtickAt, fabrics := xfabrics, words := xwords, pw := xpw, pp := xpp, fq := xfq, fc := xfc, bb := xbb, hi := s.hi, mp := xmp, trc := xtrc, atst := xatst, chans := xchans, flasks := xflasks, regs := xregs, lad := xlad, tls := xtls, tlHost := xtlHost, ests := xests, recs := xrecs, sweeps := xsweeps, fuses := xfuses, wd := xwd, sv := xsv, fw := xfw, site := xsite, tel := xtel, calWaits := xcalWaits, legs := xlegs, legCal := xlegCal, calConvs := xcalConvs, free := xfree, out := xout, pending := xpending } : State) a = getTag s a := rfl
@[simp] theorem on_mk_pw {xpart : Part} {xnow : Nat} {xsnap : Nat} {xtickAt : Nat} {xfabrics : Tab Fabric} {xwords : Tab Word} {xpp : PowerPath} {xfq : Tab FaultQueue} {xfc : Collector} {xbb : BlackBox} {xhi : HostIf} {xmp : Port} {xtrc : Trace} {xatst : Atest} {xchans : Tab Chan} {xflasks : Tab Flask} {xregs : Tab Region} {xlad : Ladle} {xtls : Tab TlPort} {xtlHost : TlHost} {xests : Tab Est} {xrecs : Tab (Option RecCopy)} {xsweeps : Sweeps} {xfuses : Fuses} {xwd : Watchdog} {xsv : Supervisors} {xfw : Firmware} {xsite : Site} {xtel : Tab Telemetry} {xcalWaits : List CalWait} {xlegs : Tab Conv} {xlegCal : Tab (List Word)} {xcalConvs : Tab CalConv} {xfree : Nat} {xout : List Out} {xpending : List Instr} {yaux12 : Bool} {yboot : Bool} {ysupply : Supply} {yauxSince : Nat} {yrevival : Bool} {ydone : Nat} {ystopped : Bool} {yrefOk : Bool} {yxtalOk : Bool} {yhubLock : Bool} {yholdupOk : Bool} {ysvLost : Nat} {ytimeSrc : TimeSrc} {ytimeFrom : Nat} {ytimeRuns : Bool} {yrunnerLock : Nat} {yrpllLock : Nat} {ytransport : Transport} {ytimer : Nat} {ytransportTag : Option Nat} {ywaking : Bool} {ywakeSp : Nat} {ywakeBoot : Bool} {yresetKey : Option Nat} {yresetDue : Option Nat} {yswitchingOn : BitVec 32} {yswitchingOff : Tab Nat} {yoffByRequest : BitVec 32} {yhubCopy : TimeCopy} {yhubTick : Nat} {ycars : Tab Carrier} {ylatchedTimeHi : Word} {ylastSwitch : Nat} {ystraps : Nat} {ych0vb : Nat} (a : Nat) :
    on ({ part := xpart, now := xnow, snap := xsnap, tickAt := xtickAt, fabrics := xfabrics, words := xwords, pw := { aon := s.pw.aon, dom := s.pw.dom, aux12 := yaux12, boot := yboot, supply := ysupply, auxSince := yauxSince, revival := yrevival, done := ydone, stopped := ystopped, refOk := yrefOk, xtalOk := yxtalOk, hubLock := yhubLock, holdupOk := yholdupOk, svLost := ysvLost, timeSrc := ytimeSrc, timeFrom := ytimeFrom, timeRuns := ytimeRuns, runnerLock := yrunnerLock, rpllLock := yrpllLock, transport := ytransport, timer := ytimer, transportTag := ytransportTag, waking := ywaking, wakeSp := ywakeSp, wakeBoot := ywakeBoot, resetKey := yresetKey, resetDue := yresetDue, switchingOn := yswitchingOn, switchingOff := yswitchingOff, offByRequest := yoffByRequest, hubCopy := yhubCopy, hubTick := yhubTick, cars := ycars, latchedTimeHi := ylatchedTimeHi, lastSwitch := ylastSwitch, straps := ystraps, ch0vb := ych0vb }, pp := xpp, fq := xfq, fc := xfc, bb := xbb, hi := xhi, mp := xmp, trc := xtrc, atst := xatst, chans := xchans, flasks := xflasks, regs := xregs, lad := xlad, tls := xtls, tlHost := xtlHost, ests := xests, recs := xrecs, sweeps := xsweeps, fuses := xfuses, wd := xwd, sv := xsv, fw := xfw, site := xsite, tel := xtel, calWaits := xcalWaits, legs := xlegs, legCal := xlegCal, calConvs := xcalConvs, free := xfree, out := xout, pending := xpending } : State) a = on s a := rfl
@[simp] theorem sprue_mk_pp {xpart : Part} {xnow : Nat} {xsnap : Nat} {xtickAt : Nat} {xfabrics : Tab Fabric} {xwords : Tab Word} {xpw : Power} {xfq : Tab FaultQueue} {xfc : Collector} {xbb : BlackBox} {xhi : HostIf} {xmp : Port} {xtrc : Trace} {xatst : Atest} {xchans : Tab Chan} {xflasks : Tab Flask} {xregs : Tab Region} {xlad : Ladle} {xtls : Tab TlPort} {xtlHost : TlHost} {xests : Tab Est} {xrecs : Tab (Option RecCopy)} {xsweeps : Sweeps} {xfuses : Fuses} {xwd : Watchdog} {xsv : Supervisors} {xfw : Firmware} {xsite : Site} {xtel : Tab Telemetry} {xcalWaits : List CalWait} {xlegs : Tab Conv} {xlegCal : Tab (List Word)} {xcalConvs : Tab CalConv} {xfree : Nat} {xout : List Out} {xpending : List Instr} {ydead : Option DeadTime} {ycapability : Nat} {ydroopAt : Nat} {yscale : Nat} {yscaleNext : Nat} {ycbusV : Nat} {ycbusMs : Nat} {ycbusI : Int} {ydroopTest : Option (Nat × Nat × Option Nat)} {yovBelow : Option Nat} {ytlegs : Tab TlLeg} (a : Nat) :
    sprue ({ part := xpart, now := xnow, snap := xsnap, tickAt := xtickAt, fabrics := xfabrics, words := xwords, pw := xpw, pp := { sprues := s.pp.sprues, dead := ydead, capability := ycapability, droopAt := ydroopAt, scale := yscale, scaleNext := yscaleNext, cbusV := ycbusV, cbusMs := ycbusMs, cbusI := ycbusI, droopTest := ydroopTest, ovBelow := yovBelow, tlegs := ytlegs }, fq := xfq, fc := xfc, bb := xbb, hi := xhi, mp := xmp, trc := xtrc, atst := xatst, chans := xchans, flasks := xflasks, regs := xregs, lad := xlad, tls := xtls, tlHost := xtlHost, ests := xests, recs := xrecs, sweeps := xsweeps, fuses := xfuses, wd := xwd, sv := xsv, fw := xfw, site := xsite, tel := xtel, calWaits := xcalWaits, legs := xlegs, legCal := xlegCal, calConvs := xcalConvs, free := xfree, out := xout, pending := xpending } : State) a = sprue s a := rfl
@[simp] theorem subRing_mk_hi {xpart : Part} {xnow : Nat} {xsnap : Nat} {xtickAt : Nat} {xfabrics : Tab Fabric} {xwords : Tab Word} {xpw : Power} {xpp : PowerPath} {xfq : Tab FaultQueue} {xfc : Collector} {xbb : BlackBox} {xmp : Port} {xtrc : Trace} {xatst : Atest} {xchans : Tab Chan} {xflasks : Tab Flask} {xregs : Tab Region} {xlad : Ladle} {xtls : Tab TlPort} {xtlHost : TlHost} {xests : Tab Est} {xrecs : Tab (Option RecCopy)} {xsweeps : Sweeps} {xfuses : Fuses} {xwd : Watchdog} {xsv : Supervisors} {xfw : Firmware} {xsite : Site} {xtel : Tab Telemetry} {xcalWaits : List CalWait} {xlegs : Tab Conv} {xlegCal : Tab (List Word)} {xcalConvs : Tab CalConv} {xfree : Nat} {xout : List Out} {xpending : List Instr} {ytags : Tab (Option Tag)} {ycoms : Tab ComRing} {yevs : Tab EvRing} {ynextOrder : Nat} {ynextBell : Nat} {ynextEnd : Nat} {ynextStart : Nat} {ycfg : Tab Word} {yrr : Nat} {yrouteBlock : Nat} {yrouteChan : Nat} {yrouteTl : Nat} {ylinkUp : Bool} {yl1 : Bool} {yd3hot : Bool} {ycaptures : List Capture} {ycapFree : Nat} {yresetting : Bool} {yhbSecond : Nat} {ychanReads : List Nat} (a : Nat) :
    subRing ({ part := xpart, now := xnow, snap := xsnap, tickAt := xtickAt, fabrics := xfabrics, words := xwords, pw := xpw, pp := xpp, fq := xfq, fc := xfc, bb := xbb, hi := { tags := ytags, subs := s.hi.subs, coms := ycoms, evs := yevs, nextOrder := ynextOrder, nextBell := ynextBell, nextEnd := ynextEnd, nextStart := ynextStart, cfg := ycfg, rr := yrr, routeBlock := yrouteBlock, routeChan := yrouteChan, routeTl := yrouteTl, linkUp := ylinkUp, l1 := yl1, d3hot := yd3hot, captures := ycaptures, capFree := ycapFree, resetting := yresetting, hbSecond := yhbSecond, chanReads := ychanReads }, mp := xmp, trc := xtrc, atst := xatst, chans := xchans, flasks := xflasks, regs := xregs, lad := xlad, tls := xtls, tlHost := xtlHost, ests := xests, recs := xrecs, sweeps := xsweeps, fuses := xfuses, wd := xwd, sv := xsv, fw := xfw, site := xsite, tel := xtel, calWaits := xcalWaits, legs := xlegs, legCal := xlegCal, calConvs := xcalConvs, free := xfree, out := xout, pending := xpending } : State) a = subRing s a := rfl
@[simp] theorem comRing_mk_hi {xpart : Part} {xnow : Nat} {xsnap : Nat} {xtickAt : Nat} {xfabrics : Tab Fabric} {xwords : Tab Word} {xpw : Power} {xpp : PowerPath} {xfq : Tab FaultQueue} {xfc : Collector} {xbb : BlackBox} {xmp : Port} {xtrc : Trace} {xatst : Atest} {xchans : Tab Chan} {xflasks : Tab Flask} {xregs : Tab Region} {xlad : Ladle} {xtls : Tab TlPort} {xtlHost : TlHost} {xests : Tab Est} {xrecs : Tab (Option RecCopy)} {xsweeps : Sweeps} {xfuses : Fuses} {xwd : Watchdog} {xsv : Supervisors} {xfw : Firmware} {xsite : Site} {xtel : Tab Telemetry} {xcalWaits : List CalWait} {xlegs : Tab Conv} {xlegCal : Tab (List Word)} {xcalConvs : Tab CalConv} {xfree : Nat} {xout : List Out} {xpending : List Instr} {ytags : Tab (Option Tag)} {ysubs : Tab SubRing} {yevs : Tab EvRing} {ynextOrder : Nat} {ynextBell : Nat} {ynextEnd : Nat} {ynextStart : Nat} {ycfg : Tab Word} {yrr : Nat} {yrouteBlock : Nat} {yrouteChan : Nat} {yrouteTl : Nat} {ylinkUp : Bool} {yl1 : Bool} {yd3hot : Bool} {ycaptures : List Capture} {ycapFree : Nat} {yresetting : Bool} {yhbSecond : Nat} {ychanReads : List Nat} (a : Nat) :
    comRing ({ part := xpart, now := xnow, snap := xsnap, tickAt := xtickAt, fabrics := xfabrics, words := xwords, pw := xpw, pp := xpp, fq := xfq, fc := xfc, bb := xbb, hi := { tags := ytags, subs := ysubs, coms := s.hi.coms, evs := yevs, nextOrder := ynextOrder, nextBell := ynextBell, nextEnd := ynextEnd, nextStart := ynextStart, cfg := ycfg, rr := yrr, routeBlock := yrouteBlock, routeChan := yrouteChan, routeTl := yrouteTl, linkUp := ylinkUp, l1 := yl1, d3hot := yd3hot, captures := ycaptures, capFree := ycapFree, resetting := yresetting, hbSecond := yhbSecond, chanReads := ychanReads }, mp := xmp, trc := xtrc, atst := xatst, chans := xchans, flasks := xflasks, regs := xregs, lad := xlad, tls := xtls, tlHost := xtlHost, ests := xests, recs := xrecs, sweeps := xsweeps, fuses := xfuses, wd := xwd, sv := xsv, fw := xfw, site := xsite, tel := xtel, calWaits := xcalWaits, legs := xlegs, legCal := xlegCal, calConvs := xcalConvs, free := xfree, out := xout, pending := xpending } : State) a = comRing s a := rfl
@[simp] theorem evRing_mk_hi {xpart : Part} {xnow : Nat} {xsnap : Nat} {xtickAt : Nat} {xfabrics : Tab Fabric} {xwords : Tab Word} {xpw : Power} {xpp : PowerPath} {xfq : Tab FaultQueue} {xfc : Collector} {xbb : BlackBox} {xmp : Port} {xtrc : Trace} {xatst : Atest} {xchans : Tab Chan} {xflasks : Tab Flask} {xregs : Tab Region} {xlad : Ladle} {xtls : Tab TlPort} {xtlHost : TlHost} {xests : Tab Est} {xrecs : Tab (Option RecCopy)} {xsweeps : Sweeps} {xfuses : Fuses} {xwd : Watchdog} {xsv : Supervisors} {xfw : Firmware} {xsite : Site} {xtel : Tab Telemetry} {xcalWaits : List CalWait} {xlegs : Tab Conv} {xlegCal : Tab (List Word)} {xcalConvs : Tab CalConv} {xfree : Nat} {xout : List Out} {xpending : List Instr} {ytags : Tab (Option Tag)} {ysubs : Tab SubRing} {ycoms : Tab ComRing} {ynextOrder : Nat} {ynextBell : Nat} {ynextEnd : Nat} {ynextStart : Nat} {ycfg : Tab Word} {yrr : Nat} {yrouteBlock : Nat} {yrouteChan : Nat} {yrouteTl : Nat} {ylinkUp : Bool} {yl1 : Bool} {yd3hot : Bool} {ycaptures : List Capture} {ycapFree : Nat} {yresetting : Bool} {yhbSecond : Nat} {ychanReads : List Nat} (a : Nat) :
    evRing ({ part := xpart, now := xnow, snap := xsnap, tickAt := xtickAt, fabrics := xfabrics, words := xwords, pw := xpw, pp := xpp, fq := xfq, fc := xfc, bb := xbb, hi := { tags := ytags, subs := ysubs, coms := ycoms, evs := s.hi.evs, nextOrder := ynextOrder, nextBell := ynextBell, nextEnd := ynextEnd, nextStart := ynextStart, cfg := ycfg, rr := yrr, routeBlock := yrouteBlock, routeChan := yrouteChan, routeTl := yrouteTl, linkUp := ylinkUp, l1 := yl1, d3hot := yd3hot, captures := ycaptures, capFree := ycapFree, resetting := yresetting, hbSecond := yhbSecond, chanReads := ychanReads }, mp := xmp, trc := xtrc, atst := xatst, chans := xchans, flasks := xflasks, regs := xregs, lad := xlad, tls := xtls, tlHost := xtlHost, ests := xests, recs := xrecs, sweeps := xsweeps, fuses := xfuses, wd := xwd, sv := xsv, fw := xfw, site := xsite, tel := xtel, calWaits := xcalWaits, legs := xlegs, legCal := xlegCal, calConvs := xcalConvs, free := xfree, out := xout, pending := xpending } : State) a = evRing s a := rfl
@[simp] theorem getTag_mk_hi {xpart : Part} {xnow : Nat} {xsnap : Nat} {xtickAt : Nat} {xfabrics : Tab Fabric} {xwords : Tab Word} {xpw : Power} {xpp : PowerPath} {xfq : Tab FaultQueue} {xfc : Collector} {xbb : BlackBox} {xmp : Port} {xtrc : Trace} {xatst : Atest} {xchans : Tab Chan} {xflasks : Tab Flask} {xregs : Tab Region} {xlad : Ladle} {xtls : Tab TlPort} {xtlHost : TlHost} {xests : Tab Est} {xrecs : Tab (Option RecCopy)} {xsweeps : Sweeps} {xfuses : Fuses} {xwd : Watchdog} {xsv : Supervisors} {xfw : Firmware} {xsite : Site} {xtel : Tab Telemetry} {xcalWaits : List CalWait} {xlegs : Tab Conv} {xlegCal : Tab (List Word)} {xcalConvs : Tab CalConv} {xfree : Nat} {xout : List Out} {xpending : List Instr} {ysubs : Tab SubRing} {ycoms : Tab ComRing} {yevs : Tab EvRing} {ynextOrder : Nat} {ynextBell : Nat} {ynextEnd : Nat} {ynextStart : Nat} {ycfg : Tab Word} {yrr : Nat} {yrouteBlock : Nat} {yrouteChan : Nat} {yrouteTl : Nat} {ylinkUp : Bool} {yl1 : Bool} {yd3hot : Bool} {ycaptures : List Capture} {ycapFree : Nat} {yresetting : Bool} {yhbSecond : Nat} {ychanReads : List Nat} (a : Nat) :
    getTag ({ part := xpart, now := xnow, snap := xsnap, tickAt := xtickAt, fabrics := xfabrics, words := xwords, pw := xpw, pp := xpp, fq := xfq, fc := xfc, bb := xbb, hi := { tags := s.hi.tags, subs := ysubs, coms := ycoms, evs := yevs, nextOrder := ynextOrder, nextBell := ynextBell, nextEnd := ynextEnd, nextStart := ynextStart, cfg := ycfg, rr := yrr, routeBlock := yrouteBlock, routeChan := yrouteChan, routeTl := yrouteTl, linkUp := ylinkUp, l1 := yl1, d3hot := yd3hot, captures := ycaptures, capFree := ycapFree, resetting := yresetting, hbSecond := yhbSecond, chanReads := ychanReads }, mp := xmp, trc := xtrc, atst := xatst, chans := xchans, flasks := xflasks, regs := xregs, lad := xlad, tls := xtls, tlHost := xtlHost, ests := xests, recs := xrecs, sweeps := xsweeps, fuses := xfuses, wd := xwd, sv := xsv, fw := xfw, site := xsite, tel := xtel, calWaits := xcalWaits, legs := xlegs, legCal := xlegCal, calConvs := xcalConvs, free := xfree, out := xout, pending := xpending } : State) a = getTag s a := rfl

end Sys2Proof.Machine
end

