-- ==== Sys2Proof/Machine/Pins.lean ====
section
/-! DEFINITION. Connector pins (R10, R667, R668) and ordering codes (R671). -/

namespace Sys2Proof.Machine

/-- A connector and a pin of it. -/
inductive Conn where
  | cn (n : Nat)
  | powerPath
  | aux
  | tl (n : Nat)
  | host
  | test
  deriving DecidableEq, Repr

/-- A signal that the module brings to a connector. -/
inductive Signal where
  | chPwmA (c : Nat)
  | chPwmB (c : Nat)
  | chIsp (c : Nat)
  | chIsn (c : Nat)
  | chVb (c : Nat)
  | chTs (c : Nat)
  | flaskFlt (f : Nat)
  | alive (n : Nat)
  | spVs (n : Nat)
  | spIsp (n : Nat)
  | spIsn (n : Nat)
  | spGate (n : Nat)
  | cbusVs
  | cbusIsp
  | cbusIsn
  | insmInj
  | insmRet
  | mscl
  | msda
  | maddr (i : Nat)
  | lamp (i : Nat)
  | tamp (i : Nat)
  | hrst
  | replace
  | tlPwmA (n : Nat)
  | tlPwmB (n : Nat)
  | tlVs (n : Nat)
  | tlIsp (n : Nat)
  | tlIsn (n : Nat)
  | tlLcw (n : Nat)
  | tlLes (n : Nat)
  | perst
  | trcClk
  | trcD (i : Nat)
  | atb (bus k : Nat)
  | bscanEn
  | tReset
  | dbgEn
  deriving DecidableEq, Repr

/-- Where a signal lies: connector and pins (R667, R668); none where the part fits no such pin (R4). Channel c lies at position
c mod 64 of connector c / 64, flask f at place f mod 4 of connector f / 4. -/
def pinsOf (p : Part) (x : Signal) : Option (Conn × List Nat) :=
  let ch (c k : Nat) : Option (Conn × List Nat) := if c < p.channels then some (.cn (c / 64), [7 * (c % 64) + k]) else none
  let pp (n k : Nat) : Option (Conn × List Nat) := if n < 4 then some (.powerPath, [4 * n + k]) else none
  let one (k : Conn) (l : List Nat) (b : Bool) : Option (Conn × List Nat) := if b then some (k, l) else none
  match x with
  | .chPwmA c => ch c 1
  | .chPwmB c => ch c 2
  | .chIsp c => ch c 4
  | .chIsn c => ch c 5
  | .chVb c => ch c 6
  | .chTs c => ch c 7
  | .flaskFlt f => one (.cn (f / 4)) [449 + f % 4] (f < p.flasks)
  | .alive n => one (.cn n) [453] (64 * n < p.channels)
  | .spVs n => pp n 1
  | .spIsp n => pp n 2
  | .spIsn n => pp n 3
  | .spGate n => pp n 4
  | .cbusVs => some (.powerPath, [17])
  | .cbusIsp => some (.powerPath, [18])
  | .cbusIsn => some (.powerPath, [19])
  | .insmInj => some (.powerPath, [37])
  | .insmRet => some (.powerPath, [39])
  | .mscl => some (.aux, [13])
  | .msda => some (.aux, [14])
  | .maddr i => one .aux [16 + i] (i < 3)
  | .lamp i => one .aux [19 + i] (i < 4)
  | .tamp i => one .aux [24 + i] (i < 8)
  | .hrst => some (.aux, [33])
  | .replace => some (.aux, [34])
  | .tlPwmA n => one (.tl n) [1] (n < 8)
  | .tlPwmB n => one (.tl n) [2] (n < 8)
  | .tlVs n => one (.tl n) [4] (n < 8)
  | .tlIsp n => one (.tl n) [5] (n < 8)
  | .tlIsn n => one (.tl n) [6] (n < 8)
  | .tlLcw n => one (.tl n) [8] (n < 8)
  | .tlLes n => one (.tl n) [10, 11] (n < 8)
  | .perst => some (.host, [29])
  | .trcClk => some (.test, [10])
  | .trcD i => one .test [12 + i] (i < 4)
  | .atb b k => one .test [2 * k + 1 + b] (b < 2 && decide (k < p.regions))
  | .bscanEn => some (.test, [22])
  | .tReset => some (.test, [23])
  | .dbgEn => some (.test, [24])

/-- The fuses of an ordering code's three letters (R671); none for a code that is none. -/
def codeFuses (x y z : Char) : Option Fuses :=
  if (x = 'H' ∨ x = 'S') ∧ (y = 'F' ∨ y = 'C') ∧ (z = 'A' ∨ z = 'M') then
    some { wdStart := x = 'H', wdDbg := y = 'F', noAutoFb := z = 'M' }
  else none

end Sys2Proof.Machine
end

