-- ==== Sys2Proof/Tests/Slice0.lean ====
section
/-! SUPPORT. Tests: terms that WellFormed refuses, steps with results worked out from the rules, and for every
statement a state and operands that meet its hypotheses. -/

namespace Sys2Proof.Tests

open Sys2Proof.Machine

set_option Elab.async false

/-! ## States -/

/-- Words written one after another. -/
def put (s : State) (l : List (Nat × Word)) : State := l.foldl (fun t e => wr t e.1 e.2) s

/-- The module running: every domain on, every region online, supervisor A active, the host interface ready. -/
def up : State :=
  put { State.reset with now := 5000000, pw := { aon := true, dom := 0x3FFFFFFF, aux12 := true, supply := .aux12, done := 0x1FFF, timeRuns := true, timeSrc := .reference } }
    [(GL_TOPOLOGY, 0xFF440400), (SV_STATUS, 0x54000000)]

/-- Beside that: the engine enabled, rings 0 of each kind enabled with 8 entries. -/
def hostUp : State :=
  put up [(HI_CTRL, 0x1), (HI_STATUS, 0xC0000000), (SQ_CFG 0, 0x80030010), (SQ_STATUS 0, 0x80000000),
    (CQ_CFG 0, 0x80030000), (CQ_STATUS 0, 0x90000000), (EV_CFG 0, 0x80030000), (EV_STATUS 0, 0x90000000)]

/-- A descriptor's words: opcode and CID, selector, parameters. -/
def descWords (op cid : Nat) (sel : Word) (params : List Word) : List Word :=
  let l := BitVec.ofNat 32 (cid * 65536 + op) :: sel :: params
  l ++ List.replicate (16 - l.length) 0

/-- A tag in a state of life, holding a command of ring 0. -/
def tagIn (st : TagState) (op : Nat) (sel : Word) (params : List Word) : Tag :=
  { words := descWords op 7 sel params, sq := 0, slot := 0, order := 0, bell := 0, state := st }

/-- A started command holding tag 0. -/
def started (s : State) (op : Nat) (sel : Word) (params : List Word) : State :=
  setTag s 0 (some (tagIn .started op sel params))

/-! ## Terms that WellFormed refuses -/

theorem test_wf_names : Instr.wf (.tempInvalid 1024) = false ∧ Instr.wf (.tempInvalid 1023) = true ∧ Instr.wf (.flaskFaultPortForward 64) = false ∧
    Instr.wf (.tickStrobeLost 4) = false ∧ Instr.wf (.sprueReady 4 0) = false ∧ Instr.wf (.tlEnable 8 0) = false ∧ Instr.wf (.svLost 2 true) = false ∧
    Instr.wf (.domainLoss 30) = false ∧ Instr.wf (.droopTest 1024) = false ∧ Instr.wf (.droopTest 1023) = true := by decide
theorem test_wf_rings : Instr.wf (.ringEnable .sq 16 0) = false ∧ Instr.wf (.ringEnable .cq 16 0) = false ∧ Instr.wf (.ringEnable .ev 4 0) = false ∧
    Instr.wf (.ringEnable .ev 3 0) = true ∧ Instr.wf (.dbSqTail 16 0) = false ∧ Instr.wf (.dbCqHead 16 0) = false ∧ Instr.wf (.dbEvHead 4 0) = false ∧
    Instr.wf (.completionWrite 16) = false ∧ Instr.wf (.eventRecordWrite 4) = false ∧ Instr.wf (.hostMemoryError (.ring .ev 4)) = false ∧
    Instr.wf (.hostMemoryError (.buffer 1024)) = false := by decide
theorem test_wf_descriptors : Instr.wf (.descriptorFetch 0 [{ words := List.replicate 15 0 }]) = false ∧
    Instr.wf (.descriptorFetch 0 [{ words := List.replicate 16 0 }]) = true ∧ Instr.wf (.continue_ 0 { words := [] }) = false := by decide
theorem test_wf_readings : Instr.wf (.loopTick { chans := [⟨1024, [], 0, []⟩] }) = false ∧ Instr.wf (.loopTick { legs := [⟨13, [], 0⟩] }) = false ∧
    Instr.wf (.loopTick { noStrobe := [4] }) = false ∧ Instr.wf (.loopTick { fltLow := [64] }) = false ∧
    Instr.wf (.snapshot { chans := [⟨1024, [], 0, 0, 0⟩] }) = false ∧ Instr.wf (.snapshot { legs := [⟨13, [], 0⟩] }) = false ∧
    Instr.wf (.snapshot { tls := [⟨8, 0, 0, 0, none⟩] }) = false ∧ Instr.wf (.snapshot { ecc := [⟨5, 0, false, none⟩] }) = false ∧
    Instr.wf (.filterUpdate 0 [⟨0, 0, true, some 1024⟩]) = false ∧ Instr.wf (.timeRealign [(5, 0)]) = false ∧ Instr.wf (.pourSwap [64]) = false ∧
    Instr.wf (.referenceQualified [1, 2, 3]) = false := by decide
theorem test_wf_values : Instr.wf (.registerWrite 1 0 0 15 0) = false ∧ Instr.wf (.registerWrite 0 0 0 16 0) = false ∧ Instr.wf (.registerWrite 4 0 0 15 0) = true ∧ Instr.wf (.registerWrite 6 0 0 15 0) = true ∧
    Instr.wf (.spConfigWrite 0 4 0) = false ∧ Instr.wf (.tlLegTrip 0 3) = false ∧ Instr.wf (.txCollision 8 []) = false ∧
    Instr.wf (.runnerFrameRx 0 ⟨true, 0, 1, List.replicate 7 0, [], 0⟩) = false ∧ Instr.wf (.runnerFrameRx 0 ⟨true, 0, 0, List.replicate 8 0, List.replicate 65 0, 0⟩) = false ∧
    Instr.wf (.runnerFrameRx 0 ⟨true, 0, 1, List.replicate 8 0, List.replicate 65 0, 0⟩) = true ∧
    Instr.wf (.tonePairRequest 0 16 0) = false ∧ Instr.wf (.tonePairRequest 0 0 16) = false ∧
    Instr.wf (.toneDwellEnd 64) = false ∧ Instr.wf (.calRoundEnd 65 0) = false ∧ Instr.wf (.calRoundEnd 64 0) = true ∧
    Instr.wf (.aonPowerUp true 8) = false ∧ Instr.wf (.debugHalt 4) = false ∧ Instr.wf (.i2cAddress 128 true) = false ∧ Instr.wf (.ingotWrite 4) = false ∧
    Instr.wf (.settingsLoad 0 3) = false ∧ Instr.wf (.startupStep (some 2) [] []) = false ∧ Instr.wf (.tamperLatch 256) = false ∧
    Instr.wf (.domainSwitchOn 30 {}) = false ∧ Instr.wf (.transportWakeDetect 16 true) = false := by decide +kernel
theorem test_wf_waves : Instr.wf (.packetReceived 0 (List.replicate 8193 (0, 0))) = false ∧ Instr.wf (.packetReceived 8 []) = false ∧
    Instr.wf (.tunnelFrameReceived 0 (List.replicate 8193 (0, 0))) = false := by decide +kernel

/-! ## Rings and doorbells -/

/-- Completion ring 0 and event ring 0 with three entries used, written up to 5. -/
def ringsUsed : State := setEvRing (setComRing (put hostUp [(CQ_STATUS 0, 0x90002005), (EV_STATUS 0, 0x90002005)]) 0 { used := 3 }) 0 { used := 3 }
theorem test_wit_bells : on ringsUsed dHOSTIF = true ∧ ringEn ringsUsed .sq 0 = true ∧ ringEn ringsUsed .cq 0 = true ∧ ringEn ringsUsed .ev 0 = true ∧
    ringSize ringsUsed .sq 0 = 8 ∧ ringSize ringsUsed .cq 0 = 8 ∧ ringSize ringsUsed .ev 0 = 8 ∧
    released 8 (comRing ringsUsed 0).used (getF ringsUsed (CQ_STATUS_HEAD 0)) 5 = 3 ∧ (comRing ringsUsed 0).used = 3 ∧
    3 < released 8 (comRing ringsUsed 0).used (getF ringsUsed (CQ_STATUS_HEAD 0)) 7 ∧
    released 8 (evRing ringsUsed 0).used (getF ringsUsed (EV_STATUS_HEAD 0)) 5 = 3 ∧ (evRing ringsUsed 0).used = 3 ∧
    3 < released 8 (evRing ringsUsed 0).used (getF ringsUsed (EV_STATUS_HEAD 0)) 7 ∧
    getF ringsUsed (SQ_STATUS_TAIL 0) = 0 := by decide +kernel
theorem test_wit_rings : on up dHOSTIF = true ∧ ringEn up .sq 15 = false ∧ ringEn up .cq 15 = false ∧ ringEn up .ev 3 = false ∧
    ringEn hostUp .sq 0 = true ∧ ringEn hostUp .cq 0 = true ∧ ringEn hostUp .ev 0 = true ∧ cqBusy hostUp 0 = true := by decide +kernel

/-! ## The host interface -/

/-- A descriptor of IDENTIFY published on ring 0. -/
def oneQueued : State := dbSqTail hostUp 0 1
theorem test_wit_fetch : engineOn oneQueued = true ∧ turnRing oneQueued = some 0 ∧ (subRing oneQueued 0).staging = none ∧
    unfetched oneQueued 0 ≠ 0 ∧ fetchPaused oneQueued 0 = false ∧ flag oneQueued HI_CTRL_DCRC_EN = false ∧
    freeTagNo oneQueued = some 0 ∧ (tagOf ⟨descWords 2 7 0 [], []⟩ 0 0 0 0).opcode ≠ 1 := by decide +kernel

/-- Tag 0 fetched, holding an opcode. -/
def fetchedUp (op : Nat) (sel : Word) (ps : List Word) : State := setTag hostUp 0 (some (tagIn .fetched op sel ps))
theorem test_wit_start : getTag (fetchedUp 2 0 []) 0 = some (tagIn .fetched 2 0 []) ∧ engineOn (fetchedUp 2 0 []) = true ∧
    startable (fetchedUp 2 0 []) (tagIn .fetched 2 0 []) = true ∧ svActive (fetchedUp 2 0 []) = true ∧
    startCheck (fetchedUp 2 0 []) (tagIn .fetched 2 0 []) = 0 ∧ startCheck (fetchedUp 2 1 []) (tagIn .fetched 2 1 []) ≠ 0 ∧
    svActive (setF (fetchedUp 2 0 []) SV_STATUS_A_STATE 0) = false ∧
    startCheck (fetchedUp 3 0 []) (tagIn .fetched 3 0 []) = 0 ∧ writesState (tagIn .fetched 3 0 []) = true ∧
    bufBytes false (tagIn .fetched 2 0 []).bufLen [] = 0 := by decide +kernel
theorem test_wit_fence : startedAs (started hostUp 0 0 []) 0 0 = some (tagIn .started 0 0 []) := by decide +kernel

/-- A command awaits a buffer under CID 7, and one descriptor is published. -/
def waitingUp : State := setTag oneQueued 0 (some { tagIn .waitBuf 0x13 0x10000001 [] with total := 128, off := 64 })
/-- The CONTINUE for it, with a buffer of 64 bytes. -/
def contWords : List Word := [0x00070001, 0, 0, 0, 0, 0, 0, 0, 0, 0, 0x1000, 0, 64, 0, 0, 0]
theorem test_wit_continue : engineOn waitingUp = true ∧ turnRing waitingUp = some 0 ∧ (subRing waitingUp 0).staging = none ∧
    (allTags waitingUp).length < 1024 ∧ startCheck waitingUp (tagOf ⟨contWords, []⟩ 0 0 0 0) = 0 ∧
    (tagOf ⟨contWords, []⟩ 0 0 0 0).opcode = 1 ∧ waitingFor waitingUp 0 7 = some 0 ∧
    startCheck oneQueued (tagOf ⟨contWords, []⟩ 0 0 0 0) = 0 ∧ waitingFor oneQueued 0 7 = none := by decide +kernel

def endedUp : State := setTag hostUp 0 (some (tagIn .done 2 0 []))
theorem test_wit_completion : firstEnded endedUp 0 = some (0, tagIn .done 2 0 []) ∧ cqReady endedUp 0 = true := by decide +kernel

/-- A result of 128 bytes whose buffer of `n` bytes is free. -/
def resultTag (n : Nat) : Tag :=
  { tagIn .running 0x13 0x10000001 [] with result := List.replicate 32 1, total := 128, bufLeft := n, buf := [(0x1000, n)], applied := true }
def resultUp (n : Nat) : State := setTag hostUp 0 (some (resultTag n))
theorem test_wit_fragment : getTag (resultUp 64) 0 = some (resultTag 64) ∧ fragLen (resultUp 64) (resultTag 64) = 64 ∧
    fragLen (resultUp 128) (resultTag 128) = 128 ∧ cqReady (resultUp 64) (sqCq (resultUp 64) 0) = true ∧
    (resultTag 64).off < (resultTag 64).total := by decide +kernel

/-- Ring 0 of the event rings with a record staged, and with losses to report. -/
def stagedUp : State := setEvRing hostUp 0 { staging := [padRecord 0], co := ⟨1, 4000000⟩ }
def lostUp : State := setEvRing hostUp 0 { lostEvt := 2 }
theorem test_wit_events : evReady stagedUp 0 = true ∧ evRoom stagedUp 0 (padRecord 0) = true ∧
    getF stagedUp (EV_STATUS_TAIL 0) < ringSize stagedUp .ev 0 ∧ padCount 8 0 1 = 0 ∧
    evReady lostUp 0 = true ∧ evRoom lostUp 0 (lostRecord (evRing lostUp 0)) = true ∧
    on stagedUp dHOSTIF = true ∧ 0 < (evRing stagedUp 0).co.count := by decide +kernel
/-- The same at the ring's last entry, with a record of two entries and time to merge. -/
def longRecord : Record := { rtype := 0x10, hdr := 65536, time := 9000000, content := List.replicate 14 5, evReg := some PP_EVENT }
def padUp : State := setEvRing (setF hostUp (EV_STATUS_TAIL 0) 7) 0 { staging := [longRecord] }
theorem test_wit_pad : evReady padUp 0 = true ∧ evRoom padUp 0 longRecord = true ∧ ringSize padUp .ev 0 = 8 ∧
    getF padUp (EV_STATUS_TAIL 0) = 7 ∧ recEntries longRecord = 2 ∧ padCount 8 7 2 = 1 ∧
    evReady { padUp with hi := { padUp.hi with resetting := true } } 0 = false := by decide +kernel
def countedUp : State := setComRing (setF hostUp (CQ_IRQ_TIME 0) 10) 0 { co := ⟨1, 4000000⟩ }
/-- MSI-X enabled, vector 0 unmasked and the interrupt of event ring 0 enabled. -/
def openVec (s : State) : State :=
  setF (wr { s with hi := { s.hi with cfg := [(0x90, 0x80000000)] } } (bar4 + 0x800C) 0) (EV_CFG_IEN 0) 1
theorem test_wit_coalesce : getF countedUp (CQ_IRQ_TIME 0) ≠ 0 ∧ 0 < (comRing countedUp 0).co.count ∧
    getF countedUp (CQ_IRQ_IEN 0) = 1 ∧ getF (openVec stagedUp) (EV_CFG_IEN 0) = 1 ∧ msixEnabled (openVec stagedUp) = true ∧
    vectorOpen (openVec stagedUp) 0 = true ∧ vectorOpen hostUp 0 = false ∧ msixEnabled hostUp = false := by decide +kernel
def beating : State := setF hostUp HI_CTRL_HB_EN 1
theorem test_wit_heartbeat : on beating dPPATH = true ∧ flag beating HI_CTRL_HB_EN = true ∧ getF beating HI_CTRL_HB_RING = 0 ∧
    stagedEntries (evRing beating 0).staging < 1024 := by decide +kernel
theorem test_wit_links : on hostUp dHOSTIF = true ∧
    ({ hostUp with hi := { hostUp.hi with linkUp := true } } : State).hi.linkUp = true ∧ hostUp.hi.l1 = false ∧
    aspmL1 hostUp = false ∧ aspmL1 { hostUp with hi := { hostUp.hi with linkUp := true, cfg := [(0x60, 2)] } } = true ∧
    on hostUp dTRACE = true ∧ flag (setF hostUp TRC_CTRL_HOST_EN 1) TRC_CTRL_HOST_EN = true := by decide +kernel
/-- A reset in progress, and a command cut off by it that has ended. -/
def resetting : State := { hostUp with hi := { hostUp.hi with resetting := true } }
def orphaned : State := setTag hostUp 0 (some { tagIn .done 2 0 [] with orphan := some 1 })
theorem test_wit_reset : resetting.pw.done.testBit 12 = true ∧ on orphaned dPPATH = true ∧
    (getTag orphaned 0).isSome = true ∧ stagedOrphans oneQueued = [] := by decide +kernel

/-! ## Commands of the hub and telemetry -/

/-- A CAPTURE of channel 0: 100 samples at a trigger of kind 2, a time-out of 3 s. -/
def capParams : List Word := [100, 0, 2, 0, 0, 3]
def capUp : State := started hostUp 0x1A 0x10000001 capParams
def capTag : Tag := tagIn .started 0x1A 0x10000001 capParams
theorem test_wit_hub : startedAs (started hostUp 2 0 []) 0 2 = some (tagIn .started 2 0 []) ∧
    targetsOnline hostUp (tagIn .started 2 0 []) = true ∧
    startedAs (started hostUp 3 0 [0x21]) 0 3 = some (tagIn .started 3 0 [0x21]) ∧
    startedAs (started hostUp 0x13 0x10000001 []) 0 0x13 = some (tagIn .started 0x13 0x10000001 []) ∧
    targetsOnline hostUp (tagIn .started 0x13 0x10000001 []) = true ∧
    startedAs capUp 0 0x1A = some capTag ∧ capturePages (capTag.param 0).toNat ≤ capUp.hi.capFree := by decide +kernel
/-- The capture armed, and one whose pages are not free. -/
def capArmed : State :=
  { setTag hostUp 0 (some { capTag with state := .running, pages := 1 }) with
    hi := { hostUp.hi with
      tags := [(0, some { capTag with state := .running, pages := 1 })]
      captures := [{ captureOf 0 capTag with state := .armed, edge := true, deadline := some 9000000 }] } }
def capWaits : State :=
  { capArmed with hi := { capArmed.hi with captures := [captureOf 0 capTag] } }
theorem test_wit_capture : armedCapture capArmed 0 = capArmed.hi.captures.head? ∧ (chan capArmed 0).state ≠ .run ∧
    firstWaiting capWaits = some (captureOf 0 capTag) ∧ capturePages 100 ≤ capWaits.hi.capFree ∧
    (capArmed.hi.captures.filter (fun y => captureLive capArmed y)).any (fun y => y.chan == 0 && !y.full) = true ∧
    2048 < capturePages 600000 := by decide +kernel
/-- TELEMETRY of flask 0: every signal, one sample a millisecond; a configuration that carries none is refused. -/
def telUp (w : Word) : State := started hostUp 4 0x20000001 [w, 0]
theorem test_wit_telemetry : startedAs (telUp 0x80F00001) 0 4 = some (tagIn .started 4 0x20000001 [0x80F00001, 0]) ∧
    targetsOnline hostUp (tagIn .started 4 0x20000001 []) = true ∧ telCheck 0x80F00001 = true ∧ telCheck 0x80000001 = false ∧
    selCount 0x20000001 = 1 := by decide +kernel
def telFull : State := setTele hostUp 0 { cfg := 0x80F00001, taken := 1 }
theorem test_wit_frame : telEn (tele telFull 0).cfg = true ∧ telF (tele telFull 0).cfg ≤ (tele telFull 0).taken ∧
    on telFull dPPATH = true ∧ stagedEntries (evRing telFull 0).staging + recEntries (telRecord (tele telFull 0) 0) ≤ 1024 := by
  decide +kernel

/-! ## Channels and flasks -/

/-- CHAN_PARAM of channel 0 with the reset configuration, the brick present or not. -/
def cpWords (present : Bool) : List Word :=
  [if present then 0x80000007 else 7, 0x27102710, 0x16D00FA0, 0x17700ED8, 0x2AF80005, 0x06480A1B, 0xA5, 0x64]
def cpUp (present : Bool) : State :=
  put (started hostUp 0x10 0x10000001 (cpWords present)) [(PROF 0, 0x01010000), (MODEL 0, 0x01000000), (PROF 0 + 0x14, 0x1000)]
def cpTag (present : Bool) : Tag := tagIn .started 0x10 0x10000001 (cpWords present)
/-- A state with channel 0 in a channel state. -/
def withChan (s : State) (st : ChState) (reason : Nat) : State := setChan s 0 { state := st, reason }
theorem test_wit_chan_param : startedAs (cpUp true) 0 0x10 = some (cpTag true) ∧ targetsOnline (cpUp true) (cpTag true) = true ∧
    selRange 0x10000001 = [0] ∧ chanCheck (cpUp true) 0 ((List.range 8).map (cpTag true).param) (winWords (cpUp true) 0) = true ∧
    chanCheck (withChan (cpUp false) .run 0) 0 ((List.range 8).map (cpTag false).param) (winWords (withChan (cpUp false) .run 0) 0) = true ∧
    [0].find? (fun c => !chanCheck hostUp c ((List.range 8).map (cpTag true).param) (winWords hostUp c)) = some 0 := by
  decide +kernel
/-- CHAN_WINDOWS of channel 0 with the reset windows, and with a hysteresis out of order. -/
def cwUp (w : Word) : State := started hostUp 0x11 0x10000001 [0x64, 0x01C20226, 0xFF380258, w]
def cwTag (w : Word) : Tag := tagIn .started 0x11 0x10000001 [0x64, 0x01C20226, 0xFF380258, w]
theorem test_wit_chan_windows : startedAs (cwUp 0x14324664) 0 0x11 = some (cwTag 0x14324664) ∧
    chanCheck (cwUp 0x14324664) 0 (cfgWords (cwUp 0x14324664) 0) ((List.range 4).map (cwTag 0x14324664).param) = true ∧
    chanCheck (cwUp 0xFF324664) 0 (cfgWords (cwUp 0xFF324664) 0) ((List.range 4).map (cwTag 0xFF324664).param) = false := by
  decide +kernel
/-- CHAN_STATE of channel 0 with an action. -/
def csUp (a : Word) (st : ChState) (reason : Nat) : State := withChan (started hostUp 0x12 0x10000001 [a]) st reason
theorem test_wit_chan_state : startedAs (csUp 0 .run 0) 0 0x12 = some (tagIn .started 0x12 0x10000001 [0]) ∧
    chanStateOk (csUp 0 .run 0) 0 0 = true ∧ (chan (csUp 0 .run 0) 0).ramp = none ∧ chanStateOk (csUp 1 .hold 2) 1 0 = true ∧
    chanStateOk (csUp 1 .hold 8) 1 0 = false ∧ chanStateOk (csUp 2 .hold 2) 2 0 = true ∧
    chanStateOk (setChan (csUp 3 .hold 2) 0 { state := .disconnected, vbHist := List.replicate 1000 3000 }) 3 0 = true := by decide +kernel
/-- FLASK_PARAM and FLASK_STATE of flask 0. -/
def fpUp (w : Word) : State := started hostUp 0x14 0x20000001 [w, 50]
def fsUp (a : Word) (holds : List Nat) : State := setFlask (started hostUp 0x15 0x20000001 [a]) 0 { running := true, holds }
def aMeasure : Measure := { tag := 9, flask := 0, node := 0, bus := 0, lch := 0, started := 0 }
theorem test_wit_flask : startedAs (fpUp 0x64280000) 0 0x14 = some (tagIn .started 0x14 0x20000001 [0x64280000, 50]) ∧
    flaskCheck (tagIn .started 0x14 0x20000001 [0x64280000, 50]) = true ∧
    flaskCheck (tagIn .started 0x14 0x20000001 [0x20280000, 50]) = false ∧
    flaskHeld (setFlask (fpUp 0x64280000) 0 { holds := [1] }) 0 = true ∧
    (flaskHeld (fpUp 0x65280000) 0 || getF (fpUp 0x65280000) (FL_CFG_FSW 0) == 0x65) = false ∧
    startedAs (fsUp 1 []) 0 0x15 = some (tagIn .started 0x15 0x20000001 [1]) ∧ releaseRefused (fsUp 0 [1]) 0 = false ∧
    releaseRefused (setFlask (fsUp 0 [4]) 0 { holds := [4], failed := true }) 0 = true ∧
    ({ fsUp 0 [1] with atst := { cur := some aMeasure } } : State).atst.cur = some aMeasure := by decide +kernel
/-- Channel 0 in RUN with a trip condition; ramping; flask 0 running, with its fault return, and in its retry. -/
def tripped : State := setChan up 0 { state := .run, hiTrip := true }
def ramping : State := setChan up 0 { state := .run, ramp := some { deadline := 6000000, target := .hold, cmds := [] } }
def flaskRun (x : Flask) : State := setChan (setFlask up 0 { x with running := true }) 2 { state := .run }
theorem test_wit_trips : tripReason tripped 0 = some 3 ∧ (chan tripped 0).state = .run ∧ (chan tripped 0).ramp = none ∧
    (chan ramping 0).ramp ≠ none ∧ flaskOn (flaskRun {}) 0 = true ∧ (flask (flaskRun {}) 0).running = true ∧
    0 < getF (flaskRun {}) (FL_CFG_RETRY_MAX 0) ∧ getF (flaskRun {}) (FL_CFG_RETRY_MAX 0) ≤ (flask (flaskRun { retryCount := 15 }) 0).retryCount ∧
    nextRestart (flaskRun { retry := .restart }) 0 = some 2 ∧ nextRestart (flaskRun { retry := .restart, restarted := [2] }) 0 = none ∧
    (flask (flaskRun { retry := .wait, fltPin := true }) 0).fltPin = true ∧
    (flaskRun { retry := .restart, restarted := [2], restartAt := 4900000 }).now ≤ 4900000 + 200000 := by decide +kernel
/-- CHAN_STATE of two channels in two regions, and with region 1 offline. -/
def twoRegions : State := started hostUp 0x12 0x10FF0002 [0]
theorem test_wit_two_regions : selRange 0x10FF0002 = [255, 256] ∧ (selRegions 0x10FF0002).length = 2 ∧
    startedAs twoRegions 0 0x12 = some (tagIn .started 0x12 0x10FF0002 [0]) ∧
    targetsOnline twoRegions (tagIn .started 0x12 0x10FF0002 [0]) = true ∧
    targetsOnline (setF twoRegions GL_TOPOLOGY_REGIONS_ONLINE 1) (tagIn .started 0x12 0x10FF0002 [0]) = false := by decide +kernel

/-! ## Charge phases and windows -/

/-- Channel 0 in RUN in a phase, its flask not held. -/
def inPhase (p : Phase) : State := setChan up 0 { state := .run, ph := p }
theorem test_wit_phases : phaseLive (inPhase { phase := 1, susA := 10000 }) 0 = true ∧
    (chan (inPhase { phase := 4, susA := 10000 }) 0).ph.susA = 10000 ∧
    pNPULSE (inPhase { phase := 7 }) 0 ≤ (chan (inPhase { phase := 7 }) 0).ph.pulse ∧
    1000 * pTRELAX (inPhase { phase := 7, relaxing := true }) 0 ≤ (chan (inPhase { phase := 7, relaxing := true }) 0).ph.timer ∧
    vbBelow (inPhase { phase := 7, relaxing := true }) 0 (pVRECOV up 0) = false ∧
    vbBelow (put (inPhase { phase := 7, relaxing := true }) [(PROF 0 + 4, 1)]) 0 1 = true ∧
    1 < pNTRAIN (put (inPhase { phase := 7 }) [(PROF 0 + 0x28, 2)]) 0 ∧
    pNTRAIN (inPhase { phase := 7 }) 0 ≤ (chan (inPhase { phase := 7 }) 0).ph.train + 1 ∧
    1000 * pTPRE up 0 ≤ 0 ∧ pTCV (put up [(PROF 0 + 0x10, 2)]) 0 ≠ 0 ∧ 1000 * pTCV (put up [(PROF 0 + 0x10, 2)]) 0 ≤ 2000 ∧
    1000 * pTTOP up 0 ≤ 0 ∧ 1000 * pTREST up 0 ≤ 0 := by decide +kernel
def hotChan (st : ChState) : State := setChan up 0 { state := st, th := { oor := 2 } }
def validAgain : State := setChan up 0 { win := { cwin := 5, dwin := 3 }, th := { validSince := some 1000 } }
/-- PHASE for channel 0 with an action. -/
def phUp (a : Word) (st : ChState) : State := setChan (started hostUp 0x16 0x10000001 [a]) 0 { state := st, ph := { phase := 2 } }
theorem test_wit_windows : 2 ≤ (chan (hotChan .run) 0).th.oor ∧ (chan (hotChan .run) 0).th.invalid = false ∧
    (chan validAgain 0).win.cwin = 5 ∧ startedAs (phUp 2 .run) 0 0x16 = some (tagIn .started 0x16 0x10000001 [2]) ∧
    phaseActOk (chan (phUp 2 .run) 0) 2 = true ∧ phaseActOk (chan (phUp 2 .hold) 0) 2 = false ∧
    flaskHeld (phUp 2 .run) 0 = false := by decide +kernel

/-! ## Ticks, runner links and calibration -/

/-- Channel 0 in RUN on a running flask. -/
def driving : State := setFlask (setChan up 0 { state := .run }) 0 { running := true }
theorem test_wit_tick : flaskOn driving 0 = true ∧ (chan driving 0).state = .run ∧ (flask driving 0).retry = .run ∧
    flag (setF driving PP_STATUS_OV_CLAMP 1) PP_STATUS_OV_CLAMP = true ∧ (flask driving 0).asked = [] ∧ (flask driving 0).holds = [] ∧
    on up (dCTL 3) = true ∧ 3 < up.part.regions := by decide +kernel
/-- A runner link trained, on which a frame has failed `n` times; a frame towards the hub, good and with another CRC. -/
def trainedUp (n : Nat) : State := modRegion up 1 (fun x => { x with trained := true, retx := [((false, 9), n)] })
def goodFrame (toRegion : Bool) : RunFrame :=
  { toRegion, num := 9, cls := 0, hdr := [1, 2, 3, 4, 5, 6, 7, 8], payload := [9], crc := crc32c [1, 2, 3, 4, 5, 6, 7, 8, 9] }
def badFrame : RunFrame := { goodFrame false with crc := (goodFrame false).crc + 1 }
def armedLink : State := { trainedUp 0 with fc := { up.fc with arm := some { checker := 2, deadline := 0, jobs := [⟨5, 1, 1⟩] } } }
theorem test_wit_runner : (region (trainedUp 3) 1).trained = true ∧ (region up 1).trained = false ∧
    (goodFrame true).hdr.length = 8 ∧ (goodFrame true).crc = crc32c ((goodFrame true).hdr ++ (goodFrame true).payload) ∧
    badFrame.crc ≠ crc32c (badFrame.hdr ++ badFrame.payload) ∧ frameTries (region (trainedUp 2) 1) badFrame = 2 ∧
    frameTries (region (trainedUp 3) 1) badFrame = 3 ∧ injectLink armedLink = some 1 ∧
    frameTries (region armedLink 1) (goodFrame true) = 0 := by decide +kernel
/-- Flask 0 with its calibration converter in a place of the round; with a tone on channel 0; under an analogue measurement. -/
def calUp (k : CalConv) : State := setCalConv driving 0 k
def calTone : State := modFlask (calUp {}) 0 (fun x => { x with pairs := [{ a := 0, b := 1, ampA := 0, ampB := 0, nextA := 0, nextB := 0 }] })
def calHost (f : Nat) : State := { calUp {} with atst := { cur := some { tag := 9, flask := f, node := 0, bus := 0, lch := 0, started := 0 } } }
def ccUp (w : Word) : State := started hostUp 0x17 0x10000001 [w, 0, 0, 0x0BB803E8]
theorem test_wit_cal : carriesTone (calUp {}) 0 0 = false ∧ carriesTone calTone 0 0 = true ∧
    (calConv (calUp { slots := 16 }) 0).slots = 16 ∧ (calConv (setCalConv up 64 { slots := 16 }) 64).susp = false ∧
    flag (setF (calUp { slots := 16 }) (CC_STATUS_TRIM_SUSP 0) 1) (CC_STATUS_TRIM_SUSP 0) = true ∧
    slotHost (slotStart (calHost 0) 0) 0 = some [0] ∧ slotHost (slotStart (calUp {}) 0) 0 = none ∧ calJoined (calUp { slots := 16 }) 0 = false ∧
    calJoined { calHost 0 with atst := { cur := some { tag := 9, flask := 0, node := 3, bus := 0, lch := 0, started := 0 } } } 0 = true ∧
    calJoined up 64 = false ∧
    startedAs (ccUp 0x3A984E20) 0 0x17 = some (tagIn .started 0x17 0x10000001 [0x3A984E20, 0, 0, 0x0BB803E8]) ∧
    calCheck (ccUp 0x3A984E20) 0 [0x3A984E20, 0, 0, 0x0BB803E8] = true ∧
    calCheck (ccUp 0) 0 [0, 0, 0, 0x0BB803E8] = false := by decide +kernel

/-! ## Fault network, collector and black box -/

def msgOf (kind sev src : Nat) : FaultMsg := { kind, sev, src, ctx := 0x1234 }
/-- A message of channel 0 waits at a flask port (key 0) or an aggregator (key 64), and one at the collector's input. -/
def queued (key : Nat) (ovf : Bool) : State := setFaultQ up key { q := [⟨msgOf 1 1 0, 0⟩], ovfDue := ovf }
def inboxed (sev : Nat) : State := { setF up (FC_KIND_ESC_N 1) 0 with fc := { inbox := [(0, msgOf 1 sev 0)] } }
/-- Region 1 in hold, its link trained; power-path safe state selected by a REF_LOSS. -/
def heldUp : State := modRegion up 1 (fun x => { x with held := true, trained := true })
def refLost : State := { up with fc := { up.fc with safeKinds := [(0x37, 0)] }, pw := { up.pw with refOk := false } }
theorem test_wit_faults : flaskOn (queued 0 false) 0 = true ∧ (faultQ (queued 0 false) 0).q = [⟨msgOf 1 1 0, 0⟩] ∧
    (faultQ (queued 0 true) 0).ovfDue = true ∧ (faultQ (queued 64 false) 64).ovfDue = false ∧
    on (inboxed 1) dBBOX = true ∧ getF (inboxed 2) (FC_KIND_ESC_N 1) = 0 ∧ flag (inboxed 1) FC_STATUS_FF_VALID = false ∧
    (region heldUp 1).held = true ∧ (region heldUp 1).lost = false ∧ safePersists up = false ∧ safePersists refLost = true ∧
    on ({ up with part := .zrc256 } : State) (dCTL 0) = true ∧ 0 < Part.regions .zrc256 := by decide +kernel
/-- FAULT_INJECT with a key of 5; a checker armed. -/
def fiUp (w : Word) (arm : Option Arm) : State :=
  { setF (started hostUp 0x40 0 [w, 2, 5]) FC_CTRL_INJ_EN 1 with fc := { key := 5, arm } }
def fiTag (w : Word) : Tag := tagIn .started 0x40 0 [w, 2, 5]
theorem test_wit_inject : startedAs (fiUp 0x104 none) 0 0x40 = some (fiTag 0x104) ∧ flag (fiUp 0x104 none) FC_CTRL_INJ_EN = true ∧
    (fiTag 0x104).param 2 = 5 ∧ bits ((fiTag 0x104).param 0) 8 4 = 1 ∧ bits ((fiTag 0x204).param 0) 8 4 = 2 ∧
    bits ((fiTag 0x304).param 0) 8 4 = 3 ∧ (fiUp 0x204 (some ⟨4, 9, []⟩)).fc.arm = some ⟨4, 9, []⟩ ∧
    bits ((fiTag 0x201).param 0) 0 4 = 1 ∧
    startedAs (started hostUp 0x42 0 [1]) 0 0x42 = some (tagIn .started 0x42 0 [1]) ∧ up.fc.condOn = false ∧
    ({ up with fc := { condOn := true } } : State).fc.condOn = true := by decide +kernel
/-- An ingot waits; a slot holds a good ingot, pinned under number 0. -/
def logItem : LogItem := { itype := 5, time := 77, content := [1, 2] }
def logUp : State := { up with fc := { logq := [logItem] } }
/-- The same in supply failure with the hold-up bank uncharged. -/
def failUp : State := { logUp with pw := { logUp.pw with supply := .none } }
def spentUp : State := { logUp with bb := { nextSeq := 2 ^ 32 } }
def aCopy : List Word := ingotWords 0 5 true 77 [1, 2]
def slotUp (s : State) : State := { s with bb := { slots := [(3, { a := aCopy, b := aCopy })], latest := some 3, nextSeq := 1, pinned := [(0, 3)] } }
theorem test_wit_blackbox : logUp.fc.logq = [logItem] ∧ spentUp.fc.logq = [logItem] ∧ 2 ^ 32 ≤ spentUp.bb.nextSeq ∧ logUp.bb.nextSeq < 2 ^ 32 ∧ lastFirmware logUp = none ∧
    otherWaits logUp logItem = false ∧ (slot logUp (nextSlot logUp)).worn = false ∧ nextSlot logUp = 0 ∧
    nextSlot { logUp with bb := { logUp.bb with skipped := [0] } } = 1 ∧ failUp.pw.holdupOk = false ∧ otherWaits failUp logItem = false ∧
    ({ up with fc := { summary := [(1, 2)] } } : State).fc.summary ≠ [] ∧
    (slotUp up).bb.pinned.find? (fun p => p.1 == 0) = some (0, 3) ∧ (slot (slotUp up) 3).a.length = 64 ∧
    (readAll (started hostUp 0x41 0 [])).1 = [] := by decide +kernel
theorem test_wit_good_of (d : List Word) (h : d.length = 62) :
    copyGood (d ++ [crc32cWords d, d.getD 0 0 ^^^ 0xFFFFFFFF]) = true := by
  have e : 0 < d.length := by omega
  simp [copyGood, copyDone, iData, List.getD_eq_getElem?_getD, h]
theorem test_wit_good : copyGood aCopy = true :=
  test_wit_good_of (0 :: 0x05800008 :: 77 :: 0 :: ([1, 2] ++ List.replicate 56 0)) (by decide)

/-! ## The power path -/

/-- List 0, 1 with sensible windows: sprue 0 and 1 qualify between 20.00 V and 30.00 V, collapse at 18.00 V. -/
def ppConf (s : State) : State :=
  put s [(PP_PRIORITY, 0x0005FF10), (PP_DROOP, 0x0BB807D0), (PP_CBUS, 0x0BB807D0), (SP_VTH 0, 0x070807D0), (SP_VTH2 0, 0x01F40BB8),
    (SP_VTH 1, 0x070807D0), (SP_VTH2 1, 0x01F40BB8), (SP_SEARCH 0, 0x03E83205), (SP_SEARCH 1, 0x03E83205),
    (SP_CFG 0, 0x00320000), (SP_CFG 1, 0x00320000)]
def ppReady (s : State) : State := setReady (setReady (ppConf s) 0 true) 1 true
/-- Armed with sprue `n` active. -/
def ppActive (s : State) (n : Nat) : State :=
  updGates (setFlag (setF (setFlag (ppReady s) PP_STATUS_ARMED true) PP_STATUS_ACTIVE n) (SP_STATUS_ACTIVE n) true)
/-- Sprue 0's search in state `st` with limit `lim` (10 mA). -/
def searching (st lim : Nat) (x : Sprue) : State :=
  setSprue (setF (setF (setFlag (ppActive up 0) (SP_CFG_SEARCH_EN 0) true) (SP_LIMIT_SSTATE 0) st) (SP_LIMIT_LIMIT 0) lim) 0 x
theorem test_wit_arm : on (ppReady up) dPPATH = true ∧ (ppReady up).pw.supply = .aux12 ∧ (ppReady up).pw.transport = .run ∧
    armCheck (ppReady up) = 0 ∧ armed (ppReady up) = false ∧ activeSprue (ppReady up) = none ∧ (ppReady up).pp.dead = none ∧
    chooseSprue (ppReady up) = some 0 ∧ armCheck up ≠ 0 ∧ armed up = false ∧ armed (ppActive up 1) = true ∧
    mayArm up = true ∧ mayArm (ppReady up) = true ∧ mayArm State.reset = false := by decide +kernel
/-- Sprue 1's over-voltage, sprue 0's time in its window and CBUS's time below `OV` − 1.00 V run since 4 ms. -/
def timed (s : State) : State :=
  let s := setSprue (setSprue s 1 { sprue s 1 with ovSince := some 4000000 }) 0 { sprue s 0 with inSince := some 4000000 }
  { s with pp := { s.pp with ovBelow := some 4000000 } }
theorem test_wit_timed : (sprue (timed (ppActive up 1)) 1).ovSince ≠ none ∧ (sprue (ppActive up 1) 1).ovSince = none ∧
    isActive (timed (ppActive up 1)) 1 = true ∧ inWindow (timed (ppConf up)) 0 2500 = true ∧
    (sprue (timed (ppConf up)) 0).inSince = some 4000000 ∧ (sprue (ppConf up) 0).inSince = none ∧
    faultLasts (ppConf up) 0 2500 = false ∧ (timed (ppConf up)).pp.ovBelow = some 4000000 ∧ (ppConf up).pp.ovBelow = none := by
  decide +kernel
def deadUp (s : State) : State :=
  { setF (setFlag s PP_STATUS_ARMED true) PP_STATUS_ACTIVE 7 with pp := { s.pp with dead := some ⟨.fallback, some 1, 0, 5001000⟩ } }
theorem test_wit_transfer : isActive (ppActive up 1) 1 = true ∧ spMode (ppActive up 1) 1 = 0 ∧ 100 < getF (ppActive up 1) (SP_VTH_COLLAPSE 1) ∧
    (-70000 : Int) < -(getF (ppActive up 1) (SP_VTH2_REV_TH 1) : Int) ∧ getF (ppActive up 1) (SP_VTH2_QUAL_MAX 1) < 4000 ∧
    switching (ppActive up 1) = true ∧ listedBefore (ppActive up 1) 0 1 = true ∧ getF (ppActive up 1) PP_PRIORITY_RETURN_DLY ≠ 0 ∧
    flag (ppActive up 1) (SP_STATUS_READY 0) = true ∧ flag (ppActive up 1) (SP_STATUS_LOCKOUT 0) = false ∧
    switching (deadUp (ppReady up)) = true ∧ activeSprue (deadUp (ppReady up)) = none ∧ chooseSprue (deadUp (ppReady up)) = some 0 ∧
    switching (deadUp (ppConf up)) = true ∧ activeSprue (deadUp (ppConf up)) = none ∧ chooseSprue (deadUp (ppConf up)) = none := by
  decide +kernel
/-- PP_SET of sprues 1 and 3 and the list; DROOP_TEST. -/
def ppSetUp (s : State) : State := setTag (started s 0x30 0 [0x00030F21, 0x10A]) 0
  (some { tagIn .started 0x30 0 [0x00030F21, 0x10A] with src := List.replicate 256 0x22 })
theorem test_wit_ppset : on hostUp dPPATH = true ∧ inWindow (ppConf up) 0 2500 = true ∧ flag (ppConf up) (SP_STATUS_READY 0) = false ∧
    inWindow (ppReady up) 0 100 = false ∧ flag (ppReady up) (SP_STATUS_READY 0) = true ∧ flag up SP_LOCK_LOCK = false ∧
    armed (ppActive up 0) = true ∧ (priorityList (ppActive up 0)).contains 0 = true ∧
    (startedAs (ppSetUp hostUp) 0 0x30).isSome = true ∧ (startedAs (ppSetUp hostUp) 0 0x30).all (fun x => targetsOnline (ppSetUp hostUp) x &&
      !ppSetLocked (ppSetUp hostUp) x && (x.param 1).getLsbD 8) = true ∧
    (startedAs (ppSetUp hostUp) 0 0x30).all (fun x => ppSetLocked (setFlag (ppSetUp hostUp) SP_LOCK_LOCK true) x) = true ∧
    ppSafe (setFlag up PP_STATUS_SAFE true) = true ∧ flag (setFlag up PP_STATUS_SAFE true) FC_EVENT_PP_SAFE = false := by decide +kernel
theorem test_wit_cbus : 100 < getF (ppConf up) PP_CBUS_UV ∧ getF (ppConf up) PP_CBUS_OV < 4000 ∧ flag (ppConf up) PP_STATUS_OV_CLAMP = false ∧
    flag (setFlag (ppConf up) PP_STATUS_OV_CLAMP true) PP_STATUS_OV_CLAMP = true ∧ 2000 + 100 < getF (ppConf up) PP_CBUS_OV ∧
    startedAs (started (ppActive hostUp 0) 0x31 0 []) 0 0x31 = some (tagIn .started 0x31 0 []) ∧
    armed (ppActive hostUp 0) = true ∧ droopOn (ppActive hostUp 0) = false ∧ armed hostUp = false := by decide +kernel
theorem test_wit_search : on (ppActive up 0) dPPATH = true ∧ (sprue (setSprue (ppActive up 0) 0 { lowSince := some 7 }) 0).lowSince = some 7 ∧
    searchLive (searching 1 500 {}) 0 = true ∧ getF (searching 1 500 {}) (SP_LIMIT_SSTATE 0) = 1 ∧
    meanVs (searching 2 500 {}) 0 1315789 = 2500 ∧ meanIs (searching 2 500 {}) 0 150000 = 600 ∧
    sourceChanged (searching 2 500 { vtrip := 2000 }) 0 1900 30 = false ∧ sourceChanged (searching 2 500 { vtrip := 2000 }) 0 2500 600 = false ∧
    getF (searching 2 500 {}) (SP_SEARCH_IMAX 0) = 1000 ∧ spStep (searching 2 500 {}) 0 = 10 ∧
    sourceChanged (searching 3 500 { prev := some (2000, 300) }) 0 2500 301 = true ∧ getF (searching 4 500 {}) (SP_LIMIT_SSTATE 0) = 4 ∧
    getF (searching 3 1000 {}) (SP_LIMIT_SSTATE 0) = 3 := by decide +kernel

/-! ## Estimation and spectroscopy -/

/-- Channel 5 in a state, with a snapshot at 5 ms, its estimator as given. -/
def estUp (st : ChState) (e : Est) : State :=
  let s := setEst (setChan { hostUp with snap := 5000000 } 5 { state := st }) 5 e
  setChan s 5 { chan s 5 with cv := { (chan s 5).cv with vb := 3300, acc := 77, start := 3 } }
theorem test_wit_filter : filterDue (estUp .run { initDue := true }) 5 = true ∧ filterDue (estUp .run { live := true, start := 3 }) 5 = true ∧
    filterDue (estUp .disconnected { live := true }) 5 = true ∧
    (est (estUp .disconnected { live := true, armed := true, left := some 7 }) 5).left = some 7 ∧ 7 < (estUp .disconnected {}).snap ∧ (est (estUp .run { live := true, start := 3 }) 5).start = (chan (estUp .run {}) 5).cv.start ∧
    on up dCRUCIBLE = true ∧ (est (estUp .run { live := true, exceed := 100 }) 5).exceed = 100 ∧ flag up CR_STATUS_HOT = false ∧
    flag (setFlag up CR_STATUS_HOT true) CR_STATUS_HOT = true ∧
    initNow (estUp .run { initDue := true }) 5 = true ∧ initNow (estUp .run { live := true, start := 3 }) 5 = false ∧
    eccBad [⟨0, 9, true, some 5⟩] 5 = true ∧ eccBad [⟨0, 9, true, some 4⟩, ⟨0, 9, false, some 5⟩] 5 = false := by decide +kernel
def epTag (p0 p1 p2 : Word) : Tag := tagIn .started 0x18 0x10050002 [p0, p1, p2]
def epUp (p0 p1 p2 : Word) : State := started hostUp 0x18 0x10050002 [p0, p1, p2]
theorem test_wit_records : recordDue { recDirty := true } = true ∧ startedAs (epUp 0 0x03E801F4 0x23280064) 0 0x18 = some (epTag 0 0x03E801F4 0x23280064) ∧
    targetsOnline (epUp 0 0 0) (epTag 0 0 0) = true ∧ estParamOk [0, 0x03E801F4, 0x23280064] = true ∧ estParamOk [0, 0, 0] = false ∧
    startedAs (started hostUp 0x19 0x10050001 []) 0 0x19 = some (tagIn .started 0x19 0x10050001 []) := by decide +kernel
/-- A sweep stands on flask 2; channels 32 and 33 may be paired. -/
def sweepOn (x : Flask) (l : List FlaskSweep) : State := setFlask (setFlaskSweeps hostUp 2 l) 2 x
def aSweep : FlaskSweep := { host := none, pairs := [(0, 1)], mask := 0x5, k := 0, dwellEnd := 7000000 }
def pairable (s : State) : State :=
  let t := put s [(EP_CFG 32, 0x000A0000), (EP_CFG 33, 0x000A0000)]
  let t := setFlag (setFlag t (CH_CFG_TONE_EN 32) true) (CH_CFG_TONE_EN 33) true
  let ch : Chan := { state := .run }
  let c : Chan := { ch with cv := { ch.cv with vb := 3300 }, win := { ch.win with cwin := 1 }, ph := { ch.ph with phase := 4 } }
  setFlask (setChan (setChan t 32 c) 33 c) 2 { running := true }
def spTag (a m : Word) : Tag := tagIn .started 0x2B 0x20020001 [a, m]
def spUp (a m : Word) : State := started (pairable hostUp) 0x2B 0x20020001 [a, m]
theorem test_wit_sweep : flag (setFlag up CR_CTRL_SWEEP_EN true) CR_CTRL_SWEEP_EN = true ∧ up.sweeps.scheduled = false ∧ up.sweeps.hosts = [] ∧
    2 ∈ sweepFlasks (pairable up) ∧ sweepPairs (pairable up) 2 (getF up CR_STATUS_SWEEP_NO) = [(0, 1)] ∧
    acceptPair (pairable up) 2 0 1 = true ∧ acceptPair up 2 0 1 = false ∧ droopOn (pairable up) = false ∧
    (activePairs aSweep).contains (0, 1) = true ∧ (est up 32).armed = false ∧ (flask (modFlask up 2 (fun x => { x with asked := [(0, 1)] })) 2).asked = [(0, 1)] ∧ flaskOn up 2 = true ∧
    flaskSweeps (sweepOn { paused := true } [aSweep]) 2 = [aSweep] ∧ (flask (sweepOn { paused := true } [aSweep]) 2).paused = true ∧
    (sweepOn {} [aSweep]).sweeps.flasks = [(2, [aSweep])] ∧ nextTone aSweep.mask 1 = some 2 ∧
    startedAs (spUp 1 0x6) 0 0x2B = some (spTag 1 0x6) ∧ targetsOnline (spUp 1 0x6) (spTag 1 0x6) = true ∧
    selRange 0x20020001 = [2] ∧ hostSweeping (spUp 1 0x6) 2 = false ∧ sweepPairs (spUp 1 0x6) 2 0 ≠ [] ∧
    hostSweeping (setFlaskSweeps (spUp 1 0x6) 2 [{ aSweep with host := some 9 }]) 2 = true := by decide +kernel

/-! ## The ladle -/

/-- An objectives image that passes its check: one second of reserve, target 100.00 %, one calibration brick. -/
def goodObj : List Word := [0x01000000, 1, 0, 0x27100000, 0, 0x01010001, 0xF0000000, 0] ++ List.replicate 32 0
def ladUp : State := { hostUp with lad := { hostUp.lad with next := 6000000, obj := [(List.replicate 40 7, 3)] } }
/-- A pour read at 4 ms for the swap at 10 ms, from a read of nothing. -/
def aPour : Pour :=
  { order := 1, readAt := 4000000, swapAt := 10000000, chans := [], pp := 0, pl := 0, px := 0, pb := 0, er := 0, eAvail := 0, phi := 256
    shortP := false, shortE := false, riser := [], obj := List.replicate 40 0, winMode := 0, winIdx := 0, cands := 3, exclOld := [], xfer := true, zmed := 0, ymed := 0, runOut := [], imports := [] }
def pourUp (p : Pour) : State := { hostUp with lad := { hostUp.lad with pour := some p } }
theorem test_wit_pour : pouring ladUp = true ∧ ladUp.lad.pour = none ∧ pouring (pourUp aPour) = true ∧ (pourUp aPour).lad.pour = some aPour ∧
    aPour.results = none ∧ aPour.sel = none ∧ aPour.target = none ∧ (pourUp aPour).now + 400000 ≤ aPour.swapAt ∧ (List.replicate 40 (7 : Word)).length = 40 := by decide +kernel
/-- The pour selected, delivered to flask 2, acknowledged; one channel waits to start. -/
def selPour : Pour := { aPour with sel := some (1, false), table := [(33, 100, 7)] }
def shadowUp : State := modFlask (pourUp { selPour with target := some 10000000 }) 2 (fun x => { x with shadow := some (1, [9]) })
def loadPour : Pour := { selPour with target := some 10000000, loads := [(0x20, 4, [1, 2], 0)] }
/-- Only region 0 online, its flasks all in hold. -/
def heldAll : State := forEach (regionFlasks 0) (fun f s => modFlask s f (fun x => { x with holds := [1] })) (setF (pourUp selPour) GL_TOPOLOGY_REGIONS_ONLINE 1)
/-- Region 1's last swap at 7 ns. -/
def staleUp : State := modRegion up 1 (fun x => { x with lastSwap := some 7 })
theorem test_wit_deliver : selPour.sel ≠ none ∧ flaskOn (pourUp selPour) 2 = true ∧ online (pourUp selPour) 0 = true ∧
    (pourUp selPour).now + 100000 ≤ selPour.swapAt ∧ shadowReady (pourUp selPour) 2 = false ∧ flaskHeld (pourUp selPour) 2 = false ∧
    2 ∈ regionFlasks 0 ∧ (∀ f ∈ regionFlasks 0, flaskOn heldAll f = true → flaskHeld heldAll f = false → shadowReady heldAll f = true) ∧
    online heldAll 0 = true ∧ heldAll.lad.pour = some selPour ∧ (flask shadowUp 2).shadow = some (newEpoch shadowUp, [9]) ∧
    (flask shadowUp 3).shadow = none ∧ (∀ l ∈ loadPour.loads, l.2.1 < 16 ∧ l.2.2.1.length ≤ if l.1 = 0x20 then 64 else 256) ∧
    swapLate shadowUp 10000000 [] 2 = false ∧ swapLate shadowUp 10000000 [2] 2 = true ∧ loadCheck (pourUp loadPour) 4 [1, 2] true = stSUCCESS ∧
    loadCheck (setFlag (pourUp loadPour) (CH_CFG_PRESENT 9) true) 0 [0] true ≠ stSUCCESS ∧
    (region staleUp 1).stale = false ∧ on staleUp (dCTL 1) = true ∧ (region staleUp 1).lastSwap = some 7 ∧ 1 < staleUp.part.regions ∧
    1 ∈ onlineRegions shadowUp ∧
    (setF { pourUp selPour with pp := { cbusV := 5000 } } PP_CBUS_UV 1000).pp.droopAt < selPour.readAt := by decide +kernel
def calTag (a : Word) : Tag := tagIn .started 0x2A 0x10050002 [a]
def runUp (a : Word) (r : CalRun) : State := setCalRun (setChan (started hostUp 0x2A 0x10050002 [a]) 6 { state := .run }) 6 r
def srcUp (op : Nat) (sel : Word) (b : List Byte) : State := setTag hostUp 0 (some { tagIn .started op sel [] with src := b })
theorem test_wit_ladle : (startedAs (srcUp 0x28 0 []) 0 0x28).isSome = true ∧ objectivesOk (bytesWords []) = false ∧ objectivesOk (bytesWords (wordsBytes goodObj)) = true ∧
    startedAs (runUp 1 {}) 0 0x2A = some (calTag 1) ∧ bits ((calTag 1).param 0) 0 1 = 1 ∧
    (selRange ((calTag 1).word 1)).filter (fun c => (chan (runUp 1 {}) c).state != .absent && (calRun (runUp 1 {}) c).state == 0) = [6] ∧
    (selRange ((calTag 0).word 1)).filter (fun c => (calRun (runUp 0 { state := 3 }) c).state != 0) = [6] ∧
    2 ≤ (calRun (runUp 0 { state := 3 }) 6).state ∧
    loadCheck hostUp 4 (List.replicate 64 0) false = stSUCCESS ∧ loadCheck hostUp 4 [1] false = stCHECK_FAILED ∧
    (startedAs (srcUp 0x20 0x50040000 []) 0 0x20).isSome = true ∧ (startedAs (srcUp 0x21 0x50040000 []) 0 0x21).isSome = true ∧
    startedAs (started hostUp 0x29 0 []) 0 0x29 = some (tagIn .started 0x29 0 []) ∧ 4 ≤ hostUp.hi.capFree := by decide +kernel

/-! ## Trace and analogue test -/

def aRec : TraceRec := ⟨0x22, 5, 9, 3⟩
def trcUp (ctrl status : Word) (t : Trace) : State := { put hostUp [(TRC_CTRL, ctrl), (TRC_STATUS, status)] with trc := t }
theorem test_wit_trace : on (trcUp 1 0 {}) dTRACE = true ∧ getF (trcUp 1 0x0001FFFF {}) TRC_STATUS_WR_IDX = 131071 ∧
    flag (trcUp 3 0x08000000 {}) TRC_CTRL_MODE = true ∧ flag (trcUp 3 0x08000000 {}) TRC_STATUS_WRAPPED = true ∧
    flag (trcUp 3 0x80000000 {}) TRC_STATUS_FROZEN = true ∧ flag (trcUp 9 0 {}) TRC_CTRL_HOST_EN = true ∧
    traceLinkOk { trcUp 9 0 {} with hi := { (trcUp 9 0 {}).hi with linkUp := true } } = true ∧ traceHostFull (trcUp 9 0 {}) = false ∧
    traceHostFull (setF (trcUp 9 0 {}) TRC_HRD_HRD 16) = true ∧ flag (trcUp 0x11 0 {}) TRC_CTRL_PORT_EN = true ∧
    (trcUp 1 0 { freezeOn := some aRec, queue := [aRec] }).trc.queue = [aRec] ∧ getF (trcUp 1 0 {}) TRC_FREEZE_POST ≠ 0 := by decide +kernel
def atTag : Tag := tagIn .started 0x52 0x20020001 [0x104, 3]
/-- ATEST of flask 2 started; its sequencer runs or not, the domain is on or not. -/
def atUp (run : Bool) (d : Bool) : State :=
  let s := setFlag (setFlask (started hostUp 0x52 0x20020001 [0x104, 3]) 2 { running := run }) AT_CTRL_FIELD_EN true
  if d then s else { s with pw := { s.pw with dom := 0x3FFFFDFF } }
def aMeas : Measure := { tag := 0, flask := 2, node := 4, bus := 1, lch := 3, started := 5000000 }
def measuring (run : Bool) (l : List Nat) : State := { setTag (atUp run true) 1 (some atTag) with atst := { cur := some aMeas, releases := l } }
theorem test_wit_atest : startedAs (atUp true true) 0 0x52 = some atTag ∧ selFirst (atTag.word 1) = 2 ∧ on (atUp true false) dATEST = false ∧
    on (atUp true true) dATEST = true ∧ (measuring true []).atst.cur ≠ none ∧ (atUp true true).atst.cur = none ∧
    (atUp true true).atst.waiting = [] ∧ tabGet (fun _ => 0) (atUp true true).pw.switchingOff dATEST = 0 ∧
    flag (atUp true true) AT_CTRL_FIELD_EN = true ∧ flag (setFlag up AT_CTRL_FIELD_EN false) AT_CTRL_FIELD_EN = false ∧ interlock (atUp true true) 2 = true ∧
    interlock (atUp false true) 2 = false ∧ (atUp true true).atst.boundary = false ∧ getTag (measuring true [1]) 0 = some atTag ∧
    getTag (measuring true [1]) 1 = some atTag ∧ releaseRefused (measuring true [1]) 2 = false ∧ interlock (measuring false []) 2 = false := by
  decide +kernel

/-! ## The watchdog -/

def wdIn (st : Nat) (w : Watchdog) : State := { setF (put up [(WD_PERIOD, 0x00320064), (WD_NOW, 0x00320064), (WD_QUESTION, 0x1234), (WD_CFG, 0x00020005)]) WD_STATUS_STATE st with wd := w }
theorem test_wit_watchdog : on up dHOSTIF = true ∧ wdState (wdIn 1 {}) = wdIDLE ∧ wdState (wdIn 2 {}) = wdBOOT ∧ wdState (wdIn 3 {}) = wdRUN ∧
    wdState (wdIn 4 {}) = wdPULSE ∧ wdState (wdIn 5 {}) = wdGIVEN_UP ∧ wdOpen (wdIn 3 { start := 4000000 }) = false ∧
    wdOpen { wdIn 3 { start := 4000000 } with now := 60000000 } = true ∧
    wdLate { wdIn 3 { start := 4000000, deadline := 104000000 } with now := 60000000 } = false ∧ wdLate (wdIn 2 { deadline := 4000000 }) = true ∧
    (((token 0x1234 0x00050007).setWidth 32 : Word).extractLsb' 0 16 == token (question (wdIn 3 {})) 0x00050007) = true ∧
    flag up WD_CTRL_LOCK = false ∧ flag (setFlag up WD_CTRL_LOCK true) WD_CTRL_LOCK = true ∧ getF (wdIn 4 {}) WD_CFG_FAIL_MAX = 2 ∧
    getF (wdIn 4 {}) WD_STATUS_CONSEC < 2 ∧ 2 ≤ getF (setF (wdIn 4 {}) WD_STATUS_CONSEC 3) WD_STATUS_CONSEC ∧
    ({ wdIn 3 {} with fuses := { (wdIn 3 {}).fuses with wdDbg := true } } : State).fuses.wdDbg = true := by decide +kernel

/-! ## Supervisors and domains -/

/-- Supervisor A active, B in a state with what it holds. -/
def svUp (b : Nat) (x : Supervisor) (v : Supervisors) : State :=
  { setF (setF up SV_STATUS_A_STATE 2) SV_STATUS_B_STATE b with sv := { v with b := x } }
/-- A committed epoch with an empty body. -/
def aSlot : CkSlot := { epoch := 4, crc := crc32cWords [], commit := 4 ^^^ 0xFFFFFFFF, began := 4500000 }
theorem test_wit_supervisor : on up (svDomain 0) = true ∧ svState (svUp 4 {} {}) 0 = svACTIVE ∧ svState (svUp 4 {} {}) 1 = svREADY ∧
    standbySv (svUp 4 {} {}) = some 1 ∧ activeSv (svUp 4 {} {}) = some 0 ∧ svHalted (svUp 4 {} {}) 0 = false ∧
    svHalted (svUp 4 {} { halted := 1 }) 0 = true ∧ recentFails (svUp 4 { fails := [4, 3] } {}) 1 = [4, 3] ∧
    (sup (svUp 1 { restartDue := some 9 } {}) 1).restartDue ≠ none ∧ on (svUp 4 {} {}) dBBOX = true ∧
    (sup (svUp 4 {} {}) 1).slots.length = 2 ∧ ([] : List Word).length ≤ 0xFFEF ∧ crc32cWords aSlot.body = aSlot.crc ∧
    (svUp 4 { slots := [aSlot, {}] } { last := some 0, toCheck := true }).sv.toCheck = true ∧
    svState (svUp 3 { checked := some (4, 4) } {}) 1 = svWAIT ∧ (sup (svUp 3 { checked := some (4, 4) } {}) 1).checked ≠ none ∧
    (svUp 4 {} { takeover := some (0, 1) }).sv.takeover = some (0, 1) ∧
    standbyOk (svUp 4 { checked := some (4, 4900000) } {}) = true := by decide +kernel
def offDue (d : Nat) : State := { up with pw := { up.pw with switchingOff := [(d, 1)] } }
def banksOff1 : State := { wr up CK_PDREQ 0x3FFFF5FF with pw := { up.pw with dom := 0x3FFFF7FF } }
theorem test_wit_domains : dBANK 1 2 ∈ startOrder up.part ∧ on up (dBANK 1 2) = true ∧ dependsOn (dBANK 1 2) (dCTL 1) = true ∧
    tabGet (fun _ => 0) (offDue (dBANK 1 2)).pw.switchingOff (dBANK 1 2) ≠ 0 ∧ flag up CK_CTRL_LOCK = false ∧
    onRequest up.part (dBANK 1 2) = true ∧ dFlask 24 = dBANK 1 2 ∧ (rd up CK_PDREQ).getLsbD (dBANK 1 2) = true ∧
    on banksOff1 (dBANK 0 0) = false ∧ (rd banksOff1 CK_PDREQ).getLsbD (dBANK 0 0) = false ∧ requiredOn banksOff1 (dBANK 0 0) = true ∧
    onBoot banksOff1 = false ∧ requestable banksOff1 (dBANK 0 0) = true ∧ banksOff1.pw.switchingOn.getLsbD (dBANK 0 0) = false ∧
    up.pw.timeSrc = .reference ∧ up.pw.timeFrom ≤ up.now ∧ up.pw.aon = true ∧ up.pw.transport = .run ∧ up.pw.supply = .aux12 ∧
    ({ up with pw := { up.pw with refOk := true } } : State).pw.refOk = true ∧
    [25000, 24875, 25125, 25000].all (countWithin 1) = true ∧ [25000, 25126, 1, 1].all (countWithin 1) = false ∧
    countWithin 4 5 = false ∧ countWithin 4 24500 = true ∧ dFlask 24 = dBANK 1 2 ∧ 24 < up.part.flasks := by decide +kernel

/-! ## Start-up, supplies and transport mode -/

def pwUp (f : Power → Power) : State := { up with pw := f up.pw }
/-- Domains on as given, steps done, one domain being switched on. -/
def startUp (dom sw : BitVec 32) (done : Nat) : State :=
  { State.reset with now := 5000000, pw := { aon := true, dom, aux12 := true, supply := .aux12, done, switchingOn := sw, refOk := true } }
theorem test_wit_startup : State.reset.pw.aon = false ∧ (startUp 0 0x40 2).pw.switchingOn.getLsbD dBBOX = true ∧
    requiredOn (startUp 0 0x40 2) dBBOX = true ∧ nextStep (startUp 0 0x40 6) = some 3 ∧ dBBOX ∈ stepWants (startUp 0 0x40 6) 3 ∧
    dBBOX ∈ startOrder State.reset.part ∧ nextStep (startUp 0 0 0) = some 1 ∧ nextStep (startUp 0xFFF 0 0x3E) = some 6 ∧
    (∀ d ∈ stepWants (startUp 0xFFF 0 0x3E) 6, on (startUp 0xFFF 0 0x3E) d = true) ∧ nextStep (startUp 0xFFF 0 0x7E) = some 7 ∧
    loaderGood [0] = true ∧ loaderGood [1] = false ∧ (bootImage (startUp 0xFFF 0 0x7E)).1 = true ∧ (∃ d ∈ stepWants (startUp 0 0 6) 3, on (startUp 0 0 6) d = false) ∧
    svState (setF up SV_STATUS_B_STATE 1) 1 = svSTARTING ∧ up.pw.done.testBit 7 = true ∧ (activeSv up).isSome = true := by decide +kernel
theorem test_wit_supplies : (pwUp (fun p => { p with resetDue := some 4 })).pw.resetDue = some 4 ∧ up.pw.supply = .aux12 ∧ up.pw.aon = true ∧
    (pwUp (fun p => { p with supply := .boot })).pw.supply = .boot ∧ (pwUp (fun p => { p with waking := true, supply := .none })).pw.waking = true ∧
    up.pw.waking = false ∧ on up dBBOX = true ∧ (pwUp (fun p => { p with supply := .none })).pw.transport = .run := by decide +kernel
def trTag : Tag := tagIn .started 0x32 0 []
def trUp : State := modChan (started hostUp 0x32 0 []) 0 (fun x => { x with cv := { x.cv with vb := 25000 } })
def inDrain (c : Chan) : State := setChan (pwUp (fun p => { p with transport := .drain, timer := 9000000 })) 7 c
theorem test_wit_transport : startedAs trUp 0 0x32 = some trTag ∧ targetsOnline trUp trTag = true ∧ trUp.pw.transport = .run ∧
    transportRefused trUp 0 = false ∧ transportRefused trUp 901 = true ∧ (∀ d < 1024, conducting (inDrain {}) d = false) ∧
    conducting (inDrain { state := .run, i := 50 }) 7 = true ∧ writesState (tagIn .started 0x10 0 []) = true ∧ (pwUp (fun p => { p with transport := .wake, aux12 := false })).pw.boot = false ∧
    (pwUp (fun p => { p with transport := .shutdown, dom := 0 })).pw.dom = 0 := by decide +kernel

/-! ## Firmware, settings, digests -/

/-- The header words of an image of 64 KiB for every part. -/
def imgHead (len ver : Nat) : List Byte := wordsBytes [0x01000007, BitVec.ofNat 32 len, BitVec.ofNat 32 ver, 0x00010003]
/-- A FW_STAGE command with a chunk. -/
def stageTag (ofs len : Nat) (src : List Byte) : Tag := { tagIn .started 0x48 0 [BitVec.ofNat 32 ofs, BitVec.ofNat 32 len] with src }
def stageUp (st total ofs len : Nat) (b src : List Byte) : State :=
  { setTag (setF hostUp GL_FWSTAT_FW_STATE st) 0 (some (stageTag ofs len src)) with fw := { slotB := .bytes b, total } }
def fwUp (st op : Nat) (b : Image) : State := { setF (started hostUp op 0 []) GL_FWSTAT_FW_STATE st with fw := { slotB := b } }
theorem test_wit_stage : startedAs (stageUp 0 0 0 65536 [] (imgHead 65536 1)) 0 0x48 = some (stageTag 0 65536 (imgHead 65536 1)) ∧
    targetsOnline (stageUp 0 0 0 65536 [] (imgHead 65536 1)) (stageTag 0 65536 (imgHead 65536 1)) = true ∧
    headerOk up.part (imgHead 65536 1) = true ∧ wordAt (imgHead 65536 1) 4 = 65536 ∧ headerOk up.part (imgHead 65540 1) = false ∧
    headerOk up.part (imgHead 0x8000 1) = false ∧ headerOk up.part [] = false ∧
    startedAs (stageUp 1 65536 4 65536 [1, 2, 3, 4] [5]) 0 0x48 = some (stageTag 4 65536 [5]) ∧
    slotImage (stageUp 1 65536 4 65536 [1, 2, 3, 4] [5]) (inactiveSlot (stageUp 1 65536 4 65536 [1, 2, 3, 4] [5])) = .bytes [1, 2, 3, 4] := by
  decide +kernel
theorem test_wit_commit : startedAs (fwUp 4 0x49 .factory) 0 0x49 = some (tagIn .started 0x49 0 []) ∧
    slotValid (fwUp 2 0x49 .factory) (inactiveSlot (fwUp 2 0x49 .factory)) = true ∧
    slotValid (fwUp 0 0x49 (.bytes [])) (inactiveSlot (fwUp 0 0x49 (.bytes []))) = false ∧
    startedAs (fwUp 4 0x4A .factory) 0 0x4A = some (tagIn .started 0x4A 0 []) ∧ inProbation (fwUp 4 0x4A .factory) = true ∧
    quarantine (fwUp 4 0x4A .factory) = true ∧ quarantine (setFlag (fwUp 4 0x4A .factory) GL_FWSTAT_QUARANTINE false) = false ∧ targetsOnline hostUp (tagIn .started 0x49 0 []) = true := by decide +kernel
def probUp (e : Option Nat) : State := { setF up GL_FWSTAT_FW_STATE 4 with fw := { probEnd := e } }
def probAlone : State := { setF (setF (probUp none) SV_STATUS_A_STATE 1) SV_STATUS_B_STATE 1 with sv := { noneSince := some 4000000 } }
theorem test_wit_probation : on (probUp (some 9)) dPPATH = true ∧ inProbation (probUp (some 9)) = true ∧ (probUp (some 9)).fw.probEnd = some 9 ∧
    up.fuses.noAutoFb = false ∧ activeSv probAlone = none ∧ inProbation probAlone = true ∧ probAlone.sv.noneSince = some 4000000 := by decide +kernel

/-- Words come back from their bytes. -/
theorem bytesWord_wordBytes (w : Word) : bytesWord (wordBytes w) = w := by
  have h (n k : Nat) : (w.extractLsb' n k).toNat = w.toNat / 2 ^ n % 2 ^ k := by simp [Nat.shiftRight_eq_div_pow]
  apply BitVec.eq_of_toNat_eq
  have := w.isLt
  simp only [bytesWord, wordBytes, List.foldr, BitVec.toNat_ofNat, h]
  omega
theorem bytesWords_wordsBytes (l : List Word) : bytesWords (wordsBytes l) = l := by
  induction l with
  | nil => rfl
  | cons w l ih =>
    have e : bytesWords (wordsBytes (w :: l)) = bytesWord (wordBytes w) :: bytesWords (wordsBytes l) := rfl
    rw [e, ih, bytesWord_wordBytes]

/-- A settings image of 2048 words: seven model records, three objective records, two records of ten words. -/
def setBody : List Word :=
  let rec_ (t n : Nat) : List Word := BitVec.ofNat 32 (t * 2 ^ 24 + 4 * n) :: List.replicate (n - 1) 0
  (List.replicate 7 (rec_ 0x21 266)).flatten ++ (List.replicate 3 (rec_ 0x28 50)).flatten ++ (List.replicate 2 (rec_ 0x10 10)).flatten
def setImage (c : Word) : List Word := [0x01000002, 8192, 0, c, 12, 0, 0, 0, 0, 0, 0, 0, 0, 0, 0, 0] ++ setBody
theorem setImage_length (c : Word) : (setImage c).length = 2048 := by
  have h : setBody.length = 2032 := by decide +kernel
  simp only [setImage, List.length_append, h, List.length_cons, List.length_nil]
theorem setImage_records (c : Word) : (setRecords (setImage c)).isSome = true := by
  have e : setRecords (setImage c) =
      if bits 0x01000002#32 24 8 = 1 ∧ (12 : Word).toNat ≤ (setImage c).length then splitRecs 12 setBody else none := rfl
  rw [e, setImage_length]
  decide +kernel
theorem test_wit_image : setImageOk (bytesWords (wordsBytes (setImage (crc32cWords setBody)))) = true := by
  rw [bytesWords_wordsBytes]
  have b : ∀ c, (setImage c).drop 16 = setBody := fun c => rfl
  have d : ∀ c, (setImage c).getD 3 0 = c := fun c => rfl
  have n : ∀ c, ((setImage c).getD 1 0).toNat = 8192 := fun c => rfl
  unfold setImageOk bodyCrcOk
  rw [setImage_length, setImage_records, b, d, n]
  simp
theorem test_wit_settings : startedAs (started hostUp 0x4B 0 []) 0 0x4B = some (tagIn .started 0x4B 0 []) ∧
    targetsOnline hostUp (tagIn .started 0x4B 0 []) = true ∧ setImageOk [] = false ∧
    startedAs (started hostUp 0x4C 0 []) 0 0x4C = some (tagIn .started 0x4C 0 []) ∧
    targetsOnline hostUp (tagIn .started 0x4C 0 []) = true ∧ on hostUp dPPATH = true ∧ partLive State.reset 1 = false ∧
    1 ∈ digParts State.reset ∧ partLive hostUp 1 = true ∧ (digPart hostUp 1).run = none ∧ (digPart (noteCfg hostUp (wr hostUp PP_PRIORITY 5)) 0).hit = true := by decide +kernel
/-- The running image takes the schemas an image of bytes names. -/
theorem test_wit_schema : imageSchemas (.bytes (imgHead 65536 1)) = (1, 3) ∧ setSchema (setImage 0) = 2 ∧ setSchema [0x01000004] = 4 := by
  decide +kernel
/-- Part 0 found once with the words it has. -/
def scanned (s : State) (d : Nat × Word) : State := { s with fw := { s.fw with parts := [(0, { run := some d })] } }
theorem partDigest_scanned (s : State) (d : Nat × Word) (p : Nat) : partDigest (scanned s d) p = partDigest s p := by
  unfold partDigest; rfl
theorem test_wit_scanned (s : State) : ∃ d, d = (partDigest (scanned s (partDigest s 0, rd s GL_CFGGEN)) 0, rd s GL_CFGGEN) ∧
    (digPart (scanned s (partDigest s 0, rd s GL_CFGGEN)) 0).run = some d ∧
    (digPart (scanned s (partDigest s 0, rd s GL_CFGGEN)) 0).hit = false := by
  exact ⟨_, rfl, by rw [partDigest_scanned]; rfl, rfl⟩

/-! ## Site protection -/

/-- Inputs armed at levels, some latched. -/
def tampUp (armed level latched : Nat) : State :=
  setF (setF (setF up TM_TAMPCFG_ARMED armed) TM_TAMPCFG_LEVEL level) TM_TAMPLAT_LATCHED latched
/-- One sample before ten: levels `pins` have stood at nine. -/
def nearly (s : State) (pins : Nat) : State := { s with site := { s.site with raw := pins, runs := List.replicate 8 9 } }
def reportUp : State := { up with site := { reports := [⟨3, true, true, 77⟩, ⟨1, false, false, 78⟩] } }
theorem test_wit_tamper : (tampUp 0x0F 0x05 0).pw.aon = true ∧ getF (tampUp 0x0F 0x05 0) TM_TAMPLAT_LATCHED = 0 ∧
    bitF (tampUp 0x0F 0x05 0) TM_TAMPCFG_ARMED 2 = true ∧ bitF (tampUp 0x0F 0x05 0) TM_TAMPCFG_LEVEL 2 = true ∧
    getF (tampUp 0x0F 0x05 8) TM_TAMPLAT_LATCHED ≠ 0 ∧ on reportUp dBBOX = true ∧ on reportUp dPPATH = true ∧
    reportUp.site.reports ≠ [] ∧
    startedAs (started up 0x51 0 [0x0103]) 0 0x51 = some (tagIn .started 0x51 0 [0x0103]) ∧ flag up TM_TAMPCFG_TLOCK = false ∧
    flag (setFlag (started up 0x51 0 [0x0103]) TM_TAMPCFG_TLOCK true) TM_TAMPCFG_TLOCK = true := by decide +kernel
/-- A channel with what removal detection and the shunt check hold of it. -/
def remUp (r : Removal) (snap : Nat) : State := setRemoval { up with snap } 17 r
def shUp (y : ShuntCheck) : State := setShc (setF { up with snap := 3000000000 } TM_SHCHK_R_STAGE 1200) 17 y
theorem test_wit_removal : flaskOn (remUp { step := some (7, 1300, true) } 100000007) (chFlask 17) = true ∧
    (removal (remUp { step := some (7, 1300, true) } 100000007) 17).step = some (7, 1300, true) ∧
    (removal (remUp { upSince := some 7 } 1000000007) 17).upSince = some 7 ∧ getF up TM_SHCHK_R_STAGE = 0 ∧
    getF (shUp {}) TM_SHCHK_R_STAGE ≠ 0 ∧ (shUp {}).snap % 1000000000 = 0 ∧ (shUp {}).site.shcAt ≠ (shUp {}).snap / 1000000000 ∧ 17 ∈ liveChans (shUp {}) ∧ shc (shUp { ok := true, u := 240000, ms := 1000, q := 40, run := 9 }) 17 =
      { ok := true, u := 240000, ms := 1000, q := 40, run := 9 } := by decide +kernel
/-- The monitor injecting, with an earlier half-period. -/
def insUp (mode : Nat) (i : Insulation) : State := { setF up TM_INSCFG_INS_MODE mode with site := { ins := i } }
theorem test_wit_insulation : insMode (insUp 1 {}) ≠ 0 ∧ (insUp 1 {}).site.ins.prev = none ∧ insMode (insUp 2 {}) = 2 ∧
    insMode (insUp 1 { prev := some (128157, -100000), results := [151, 10000] }) = 1 ∧
    50 * ((176000 : Int) - 175980).natAbs ≤ ((176000 : Int) - 128157).natAbs ∧ flag up TM_STATUS_INS_WARN = false ∧
    flag (setFlag up TM_STATUS_INS_WARN true) TM_STATUS_INS_WARN = true ∧ flag (setFlag up TM_STATUS_INS_ALARM true) TM_STATUS_INS_ALARM = true := by
  decide +kernel
/-- R607, R608: the worked example's half-period gives 150 kOhm, and with 151 and 10 000 before it `TM_INS` reads 0x009705F1. -/
theorem test_insulation_example : (match exec (.insulationHalfPeriod 175980 176000 100000)
    (insUp 1 { prev := some (128157, -100000), results := [151, 10000], lo := some 5100, hi := 5150 }) with
    | .next u => u.site.ins.results == [150, 151, 10000] && rd u TM_INS == 0x009705F1 && flag u TM_STATUS_INS_WARN && !flag u TM_STATUS_INS_ALARM
    | _ => false) = true := by decide +kernel
theorem test_wit_lamps : startedAs (started up 0x50 0 []) 0 0x50 = some (tagIn .started 0x50 0 []) ∧
    ({ up with site := { lamp := { testEnd := some 9 } } } : State).site.lamp.testEnd = some 9 ∧
    on State.reset dPPATH = false := by decide +kernel
/-- R594, R595: the tenth sample with a level debounces it, the ninth does not; then an armed input latches. -/
theorem test_tamper_debounce :
    (match exec (.tamperLatch 0xFE) (nearly (tampUp 1 0 0) 0xFE) with
      | .next u => bitF u TM_TAMPLAT_LATCHED 0 && u.now == 5859375 && u.site.tamp == 0xFE | _ => false) = true ∧
    (match exec (.tamperLatch 0xFE) (tampUp 1 0 0) with | .next u => !bitF u TM_TAMPLAT_LATCHED 0 | _ => false) = true := by
  decide +kernel

/-! ## Management port and register writes -/

/-- The port serving with BAR0 page 0x400, strapped to address 5. -/
def mpUp (f : Port → Port) : State :=
  { up with mp := f { state := .run, pagedOk := true, page := 0x400 }, pw := { up.pw with straps := 5, hubLock := true, done := 0x1FFF } }
def staged4 (k : Nat) : Tab (Option Byte) := [(4 * k, some 1), (4 * k + 1, some 0xFF), (4 * k + 2, some 0x3C), (4 * k + 3, some 0)]
theorem test_wit_port : (mpUp id).pw.aon = true ∧ (mpUp id).pw.transport = .run ∧ flag (mpUp id) GL_MPCFG_EN = true ∧
    flag (mpUp id) GL_MPCFG_BAR2_EN = true ∧ flag (setFlag (mpUp id) GL_MPCFG_BAR2_EN false) GL_MPCFG_BAR2_EN = false ∧
    (mpUp id).mp.pagedOk = true ∧ (mpUp id).mp.failed = false ∧ 0x35 = 0x30 + (mpUp id).pw.straps ∧ (mpUp id).mp.state = .run ∧
    bits (mpUp id).mp.page 0 20 * 0x80 + 4 * 3 = PP_PRIORITY ∧ (mpUp (fun p => { p with page := 0x20 })).mp.page.getLsbD 31 = false ∧
    bits (mpUp (fun p => { p with page := BitVec.ofNat 32 (CK_TIME_LO / 0x80) })).mp.page 0 20 * 0x80 + CK_TIME_LO % 0x80 = CK_TIME_LO ∧
    flag (mpUp id) GL_MPCFG_WR_EN = true ∧ (mpUp id).pw.done.testBit 4 = true ∧ (mpUp (fun p => { p with staged := staged4 3 })).mp.staged = staged4 3 := by
  decide +kernel
/-- R457, the chapter's worked example: the group at window offset 0x0C sets `PP_PRIORITY` to 0x003CFF01 at the STOP. -/
theorem test_port_example : (match exec .i2cStop (mpUp (fun p => { p with staged := staged4 3, txn := .write })) with
    | .next u => rd u PP_PRIORITY == 0x003CFF01 && u.mp.err == 0
    | _ => false) = true := by decide +kernel
/-- R462: stopped in the middle of a byte, `MP_ERR` reads 0xC0 and the register is as before. -/
theorem test_port_frame : (match exec (.i2cFrameError true) (mpUp (fun p => { p with staged := (staged4 3).take 2, txn := .write })) with
    | .next u => rd u PP_PRIORITY == rd up PP_PRIORITY && u.mp.err == 0xC0
    | _ => false) = true := by decide +kernel
theorem test_wit_write : on hostUp dHOSTIF = true ∧ on hostUp dPPATH = true ∧ regRow GL_MPCFG = some ⟨0x40, 0x0, 1, 0x7, 0x0, 0x0, 0x7, 0x0, 0x80000000⟩ ∧
    regRow 8 = none ∧ on hostUp (blockDomain GL_MPCFG) = true ∧ on hostUp (blockDomain LD_CTRL) = true ∧ bits (0xD0A5 : Word) 0 16 = 0xD0A5 ∧
    ({ hostUp with pw := { hostUp.pw with resetKey := some 4900000 } } : State).pw.resetKey = some 4900000 ∧
    on ({ hostUp with pw := { hostUp.pw with dom := 0x84 } } : State) (blockDomain LD_CTRL) = false := by decide +kernel
/-- R399, R367: a function in D3hot, one whose MSI-X is enabled and unmasked, a row of configuration space, a dword outside it, and a port
that still serves and one whose `EN` was cleared in the middle of a read. -/
theorem test_wit_config_space : msixEnabled { hostUp with hi := { hostUp.hi with cfg := [(0x90, 0x80000000)] } } = true ∧
    msixMasked { hostUp with hi := { hostUp.hi with cfg := [(0x90, 0x80000000)] } } = false ∧ (0x60, 0x00CB, 0) ∈ cfgRows ∧ (∀ r ∈ cfgRows, r.1 ≠ 0x38) ∧
    ({ hostUp with hi := { hostUp.hi with linkUp := true } } : State).hi.linkUp = true ∧
    ({ hostUp with hi := { hostUp.hi with d3hot := true } } : State).hi.d3hot = true ∧ portAnswers (mpUp id) = true ∧
    portAnswers (setFlag (mpUp (fun p => { p with txn := .read })) GL_MPCFG_EN false) = false ∧
    (setFlag (mpUp (fun p => { p with txn := .read })) GL_MPCFG_EN false).mp.txn = .read := by decide +kernel

/-! ## Tie-links: attach, LES, leg trips -/

/-- Port 3 in a state of the attach machine with a preference, and what the port holds. -/
def tlUp (a pref : Nat) (x : TlPort) : State :=
  setTl (setF (setF up (TL_ATTACH_ASTATE 3) a) (TL_CFG_PREF 3) pref) 3 { x with pref }
/-- The same, attached: 1 source, 0 sink. -/
def tlAtt (r : Nat) (x : TlPort) : State :=
  setF (setF (tlUp (if r = 1 then aATT_SRC else aATT_SNK) 2 x) (TL_ATTACH_PROLE 3) r) (TL_ATTACH_LROLE 3) r
theorem test_wit_attach : tlOn up 3 = true ∧ tlOn up 8 = false ∧ flag up (TL_CFG_LOCK 3) = false ∧ flag (setFlag up (TL_CFG_LOCK 3) true) (TL_CFG_LOCK 3) = true ∧
    astate (tlUp aUNATT_SNK 2 {}) 3 = aUNATT_SNK ∧ dualRole (tlUp aUNATT_SNK 2 {}) 3 = true ∧ dualRole (tlUp aUNATT_SNK 0 {}) 3 = false ∧
    effPref (tlUp aWAIT_SNK 3 {}) 3 = 3 ∧ effPref (tlUp aWAIT_SRC 4 {}) 3 = 4 ∧ effPref (tlUp aWAIT_SRC 1 {}) 3 = 1 ∧
    flag (tlUp aWAIT_SRC 1 {}) (TL_CFG_LES_EN 3) = true ∧ (tlUp aWAIT_SRC 1 {}).pw.supply = .aux12 ∧
    getF (tlUp aWAIT_SRC 1 {}) (TL_LES_LES_STATE 3) ≠ 3 ∧ (tl (tlUp aWAIT_SRC 1 { pinLes := 2000 }) 3).pinLes = 2000 ∧
    (tl (tlUp aWAIT_SNK 3 { seen := true }) 3).seen = true ∧ (tl (tlAtt 0 {}) 3).seen = false ∧ attached (tlAtt 0 {}) 3 = true ∧ attached (tlAtt 1 {}) 3 = true ∧ (tl (tlUp aREATTACH 2 { nextPref := some 1 }) 3).nextPref = some 1 ∧
    (tl (tlUp aREATTACH 2 {}) 3).nextPref = none ∧ astate up 3 = aDISABLED := by decide +kernel
/-- R308, the table of *Reviving a dead cabinet*: the source attaches at 120 ms after it saw the sink. -/
theorem test_attach_120 : (match exec (.attachDebounceDone 3) (tlUp aWAIT_SRC 1 { seenAt := 7000000, seen := true }) with
    | .next u => u.now == 127000000 && astate u 3 == 10 && flag u (TL_ATTACH_LES_OUT 3)
    | _ => false) = true := by decide +kernel
def lesUp (st : Nat) (x : TlPort) : State := setF (tlAtt 1 x) (TL_LES_LES_STATE 3) st
def legUp (r : Nat) (x : TlPort) : State := setF (wr (tlAtt r x) (TL_CONTRACT 3) 0x151807D0) (PP_TLSTAT_DIR 3) 1
theorem test_wit_les : getF (lesUp 2 {}) (TL_LES_LES_STATE 3) = 2 ∧ lesWanted (lesUp 2 {}) 3 = true ∧
    lesWanted (setF (lesUp 2 {}) (TL_ATTACH_LROLE 3) 0) 3 = false ∧
    flag (setFlag (lesUp 1 {}) (TL_ATTACH_LES_OUT 3) true) (TL_ATTACH_LES_OUT 3) = true ∧ getF (legUp 0 {}) (PP_TLSTAT_DIR 3) ≠ 0 ∧
    (tleg (setTleg (legUp 0 {}) 3 { i := -101, vSince := some 9, iSince := none }) 3).i < -100 ∧ (tleg (legUp 0 {}) 3).iSince = none ∧
    (tleg (setTleg (legUp 0 {}) 3 { vSince := some 9 }) 3).vSince = some 9 ∧ isSnk (legUp 0 {}) 3 = true ∧ isSnk (legUp 1 {}) 3 = false ∧ rd (legUp 0 {}) (TL_CONTRACT 3) ≠ 0 ∧
    flag (legUp 0 {}) (TL_CSTATE_TRIP_LOCK 3) = false ∧ on (legUp 0 {}) dBBOX = true := by decide +kernel

/-! ## Tie-links: packets and the tunnel -/

/-- A message and one in transmission. -/
def aMsg (typ : Nat) (act : TlAct := .none) : TlMsg := { typ, act }
def aTx (typ : Nat) (tries : Nat) (due : Option Nat) (act : TlAct := .none) : TlTx := { msg := aMsg typ act, seq := 4, tries, ackDue := due }
/-- A packet of a type with a sequence number and the partner's power role. -/
def aRx (typ seq prole : Nat) (objs : List Word := []) : TlRx :=
  { hdr := BitVec.ofNat 32 (typ * 2 ^ 26 + objs.length * 2 ^ 22 + seq * 2 ^ 18 + prole * 2 ^ 17), objs, hold := 0 }
/-- Port 3 in mode 2. -/
def tunUp (t : Tunnel) : State := setF (tlAtt 0 { tun := t }) (TL_CSTATE_MODES 3) 2
theorem test_wit_packets : (tl (tlAtt 1 { good := some 3 }) 3).good = some 3 ∧ (tl (tlAtt 1 { cur := some (aTx 5 0 none) }) 3).cur = some (aTx 5 0 none) ∧
    tunnelReady (tunUp { ackOwed := true }) 3 = true ∧ tunnelReady (tlAtt 1 {}) 3 = false ∧
    ((tl (tlAtt 1 { news := [aMsg 5] }) 3).answers ++ [aMsg 5]).head? = some (aMsg 5) ∧ isSrc (tlAtt 1 {}) 3 = true ∧ isSrc (tlAtt 0 {}) 3 = false ∧
    bootSrc (tlAtt 1 {}) 3 = false ∧ bootSrc (setFlag (tlAtt 0 {}) (TL_ATTACH_BOOT_SRC 3) true) 3 = true ∧
    modeOn (tunUp {}) 3 2 = true ∧ hType (aRx 1 4 1).hdr = mGOODCRC ∧ hSeq (aRx 1 4 1).hdr = 4 ∧ knownType 7 0 = true ∧ knownType 7 1 = false ∧
    hRev (aRx 1 4 1).hdr < 2 ∧ hNdo (aRx 0x20 4 1 [1]).hdr = 1 ∧ hProle (aRx 7 0 1).hdr ≠ prole (tlAtt 0 {}) 3 ∧
    hProle (aRx 7 0 1).hdr = prole (tlAtt 1 {}) 3 ∧ startedAs (started hostUp 0x3E 0x30000 []) 0 0x3E = some (tagIn .started 0x3E 0x30000 []) ∧
    up.fc.arm = none ∧ selPort ((tagIn .started 0x3E 0x30000 []).word 1) = 3 := by decide +kernel
theorem test_wit_delivered : Delivered 3 1 (aRx 1 4 1) [aRx 7 0 1] (tlAtt 0 { inbox := [aRx 7 0 1, aRx 1 4 1] }) :=
  ⟨by decide +kernel, by decide +kernel, by decide +kernel, [aRx 7 0 1], [], by decide +kernel, rfl, by decide +kernel⟩
/-- The chapter's worked example: the GET_CAPS of a revived port, with `SEQ` 0, has the CRC 0x35458353. -/
theorem test_get_caps_packet : header (tlAtt 0 {}) 3 mGET_CAPS 0 0 = 0x1C000000 ∧ crc32 (wordsBytes [0x1C000000]) = 0x35458353 := by decide +kernel
/-- R321: over the ASCII bytes "123456789". -/
theorem test_crc32 : crc32 [0x31, 0x32, 0x33, 0x34, 0x35, 0x36, 0x37, 0x38, 0x39] = 0xCBF43926 := by decide +kernel
/-- The voltages of a driven line, mV, with their lengths in ns. -/
def volts (l : List (LcwDrive × Nat)) : List (Nat × Nat) :=
  l.filterMap (fun e => match e.1 with | .low => some (50, e.2) | .high => some (1200, e.2) | .released => none)
/-- R311-R316, the worked example: the receiver reads the GET_CAPS, whose CRC is 0x35458353, from the levels driven for it; cut off
in its body the packet is discarded. -/
theorem test_receive_get_caps :
    receive false false false 100000 (volts (lineWave packetHalf (packetLine 0x1C000000 []))) =
      { packet := some (0x1C000000, [], 0x35458353, 204000) } ∧
    receive false false false 100000 ((volts (lineWave packetHalf (packetLine 0x1C000000 []))).take 90) = { bad := 1 } ∧
    receive false false false 100000 [] = {} := by decide +kernel
/-- R361: a tunnel frame is read in mode 2. -/
theorem test_receive_tunnel :
    (receive false false true 100000 (volts (lineWave tunnelHalf (tunnelLine 0x09070002 [1, 0xFF])))).tunnel =
      some (0x09070002, [1, 0xFF], tunnelCrc 0x09070002 [1, 0xFF], 35000) := by decide +kernel
/-- R328: the second of two samples in a row that differ from what is driven is the collision. -/
theorem test_clash : clash 0 false (halfBits true [2, 1, 1]) [true, false, false, true] = none ∧
    clash 0 false (halfBits true [2, 1, 1]) [true, false, true, true] = some 2 := by decide +kernel
/-- R349, R353: a swap of a port without a partner's identity may not be sent; one of a port with it, and any other message, may. -/
theorem test_wit_swap : ¬ maySwap (tlAtt 1 {}) 3 (aMsg mLES_SWAP) ∧ maySwap (tlAtt 1 {}) 3 (aMsg 7) ∧
    maySwap (setFlag (tlAtt 1 {}) (TL_CSTATE_PID_VALID 3) true) 3 (aMsg mREATTACH) := by
  unfold maySwap; decide +kernel
/-- R365: the age of a sink's keep-alive counts from the request it sends that equals its contract. -/
theorem test_wit_keep_alive : equalsDc (setF (wr (tlAtt 0 {}) (TL_CONTRACT 3) (pair16 4400 100)) (PP_TLSTAT_DIR 3) 1) 3 (reqObj 2 4400 100) = true ∧
    isSnk (tlAtt 0 {}) 3 = true := by decide +kernel

/-! ## Tie-links: contracts -/

/-- Port 3 attached with what it holds, its leg fitted for 40.00 A, two objects advertised: those of *Reviving a dead cabinet*. -/
def conUp (r : Nat) (x : TlPort) : State :=
  put (setF (setFlag (tlAtt r x) (PP_TLCFG_PRESENT 3) true) (PP_TLCFG_IHW 3) 4000)
    [(TL_CAPS 3 0, 0x2BC0FA00), (TL_CAPS 3 1, 0x7203201E)]
/-- A sink that holds those objects of its partner, with a standing request. -/
def sinkUp (x : TlPort) : State :=
  put (tlAtt 0 x) [(PARTNER 3, 0x2BC0FA00), (PARTNER 3 + 4, 0x7203201E), (PARTNER 3 + 0x18, 2), (TL_REVREQ 3, 0x151807D0)]
def got (typ : Nat) (objs : List Word := []) (prole : Nat := 0) : TlPort := { cs := 1, inbox := [aRx typ 4 prole objs] }
theorem delivered_one (s : State) (n typ : Nat) (r : TlRx) (h1 : tlOn s n = true) (h2 : attached s n = true) (h3 : hType r.hdr = typ)
    (h4 : (tl s n).inbox = [r]) : Delivered n typ r [] s :=
  ⟨h1, h2, h3, [], [], h4, rfl, by simp⟩
theorem test_wit_source : Delivered 3 mGET_CAPS (aRx 7 4 0) [] (conUp 1 (got 7)) ∧ Delivered 3 mREQUEST (aRx 0x21 4 0 [0x1AF01F40]) [] (conUp 1 (got 0x21 [0x1AF01F40])) :=
  ⟨delivered_one _ _ _ _ (by decide +kernel) (by decide +kernel) (by decide +kernel) (by decide +kernel),
   delivered_one _ _ _ _ (by decide +kernel) (by decide +kernel) (by decide +kernel) (by decide +kernel)⟩
theorem test_wit_source_rules : isSrc (conUp 1 (got 7)) 3 = true ∧ legFitted (conUp 1 (got 7)) 3 = true ∧
    advertised (conUp 1 (got 7)) 3 = [0x2BC0FA00, 0x7203201E] ∧ swapping (conUp 1 (got 7)) 3 = false ∧ rI 0x1AF01F40 = 2000 ∧ rV 0x1AF01F40 = 5400 ∧
    rPos 0x1AF01F40 = 1 ∧ capFits 0x2BC0FA00 5400 2000 = true ∧ ppSafe (conUp 1 (got 7)) = false ∧ getF (conUp 1 {}) (TL_CCTRL_REQ_ACC 3) = 1 ∧
    hostLost (conUp 1 {}) 3 = false ∧ verdictOf (conUp 1 {}) 3 0 5 = none ∧ equalsDc (legUp 1 {}) 3 0x1AF01F40 = true ∧
    verdictOf (conUp 1 { verdicts := [⟨0, 5, true, 4000000⟩] }) 3 0 5 = some true ∧ isSrc (conUp 1 { cs := 4, psDue := some 9, kaDue := some 9 }) 3 = true ∧
    (tleg (setTleg (conUp 1 { cs := 4 }) 3 { okSince := some 9 }) 3).okSince = some 9 ∧ legFitted (sinkUp {}) 3 = false ∧ legFitted (conUp 0 {}) 3 = true := by
  decide +kernel
theorem test_wit_sink : Delivered 3 mCAPS (aRx 0x20 4 1 [0x2BC0FA00, 0x7203201E]) [] (sinkUp (got 0x20 [0x2BC0FA00, 0x7203201E] 1)) ∧
    Delivered 3 mACCEPT (aRx 2 4 1) [] (sinkUp { got 2 [] 1 with own := some .request, cs := 3, lastReq := 0x1AF01F40 }) :=
  ⟨delivered_one _ _ _ _ (by decide +kernel) (by decide +kernel) (by decide +kernel) (by decide +kernel),
   delivered_one _ _ _ _ (by decide +kernel) (by decide +kernel) (by decide +kernel) (by decide +kernel)⟩
theorem test_wit_sink_rules : isSnk (sinkUp {}) 3 = true ∧ requestInForce (sinkUp {}) 3 = (5400, 2000) ∧ matchPos (sinkUp {}) 3 5400 2000 = some 1 ∧
    matchPos (sinkUp {}) 3 5400 5000 = none ∧ flag (sinkUp {}) (TL_CSTATE_TRIP_LOCK 3) = false ∧ flag (sinkUp {}) (TL_CFG_LOCK 3) = false ∧
    equalsDc (legUp 0 {}) 3 0x1AF01F40 = true ∧ rd (legUp 0 {}) (TL_CONTRACT 3) ≠ 0 ∧ attached (sinkUp {}) 3 = true := by decide +kernel
/-- The chapter's worked example: the revived sink's request object. -/
theorem test_request_example : (match exec (.holdoffExpire 3) (sinkUp { cs := 6, holdDue := some 9 }) with
    | .next u => (tl u 3).news == [{ typ := mREQUEST, objs := [0x1AF01F40], act := .none }]
    | _ => false) = true := by decide +kernel
theorem test_wit_soft_reset : Delivered 3 mGOODCRC (aRx 1 4 1) []
    (sinkUp { got 1 [] 1 with cur := some (aTx mSOFT_RESET 0 (some 9)), identSent := true, softHold := true, cs := 6 }) ∧
    (aTx mSOFT_RESET 0 (some 9)).msg = { typ := mSOFT_RESET, objs := [], act := .none } ∧ hSeq (aRx 1 4 1).hdr = (aTx mSOFT_RESET 0 (some 9)).seq :=
  ⟨delivered_one _ _ _ _ (by decide +kernel) (by decide +kernel) (by decide +kernel) (by decide +kernel), rfl, by decide +kernel⟩
/-- R356: the partner's new CAPS while a request awaits its answer: the request is not sent again yet. -/
theorem test_caps_wait : (match exec (.caps 3) (sinkUp { got 0x20 [0x2BC0FA00] 1 with own := some .request, cs := 3 }) with
    | .next u => (tl u 3).news == [] && (tl u 3).wants == [.request]
    | _ => false) = true := by decide +kernel

/-! ## Tie-links: swaps, re-attaches and the host's commands -/

/-- A port whose identity exchange is complete: its own identity 9, the partner's as given. -/
def swUp (r pid : Nat) (x : TlPort) : State :=
  let s := put (setF (setFlag (tlAtt r x) (TL_CSTATE_PID_VALID 3) true) (TL_CCTRL_LSW_ACC 3) 1) [(TL_PLINKID 3, BitVec.ofNat 32 pid)]
  { s with words := tabIns (TL_LINKID 3) 9 s.words }
/-- A started command of port 3. -/
def cmdOn (s : State) (op : Nat) (params : List Word := []) : State :=
  setTag s 0 (some (tagIn .started op 0x30000 params))
theorem test_wit_swaps : Delivered 3 mLES_SWAP (aRx 8 4 1) [] (swUp 0 5 (got 8 [] 1)) ∧ Delivered 3 mREATTACH (aRx 9 4 1) [] (swUp 0 5 (got 9 [] 1)) ∧
    Delivered 3 mPS_READY (aRx 0xA 4 1) [] (swUp 0 5 { got 0xA [] 1 with swap := some .newWait }) :=
  ⟨delivered_one _ _ _ _ (by decide +kernel) (by decide +kernel) (by decide +kernel) (by decide +kernel),
   delivered_one _ _ _ _ (by decide +kernel) (by decide +kernel) (by decide +kernel) (by decide +kernel),
   delivered_one _ _ _ _ (by decide +kernel) (by decide +kernel) (by decide +kernel) (by decide +kernel)⟩
theorem test_wit_swap_rules : swapOk (swUp 0 5 {}) 3 = true ∧ swapOk (tlAtt 0 {}) 3 = false ∧ swapping (swUp 0 5 {}) 3 = false ∧
    swapping (swUp 0 5 { swap := some .accepted }) 3 = true ∧ (rd (swUp 0 5 {}) (TL_PLINKID 3)).toNat < (rd (swUp 0 5 {}) (TL_LINKID 3)).toNat ∧
    (rd (swUp 0 12 {}) (TL_LINKID 3)).toNat < (rd (swUp 0 12 {}) (TL_PLINKID 3)).toNat ∧ isSrc (swUp 1 9 {}) 3 = true ∧
    rd (swUp 1 9 {}) (TL_LINKID 3) = rd (swUp 1 9 {}) (TL_PLINKID 3) ∧ getF (swUp 0 5 {}) (TL_CCTRL_LSW_ACC 3) = 1 ∧
    verdictOf (swUp 0 5 { verdicts := [⟨1, 0, true, 4000000⟩] }) 3 1 0 = some true ∧ lrole (swUp 1 5 {}) 3 = 1 ∧ lrole (swUp 0 5 {}) 3 = 0 := by
  decide +kernel
theorem test_wit_tie_commands : startedAs (cmdOn (swUp 0 5 {}) 0x3C) 0 0x3C = some (tagIn .started 0x3C 0x30000 []) ∧
    selPort ((tagIn .started 0x3C 0x30000 []).word 1) = 3 ∧ on (swUp 0 5 {}) dTLPHY = true ∧ tlOn (swUp 0 5 {}) 3 = true ∧
    flag (swUp 0 5 {}) (TL_CFG_LOCK 3) = false ∧ requestMet (legUp 0 {}) 3 0x151807D0 = true ∧ requestMet (sinkUp {}) 3 0x151807D0 = false ∧
    requestInForce (sinkUp {}) 3 = (5400, 2000) ∧
    (cmdOn (swUp 0 5 { reTag := some 0, reDue := some 9 }) 0x3D).tls.find? (fun e => e.2.reTag == some 0) =
      some (3, tl (cmdOn (swUp 0 5 { reTag := some 0, reDue := some 9 }) 0x3D) 3) ∧
    (sinkUp { reqTags := [(0, 5, 9)] }).tls.find? (fun e => e.2.reqTags.any (fun r => r.1 == 0)) = some (3, tl (sinkUp { reqTags := [(0, 5, 9)] }) 3) := by
  decide +kernel
theorem test_wit_swap_collisions : outstanding (swUp 0 5 { own := some .lesSwap }) 3 mLES_SWAP .lesSwap = true ∧
    outstanding (swUp 0 5 { own := some .reattach }) 3 mREATTACH .reattach = true ∧
    outstanding (swUp 0 5 { own := some .lesSwap, news := [aMsg 8] }) 3 mLES_SWAP .lesSwap = false ∧ bootSrc (swUp 0 5 {}) 3 = false ∧
    bootSrc (setFlag (swUp 0 5 {}) (TL_ATTACH_BOOT_SRC 3) true) 3 = true ∧ (tl (swUp 1 5 { swap := some .oldOff, pinLes := 1999 }) 3).pinLes < 2000 ∧
    11400 ≤ (tl (swUp 0 5 { swap := some .newOn, pinLes := 11400 }) 3).pinLes ∧ getF (setF (swUp 0 5 {}) (TL_CCTRL_RA_ACC 3) 1) (TL_CCTRL_RA_ACC 3) = 1 := by
  decide +kernel
/-- R349: a stored verdict of the host does not count while the host is lost. -/
theorem test_host_lost_rejects : hostLost (setFlag (swUp 0 5 {}) (TL_CSTATE_HOST_LOST 3) true) 3 = true ∧
    (match exec (.lesSwap 3) (setF (setFlag (swUp 0 5 { got 8 [] 1 with verdicts := [⟨1, 0, true, 4000000⟩] }) (TL_CSTATE_HOST_LOST 3) true) (TL_CCTRL_LSW_ACC 3) 2) with
    | .next u => (tl u 3).answers == [{ typ := mREJECT, objs := [], act := .none }]
    | _ => false) = true := by decide +kernel

/-! ## Tie-links: alternate modes -/

/-- A port with modes entered and enabled, and its identity exchange complete. -/
def moUp (r modes en : Nat) (x : TlPort) : State :=
  setF (setF (setFlag (tlAtt r { x with identSent := true }) (TL_CSTATE_PID_VALID 3) true) (TL_CSTATE_MODES 3) modes) (TL_CCTRL_MODE_EN 3) en
/-- A vendor message in the inbox. -/
def inV (objs : List Word) (x : TlPort) : TlPort := { x with inbox := [aRx 0x3F 4 1 objs], cs := 1 }
theorem test_wit_modes : Delivered 3 mVENDOR (aRx 0x3F 4 1 [vdmHeader 0 1 2]) [] (moUp 1 0 1 (inV [vdmHeader 0 1 2] {})) :=
  delivered_one _ _ _ _ (by decide +kernel) (by decide +kernel) (by decide +kernel) (by decide +kernel)
theorem test_wit_mode_rules : isStructured (vdmHeader 0 1 2) = true ∧ isStructured 0x12348000 = false ∧ vType (vdmHeader 2 1 2) = 2 ∧
    vVer (vdmHeader 0 1 2) = 0 ∧ vVer 0x4F4AA000 = 1 ∧ vCmd (vdmHeader 0 1 8) = 8 ∧ vMode (vdmHeader 0 3 8) = 3 ∧ isSrc (moUp 1 0 1 {}) 3 = true ∧
    modeEn (moUp 1 0 1 {}) 3 1 = true ∧ modeEn (moUp 1 0 1 {}) 3 2 = false ∧ modeOn (moUp 1 5 5 {}) 3 1 = true ∧ modeOn (moUp 1 5 5 {}) 3 2 = false ∧
    modeOn (moUp 1 5 5 {}) 3 3 = true ∧ (tl (moUp 0 1 1 { own := some (.vdm 9 1), ownDue := some 9 }) 3).own = some (.vdm 9 1) ∧
    stagedEntries (evRing up up.hi.routeTl).staging = 0 ∧ on up dPPATH = true ∧ pidValid (moUp 0 0 1 {}) 3 = true ∧
    flag (moUp 0 0 1 {}) (TL_CCTRL_VDM_PASS 3) = false ∧ flag (moUp 0 0 1 {}) (TL_CFG_LOCK 3) = false := by decide +kernel
/-- R360: ((t2 − t1) − (t4 − t3))/2, saturating. -/
theorem test_offset : timeOffset 100 5100 5300 300 = 5000 ∧ timeOffset 0 (2 ^ 40) (2 ^ 40) 0 = 2 ^ 31 - 1 := by decide

/-! ## The queue, the reset state and every step -/

theorem test_wit_step : ({ up with pending := [.attachDebounceDone 3, .ppArm] } : State).pending = .attachDebounceDone 3 :: [.ppArm] := rfl
theorem test_wit_safe : Safe State.reset ∧ Safe { up with pending := [.ppArm] } :=
  ⟨⟨by decide +kernel, by decide +kernel⟩, ⟨by decide +kernel, by decide +kernel⟩⟩

/-! ## Lines, pins, fabrics and checks, from the rules' own tables -/

/-- The table of R313, at the ends of each of its rows. -/
theorem test_run_classes : [15, 16, 47, 48, 79, 80, 111, 112].map (runClass 4) = [.bad, .half, .half, .zero, .zero, .hold, .hold, .idle] := by decide
/-- R312: between the thresholds the level stays. -/
theorem test_hysteresis : lcwLevel false 600 = false ∧ lcwLevel true 600 = true ∧ lcwLevel false 951 = true ∧ lcwLevel true 249 = false := by decide
/-- R311, R314: 48 preamble bits, the delimiters of 6 and 4 half-bits, and the words; the first half-bit is high; a 1 has a transition in its middle. -/
theorem test_line : (packetRuns [0, 0]).sum = 2 * 48 + 6 + 2 * 64 + 4 ∧ (packetRuns [0, 0]).take 4 = [2, 1, 1, 2] ∧
    ((lineWave packetHalf (packetRuns [0, 0])).map (·.1)).head? = some .high := by decide +kernel
/-- R134, R103, R105: high in the first half of a millisecond, low in the second; high-impedance with a sequencer stopped. -/
theorem test_alive : let s := { up with flasks := (List.range 4).map (fun f => (f, ({ running := true } : Flask))) }
    alivePin s 0 499999 = .high ∧ alivePin s 0 500000 = .low ∧ alivePin { s with flasks := s.flasks.drop 1 } 0 0 = .hiz ∧
    alivePin { s with pw := { s.pw with transport := .transport } } 0 0 = .low := by decide +kernel
/-- R295, R293. -/
theorem test_termination : termination State.reset 0 = .unpoweredSink ∧ termination (setF up (TL_ATTACH_ASTATE 0) aATT_SRC) 0 = .source ∧
    termination (setF up (TL_ATTACH_ASTATE 0) aDISABLED) 0 = .open_ ∧ termination (setF up (TL_ATTACH_ASTATE 0) aUNATT_SNK) 0 = .sink := by decide +kernel
/-- R31: the lower class first, then the requester whose turn it is; R32: a class-3 transfer goes in bursts of 256 bytes. -/
theorem test_grants : grantPick 4 [0, 0, 0, 0] [⟨3, 0, 600⟩, ⟨0, 9, 8⟩, ⟨1, 1, 8⟩] = some (1, ⟨0, 9, 8⟩) ∧
    grantPick 4 [2, 0, 0, 0] [⟨0, 1, 8⟩, ⟨0, 3, 8⟩] = some (1, ⟨0, 3, 8⟩) ∧
    (grantOne 4 hubFabric 0 { waiting := [⟨3, 0, 600⟩] }).waiting = [⟨3, 0, 344⟩] ∧
    (grantOne 4 hubFabric 0 { waiting := [⟨3, 0, 600⟩] }).busy = 320 := by decide
/-- R46: the allocations fill the 32 MiB of hub SRAM and the 8 MiB of a region die. -/
theorem test_allocations : Config.sramCapture + Config.sramCrucible + Config.sramHost + Config.sramTrace + 2 * Config.sramScratch = 32 * 2 ^ 20 ∧
    Config.sramEstimator + Config.sramTelemetry + Config.sramLocal + Config.sramFlask = 8 * 2 ^ 20 := by decide
/-- R35: the check value of CRC-32C, over the digits 1 to 9 in ASCII. -/
theorem test_crc : crc32c [0x31, 0x32, 0x33, 0x34, 0x35, 0x36, 0x37, 0x38, 0x39] = 0xE3069283 := by decide +kernel
/-- The pin example of R10 and R667: channel 733 on CN11, pins 204 to 210, and the fault pin of its flask 45; R671: the letters `HFM`. -/
theorem test_pins : pinsOf .zrc1024 (.chPwmA 733) = some (.cn 11, [204]) ∧ pinsOf .zrc1024 (.chTs 733) = some (.cn 11, [210]) ∧
    pinsOf .zrc1024 (.flaskFlt 45) = some (.cn 11, [450]) ∧ pinsOf .zrc1024 (.chPwmA 1024) = none ∧
    (codeFuses 'H' 'F' 'M').map (fun f => (f.wdStart, f.wdDbg, f.noAutoFb)) = some (true, true, true) ∧ codeFuses 'X' 'F' 'M' = none := by decide +kernel

end Sys2Proof.Tests
end

section
/-! SUPPORT. Every step completes and keeps the invariant of `Safe`, and the state after reset meets it. -/

namespace Sys2Proof.Machine

/-! ## Every command keeps the key and the canonical word store -/

/-- Each row of the command table has its law: its meaning completes, and keeps the key and a canonical word store. -/
theorem exec_keeps {k : Key} {s : State} (h : Keep k s) (i : Instr) : KeepO k (exec i s) := by
  cases i with
  | loopTick x => exact execLoopTick_keeps h x
  | tickStrobeLost k => exact execTickStrobeLost_keeps h k
  | timeRealign diff => exact execTimeRealign_keeps h diff
  | snapshot x => exact execSnapshot_keeps h x
  | tempInvalid c => exact execTempInvalid_keeps h c
  | tempValidRestored c => exact execTempValidRestored_keeps h c
  | runnerFrameRx k x => exact execRunnerFrameRx_keeps h k x
  | runnerRetrain k ok => exact execRunnerRetrain_keeps h k ok
  | flaskFaultPortForward f => exact execFlaskFaultPortForward_keeps h f
  | aggregatorForward k => exact execAggregatorForward_keeps h k
  | faultMessage => exact execFaultMessage_keeps h
  | regionSelfHold k => exact execRegionSelfHold_keeps h k
  | calSlot u x => exact execCalSlot_keeps h u x
  | calRoundEnd u ppm => exact execCalRoundEnd_keeps h u ppm
  | pourInputRead => exact execPourInputRead_keeps h
  | simulationDone => exact execSimulationDone_keeps h
  | candidateSelection => exact execCandidateSelection_keeps h
  | shadowTableReceived f good => exact execShadowTableReceived_keeps h f good
  | regionAck k => exact execRegionAck_keeps h k
  | pourSwap late => exact execPourSwap_keeps h late
  | pourMissed => exact execPourMissed_keeps h
  | staleShave k => exact execStaleShave_keeps h k
  | spConfigWrite n j v => exact execSpConfigWrite_keeps h n j v
  | ppArm => exact execPpArm_keeps h
  | ppDisarm => exact execPpDisarm_keeps h
  | ppPriorityWrite v => exact execPpPriorityWrite_keeps h v
  | ppSet t => exact execPpSet_keeps h t
  | safeExit => exact execSafeExit_keeps h
  | sprueReady n v => exact execSprueReady_keeps h n v
  | sprueNotReady n v => exact execSprueNotReady_keeps h n v
  | plannedReturn n => exact execPlannedReturn_keeps h n
  | sprueCollapse n v => exact execSprueCollapse_keeps h n v
  | sprueReverse n uv => exact execSprueReverse_keeps h n uv
  | sprueOvervoltage n v => exact execSprueOvervoltage_keeps h n v
  | deadTimeEnd => exact execDeadTimeEnd_keeps h
  | cbusUndervoltage v => exact execCbusUndervoltage_keeps h v
  | cbusOvervoltage v => exact execCbusOvervoltage_keeps h v
  | cbusOvRelease v => exact execCbusOvRelease_keeps h v
  | droopTest t => exact execDroopTest_keeps h t
  | vnlTracked n mean => exact execVnlTracked_keeps h n mean
  | searchEvaluation n v idx => exact execSearchEvaluation_keeps h n v idx
  | searchReferenceDone n mean => exact execSearchReferenceDone_keeps h n mean
  | searchHoldExpire n => exact execSearchHoldExpire_keeps h n
  | reprobe n => exact execReprobe_keeps h n
  | searchRestart n => exact execSearchRestart_keeps h n
  | tlLegTrip n p => exact execTlLegTrip_keeps h n p
  | aux12Invalid => exact execAux12Invalid_keeps h
  | aux12Valid => exact execAux12Valid_keeps h
  | bootValid => exact execBootValid_keeps h
  | supplyFailure => exact execSupplyFailure_keeps h
  | supplyFailRestart aux => exact execSupplyFailRestart_keeps h aux
  | aonPowerOnReset => exact execAonPowerOnReset_keeps h
  | holdupCharged => exact execHoldupCharged_keeps h
  | transport t boot => exact execTransport_keeps h t boot
  | transportDrainDone => exact execTransportDrainDone_keeps h
  | transportDrainTimeout => exact execTransportDrainTimeout_keeps h
  | transportAbort => exact execTransportAbort_keeps h
  | transportEnter => exact execTransportEnter_keeps h
  | transportWakeDetect sp boot => exact execTransportWakeDetect_keeps h sp boot
  | transportWakeLapse => exact execTransportWakeLapse_keeps h
  | transportWake => exact execTransportWake_keeps h
  | wakeSupplyTimeout => exact execWakeSupplyTimeout_keeps h
  | chanParam t => exact execChanParam_keeps h t
  | chanWindows t => exact execChanWindows_keeps h t
  | chanState t => exact execChanState_keeps h t
  | holdRampEnd c => exact execHoldRampEnd_keeps h c
  | channelTrip c => exact execChannelTrip_keeps h c
  | flaskParam t => exact execFlaskParam_keeps h t
  | flaskState t => exact execFlaskState_keeps h t
  | sequencerSelfcheckFail f ctx => exact execSequencerSelfcheckFail_keeps h f ctx
  | faultReturnAssert f => exact execFaultReturnAssert_keeps h f
  | retryDelayExpire f => exact execRetryDelayExpire_keeps h f
  | retryChannelRestart f => exact execRetryChannelRestart_keeps h f
  | faultReturnStuck f => exact execFaultReturnStuck_keeps h f
  | retryComplete f => exact execRetryComplete_keeps h f
  | retryCountReset f => exact execRetryCountReset_keeps h f
  | tonePairRequest f a b => exact execTonePairRequest_keeps h f a b
  | phaseSustainMet c => exact execPhaseSustainMet_keeps h c
  | pulseTrainDone c => exact execPulseTrainDone_keeps h c
  | relaxTimerExpire c => exact execRelaxTimerExpire_keeps h c
  | prechargeTimeout c => exact execPrechargeTimeout_keeps h c
  | cvTimeout c => exact execCvTimeout_keeps h c
  | topoffTimeout c => exact execTopoffTimeout_keeps h c
  | restTimerExpire c => exact execRestTimerExpire_keeps h c
  | phase t => exact execPhase_keeps h t
  | profileLoad t => exact execProfileLoad_keeps h t
  | chanCal t => exact execChanCal_keeps h t
  | filterUpdate c ecc => exact execFilterUpdate_keeps h c ecc
  | filterLate c => exact execFilterLate_keeps h c
  | filterReinit c => exact execFilterReinit_keeps h c
  | sweepStart => exact execSweepStart_keeps h
  | toneDwellEnd f => exact execToneDwellEnd_keeps h f
  | sweepEnd f => exact execSweepEnd_keeps h f
  | spectro t => exact execSpectro_keeps h t
  | frameHot hub mid => exact execFrameHot_keeps h hub mid
  | frameCool hub mid => exact execFrameCool_keeps h hub mid
  | channelRecordWrite c => exact execChannelRecordWrite_keeps h c
  | estParam t => exact execEstParam_keeps h t
  | estReset t => exact execEstReset_keeps h t
  | modelLoad t => exact execModelLoad_keeps h t
  | objectives t => exact execObjectives_keeps h t
  | allocRead t => exact execAllocRead_keeps h t
  | calRun t => exact execCalRun_keeps h t
  | calRunTimeout c => exact execCalRunTimeout_keeps h c
  | tlEnable n v => exact execTlEnable_keeps h n v
  | tlDisable n v => exact execTlDisable_keeps h n v
  | lcwPartnerSeen n mv => exact execLcwPartnerSeen_keeps h n mv
  | drpToggle n => exact execDrpToggle_keeps h n
  | attachDebounceDone n => exact execAttachDebounceDone_keeps h n
  | attachwaitLost n => exact execAttachwaitLost_keeps h n
  | tryPartnerSeen n => exact execTryPartnerSeen_keeps h n
  | tryTimerExpire n => exact execTryTimerExpire_keeps h n
  | trywaitTimerExpire n => exact execTrywaitTimerExpire_keeps h n
  | detach n => exact execDetach_keeps h n
  | reattachTimerExpire n => exact execReattachTimerExpire_keeps h n
  | lesRetry n => exact execLesRetry_keeps h n
  | lesOvercurrent n => exact execLesOvercurrent_keeps h n
  | packetTxStart n => exact execPacketTxStart_keeps h n
  | packetTxDone n => exact execPacketTxDone_keeps h n
  | txCollision n line => exact execTxCollision_keeps h n line
  | collisionBackoffEnd n => exact execCollisionBackoffEnd_keeps h n
  | packetReceived n wave => exact execPacketReceived_keeps h n wave
  | goodcrc n => exact execGoodcrc_keeps h n
  | ackTimeout n => exact execAckTimeout_keeps h n
  | softReset n => exact execSoftReset_keeps h n
  | getCaps n => exact execGetCaps_keeps h n
  | caps n => exact execCaps_keeps h n
  | request n => exact execRequest_keeps h n
  | accept n => exact execAccept_keeps h n
  | reject n => exact execReject_keeps h n
  | wait n => exact execWait_keeps h n
  | notSupported n => exact execNotSupported_keeps h n
  | psReady n => exact execPsReady_keeps h n
  | ident n => exact execIdent_keeps h n
  | lesSwap n => exact execLesSwap_keeps h n
  | reattach n => exact execReattach_keeps h n
  | vendor n => exact execVendor_keeps h n
  | vdmTimeout n => exact execVdmTimeout_keeps h n
  | digestSend n => exact execDigestSend_keeps h n
  | syncSend n => exact execSyncSend_keeps h n
  | budgetSend n => exact execBudgetSend_keeps h n
  | tunnelFrameReceived n wave => exact execTunnelFrameReceived_keeps h n wave
  | tunnelAckTimeout n => exact execTunnelAckTimeout_keeps h n
  | responseTimerExpire n => exact execResponseTimerExpire_keeps h n
  | sinkPsTimerExpire n => exact execSinkPsTimerExpire_keeps h n
  | sourcePsTimerExpire n => exact execSourcePsTimerExpire_keeps h n
  | transitionSettled n => exact execTransitionSettled_keeps h n
  | holdoffExpire n => exact execHoldoffExpire_keeps h n
  | sinkKeepaliveExpire n => exact execSinkKeepaliveExpire_keeps h n
  | sourceKeepaliveExpire n => exact execSourceKeepaliveExpire_keeps h n
  | tripRetryExpire n => exact execTripRetryExpire_keeps h n
  | hostLostHoldExpire n => exact execHostLostHoldExpire_keeps h n
  | lesSwapOffDone n => exact execLesSwapOffDone_keeps h n
  | lesSwapOnDone n => exact execLesSwapOnDone_keeps h n
  | lesSwapStepTimeout n => exact execLesSwapStepTimeout_keeps h n
  | tlAdvertise t => exact execTlAdvertise_keeps h t
  | tlRequest t => exact execTlRequest_keeps h t
  | tlAccept t => exact execTlAccept_keeps h t
  | tlVendor t => exact execTlVendor_keeps h t
  | tlLesSwap t => exact execTlLesSwap_keeps h t
  | tlReattach t => exact execTlReattach_keeps h t
  | tunnelSend t => exact execTunnelSend_keeps h t
  | tlRevreqWrite n v => exact execTlRevreqWrite_keeps h n v
  | tlCctrlWrite n v => exact execTlCctrlWrite_keeps h n v
  | dbSqTail idx v => exact execDbSqTail_keeps h idx v
  | dbCqHead idx v => exact execDbCqHead_keeps h idx v
  | dbEvHead idx v => exact execDbEvHead_keeps h idx v
  | ringEnable k idx v => exact execRingEnable_keeps h k idx v
  | ringDisable k idx v => exact execRingDisable_keeps h k idx v
  | engineEnable v => exact execEngineEnable_keeps h v
  | descriptorFetch idx ds => exact execDescriptorFetch_keeps h idx ds
  | commandStart t src memErr => exact execCommandStart_keeps h t src memErr
  | completionWrite c => exact execCompletionWrite_keeps h c
  | eventRecordWrite e => exact execEventRecordWrite_keeps h e
  | irqCoalesceTimeout k idx => exact execIrqCoalesceTimeout_keeps h k idx
  | heartbeat => exact execHeartbeat_keeps h
  | hostMemoryError a => exact execHostMemoryError_keeps h a
  | hostIfReset k => exact execHostIfReset_keeps h k
  | hostIfReady => exact execHostIfReady_keeps h
  | orphanEntry t => exact execOrphanEntry_keeps h t
  | orphanAck => exact execOrphanAck_keeps h
  | peakClr => exact execPeakClr_keeps h
  | d3hotEntry => exact execD3hotEntry_keeps h
  | linkL1Entry => exact execLinkL1Entry_keeps h
  | linkL1Exit => exact execLinkL1Exit_keeps h
  | linkUp => exact execLinkUp_keeps h
  | fence t => exact execFence_keeps h t
  | continue_ idx d => exact execContinue_keeps h idx d
  | identify t => exact execIdentify_keeps h t
  | eventRoute t => exact execEventRoute_keeps h t
  | telemetry t => exact execTelemetry_keeps h t
  | telemetryFrame f => exact execTelemetryFrame_keeps h f
  | chanRead t => exact execChanRead_keeps h t
  | capture t => exact execCapture_keeps h t
  | capturePagesReserved => exact execCapturePagesReserved_keeps h
  | captureTrigger t => exact execCaptureTrigger_keeps h t
  | captureTriggerTimeout t => exact execCaptureTriggerTimeout_keeps h t
  | resultFragment t => exact execResultFragment_keeps h t
  | i2cAddress addr read => exact execI2cAddress_keeps h addr read
  | i2cByteWrite b => exact execI2cByteWrite_keeps h b
  | i2cByteRead nack => exact execI2cByteRead_keeps h nack
  | i2cStop => exact execI2cStop_keeps h
  | i2cRepeatedStart => exact execI2cRepeatedStart_keeps h
  | i2cFrameError stop => exact execI2cFrameError_keeps h stop
  | i2cStretchTimeout => exact execI2cStretchTimeout_keeps h
  | i2cBusClear => exact execI2cBusClear_keeps h
  | i2cRecoveryEnd => exact execI2cRecoveryEnd_keeps h
  | mpPortReady => exact execMpPortReady_keeps h
  | boundaryAccessStart => exact execBoundaryAccessStart_keeps h
  | boundaryAccessEnd => exact execBoundaryAccessEnd_keeps h
  | moduleReset => exact execModuleReset_keeps h
  | testConnectorReset => exact execTestConnectorReset_keeps h
  | startupStep sv copy0 copy1 => exact execStartupStep_keeps h sv copy0 copy1
  | domainSwitchOn d x => exact execDomainSwitchOn_keeps h d x
  | domainSwitchOff d => exact execDomainSwitchOff_keeps h d
  | domainLoss d => exact execDomainLoss_keeps h d
  | ckPdreqWrite v => exact execCkPdreqWrite_keeps h v
  | referenceQualified counts => exact execReferenceQualified_keeps h counts
  | referenceLoss count quiet => exact execReferenceLoss_keeps h count quiet
  | ckTimeRead => exact execCkTimeRead_keeps h
  | wdStart v => exact execWdStart_keeps h v
  | wdAnswer v => exact execWdAnswer_keeps h v
  | wdPeriodWrite v => exact execWdPeriodWrite_keeps h v
  | wdKeyWrite v => exact execWdKeyWrite_keeps h v
  | wdPeriodExpire => exact execWdPeriodExpire_keeps h
  | wdBootExpire => exact execWdBootExpire_keeps h
  | wdPulseEnd => exact execWdPulseEnd_keeps h
  | debugHalt m => exact execDebugHalt_keeps h m
  | svInternalWdtExpire n => exact execSvInternalWdtExpire_keeps h n
  | supervisorFailure n => exact execSupervisorFailure_keeps h n
  | checkpointEpoch body crc commit => exact execCheckpointEpoch_keeps h body crc commit
  | ckptLate => exact execCkptLate_keeps h
  | checkpointCheck => exact execCheckpointCheck_keeps h
  | supervisorTakeover => exact execSupervisorTakeover_keeps h
  | standbyReady => exact execStandbyReady_keeps h
  | svLost n selfTest => exact execSvLost_keeps h n selfTest
  | plannedSwitchover v => exact execPlannedSwitchover_keeps h v
  | regionRelease v => exact execRegionRelease_keeps h v
  | ppSafeClear v => exact execPpSafeClear_keeps h v
  | unpin v => exact execUnpin_keeps h v
  | replaceClear v => exact execReplaceClear_keeps h v
  | faultInject t => exact execFaultInject_keeps h t
  | injectArmExpire => exact execInjectArmExpire_keeps h
  | faultClear t => exact execFaultClear_keeps h t
  | bbRead t => exact execBbRead_keeps h t
  | ingotWrite how => exact execIngotWrite_keeps h how
  | logBudgetRefill => exact execLogBudgetRefill_keeps h
  | summaryIngot => exact execSummaryIngot_keeps h
  | blackboxScan bad => exact execBlackboxScan_keeps h bad
  | ceRateBin => exact execCeRateBin_keeps h
  | fwStage t bad => exact execFwStage_keeps h t bad
  | fwCommit t => exact execFwCommit_keeps h t
  | fwConfirm t => exact execFwConfirm_keeps h t
  | probationExpire => exact execProbationExpire_keeps h
  | probationNoSupervisor => exact execProbationNoSupervisor_keeps h
  | settingsLoad t bad => exact execSettingsLoad_keeps h t bad
  | digestRead t => exact execDigestRead_keeps h t
  | digestScanPass => exact execDigestScanPass_keeps h
  | cfgGenWrite v => exact execCfgGenWrite_keeps h v
  | tamperLatch pins => exact execTamperLatch_keeps h pins
  | tamperReport => exact execTamperReport_keeps h
  | tamperClear v => exact execTamperClear_keeps h v
  | tamperArm t => exact execTamperArm_keeps h t
  | removalDeclared c => exact execRemovalDeclared_keeps h c
  | refit c => exact execRefit_keeps h c
  | shuntCheckWindow => exact execShuntCheckWindow_keeps h
  | insulationHalfPeriod a v j => exact execInsulationHalfPeriod_keeps h a v j
  | energyIngot => exact execEnergyIngot_keeps h
  | energyRead t => exact execEnergyRead_keeps h t
  | lampEvaluation => exact execLampEvaluation_keeps h
  | lampTest v => exact execLampTest_keeps h v
  | lampTestEnd => exact execLampTestEnd_keeps h
  | traceRecord => exact execTraceRecord_keeps h
  | traceHostCopy => exact execTraceHostCopy_keeps h
  | tracePortFrame => exact execTracePortFrame_keeps h
  | traceResume v => exact execTraceResume_keeps h v
  | atest t => exact execAtest_keeps h t
  | atestMeasureDone uv => exact execAtestMeasureDone_keeps h uv
  | atestInterlockLoss => exact execAtestInterlockLoss_keeps h
  | registerWrite bar ofs v be same => exact execRegisterWrite_keeps h bar ofs v be same
  | aonPowerUp aux straps => exact execAonPowerUp_keeps h aux straps
  | getCapsRetry n => exact execGetCapsRetry_keeps h n
  | softResetRepeat n => exact execSoftResetRepeat_keeps h n
  | tlRequestTimeout t => exact execTlRequestTimeout_keeps h t
  | tlReattachTimeout t => exact execTlReattachTimeout_keeps h t

/-! ## One step (log entry 4) -/

theorem setPending_keeps {s : State} (h : wordsOk s = true) (l : List Instr) :
    Keep ⟨s.part, s.fuses, l⟩ { s with pending := l } := ⟨rfl, rfl, rfl, h⟩

/-- A step takes the front command off the queue; apart from that it keeps what the commands keep. -/
theorem step_keeps {s : State} (h : wordsOk s = true) : KeepO ⟨s.part, s.fuses, s.pending.tail⟩ (step s) := by
  unfold step
  split
  · next hp => exact ⟨s, rfl, rfl, rfl, by rw [hp, List.tail_nil], h⟩
  · next i rest hp =>
    rw [hp, List.tail_cons]
    exact exec_keeps (setPending_keeps h rest) i

/-- A state that waits on the tail of a well-formed queue waits on a well-formed queue. -/
theorem pendingOk_of_tail {s t : State} (h : pendingOk s = true) (ht : t.pending = s.pending.tail) : pendingOk t = true := by
  unfold pendingOk at h ⊢
  rw [List.all_eq_true] at h ⊢
  intro i hi
  exact h i (List.mem_of_mem_tail (ht ▸ hi))

/-- Settles O60: the front command is run by one row of `exec`, each of which keeps the part, the fuses, the queue's rest and
the canonical word store; an empty queue leaves the state alone. -/
theorem everyStepKeepsTheMachineSafe : Obligations.EveryStepKeepsTheMachineSafe := by
  intro s ⟨hwords, hpending⟩
  obtain ⟨t, hstep, hpart, hfuses, hqueue, hcanon⟩ := step_keeps hwords
  exact ⟨t, hstep, ⟨hcanon, pendingOk_of_tail hpending hqueue⟩, hqueue, hpart, hfuses⟩

/-! ## The state after reset -/

theorem reset_safe : Safe State.reset := ⟨rfl, rfl⟩

/-- After reset every word reads the reset value of a ZRC-1024 (R16, log entries 6 and 7). -/
theorem rd_reset (a : Nat) : rd State.reset a = resetWord .zrc1024 a := rfl

/-- A shifted word with a three-bit number below it is a concatenation. -/
theorem shiftLeft_or_ofNat_eq_append (x : BitVec 29) {n : Nat} (hn : n < 8) :
    x.setWidth 32 <<< 3 ||| BitVec.ofNat 32 n = x ++ BitVec.ofNat 3 n := by
  have hlow : BitVec.ofNat 32 n = (BitVec.ofNat 3 n).setWidth 32 := BitVec.eq_of_toNat_eq (by simp; omega)
  rw [hlow, BitVec.append_def, BitVec.shiftLeftZeroExtend_eq, BitVec.setWidth'_eq]

/-- R335: the link identity is the serial number with the port number below it. -/
theorem rd_reset_linkId {n : Nat} (hn : n < 8) : rd State.reset (TL_LINKID n) = Config.serial ++ BitVec.ofNat 3 n := by
  have hport : (TL_LINKID n - 0x30000) / 0x400 = n := by unfold TL_LINKID; omega
  have hrange : 0x30000 ≤ TL_LINKID n ∧ TL_LINKID n < 0x32000 ∧ TL_LINKID n % 0x400 = 0x44 := by unfold TL_LINKID; omega
  have hbar2 : ¬ bar2 ≤ TL_LINKID n := by unfold bar2; omega
  have hbar4 : ¬ bar4 ≤ TL_LINKID n := by unfold bar4; omega
  rw [rd_reset, resetWord, if_neg hbar4, if_neg hbar2, if_pos hrange, hport, shiftLeft_or_ofNat_eq_append _ hn]

theorem reset_linkId_serial {n : Nat} (hn : n < 8) : (rd State.reset (TL_LINKID n)).extractLsb' 3 29 = Config.serial := by
  rw [rd_reset_linkId hn]
  exact BitVec.extractLsb'_append_eq_left

theorem reset_linkId_port {n : Nat} (hn : n < 8) : getF State.reset ⟨TL_LINKID n, 0, 3⟩ = n := by
  rw [getF, rd_reset_linkId hn, bits, BitVec.extractLsb'_append_eq_right, BitVec.toNat_ofNat]
  exact Nat.mod_eq_of_lt hn

/-- The other registers of each port read the values of the tie-link register table. -/
theorem reset_port_registers : ∀ n < 8, rd State.reset (TL_CFG n) = 0x3 ∧ rd State.reset (TL_CCTRL n) = 0x400 ∧
    rd State.reset (TL_PLINKID n) = 0 ∧ astate State.reset n = aDISABLED := by
  decide +kernel

/-- No sprue feeds CBUS or is locked out. -/
theorem reset_sprues_idle : ∀ n < 4, flag State.reset (SP_STATUS_ACTIVE n) = false ∧ flag State.reset (SP_STATUS_LOCKOUT n) = false := by
  decide +kernel

/-- Settles O59: the state's own parts are the defaults, and the word store lists nothing, so that each word reads its reset
value: an entry of the register tables, or the link identity of the port. -/
theorem theResetStateIsSafe : Obligations.TheResetStateIsSafe := by
  refine ⟨reset_safe, rfl, rfl, rfl, rfl, ?registers, ?ports, reset_sprues_idle, ?armed, ?droop⟩
  case registers => decide +kernel
  case ports =>
    intro n hn
    obtain ⟨hcfg, hcctrl, hplink, hastate⟩ := reset_port_registers n hn
    exact ⟨hcfg, hcctrl, hplink, reset_linkId_serial hn, reset_linkId_port hn, hastate⟩
  case armed => decide +kernel
  case droop => decide +kernel

end Sys2Proof.Machine
end
